-- ==== Sys2Proof/Word.lean ====
section
/-! DEFINITION. The word types of the part (spec/00_scope.md R4, R5): a 64-bit register word, a byte, and a vector value as
64 lanes of 64 bits (R149: a port holds 64 lanes of 64 bits internally). -/

namespace Sys2Proof

/-- A 64-bit register value (R121). -/
abbrev Word := BitVec 64

/-- A byte of memory (R5). -/
abbrev Byte := BitVec 8

/-- The 64 lanes of a vector port, lane 0 first (R149). -/
abbrev Lanes := List Word

/-- A table keyed by a number, in rising order of its keys. -/
abbrev Tab (α : Type) := List (Nat × α)

end Sys2Proof
end

