-- ==== Sys2Proof/Config.lean ====
section
/-! DEFINITION. What the spec leaves open: the free values, constants with no body that nothing can evaluate, and the outcomes
of the cryptographic checks, whose keys are outside the spec (notes/assumptions/3.md, 9.md). -/

namespace Sys2Proof.Config

/-- A free value: an unspecified 64-bit result or reading (R9), applied to the counter that the step advances. -/
opaque freeWord : Nat → Word

/-- A free choice among the moves that may come next (R8, R97, R105), applied to the counter that the step advances. -/
opaque choice : Nat → Nat

/-- Whether the image in the boot region carries a valid header, digest and signature under the part's boot key (R476). -/
opaque imageValid : List Byte → Bool

/-- The firmware measurement of a verified image (R476). -/
opaque measure : List Byte → List Byte

/-- The device identity signature over the bytes an ATTEST answer covers (R479). -/
opaque sign : List Byte → List Byte

/-- The device's public identity key (R479). -/
opaque identityKey : List Byte

/-- Whether a task's speculative sectors exceed its L1 and the reserved ways (R335, R459): the lines' places in the caches are open. -/
opaque specOverflow : List Nat → Bool

/-- The set of a slice that a superblock lies in (R456). -/
opaque l2Set : Nat → Nat

/-- Whether the host or a peer completes a read of a PCI Express address with Unsupported Request or Completer Abort (R465): what
stands on the bus is open. -/
opaque linkRefuses : Nat → Bool

/-- Whether a core is fused off, by its core number in the part (R84). -/
opaque fusedOff : Nat → Bool

/-- What a read of a write-only register returns (spec/00_scope.md R9, R10): a free value of the register and of what it holds, so that it is the
same as long as the register is unchanged. -/
opaque writeOnly : Nat → Nat → Word

/-- What a read of a byte of declared storage returns while children hold it (spec/11_views_determinism.md R321): a free value of its address and
of the byte, so that it is the same as long as the byte is unchanged (R9). -/
opaque heldByte : Nat → Byte → Byte

end Sys2Proof.Config
end

