-- ==== Sys2Proof/Syntax.lean ====
section
/-! DEFINITION. The steps of the part: one constructor of Instr for each row of spec/opcode_table.json. Slot forms carry the
decoded move of spec/04_core_encoding.md R135-R138, helper and anchor words their fields (10 R310, 08 R244), and events and
messages the agents and payload that name them (spec/95_what_each_step_holds.md). -/

namespace Sys2Proof

/-- The element types of R46, in code order 0-16. -/
inductive ElemType where
  | s8 | s16 | s32 | s64 | n8 | n16 | n32 | n64 | f16 | bf16 | f32 | f64 | f8a | f8b | gq4 | gq8 | c3
deriving DecidableEq, Repr

/-- The widths of sa.sext and sa.zext (R153): sub 0, 1, 2. -/
inductive WidthSel where
  | w8 | w16 | w32
deriving DecidableEq, Repr

/-- A guard with its enable at 1 (R137): the invert bit and the k index. -/
structure Guard where
  inv : Bool
  k   : BitVec 3
deriving DecidableEq, Repr

/-- A decoded source (R135, R136, R138). A latch names its unit, whether it is .h, and its part select (R149). -/
inductive Src where
  | null
  | latch (unit : BitVec 5) (h : Bool) (pair : Bool)
  | reg (cls : BitVec 3) (idx : BitVec 6) (part : BitVec 9)
  | imm (x : BitVec 18)
  | lit (x : Word)
  | queue (q : BitVec 4) (off : BitVec 13)
  | land (n : BitVec 6)
deriving DecidableEq, Repr

/-- A decoded destination of a plain move (R135, R136): null, an operand or parameter port, a register, a queue position. -/
inductive Dst where
  | null
  | port (unit : BitVec 5) (port : BitVec 4) (pair : Bool)
  | reg (cls : BitVec 3) (idx : BitVec 6) (part : BitVec 9)
  | queue (q : BitVec 4) (off : BitVec 13)
deriving DecidableEq, Repr

/-- What every slot form carries: its guard, if enabled, and its source. -/
structure Mv where
  guard : Option Guard
  src   : Src
deriving DecidableEq, Repr

/-- The state a DATA message grants (R448, R450). -/
inductive CohGrant where
  | s | e | m
deriving DecidableEq, Repr

/-- RISC-V branch conditions. -/
inductive RvCond where
  | eq | ne | lt | ge | ltu | geu
deriving DecidableEq, Repr

/-- RISC-V integer operations of OP, OP-IMM and M; the W forms are marked by the constructor of Rv. -/
inductive RvAlu where
  | add | sub | sll | slt | sltu | xor | srl | sra | or | and
  | mul | mulh | mulhsu | mulhu | div | divu | rem | remu
deriving DecidableEq, Repr

/-- RISC-V atomic memory operations. -/
inductive RvAmo where
  | lr | sc | swap | add | xor | and | or | min | max | minu | maxu
deriving DecidableEq, Repr

/-- The base instructions of a helper, RV64IMAC (10 R304, R308); C encodings decode to the same instructions. -/
inductive Rv where
  | lui (rd : BitVec 5) (imm : Word)
  | auipc (rd : BitVec 5) (imm : Word)
  | jal (rd : BitVec 5) (imm : Word)
  | jalr (rd rs1 : BitVec 5) (imm : Word)
  | branch (c : RvCond) (rs1 rs2 : BitVec 5) (imm : Word)
  | load (bytes : Nat) (unsign : Bool) (rd rs1 : BitVec 5) (imm : Word)
  | store (bytes : Nat) (rs1 rs2 : BitVec 5) (imm : Word)
  | opImm (op : RvAlu) (w : Bool) (rd rs1 : BitVec 5) (imm : Word)
  | op (op : RvAlu) (w : Bool) (rd rs1 rs2 : BitVec 5)
  | amo (op : RvAmo) (dbl aq rl : Bool) (rd rs1 rs2 : BitVec 5)
  | ecall
  | ebreak
deriving DecidableEq, Repr

/-- The steps of the part: the slot forms, the helper and anchor words, then the events and messages. -/
inductive Instr where
  /-- MOVE (R115): Slot move of a value from a source to a destination register, port, queue position or null. -/
  | move (m : Mv) (d : Dst)
  /-- SA_ADD (R170): sa or sb add a + b. -/
  | saAdd (b : Bool) (m : Mv)
  /-- SA_SUB (R170): sa or sb subtract a − b. -/
  | saSub (b : Bool) (m : Mv)
  /-- SA_RSUB (R170): sa or sb reverse subtract b − a. -/
  | saRsub (b : Bool) (m : Mv)
  /-- SA_ADDW (R170): 32-bit add, sign-extended. -/
  | saAddw (b : Bool) (m : Mv)
  /-- SA_SUBW (R170): 32-bit subtract, sign-extended. -/
  | saSubw (b : Bool) (m : Mv)
  /-- SA_SHLADD (R170): Shift a left by 1–4 and add b. -/
  | saShladd (b : Bool) (n : BitVec 2) (m : Mv)
  /-- SA_AND (R170): Bitwise and. -/
  | saAnd (b : Bool) (m : Mv)
  /-- SA_OR (R170): Bitwise or. -/
  | saOr (b : Bool) (m : Mv)
  /-- SA_XOR (R170): Bitwise xor. -/
  | saXor (b : Bool) (m : Mv)
  /-- SA_ANDN (R170): a and not b. -/
  | saAndn (b : Bool) (m : Mv)
  /-- SA_ORN (R170): a or not b. -/
  | saOrn (b : Bool) (m : Mv)
  /-- SA_SHL (R170): Logical shift left by b<5:0>. -/
  | saShl (b : Bool) (m : Mv)
  /-- SA_SHR (R170): Logical shift right by b<5:0>. -/
  | saShr (b : Bool) (m : Mv)
  /-- SA_SAR (R170): Arithmetic shift right by b<5:0>. -/
  | saSar (b : Bool) (m : Mv)
  /-- SA_ROL (R170): Rotate left by b<5:0>. -/
  | saRol (b : Bool) (m : Mv)
  /-- SA_ROR (R170): Rotate right by b<5:0>. -/
  | saRor (b : Bool) (m : Mv)
  /-- SA_SEQ (R170): 1 when a equals b, else 0. -/
  | saSeq (b : Bool) (m : Mv)
  /-- SA_SNE (R170): 1 when a differs from b, else 0. -/
  | saSne (b : Bool) (m : Mv)
  /-- SA_SLT (R170): Signed less-than test. -/
  | saSlt (b : Bool) (m : Mv)
  /-- SA_SLE (R170): Signed less-or-equal test. -/
  | saSle (b : Bool) (m : Mv)
  /-- SA_SLTN (R170): Natural less-than test. -/
  | saSltn (b : Bool) (m : Mv)
  /-- SA_SLEN (R170): Natural less-or-equal test. -/
  | saSlen (b : Bool) (m : Mv)
  /-- SA_MIN (R170): Signed minimum. -/
  | saMin (b : Bool) (m : Mv)
  /-- SA_MAX (R170): Signed maximum. -/
  | saMax (b : Bool) (m : Mv)
  /-- SA_MINN (R170): Natural minimum. -/
  | saMinn (b : Bool) (m : Mv)
  /-- SA_MAXN (R170): Natural maximum. -/
  | saMaxn (b : Bool) (m : Mv)
  /-- SA_SEL (R170): Selects a when c is nonzero, else b. -/
  | saSel (b : Bool) (m : Mv)
  /-- SA_CLZ (R170): Counts leading zeros of b. -/
  | saClz (b : Bool) (m : Mv)
  /-- SA_CTZ (R170): Counts trailing zeros of b. -/
  | saCtz (b : Bool) (m : Mv)
  /-- SA_POPC (R170): Counts the 1 bits of b. -/
  | saPopc (b : Bool) (m : Mv)
  /-- SA_BSWAP (R170): Reverses the bytes of b. -/
  | saBswap (b : Bool) (m : Mv)
  /-- SA_SEXT (R170): Sign-extends b from 8, 16 or 32 bits. -/
  | saSext (b : Bool) (w : WidthSel) (m : Mv)
  /-- SA_ZEXT (R170): Zero-extends b from 8, 16 or 32 bits. -/
  | saZext (b : Bool) (w : WidthSel) (m : Mv)
  /-- SA_BFX (R171): Extracts a bit field of a. -/
  | saBfx (b : Bool) (m : Mv)
  /-- SA_BFI (R171): Inserts a bit field of a into c. -/
  | saBfi (b : Bool) (m : Mv)
  /-- SA_SETK (R172): Compares a with b and writes the outcome to .o and guard kN. -/
  | saSetk (b : Bool) (cond : BitVec 2) (k : BitVec 3) (m : Mv)
  /-- SM_MUL (R173): Low 64 bits of the product. -/
  | smMul (m : Mv)
  /-- SM_MULH (R173): High 64 bits of the signed product. -/
  | smMulh (m : Mv)
  /-- SM_MULHN (R173): High 64 bits of the natural product. -/
  | smMulhn (m : Mv)
  /-- SM_MULW (R173): 32-bit product, sign-extended. -/
  | smMulw (m : Mv)
  /-- SM_DIV (R174): Signed divide writing quotient and remainder, occupying sm for 20 cycles. -/
  | smDiv (m : Mv)
  /-- SM_DIVN (R174): Natural divide writing quotient and remainder. -/
  | smDivn (m : Mv)
  /-- SM_REM (R174): Signed remainder. -/
  | smRem (m : Mv)
  /-- SM_REMN (R174): Natural remainder. -/
  | smRemn (m : Mv)
  /-- AG_A2D (R176): Computes a + row × pitch + j. -/
  | agA2d (m : Mv)
  /-- AG_SIDX (R176): Computes a + index × 2^K. -/
  | agSidx (k : BitVec 2) (m : Mv)
  /-- AG_TADDR (R177): Computes a tile-row address with bank rotation. -/
  | agTaddr (m : Mv)
  /-- AG_BCHK (R178): Tests an index against a bound and writes .o and kN. -/
  | agBchk (k : BitVec 3) (m : Mv)
  /-- AG_DPACK (R179): Packs a two-word scratchpad operand descriptor. -/
  | agDpack (m : Mv)
  /-- BR_PREP (R180): Sets bN to a target, ends any hardware loop on bN and starts fetching. -/
  | brPrep (bi : BitVec 2) (m : Mv)
  /-- BR_GO (R181): Branches to b(N) after the bundle commits. -/
  | brGo (bi : BitVec 2) (m : Mv)
  /-- BR_CALL (R181): Branches to b(N) and writes the link to .o. -/
  | brCall (bi : BitVec 2) (m : Mv)
  /-- BR_RET (R181): Branches to the trigger address. -/
  | brRet (m : Mv)
  /-- BR_LOOP (R182): Starts a counted loop over the following bundles up to the loop end. -/
  | brLoop (bi : BitVec 2) (m : Mv)
  /-- BR_YIELD (R184): Ends the block after its bundle. -/
  | brYield (m : Mv)
  /-- BR_END (R184): Ends the task with status normal once its tokens complete. -/
  | brEnd (m : Mv)
  /-- BR_TRAP (R185): Raises a SOFT trap to the strand's own handler. -/
  | brTrap (m : Mv)
  /-- BR_TRET (R405): Returns from a system-mode handler to task mode or into the handler, according to PMODE. -/
  | brTret (m : Mv)
  /-- LS_LD (R188): Scalar local-store load. -/
  | lsLd (ty : ElemType) (m : Mv)
  /-- LS_ST (R188): Scalar local-store store. -/
  | lsSt (ty : ElemType) (m : Mv)
  /-- LS_LDV (R189): Contiguous vector load. -/
  | lsLdv (ty : ElemType) (m : Mv)
  /-- LS_STV (R189): Contiguous vector store. -/
  | lsStv (ty : ElemType) (m : Mv)
  /-- LS_LDVS (R189): Strided vector load. -/
  | lsLdvs (ty : ElemType) (m : Mv)
  /-- LS_STVS (R189): Strided vector store. -/
  | lsStvs (ty : ElemType) (m : Mv)
  /-- LS_GATH (R189): Gather load by lane offsets. -/
  | lsGath (ty : ElemType) (m : Mv)
  /-- LS_SCAT (R189): Scatter store by lane offsets. -/
  | lsScat (ty : ElemType) (m : Mv)
  /-- LS_LDVM (R190): Masked vector load. -/
  | lsLdvm (ty : ElemType) (m : Mv)
  /-- LS_STVM (R190): Masked vector store. -/
  | lsStvm (ty : ElemType) (m : Mv)
  /-- LS_LDQ (R192): Scalar load relative to a queue head. -/
  | lsLdq (ty : ElemType) (m : Mv)
  /-- LS_STQ (R192): Scalar store relative to a queue tail. -/
  | lsStq (ty : ElemType) (m : Mv)
  /-- LS_LDVQ (R192): Vector load relative to a queue head. -/
  | lsLdvq (ty : ElemType) (m : Mv)
  /-- LS_STVQ (R192): Vector store relative to a queue tail. -/
  | lsStvq (ty : ElemType) (m : Mv)
  /-- CT_RDC (R194): Reads control register c0–c31 into .o. -/
  | ctRdc (r : BitVec 5) (m : Mv)
  /-- CT_RDC_HI (R194): Reads control register c32–c63 into .o. -/
  | ctRdcHi (r : BitVec 5) (m : Mv)
  /-- CT_WRC (R195): Writes control register c0–c31, with the fmt shadow and the seed reseed as side effects. -/
  | ctWrc (r : BitVec 5) (m : Mv)
  /-- CT_WRC_HI (R195): Writes control register c32–c63. -/
  | ctWrcHi (r : BitVec 5) (m : Mv)
  /-- CT_CYC (R194): Reads the strand clock into .o. -/
  | ctCyc (m : Mv)
  /-- CT_PERF (R194): Reads the counter selected by perfsel into .o. -/
  | ctPerf (m : Mv)
  /-- CT_DSEL (R197): Writes kN and .o with the mask bit of this die's LDIE. -/
  | ctDsel (k : BitVec 3) (m : Mv)
  /-- CT_WRS (R198): Writes c32–c63 in system mode. -/
  | ctWrs (r : BitVec 5) (m : Mv)
  /-- VA_ADD (R205): va or vb elementwise add, float or integer. -/
  | vaAdd (b : Bool) (ty : ElemType) (m : Mv)
  /-- VA_SUB (R205): Elementwise subtract. -/
  | vaSub (b : Bool) (ty : ElemType) (m : Mv)
  /-- VA_MUL (R205): Elementwise multiply. -/
  | vaMul (b : Bool) (ty : ElemType) (m : Mv)
  /-- VA_FMA (R205): Fused multiply-add. -/
  | vaFma (b : Bool) (ty : ElemType) (m : Mv)
  /-- VA_FMS (R205): Fused multiply-subtract. -/
  | vaFms (b : Bool) (ty : ElemType) (m : Mv)
  /-- VA_FNMA (R205): Negated fused multiply-add. -/
  | vaFnma (b : Bool) (ty : ElemType) (m : Mv)
  /-- VA_MIN (R206): Elementwise minimum. -/
  | vaMin (b : Bool) (ty : ElemType) (m : Mv)
  /-- VA_MAX (R206): Elementwise maximum. -/
  | vaMax (b : Bool) (ty : ElemType) (m : Mv)
  /-- VA_ABS (R206): Absolute value, a bit operation for floats and arithmetic for integers. -/
  | vaAbs (b : Bool) (ty : ElemType) (m : Mv)
  /-- VA_NEG (R206): Negation, a bit operation for floats and arithmetic for integers. -/
  | vaNeg (b : Bool) (ty : ElemType) (m : Mv)
  /-- VA_RCP (R207): Correctly rounded reciprocal. -/
  | vaRcp (b : Bool) (ty : ElemType) (m : Mv)
  /-- VA_RSQRT (R207): Correctly rounded reciprocal square root. -/
  | vaRsqrt (b : Bool) (ty : ElemType) (m : Mv)
  /-- VA_SQRT (R207): Correctly rounded square root. -/
  | vaSqrt (b : Bool) (ty : ElemType) (m : Mv)
  /-- VA_EXP2 (R207): Correctly rounded 2^x. -/
  | vaExp2 (b : Bool) (ty : ElemType) (m : Mv)
  /-- VA_LOG2 (R207): Correctly rounded log2 x. -/
  | vaLog2 (b : Bool) (ty : ElemType) (m : Mv)
  /-- VA_CMP (R210): Compares lanes under cc and writes the mask .h. -/
  | vaCmp (b : Bool) (ty : ElemType) (m : Mv)
  /-- VA_CVT (R211): Converts lanes from the type in from to the sub type. -/
  | vaCvt (b : Bool) (ty : ElemType) (m : Mv)
  /-- VA_RND (R208): Rounds lanes to an integral value under rmode. -/
  | vaRnd (b : Bool) (ty : ElemType) (m : Mv)
  /-- VA_MULH (R209): High half of an integer product. -/
  | vaMulh (b : Bool) (ty : ElemType) (m : Mv)
  /-- VA_AND (R209): Bitwise and. -/
  | vaAnd (b : Bool) (ty : ElemType) (m : Mv)
  /-- VA_OR (R209): Bitwise or. -/
  | vaOr (b : Bool) (ty : ElemType) (m : Mv)
  /-- VA_XOR (R209): Bitwise xor. -/
  | vaXor (b : Bool) (ty : ElemType) (m : Mv)
  /-- VA_SHL (R209): Lane shift left. -/
  | vaShl (b : Bool) (ty : ElemType) (m : Mv)
  /-- VA_SHR (R209): Lane logical shift right. -/
  | vaShr (b : Bool) (ty : ElemType) (m : Mv)
  /-- VA_SAR (R209): Lane arithmetic shift right. -/
  | vaSar (b : Bool) (ty : ElemType) (m : Mv)
  /-- VA_SEL (R212): Selects a or b per lane by m. -/
  | vaSel (b : Bool) (ty : ElemType) (m : Mv)
  /-- VA_CLZ (R209): Counts leading zeros per lane. -/
  | vaClz (b : Bool) (ty : ElemType) (m : Mv)
  /-- VA_POPC (R209): Counts 1 bits per lane. -/
  | vaPopc (b : Bool) (ty : ElemType) (m : Mv)
  /-- VA_ADDS (R209): Saturating add. -/
  | vaAdds (b : Bool) (ty : ElemType) (m : Mv)
  /-- VA_SUBS (R209): Saturating subtract. -/
  | vaSubs (b : Bool) (ty : ElemType) (m : Mv)
  /-- VX_PERM (R214): Permutes lanes of a by index. -/
  | vxPerm (ty : ElemType) (m : Mv)
  /-- VX_BCAST (R214): Broadcasts one lane of a. -/
  | vxBcast (ty : ElemType) (m : Mv)
  /-- VX_ROT (R214): Rotates the lanes of a. -/
  | vxRot (ty : ElemType) (m : Mv)
  /-- VX_RED (R215): Reduces active lanes by a fixed pairwise tree. -/
  | vxRed (ty : ElemType) (m : Mv)
  /-- VX_SCAN (R216): Inclusive running fold by a fixed doubling network. -/
  | vxScan (ty : ElemType) (m : Mv)
  /-- VX_COMPACT (R217): Packs active lanes to the bottom and writes their count. -/
  | vxCompact (ty : ElemType) (m : Mv)
  /-- VX_EXPAND (R217): Spreads lanes into the active positions. -/
  | vxExpand (ty : ElemType) (m : Mv)
  /-- VX_MERGE (R218): Stable merge of two key and payload sequences, writing one half. -/
  | vxMerge (ty : ElemType) (m : Mv)
  /-- VX_SORT64 (R219): Stable sort of 64 keys with their payloads. -/
  | vxSort64 (ty : ElemType) (m : Mv)
  /-- VX_LIDX (R214): Writes base plus lane index. -/
  | vxLidx (ty : ElemType) (m : Mv)
  /-- VX_TRSTEP (R220): One butterfly stage of a transpose. -/
  | vxTrstep (ty : ElemType) (m : Mv)
  /-- RG_BITS (R298): One draw per lane into .o. -/
  | rgBits (m : Mv)
  /-- RG_KEY (R298): Sets ECO, TAG and STEP per lane. -/
  | rgKey (m : Mv)
  /-- RG_SEED (R298): Sets seed and reseeds the generators. -/
  | rgSeed (m : Mv)
  /-- RG_MODE (R298): Sets the generator mode, free-running or keyed. -/
  | rgMode (m : Mv)
  /-- MX_MMA (R236): 32 × 32 matrix product accumulated into a tile. -/
  | mxMma (ty : ElemType) (m : Mv)
  /-- MX_MMZ (R236): 32 × 32 matrix product overwriting the accumulator. -/
  | mxMmz (ty : ElemType) (m : Mv)
  /-- MX_MGRP (R237): Ragged grouped product with an optional drain per group. -/
  | mxMgrp (ty : ElemType) (m : Mv)
  /-- MX_TLD (R238): Copies scratchpad rows into a tile. -/
  | mxTld (ty : ElemType) (m : Mv)
  /-- MX_TST (R238): Copies tile rows out to the scratchpad. -/
  | mxTst (ty : ElemType) (m : Mv)
  /-- MX_ZERO (R239): Zeroes an a or t tile. -/
  | mxZero (m : Mv)
  /-- MX_CVT (R239): Converts an accumulator tile into an operand tile. -/
  | mxCvt (ty : ElemType) (m : Mv)
  /-- MX_BJOIN (R240): Joins or leaves a cluster broadcast group. -/
  | mxBjoin (m : Mv)
  /-- MX_DRAIN (R241): Hands a tile to the anchor program at an entry word. -/
  | mxDrain (m : Mv)
  /-- AN_RUN (R243): Runs an anchor program on rows of a tile. -/
  | anRun (m : Mv)
  /-- AN_LOAD (R243): Loads anchor words from local store into the program store. -/
  | anLoad (m : Mv)
  /-- AN_PARAM (R243): Writes an anchor parameter word at the end of its bundle. -/
  | anParam (p : BitVec 4) (m : Mv)
  /-- XF_COMP (R251): Compresses lines with the line code. -/
  | xfComp (m : Mv)
  /-- XF_DECOMP (R251): Decompresses line images. -/
  | xfDecomp (m : Mv)
  /-- XF_CB3 (R252): Expands c3 codebook indices to bf16. -/
  | xfCb3 (m : Mv)
  /-- XF_CBTAB (R252): Loads a codebook table into a slot. -/
  | xfCbtab (m : Mv)
  /-- XF_REPACK (R253): Transposes or packs quantised data. -/
  | xfRepack (ty : ElemType) (m : Mv)
  /-- XF_GQ (R254): Quantises f32 values into group-quantised codes. -/
  | xfGq (ty : ElemType) (m : Mv)
  /-- XF_DEQ (R254): Dequantises group-quantised codes. -/
  | xfDeq (ty : ElemType) (m : Mv)
  /-- XF_STAT (R255): Writes value statistics of a buffer. -/
  | xfStat (m : Mv)
  /-- CP_START (R284): Copies the box that a layout record describes. -/
  | cpStart (m : Mv)
  /-- CP_CHAIN (R285): Processes a linked list of owned layout records. -/
  | cpChain (m : Mv)
  /-- CP_RED (R286): Copies a source into a staging slot or folds it in free mode. -/
  | cpRed (ty : ElemType) (m : Mv)
  /-- CP_RELAY (R287): Pushes local-store bytes into a peer queue of a relay pair. -/
  | cpRelay (m : Mv)
  /-- CP_CANCEL (R289): Cancels a faulted or pending cp or xf operation. -/
  | cpCancel (m : Mv)
  /-- CP_STATUS (R290): Returns a token's status word, record handle or coordinate. -/
  | cpStatus (m : Mv)
  /-- CP_RESUME (R289): Restarts a faulted operation at the sector reached. -/
  | cpResume (m : Mv)
  /-- GM_LD (R263): Scalar global load into a landing entry. -/
  | gmLd (ty : ElemType) (m : Mv)
  /-- GM_LDV (R263): Vector global load into a landing entry. -/
  | gmLdv (ty : ElemType) (m : Mv)
  /-- GM_LDT (R264): Loads a whole tile from memory. -/
  | gmLdt (m : Mv)
  /-- GM_ST (R265): Scalar global store. -/
  | gmSt (ty : ElemType) (m : Mv)
  /-- GM_STV (R265): Vector global store. -/
  | gmStv (ty : ElemType) (m : Mv)
  /-- GM_STT (R264): Stores a whole tile to memory. -/
  | gmStt (m : Mv)
  /-- GM_STG (R265): Scalar store with trace tag and allocation hint. -/
  | gmStg (ty : ElemType) (m : Mv)
  /-- GM_PREF (R266): Requests a line fill into L1 or L2. -/
  | gmPref (l2 : Bool) (m : Mv)
  /-- GM_FLUSH (R266): Writes dirty sectors of a line back to memory. -/
  | gmFlush (m : Mv)
  /-- GM_INVAL (R266): Writes a line back and removes every cached copy. -/
  | gmInval (m : Mv)
  /-- SY_FENCE (R270): Waits until earlier ST accesses are performed and acknowledged throughout the scope. -/
  | syFence (scope : BitVec 3) (m : Mv)
  /-- SY_XFENCE (R270): Orders covered accesses of one path before later accesses of another. -/
  | syXfence (scope : BitVec 3) (m : Mv)
  /-- SY_LDACQ (R271): Acquire load of a sync object's VALUE. -/
  | syLdacq (scope : BitVec 3) (m : Mv)
  /-- SY_STREL (R271): Release store to a sync object's VALUE. -/
  | syStrel (scope : BitVec 3) (m : Mv)
  /-- SY_AMOADD (R272): Atomic add returning the old value. -/
  | syAmoadd (scope : BitVec 3) (ord : BitVec 2) (m : Mv)
  /-- SY_AMOMIN (R272): Atomic signed minimum. -/
  | syAmomin (scope : BitVec 3) (ord : BitVec 2) (m : Mv)
  /-- SY_AMOMAX (R272): Atomic signed maximum. -/
  | syAmomax (scope : BitVec 3) (ord : BitVec 2) (m : Mv)
  /-- SY_AMOMINN (R272): Atomic natural minimum. -/
  | syAmominn (scope : BitVec 3) (ord : BitVec 2) (m : Mv)
  /-- SY_AMOMAXN (R272): Atomic natural maximum. -/
  | syAmomaxn (scope : BitVec 3) (ord : BitVec 2) (m : Mv)
  /-- SY_AMOAND (R272): Atomic and. -/
  | syAmoand (scope : BitVec 3) (ord : BitVec 2) (m : Mv)
  /-- SY_AMOOR (R272): Atomic or. -/
  | syAmoor (scope : BitVec 3) (ord : BitVec 2) (m : Mv)
  /-- SY_AMOXOR (R272): Atomic xor. -/
  | syAmoxor (scope : BitVec 3) (ord : BitVec 2) (m : Mv)
  /-- SY_AMOSWP (R272): Atomic swap. -/
  | syAmoswp (scope : BitVec 3) (ord : BitVec 2) (m : Mv)
  /-- SY_AMOCAS (R272): Atomic compare-and-swap. -/
  | syAmocas (scope : BitVec 3) (ord : BitVec 2) (m : Mv)
  /-- SY_WAIT (R273): Waits at the site until VALUE meets the condition, then acquires. -/
  | syWait (scope : BitVec 3) (m : Mv)
  /-- SY_LOCK (R274): Takes ownership of a sync object, or waits with priority inheritance. -/
  | syLock (scope : BitVec 3) (m : Mv)
  /-- SY_UNLOCK (R274): Releases and clears OWNER, handing the object to the top waiter. -/
  | syUnlock (scope : BitVec 3) (m : Mv)
  /-- SY_ARRIVE (R276): Counts a barrier arrival, advancing the phase when COUNT is reached. -/
  | syArrive (level : BitVec 3) (m : Mv)
  /-- SY_BWAIT (R276): Waits until the barrier phase changes, then acquires. -/
  | syBwait (level : BitVec 3) (m : Mv)
  /-- SY_QWAIT (R278): Waits until a queue holds count entries. -/
  | syQwait (q : BitVec 4) (m : Mv)
  /-- QUEUE_POP (R277): sy.qadv OP 0 advances HEAD by COUNT. -/
  | queuePop (q : BitVec 4) (m : Mv)
  /-- QUEUE_PUBLISH (R277): sy.qadv OP 1 advances TAIL by COUNT. -/
  | queuePublish (q : BitVec 4) (m : Mv)
  /-- QUEUE_CONFIGURE (R277): sy.qadv OP 2 replaces a queue's configuration and resets HEAD and TAIL. -/
  | queueConfigure (q : BitVec 4) (m : Mv)
  /-- SY_QSPACE (R278): Waits until a queue has count free entries and returns the free count. -/
  | syQspace (q : BitVec 4) (m : Mv)
  /-- SY_TRIG (R279): Producer trigger for early dependent launch. -/
  | syTrig (m : Mv)
  /-- SY_COMBINE (R281): Requests the fold of a staging descriptor once every source has arrived. -/
  | syCombine (m : Mv)
  /-- SY_BIND (R275): Binds a sync object to a region, or removes the binding. -/
  | syBind (scope : BitVec 3) (m : Mv)
  /-- TK_SPAWN (R292): Creates n child tasks. -/
  | tkSpawn (m : Mv)
  /-- TK_VDECL (R294): Declares a view. -/
  | tkVdecl (m : Mv)
  /-- TK_VADDR (R323): Returns the location of the task's own view copy. -/
  | tkVaddr (m : Mv)
  /-- TK_FINISH (R295): Ends a child after its merges; in a root task it acts as br.end. -/
  | tkFinish (m : Mv)
  /-- TK_JOIN (R295): Waits until the spawned children have ended and merged, then acquires. -/
  | tkJoin (m : Mv)
  /-- TK_STAMP (R296): Sets the task's timestamp in ordered mode. -/
  | tkStamp (m : Mv)
  /-- TK_ABORT (R297): Discards the task's views and ends it as aborted. -/
  | tkAbort (m : Mv)
  /-- DB_BEGIN (R347): Checks a block descriptor, opens the block and in record mode pushes its frame. -/
  | dbBegin (m : Mv)
  /-- DB_END (R347): Closes the open block. -/
  | dbEnd (m : Mv)
  /-- DB_REV (R368): Runs the interlocked reverse walk of a recorded block. -/
  | dbRev (m : Mv)
  /-- DB_ZERO (R300): Zeroes the gradient tiles and registers named in a mask. -/
  | dbZero (m : Mv)
  /-- DB_PUSH (R300): Pushes a scalar or marker record onto the residual stack. -/
  | dbPush (m : Mv)
  /-- DB_POP (R300): Pops a record of the named kind. -/
  | dbPop (m : Mv)
  /-- DB_SP (R300): Sets rsp and returns the old value. -/
  | dbSp (m : Mv)
  /-- DB_MODE (R300): Sets dbmode to plain or record. -/
  | dbMode (m : Mv)
  /-- HELPER_BASE_INSTRUCTION (R308): A helper RV64IMAC instruction executes on own store or local store under the helper's ordering mapping. -/
  | helperBaseInstruction (c : Bool) (op : Rv)
  /-- HELPER_FENCE (R308): RISC-V fence on a helper acts as sy.fence.core. -/
  | helperFence (rest : BitVec 22)
  /-- HX_SSET (R311): Writes field f of stream descriptor s from rs1. -/
  | hxSset (f : BitVec 2) (s : BitVec 3) (rs1 : BitVec 5)
  /-- HX_SGET (R311): Returns the CUR field of stream s in rd. -/
  | hxSget (s : BitVec 3) (rd : BitVec 5)
  /-- HX_QWR (R312): Writes 8 bytes at an offset from queue q's TAIL without moving it. -/
  | hxQwr (q : BitVec 4) (rs1 rs2 : BitVec 5)
  /-- HX_QRD (R312): Reads 8 bytes at an offset from queue q's HEAD without moving it. -/
  | hxQrd (q : BitVec 4) (rd rs1 : BitVec 5)
  /-- HX_QPUB (R312): Publishes rs1 entries of queue q and returns the new TAIL. -/
  | hxQpub (q : BitVec 4) (rd rs1 : BitVec 5)
  /-- HX_QPOP (R312): Pops rs1 entries of queue q and returns the new HEAD. -/
  | hxQpop (q : BitVec 4) (rd rs1 : BitVec 5)
  /-- HX_QWD (R312): Stalls until queue q holds at least rs1 entries, returning the number available. -/
  | hxQwd (q : BitVec 4) (rd rs1 : BitVec 5)
  /-- HX_QWS (R312): Stalls until queue q has at least rs1 free entries, returning the number free. -/
  | hxQws (q : BitVec 4) (rd rs1 : BitVec 5)
  /-- HX_SLD (R313): Issues reads of up to rs2 stream sectors into queue q and advances CUR. -/
  | hxSld (q : BitVec 4) (rd rs1 rs2 : BitVec 5)
  /-- HX_SST (R313): Pops up to rs2 sectors from queue q and stores them to the stream's addresses. -/
  | hxSst (q : BitVec 4) (rd rs1 rs2 : BitVec 5)
  /-- HX_BSX (R314): Extracts a bit field of queue q's published bytes as a stream from HEAD. -/
  | hxBsx (q : BitVec 4) (rd rs1 rs2 : BitVec 5)
  /-- HX_LHINT (R315): Asks the memory system to deliver stream s's reads within rs1 cycles. -/
  | hxLhint (s : BitVec 3) (rs1 : BitVec 5)
  /-- HX_FENCE (R315): Acts as sy.fence of its scope over every earlier helper access. -/
  | hxFence (scope : BitVec 3)
  /-- HX_STOP (R315): Finishes any bulk transfer, writes STATE 1 with DETAIL from rs1, and stops the helper. -/
  | hxStop (rs1 : BitVec 5)
  /-- ANCHOR_NOP (R245): Anchor word with no effect. -/
  | anchorNop
  /-- ANCHOR_SCALE (R245): Multiplies X by the local-store row V(PA). -/
  | anchorScale (pa : BitVec 4)
  /-- ANCHOR_SSCALE (R245): Multiplies X by the f32 scalar in P[PA]. -/
  | anchorSscale (pa : BitVec 4)
  /-- ANCHOR_BIAS (R245): Adds the local-store row V(PA) to X. -/
  | anchorBias (pa : BitVec 4)
  /-- ANCHOR_ADDRES (R245): Adds row r of a typed residual at P[PA] to X. -/
  | anchorAddres (pa : BitVec 4) (ty : BitVec 3)
  /-- ANCHOR_MULRES (R245): Multiplies X by row r of a typed residual at P[PA]. -/
  | anchorMulres (pa : BitVec 4) (ty : BitVec 3)
  /-- ANCHOR_RELU (R245): Applies relu to X and sets the mask M. -/
  | anchorRelu
  /-- ANCHOR_GELU (R246): Applies the bit-exact Gelu to X. -/
  | anchorGelu
  /-- ANCHOR_CLAMP (R245): Clamps X between the bounds in P[PA] and sets M. -/
  | anchorClamp (pa : BitVec 4)
  /-- ANCHOR_LEAKY (R245): Applies leaky relu with alpha from P[PA] and sets M. -/
  | anchorLeaky (pa : BitVec 4)
  /-- ANCHOR_SIGMOID (R246): Applies the bit-exact Sigmoid to X. -/
  | anchorSigmoid
  /-- ANCHOR_DROP (R247): Drops or scales lanes by keyed random bits and sets M. -/
  | anchorDrop (pa pb : BitVec 4) (i : BitVec 8)
  /-- ANCHOR_CVT (R245): Rounds X to type TY under mode RM and sets T. -/
  | anchorCvt (ty : BitVec 3) (rm : BitVec 2)
  /-- ANCHOR_CVTSR (R247): Rounds X to type TY stochastically with keyed bits and sets T. -/
  | anchorCvtsr (pa : BitVec 4) (ty : BitVec 3) (i : BitVec 8)
  /-- ANCHOR_RECM (R245): Writes the mask M to local store, pending until end. -/
  | anchorRecm (pa : BitVec 4)
  /-- ANCHOR_RECS (R245): In row 0, writes key and P[PB] to local store, pending until end. -/
  | anchorRecs (pa pb : BitVec 4)
  /-- ANCHOR_WRT (R245): Writes X in type T to row r of the tile named by dest. -/
  | anchorWrt
  /-- ANCHOR_WRL (R245): Writes X in type T to a local-store row at dest. -/
  | anchorWrl
  /-- ANCHOR_WRQ (R245): Pushes X in type T into queue dest, waiting while the queue is full. -/
  | anchorWrq
  /-- ANCHOR_RMAX (R245): Writes the tree maximum of X to local store. -/
  | anchorRmax (pa : BitVec 4)
  /-- ANCHOR_LOOP (R248): Counted backward jump of the anchor program using LCNT. -/
  | anchorLoop (c d : BitVec 7)
  /-- ANCHOR_END (R245): Ends the row and performs its pending writes. -/
  | anchorEnd
  /-- POWER_ON_RESET (R476): Power-on reset resets the whole part and runs the boot sequence; the boot region holds no valid image, so the part enters recovery. -/
  | powerOnReset
  /-- PERST (R476): PCI Express fundamental reset resets the whole part and boots by verifying the image already in the boot region. -/
  | perst
  /-- IMGLOAD (R477): In recovery, writes image bytes into the boot region at an offset; an empty payload ends the load and starts verification. -/
  | imgload (seq off : Nat) (data : List Byte)
  /-- ATTEST (R479): Returns the nonce, the firmware measurement, the boot ROM version and the boot count, signed with the device identity key. -/
  | attest (die seq : Nat) (nonce : List Byte)
  /-- WAKETOL (R481): Sets the partition's wake tolerance, which selects the deepest island power state whose exit time fits it. -/
  | waketol (die seq ns : Nat)
  /-- PCAP (R482): Caps partition power; firmware then lowers island frequencies, with a floor of 1.2 GHz. -/
  | pcap (die seq watts : Nat)
  /-- TREQ (R482): Returns core-rail power, base-die power and the hottest sensor temperature for each die. -/
  | treq (die seq : Nat)
  /-- TRIG (R485): Sets, enables or disables a trace trigger on the cores of a mask, and unfreezes and clears the trace buffer. -/
  | trig (die seq : Nat) (mask : Word) (ty base len ttag n en : Nat)
  /-- TREAD (R485): Returns up to 15 trace records of a frozen core buffer from a start index, or BUSY while the buffer is not frozen. -/
  | tread (die seq core start : Nat)
  /-- TRACE_FREEZE (R485): When the post-count of N records after the trigger match runs out, the trace buffer freezes. -/
  | traceFreeze (core : Nat)
  /-- ISLAND_ENTRY (R481): An idle core island enters the deepest power state whose typical exit fits the wake tolerance. -/
  | islandEntry (core : Nat)
  /-- ISLAND_EXIT (R481): An admission to an island that is gated, in retention or off aborts any entry in progress and starts the exit. -/
  | islandExit (core : Nat)
  /-- CXL_LINK_DOWN (R471): While a root port's link is down, every access to its window raises the MEM access fault. -/
  | cxlLinkDown (port : Nat)
  /-- QCFG (R416): Leader message that configures a host command queue from a 64-byte block and starts the queue, or answers BADARG. -/
  | qcfg (die seq q : Nat) (block : List Byte)
  /-- QSTOP (R445): Leader message that stops a host command queue after its current record. -/
  | qstop (die seq q : Nat)
  /-- ASSET (R432): Leader message that sets or disables an ASID's root page-table pointer. -/
  | asset (die seq asid en root : Nat)
  /-- INVAL (R441): Leader message that starts invalidation of an ASID's translations over a range or the whole ASID. -/
  | inval (die seq asid base len : Nat)
  /-- INVAL_COMPLETE (R441): Once no cache holds an entry of the range and every access using one has been performed, INVAL completes and is answered. -/
  | invalComplete (n : Nat)
  /-- PARTSET (R443): Sets die partitions and CXL port assignment through die 0; it is refused with BUSY unless the changed dies are quiet. -/
  | partset (die seq : Nat) (parts ports : List Byte)
  /-- WDOG (R415): Sets the freeze watchdog exponent W for the cores of a mask. -/
  | wdog (die seq : Nat) (mask : Word) (w : Nat)
  /-- REPLCFG (R455): Leader message that sets the replication thresholds and applies region pin entries in order. -/
  | replcfg (die seq : Nat) (payload : List Byte)
  /-- FACT_RESUME (R408): Resumes a suspended task, or a merge suspended on a Handler-route fault, at the saved position. -/
  | factResume (die seq : Nat) (otag : Word)
  /-- FACT_REFLECT (R408): Delivers the suspended fault to the task's own handler, or ends the task when it has no handler. -/
  | factReflect (die seq : Nat) (otag : Word)
  /-- FACT_END (R408): Ends the suspended task with status fault after its tokens complete. -/
  | factEnd (die seq : Nat) (otag : Word)
  /-- FACT_EVICT (R408): Writes the suspended task's context image and frees its strand. -/
  | factEvict (die seq : Nat) (otag : Word)
  /-- TCANCEL (R445): Ends a pre-empted task whose restore was refused, with status refused. -/
  | tcancel (die seq : Nat) (otag : Word)
  /-- IN_TAIL (R444): Inbound doorbell write that makes the endpoint read its new messages in SEQ order and answer each one. -/
  | inTail (die ep idx : Nat)
  /-- OUT_HEAD (R444): Host write that marks outbound messages as consumed, freeing their ring slots. -/
  | outHead (die ep idx : Nat)
  /-- ENDPOINT_RING_WRITE (R444): Write of RING or ORING while both rings are empty; it sets the ring base and size and restarts a stopped endpoint. -/
  | endpointRingWrite (die ep : Nat) (out : Bool) (v : Word)
  /-- ENDPOINT_REREAD (R444): An inbound message with an unexpected SEQ is re-read after the delay; the ninth mismatch stops the endpoint. -/
  | endpointReread (die ep : Nat)
  /-- REGISTER_WRITE (R462): Host write to a register that has no behaviour of its own, such as an MSI-X table entry or PWIN, which sets the value. -/
  | registerWrite (off size : Nat) (v : Word)
  /-- NOTIFY_WRITE (R463): Host write of a queue's TAIL, which starts fetching records, or stops the queue with STATE 3 on overrun. -/
  | notifyWrite (l q : Nat) (v : BitVec 32)
  /-- HOST_WRITE (R452): A host or peer write arrives at the home, which invalidates every copy, merges owner data and writes memory. -/
  | hostWrite (off : Nat) (data : List Byte) (relaxed poisoned : Bool)
  /-- HOST_READ (R466): A host BAR2 read is answered from the owner or memory after every earlier non-relaxed write has been performed. -/
  | hostRead (regs : Bool) (off n : Nat)
  /-- ATOMICOP_REQUEST (R461): A received PCI Express AtomicOp completes with Unsupported Request. -/
  | atomicopRequest
  /-- RECORD_FETCH (R418): The queue fetches a launch record, checks its SEQ, then accepts, refuses or refetches it. -/
  | recordFetch (part q : Nat)
  /-- RECORD_REFETCH (R418): After 1 µs a mismatched record is fetched again; the ninth mismatch faults the queue with LSTAT 10. -/
  | recordRefetch (part q : Nat)
  /-- GROUP_DISPATCH (R423): Once every dependence of a record holds, the group is dispatched: the indirect count is read, the effective count applied and the tasks queued. -/
  | groupDispatch (group : Nat)
  /-- TASK_ADMIT (R27): A waiting task is admitted on a free strand: budget claimed, tiles mapped, view copies filled, helpers started and registers preloaded. -/
  | taskAdmit (task core : Nat)
  /-- PREEMPTION (R409): A pre-emption request stops issue, snapshots in-flight state, waits for landings and writes the context image, freeing the strand. -/
  | preemption (task : Nat)
  /-- RESTORE (R414): A pre-empted task is restored on a permitted strand, with tiles and ranges refilled and the image loaded, and re-enters at its resume point. -/
  | restore (task core : Nat)
  /-- TASK_END (R43): A task retires: its completion counters are decremented level by level, helpers stopped and claims released. -/
  | taskEnd (task : Nat)
  /-- ORDERED_COMMIT (R332): An ended ordered task with the smallest commit key writes its buffered bytes home and passes the baton. -/
  | orderedCommit (group : Nat)
  /-- ORDERED_RERUN (R337): An aborted task restarts from its entry once the earlier task of the conflict has committed. -/
  | orderedRerun (task : Nat)
  /-- MERGE (R326): Once its sets and successor have merged, a finished child's copies are folded element by element into its predecessor or the parent. -/
  | merge (task view : Nat)
  /-- STRAND_SELECT (R35): After the 2-cycle switch gap, or when a head condition becomes true, the sequencer picks the next strand and restores its saved state. -/
  | strandSelect (core : Nat)
  /-- BUNDLE_ISSUE (R126): The strand issues one bundle: TW test, landing check, decode checks, then the slots in order, advancing the strand clock. -/
  | bundleIssue (core : Nat)
  /-- LANDING_ARRIVAL (R128): Load data arrives in a landing entry, ending any freeze so that the bundle issues in the next cycle. -/
  | landingArrival (task entry : Nat)
  /-- FETCH_ARRIVAL (R126): A fetched bundle arrives and ends a fetch freeze. -/
  | fetchArrival (core : Nat)
  /-- FREEZE_WATCHDOG_EXPIRY (R130): A freeze reaching the watchdog limit gives the late-landing or fetch-freeze trap to the Handler and unfreezes the core. -/
  | freezeWatchdogExpiry (core : Nat)
  /-- RESULT_LATCH_LANDING (R127): At clock c + L a fixed-unit result lands in its latch, with its flags and any guard-bit write. -/
  | resultLatchLanding (task : Nat)
  /-- FMT_SHADOW_EXPIRY (R131): Five strand clocks after a ct.wrc of fmt, the new fmt value governs triggers. -/
  | fmtShadowExpiry (task : Nat)
  /-- TRANSLATION_WALK_COMPLETE (R439): A page-table walk ends, caching the leaf and setting A or D by compare-and-swap, or faulting, and unfreezes the core. -/
  | translationWalkComplete (core : Nat)
  /-- TOKEN_COMPLETE (R228): An mx, an, xf or cp operation finishes, leaving its token complete or complete-with-error and ORing its flags into fflags. -/
  | tokenComplete (core unit n : Nat)
  /-- ENGINE_OP_START (R228): The next mx, anchor or xf operation in trigger order starts when the one before it has ended. -/
  | engineOpStart (core unit : Nat)
  /-- BROADCAST_START (R240): A BB=1 product starts once it heads every member's mx order, failing with BMIS or BGONE where members disagree or have ended. -/
  | broadcastStart (cluster group : Nat)
  /-- COPY_TRAP (R288): A pending asynchronous COPY trap is taken at the strand's next bundle boundary, lowest token first. -/
  | copyTrap (task : Nat)
  /-- RESIDUAL_SPILL (R364): The residual unit writes a local-store chunk to its HBM or CXL location so that its slot can be reused. -/
  | residualSpill (task : Nat)
  /-- RESIDUAL_FILL (R364): The residual unit fills or prefetches a chunk from HBM or CXL into local store, releasing a stalled pop. -/
  | residualFill (task : Nat)
  /-- RESPONSE_RETURN (R269): A requesting sy form's response returns and makes its head condition true; on re-entry the slot commits with that response. -/
  | responseReturn (task : Nat)
  /-- NACK_RETRY (R94): Hardware retries a refused synchronisation request, reserved after its second refusal. -/
  | nackRetry (task : Nat)
  /-- COMBINE_FOLD (R281): Once every source's ARRIVED bit is set, the home slice folds the staged data in ordered mode and clears ARRIVED. -/
  | combineFold (task : Nat)
  /-- RS (R448): A read-shared request at the home reads memory or forwards to the owner, by the home table. -/
  | rs (die line : Nat)
  /-- RX (R448): A read-exclusive request at the home invalidates the sharers or forwards to the owner, ending in M for the requester. -/
  | rx (die line : Nat)
  /-- UP (R448): An upgrade at the home is granted, converted to RX, or arbitrated among upgrades of the same cycle by lowest PDIE. -/
  | up (die line : Nat)
  /-- WB (R449): Dirty line data from the owner is written to memory, or answers a pending forward; a stale WB is acknowledged and discarded. -/
  | wb (die line : Nat)
  /-- EVC (R448): A clean eviction from an E holder returns the home entry to I. -/
  | evc (die line : Nat)
  /-- INV (R450): A die receiving an invalidation recalls its L1 copies, drops the line and acknowledges. -/
  | inv (die line : Nat)
  /-- ACK (R448): An acknowledgement of an invalidation or of a write-back advances the home or die transient state. -/
  | ack (die line : Nat) (toHome : Bool)
  /-- FWS (R450): A forwarded read-shared at the owner sends DATA and downgrades, or answers FMISS from MI_A. -/
  | fws (die line req : Nat)
  /-- FWX (R450): A forwarded read-exclusive at the owner recalls L1 copies, sends DATA and goes to I, or answers FMISS from MI_A. -/
  | fwx (die line req : Nat)
  /-- FMISS (R392): A forward miss at the home moves MF, MFW or OF states on, or is discarded when no forward awaits. -/
  | fmiss (die line : Nat)
  /-- DATA (R450): Line data at a requesting die serves the waiting fill or performs the waiting store, possibly installing a replica. -/
  | data (die line : Nat) (grant : CohGrant)
  /-- GRANT (R450): An upgrade grant performs the waiting store and moves the die line to M. -/
  | grant (die line : Nat)
  /-- MEMORY_DATA (R448): Memory data for a line in ID is sent to the requester in E, M or S. -/
  | memoryData (line : Nat)
  /-- L2_EVICTION (R446): A die L2 evicts a line, recalling its L1 copies and sending WB or EVC, or dropping an S copy silently. -/
  | l2Eviction (die line : Nat)
  /-- SEGMENT_FREE (R457): Old segments are freed once every read that began before the swap has finished. -/
  | segmentFree (die n : Nat)
  /-- REPLICATION_WINDOW_END (R389): At the end of each 2^16-cycle window, an unpinned region's degree steps down or up by its counters, which then clear. -/
  | replicationWindowEnd (die : Nat)
  /-- HELPER_STALL_END (R312): A stalled helper stream or queue form resumes when its condition on space or published entries holds. -/
  | helperStallEnd (core : Nat) (setter : Bool)
  /-- SLD_SECTOR_PUBLISH (R313): An hx.sld sector lands in the queue and is published in stream order after the earlier sectors. -/
  | sldSectorPublish (core : Nat) (setter : Bool)
  /-- CXL_LINK_UP (R471): A CXL root port's link comes back up, so accesses to its window stop raising the MEM access fault. -/
  | cxlLinkUp (port : Nat)
deriving DecidableEq, Repr

end Sys2Proof
end

