-- ==== Sys2Proof/Machine/Ports.lean ====
section
/-! DEFINITION. The opcode map of spec/05_opcode_map.md: the codes of the element types, the width classes of R123, what every
port of every unit accepts (R147-R166, R261), and the forms that the trigger ports name. -/

namespace Sys2Proof

/-- The code of an element type (R46). -/
def ElemType.code : ElemType → Nat
  | .s8 => 0 | .s16 => 1 | .s32 => 2 | .s64 => 3 | .n8 => 4 | .n16 => 5 | .n32 => 6 | .n64 => 7
  | .f16 => 8 | .bf16 => 9 | .f32 => 10 | .f64 => 11 | .f8a => 12 | .f8b => 13 | .gq4 => 14 | .gq8 => 15 | .c3 => 16

/-- The element type of a code (R46); codes 17-31 name none. -/
def ElemType.ofCode : Nat → Option ElemType
  | 0 => some .s8 | 1 => some .s16 | 2 => some .s32 | 3 => some .s64 | 4 => some .n8 | 5 => some .n16 | 6 => some .n32
  | 7 => some .n64 | 8 => some .f16 | 9 => some .bf16 | 10 => some .f32 | 11 => some .f64 | 12 => some .f8a
  | 13 => some .f8b | 14 => some .gq4 | 15 => some .gq8 | 16 => some .c3 | _ => none

/-- The width in bits of an element, or of one code or index (R46). -/
def ElemType.bits : ElemType → Nat
  | .s8 | .n8 | .f8a | .f8b | .gq8 => 8
  | .s16 | .n16 | .f16 | .bf16 => 16
  | .s32 | .n32 | .f32 => 32
  | .s64 | .n64 | .f64 => 64
  | .gq4 => 4
  | .c3 => 3

/-- The size in bytes z of an element type of codes 0-13 and of gq8 (R46). -/
def ElemType.bytes (t : ElemType) : Nat := t.bits / 8

/-- Whether an element type is a float type (R46). -/
def ElemType.isFloat : ElemType → Bool
  | .f16 | .bf16 | .f32 | .f64 | .f8a | .f8b => true
  | _ => false

/-- Whether an element type is a signed integer type (R46). -/
def ElemType.isSigned : ElemType → Bool
  | .s8 | .s16 | .s32 | .s64 => true
  | _ => false

/-- Whether an element type is 64 bits wide, so that vectors of it are of class P (R149). -/
def ElemType.is64 : ElemType → Bool
  | .s64 | .n64 | .f64 => true
  | _ => false

/-- The sub value of the widths of sa.sext and sa.zext (R153). -/
def WidthSel.code : WidthSel → Nat
  | .w8 => 0 | .w16 => 1 | .w32 => 2

/-- The width a sub value of sa.sext and sa.zext names (R153). -/
def WidthSel.ofCode : Nat → Option WidthSel
  | 0 => some .w8 | 1 => some .w16 | 2 => some .w32 | _ => none

/-- The number of bits of a width of sa.sext and sa.zext (R153). -/
def WidthSel.bits : WidthSel → Nat
  | .w8 => 8 | .w16 => 16 | .w32 => 32

/-- The width classes of R123: scalar, vector, vector pair, mask, guard bit, tile name. -/
inductive WClass where
  | S | V | P | M | K | N
deriving DecidableEq, Repr

/-- How a trigger port's sub-field is handled, with the codes it accepts (R148). -/
inductive SubKind where
  | typed (codes : List Nat)
  | untyped (subs : List Nat)
deriving DecidableEq, Repr

/-- The traps a slot's decode checks raise (R140). -/
inductive SlotErr where
  | slot | port | type
deriving DecidableEq, Repr

/-- The class of a port of the tables of R151: a fixed class, or V or P by the part select of R149. -/
inductive PortClass where
  | fixed (c : WClass)
  | vp
deriving DecidableEq, Repr

/-- The class of a result latch, port 0 (`h` false) or port 1 (`h` true), of units 0-19 (R151). -/
def latchClass (unit : Nat) (h : Bool) : Option PortClass :=
  match h, unit with
  | false, 0 | false, 1 | false, 2 | false, 3 | false, 4 | false, 5 | false, 6 => some (.fixed .S)
  | false, 8 | false, 9 | false, 10 => some .vp
  | false, 11 => some (.fixed .V)
  | false, 15 | false, 16 | false, 17 | false, 18 | false, 19 => some (.fixed .S)
  | true, 3 | true, 4 => some (.fixed .S)
  | true, 6 | true, 10 => some .vp
  | true, 8 | true, 9 => some (.fixed .M)
  | _, _ => none

/-- The class of an operand or parameter port, 2-15, of units 1-19 (R151). -/
def operandClass (unit port : Nat) : Option PortClass :=
  match unit with
  | 1 | 2 => if 2 ≤ port ∧ port ≤ 4 then some (.fixed .S) else none
  | 3 => if 2 ≤ port ∧ port ≤ 3 then some (.fixed .S) else none
  | 4 => if 2 ≤ port ∧ port ≤ 6 then some (.fixed .S) else none
  | 5 => if port = 2 then some (.fixed .S) else none
  | 6 => match port with
    | 2 | 5 | 7 | 8 => some (.fixed .S)
    | 3 | 4 => some .vp
    | 6 => some (.fixed .M)
    | _ => none
  | 7 => match port with
    | 2 | 5 | 6 | 8 | 10 => some (.fixed .S)
    | 4 => some .vp
    | 7 => some (.fixed .N)
    | 9 => some (.fixed .M)
    | _ => none
  | 8 | 9 => match port with
    | 2 | 3 | 4 => some .vp
    | 5 | 6 | 8 | 9 => some (.fixed .S)
    | 7 => some (.fixed .M)
    | _ => none
  | 10 => match port with
    | 2 | 3 | 4 | 6 => some .vp
    | 5 | 7 | 9 => some (.fixed .S)
    | 8 => some (.fixed .M)
    | _ => none
  | 11 => if port = 5 ∨ port = 6 then some (.fixed .S) else none
  | 12 => if 5 ≤ port ∧ port ≤ 7 then some (.fixed .N)
    else if 8 ≤ port ∧ port ≤ 15 then some (.fixed .S) else none
  | 13 => match port with
    | 5 | 6 | 8 => some (.fixed .S)
    | 7 => some (.fixed .N)
    | _ => none
  | 14 => if 5 ≤ port ∧ port ≤ 10 then some (.fixed .S) else none
  | 15 => if 5 ≤ port ∧ port ≤ 15 then some (.fixed .S) else none
  | 16 => if port = 2 ∨ port = 4 ∨ (5 ≤ port ∧ port ≤ 7) then some (.fixed .S) else none
  | 17 => if 5 ≤ port ∧ port ≤ 13 then some (.fixed .S) else none
  | 18 => if port = 5 then some (.fixed .S) else none
  | _ => none

/-- The class a port of this table class has under a sub-field value, if the port accepts it (R148, R149). -/
def PortClass.at (c : PortClass) (sub : Nat) : Option WClass :=
  match c, sub with
  | .fixed c, 0 => some c
  | .vp, 0 => some .V
  | .vp, 1 => some .P
  | _, _ => none

/-- The class of a register operand: its class, index and part fields (R121, R124). `none` is a combination that R121-R125
forbid. Control registers c0-c16 are class 7, index 32-48 (R160). -/
def regClass (cls idx part : Nat) : Option WClass :=
  match cls with
  | 0 => if part = 0 then some .S else none
  | 1 =>
    if 32 ≤ idx then none
    else if part = 0 then some .V
    else if part = 1 then (if idx % 2 = 0 then some .P else none)
    else if 64 ≤ part ∧ part < 128 then some .S
    else if 128 ≤ part ∧ part < 192 then (if idx % 2 = 0 then some .S else none)
    else none
  | 2 => if idx < 8 ∧ part = 0 then some .M else none
  | 3 => if idx < 8 ∧ part = 0 then some .K else none
  | 4 => if idx < 4 ∧ part = 0 then some .S else none
  | 5 => if idx < 16 ∧ part = 0 then some .N else none
  | 6 => if idx < 8 ∧ part = 0 then some .N else none
  | 7 =>
    if idx < 16 ∧ part = 0 then some .N
    else if 32 ≤ idx ∧ idx ≤ 48 ∧ part = 0 then some .S
    else none
  | _ => none

/-- The class of a register destination: g, v, m and k registers only (R121, R125). -/
def regDstClass (cls idx part : Nat) : Option WClass :=
  if cls ≤ 3 then regClass cls idx part else none

/-- The conversions between width classes that R123 lists. -/
def widthOk (src dst : WClass) : Bool :=
  match src, dst with
  | .S, .S | .S, .M | .S, .K | .S, .V | .S, .P => true
  | .M, .S | .M, .M => true
  | .K, .S | .K, .K => true
  | .V, .V | .P, .P | .N, .N => true
  | _, _ => false

/-- sy.qadv's operation when the source is a constant: bits 63:62 of the value (R277). -/
def qadvOp (src : Src) : Nat :=
  match src with
  | .imm x => (x.signExtend 64).toNat / 2 ^ 62
  | .lit x => x.toNat / 2 ^ 62
  | _ => 0

/-- The form of sy.qadv that a source names: publish or configure when a constant source says so, otherwise pop, whose
meaning reads the operation from the value (R277; notes/assumptions/6.md). -/
def qadvForm (q : BitVec 4) (m : Mv) : Instr :=
  match qadvOp m.src with
  | 1 => .queuePublish q m
  | 2 => .queueConfigure q m
  | _ => .queuePop q m

/-- What the sub-field of each trigger port accepts (R153-R166, R261): typed ports list their element-type codes, untyped
ports their sub values; `none` is an unassigned port. -/
def trigPort (unit port : Nat) : Option SubKind :=
  match unit with
  | 1 | 2 => match port with
    | 16 | 17 | 18 | 19 | 20 | 22 | 23 | 24 | 25 | 26 | 27 | 28 | 29 | 30 | 31 | 32 | 33 | 34 | 35 | 36 | 37 | 38 | 39 | 40 | 41 | 42 | 43 | 44 | 45 | 46 | 49 | 50 => some (.untyped ([0]))
    | 21 => some (.untyped ([1, 2, 3, 4]))
    | 47 | 48 => some (.untyped ([0, 1, 2]))
    | 51 => some (.untyped (List.range 32))
    | _ => none
  | 3 => match port with
    | 16 | 17 | 18 | 19 | 20 | 21 | 22 | 23 => some (.untyped ([0]))
    | _ => none
  | 4 => match port with
    | 16 | 18 | 20 => some (.untyped ([0]))
    | 17 => some (.untyped (List.range 4))
    | 19 => some (.untyped (List.range 8))
    | _ => none
  | 5 => match port with
    | 16 | 17 | 18 | 20 => some (.untyped (List.range 4))
    | 19 | 21 | 22 | 23 | 24 => some (.untyped ([0]))
    | _ => none
  | 6 => match port with
    | 16 | 17 | 26 | 27 => some (.typed (List.range 12))
    | 18 | 19 | 20 | 21 | 22 | 23 | 24 | 25 | 28 | 29 => some (.typed (List.range 14))
    | _ => none
  | 7 => match port with
    | 16 | 19 | 22 => some (.typed (List.range 12))
    | 17 | 20 => some (.typed (List.range 14))
    | 18 | 21 | 24 | 25 => some (.untyped ([0]))
    | 23 => some (.untyped ([0, 1]))
    | _ => none
  | 8 | 9 => match port with
    | 16 | 17 | 18 | 22 | 23 | 24 | 25 | 31 => some (.typed ([2, 3, 6, 7, 8, 9, 10, 11]))
    | 19 | 20 | 21 | 26 | 27 | 28 | 29 | 30 | 33 => some (.typed ([8, 9, 10, 11]))
    | 32 | 41 => some (.typed (List.range 14))
    | 34 | 35 | 36 | 37 | 38 | 39 | 40 | 42 | 43 | 44 | 45 => some (.typed ([2, 3, 6, 7]))
    | _ => none
  | 10 => match port with
    | 16 | 17 | 18 | 19 | 20 | 21 | 22 => some (.typed ([2, 3, 6, 7, 10, 11]))
    | 23 | 24 => some (.typed ([2, 3, 6, 7]))
    | 25 => some (.typed ([6]))
    | 26 => some (.typed ([6, 10]))
    | _ => none
  | 11 => match port with
    | 16 | 17 | 18 | 19 => some (.untyped ([0]))
    | _ => none
  | 12 => match port with
    | 16 | 17 | 18 => some (.typed ([0, 4, 8, 9, 12, 13, 14, 15]))
    | 19 | 20 => some (.typed (List.range 16))
    | 21 | 23 | 24 => some (.untyped ([0]))
    | 22 => some (.typed ([0, 8, 9, 12, 13]))
    | _ => none
  | 13 => match port with
    | 16 | 17 => some (.untyped ([0]))
    | 18 => some (.untyped (List.range 16))
    | _ => none
  | 14 => match port with
    | 16 | 17 | 23 => some (.untyped ([0]))
    | 18 => some (.typed ([16]))
    | 19 => some (.typed ([9]))
    | 20 => some (.typed ([0, 4, 14, 15, 16]))
    | 21 | 22 => some (.typed ([14, 15]))
    | _ => none
  | 15 => match port with
    | 16 | 17 | 19 | 20 | 21 | 22 => some (.untyped ([0]))
    | 18 => some (.typed ([2, 3, 10, 11]))
    | _ => none
  | 16 => match port with
    | 16 | 17 | 18 | 19 | 30 | 31 | 32 | 40 => some (.untyped (List.range 6))
    | 20 | 21 | 22 | 23 | 24 | 25 | 26 | 27 | 28 | 29 => some (.untyped (List.range 24))
    | 33 | 34 => some (.untyped ([1, 2, 3, 4]))
    | 35 | 36 | 37 => some (.untyped (List.range 16))
    | 38 | 39 => some (.untyped ([0]))
    | _ => none
  | 17 => match port with
    | 16 | 17 | 18 | 19 | 20 | 21 | 22 => some (.untyped ([0]))
    | _ => none
  | 18 => match port with
    | 16 | 17 | 18 | 19 | 20 | 21 | 22 | 23 => some (.untyped ([0]))
    | _ => none
  | 19 => match port with
    | 16 | 17 | 18 | 19 | 23 => some (.untyped (List.range 32))
    | 20 | 21 => some (.untyped ([0]))
    | 22 => some (.untyped (List.range 8))
    | _ => none
  | _ => none

/-- The trigger ports of sa: the form a port and sub-field name. -/
def trigSa (b : Bool) (port sub : Nat) (m : Mv) : Option Instr :=
  match port with
  | 16 => some (.saAdd b m)
  | 17 => some (.saSub b m)
  | 18 => some (.saRsub b m)
  | 19 => some (.saAddw b m)
  | 20 => some (.saSubw b m)
  | 21 => some (.saShladd b (BitVec.ofNat 2 (sub - 1)) m)
  | 22 => some (.saAnd b m)
  | 23 => some (.saOr b m)
  | 24 => some (.saXor b m)
  | 25 => some (.saAndn b m)
  | 26 => some (.saOrn b m)
  | 27 => some (.saShl b m)
  | 28 => some (.saShr b m)
  | 29 => some (.saSar b m)
  | 30 => some (.saRol b m)
  | 31 => some (.saRor b m)
  | 32 => some (.saSeq b m)
  | 33 => some (.saSne b m)
  | 34 => some (.saSlt b m)
  | 35 => some (.saSle b m)
  | 36 => some (.saSltn b m)
  | 37 => some (.saSlen b m)
  | 38 => some (.saMin b m)
  | 39 => some (.saMax b m)
  | 40 => some (.saMinn b m)
  | 41 => some (.saMaxn b m)
  | 42 => some (.saSel b m)
  | 43 => some (.saClz b m)
  | 44 => some (.saCtz b m)
  | 45 => some (.saPopc b m)
  | 46 => some (.saBswap b m)
  | 47 => (WidthSel.ofCode sub).map (fun w => .saSext b w m)
  | 48 => (WidthSel.ofCode sub).map (fun w => .saZext b w m)
  | 49 => some (.saBfx b m)
  | 50 => some (.saBfi b m)
  | 51 => some (.saSetk b (BitVec.ofNat 2 (sub / 8)) (BitVec.ofNat 3 sub) m)
  | _ => none

/-- The trigger ports of sm: the form a port and sub-field name. -/
def trigSm (port _sub : Nat) (m : Mv) : Option Instr :=
  match port with
  | 16 => some (.smMul m)
  | 17 => some (.smMulh m)
  | 18 => some (.smMulhn m)
  | 19 => some (.smMulw m)
  | 20 => some (.smDiv m)
  | 21 => some (.smDivn m)
  | 22 => some (.smRem m)
  | 23 => some (.smRemn m)
  | _ => none

/-- The trigger ports of ag: the form a port and sub-field name. -/
def trigAg (port sub : Nat) (m : Mv) : Option Instr :=
  match port with
  | 16 => some (.agA2d m)
  | 17 => some (.agSidx (BitVec.ofNat 2 sub) m)
  | 18 => some (.agTaddr m)
  | 19 => some (.agBchk (BitVec.ofNat 3 sub) m)
  | 20 => some (.agDpack m)
  | _ => none

/-- The trigger ports of br: the form a port and sub-field name. -/
def trigBr (port sub : Nat) (m : Mv) : Option Instr :=
  match port with
  | 16 => some (.brPrep (BitVec.ofNat 2 sub) m)
  | 17 => some (.brGo (BitVec.ofNat 2 sub) m)
  | 18 => some (.brCall (BitVec.ofNat 2 sub) m)
  | 19 => some (.brRet m)
  | 20 => some (.brLoop (BitVec.ofNat 2 sub) m)
  | 21 => some (.brYield m)
  | 22 => some (.brEnd m)
  | 23 => some (.brTrap m)
  | 24 => some (.brTret m)
  | _ => none

/-- The trigger ports of ls: the form a port and sub-field name. -/
def trigLs (port sub : Nat) (m : Mv) : Option Instr :=
  match port with
  | 16 => (ElemType.ofCode sub).map (fun t => .lsLd t m)
  | 17 => (ElemType.ofCode sub).map (fun t => .lsSt t m)
  | 18 => (ElemType.ofCode sub).map (fun t => .lsLdv t m)
  | 19 => (ElemType.ofCode sub).map (fun t => .lsStv t m)
  | 20 => (ElemType.ofCode sub).map (fun t => .lsLdvs t m)
  | 21 => (ElemType.ofCode sub).map (fun t => .lsStvs t m)
  | 22 => (ElemType.ofCode sub).map (fun t => .lsGath t m)
  | 23 => (ElemType.ofCode sub).map (fun t => .lsScat t m)
  | 24 => (ElemType.ofCode sub).map (fun t => .lsLdvm t m)
  | 25 => (ElemType.ofCode sub).map (fun t => .lsStvm t m)
  | 26 => (ElemType.ofCode sub).map (fun t => .lsLdq t m)
  | 27 => (ElemType.ofCode sub).map (fun t => .lsStq t m)
  | 28 => (ElemType.ofCode sub).map (fun t => .lsLdvq t m)
  | 29 => (ElemType.ofCode sub).map (fun t => .lsStvq t m)
  | _ => none

/-- The trigger ports of gm: the form a port and sub-field name. -/
def trigGm (port sub : Nat) (m : Mv) : Option Instr :=
  match port with
  | 16 => (ElemType.ofCode sub).map (fun t => .gmLd t m)
  | 17 => (ElemType.ofCode sub).map (fun t => .gmLdv t m)
  | 18 => some (.gmLdt m)
  | 19 => (ElemType.ofCode sub).map (fun t => .gmSt t m)
  | 20 => (ElemType.ofCode sub).map (fun t => .gmStv t m)
  | 21 => some (.gmStt m)
  | 22 => (ElemType.ofCode sub).map (fun t => .gmStg t m)
  | 23 => some (.gmPref (sub == 1) m)
  | 24 => some (.gmFlush m)
  | 25 => some (.gmInval m)
  | _ => none

/-- The trigger ports of va: the form a port and sub-field name. -/
def trigVa (b : Bool) (port sub : Nat) (m : Mv) : Option Instr :=
  match port with
  | 16 => (ElemType.ofCode sub).map (fun t => .vaAdd b t m)
  | 17 => (ElemType.ofCode sub).map (fun t => .vaSub b t m)
  | 18 => (ElemType.ofCode sub).map (fun t => .vaMul b t m)
  | 19 => (ElemType.ofCode sub).map (fun t => .vaFma b t m)
  | 20 => (ElemType.ofCode sub).map (fun t => .vaFms b t m)
  | 21 => (ElemType.ofCode sub).map (fun t => .vaFnma b t m)
  | 22 => (ElemType.ofCode sub).map (fun t => .vaMin b t m)
  | 23 => (ElemType.ofCode sub).map (fun t => .vaMax b t m)
  | 24 => (ElemType.ofCode sub).map (fun t => .vaAbs b t m)
  | 25 => (ElemType.ofCode sub).map (fun t => .vaNeg b t m)
  | 26 => (ElemType.ofCode sub).map (fun t => .vaRcp b t m)
  | 27 => (ElemType.ofCode sub).map (fun t => .vaRsqrt b t m)
  | 28 => (ElemType.ofCode sub).map (fun t => .vaSqrt b t m)
  | 29 => (ElemType.ofCode sub).map (fun t => .vaExp2 b t m)
  | 30 => (ElemType.ofCode sub).map (fun t => .vaLog2 b t m)
  | 31 => (ElemType.ofCode sub).map (fun t => .vaCmp b t m)
  | 32 => (ElemType.ofCode sub).map (fun t => .vaCvt b t m)
  | 33 => (ElemType.ofCode sub).map (fun t => .vaRnd b t m)
  | 34 => (ElemType.ofCode sub).map (fun t => .vaMulh b t m)
  | 35 => (ElemType.ofCode sub).map (fun t => .vaAnd b t m)
  | 36 => (ElemType.ofCode sub).map (fun t => .vaOr b t m)
  | 37 => (ElemType.ofCode sub).map (fun t => .vaXor b t m)
  | 38 => (ElemType.ofCode sub).map (fun t => .vaShl b t m)
  | 39 => (ElemType.ofCode sub).map (fun t => .vaShr b t m)
  | 40 => (ElemType.ofCode sub).map (fun t => .vaSar b t m)
  | 41 => (ElemType.ofCode sub).map (fun t => .vaSel b t m)
  | 42 => (ElemType.ofCode sub).map (fun t => .vaClz b t m)
  | 43 => (ElemType.ofCode sub).map (fun t => .vaPopc b t m)
  | 44 => (ElemType.ofCode sub).map (fun t => .vaAdds b t m)
  | 45 => (ElemType.ofCode sub).map (fun t => .vaSubs b t m)
  | _ => none

/-- The trigger ports of vx: the form a port and sub-field name. -/
def trigVx (port sub : Nat) (m : Mv) : Option Instr :=
  match port with
  | 16 => (ElemType.ofCode sub).map (fun t => .vxPerm t m)
  | 17 => (ElemType.ofCode sub).map (fun t => .vxBcast t m)
  | 18 => (ElemType.ofCode sub).map (fun t => .vxRot t m)
  | 19 => (ElemType.ofCode sub).map (fun t => .vxRed t m)
  | 20 => (ElemType.ofCode sub).map (fun t => .vxScan t m)
  | 21 => (ElemType.ofCode sub).map (fun t => .vxCompact t m)
  | 22 => (ElemType.ofCode sub).map (fun t => .vxExpand t m)
  | 23 => (ElemType.ofCode sub).map (fun t => .vxMerge t m)
  | 24 => (ElemType.ofCode sub).map (fun t => .vxSort64 t m)
  | 25 => (ElemType.ofCode sub).map (fun t => .vxLidx t m)
  | 26 => (ElemType.ofCode sub).map (fun t => .vxTrstep t m)
  | _ => none

/-- The trigger ports of rg: the form a port and sub-field name. -/
def trigRg (port _sub : Nat) (m : Mv) : Option Instr :=
  match port with
  | 16 => some (.rgBits m)
  | 17 => some (.rgKey m)
  | 18 => some (.rgSeed m)
  | 19 => some (.rgMode m)
  | _ => none

/-- The trigger ports of mx: the form a port and sub-field name. -/
def trigMx (port sub : Nat) (m : Mv) : Option Instr :=
  match port with
  | 16 => (ElemType.ofCode sub).map (fun t => .mxMma t m)
  | 17 => (ElemType.ofCode sub).map (fun t => .mxMmz t m)
  | 18 => (ElemType.ofCode sub).map (fun t => .mxMgrp t m)
  | 19 => (ElemType.ofCode sub).map (fun t => .mxTld t m)
  | 20 => (ElemType.ofCode sub).map (fun t => .mxTst t m)
  | 21 => some (.mxZero m)
  | 22 => (ElemType.ofCode sub).map (fun t => .mxCvt t m)
  | 23 => some (.mxBjoin m)
  | 24 => some (.mxDrain m)
  | _ => none

/-- The trigger ports of an: the form a port and sub-field name. -/
def trigAn (port sub : Nat) (m : Mv) : Option Instr :=
  match port with
  | 16 => some (.anRun m)
  | 17 => some (.anLoad m)
  | 18 => some (.anParam (BitVec.ofNat 4 sub) m)
  | _ => none

/-- The trigger ports of xf: the form a port and sub-field name. -/
def trigXf (port sub : Nat) (m : Mv) : Option Instr :=
  match port with
  | 16 => some (.xfComp m)
  | 17 => some (.xfDecomp m)
  | 18 => some (.xfCb3 m)
  | 19 => some (.xfCbtab m)
  | 20 => (ElemType.ofCode sub).map (fun t => .xfRepack t m)
  | 21 => (ElemType.ofCode sub).map (fun t => .xfGq t m)
  | 22 => (ElemType.ofCode sub).map (fun t => .xfDeq t m)
  | 23 => some (.xfStat m)
  | _ => none

/-- The trigger ports of cp: the form a port and sub-field name. -/
def trigCp (port sub : Nat) (m : Mv) : Option Instr :=
  match port with
  | 16 => some (.cpStart m)
  | 17 => some (.cpChain m)
  | 18 => (ElemType.ofCode sub).map (fun t => .cpRed t m)
  | 19 => some (.cpRelay m)
  | 20 => some (.cpCancel m)
  | 21 => some (.cpStatus m)
  | 22 => some (.cpResume m)
  | _ => none

/-- The trigger ports of sy: the form a port and sub-field name. -/
def trigSy (port sub : Nat) (m : Mv) : Option Instr :=
  match port with
  | 16 => some (.syFence (BitVec.ofNat 3 sub) m)
  | 17 => some (.syXfence (BitVec.ofNat 3 sub) m)
  | 18 => some (.syLdacq (BitVec.ofNat 3 sub) m)
  | 19 => some (.syStrel (BitVec.ofNat 3 sub) m)
  | 20 => some (.syAmoadd (BitVec.ofNat 3 (sub / 4)) (BitVec.ofNat 2 sub) m)
  | 21 => some (.syAmomin (BitVec.ofNat 3 (sub / 4)) (BitVec.ofNat 2 sub) m)
  | 22 => some (.syAmomax (BitVec.ofNat 3 (sub / 4)) (BitVec.ofNat 2 sub) m)
  | 23 => some (.syAmominn (BitVec.ofNat 3 (sub / 4)) (BitVec.ofNat 2 sub) m)
  | 24 => some (.syAmomaxn (BitVec.ofNat 3 (sub / 4)) (BitVec.ofNat 2 sub) m)
  | 25 => some (.syAmoand (BitVec.ofNat 3 (sub / 4)) (BitVec.ofNat 2 sub) m)
  | 26 => some (.syAmoor (BitVec.ofNat 3 (sub / 4)) (BitVec.ofNat 2 sub) m)
  | 27 => some (.syAmoxor (BitVec.ofNat 3 (sub / 4)) (BitVec.ofNat 2 sub) m)
  | 28 => some (.syAmoswp (BitVec.ofNat 3 (sub / 4)) (BitVec.ofNat 2 sub) m)
  | 29 => some (.syAmocas (BitVec.ofNat 3 (sub / 4)) (BitVec.ofNat 2 sub) m)
  | 30 => some (.syWait (BitVec.ofNat 3 sub) m)
  | 31 => some (.syLock (BitVec.ofNat 3 sub) m)
  | 32 => some (.syUnlock (BitVec.ofNat 3 sub) m)
  | 33 => some (.syArrive (BitVec.ofNat 3 sub) m)
  | 34 => some (.syBwait (BitVec.ofNat 3 sub) m)
  | 35 => some (.syQwait (BitVec.ofNat 4 sub) m)
  | 36 => some (qadvForm (BitVec.ofNat 4 sub) m)
  | 37 => some (.syQspace (BitVec.ofNat 4 sub) m)
  | 38 => some (.syTrig m)
  | 39 => some (.syCombine m)
  | 40 => some (.syBind (BitVec.ofNat 3 sub) m)
  | _ => none

/-- The trigger ports of tk: the form a port and sub-field name. -/
def trigTk (port _sub : Nat) (m : Mv) : Option Instr :=
  match port with
  | 16 => some (.tkSpawn m)
  | 17 => some (.tkVdecl m)
  | 18 => some (.tkVaddr m)
  | 19 => some (.tkFinish m)
  | 20 => some (.tkJoin m)
  | 21 => some (.tkStamp m)
  | 22 => some (.tkAbort m)
  | _ => none

/-- The trigger ports of db: the form a port and sub-field name. -/
def trigDb (port _sub : Nat) (m : Mv) : Option Instr :=
  match port with
  | 16 => some (.dbBegin m)
  | 17 => some (.dbEnd m)
  | 18 => some (.dbRev m)
  | 19 => some (.dbZero m)
  | 20 => some (.dbPush m)
  | 21 => some (.dbPop m)
  | 22 => some (.dbSp m)
  | 23 => some (.dbMode m)
  | _ => none

/-- The trigger ports of ct: the form a port and sub-field name. -/
def trigCt (port sub : Nat) (m : Mv) : Option Instr :=
  match port with
  | 16 => some (.ctRdc (BitVec.ofNat 5 sub) m)
  | 17 => some (.ctRdcHi (BitVec.ofNat 5 sub) m)
  | 18 => some (.ctWrc (BitVec.ofNat 5 sub) m)
  | 19 => some (.ctWrcHi (BitVec.ofNat 5 sub) m)
  | 20 => some (.ctCyc m)
  | 21 => some (.ctPerf m)
  | 22 => some (.ctDsel (BitVec.ofNat 3 sub) m)
  | 23 => some (.ctWrs (BitVec.ofNat 5 sub) m)
  | _ => none

/-- The trigger form of a unit, port and sub-field (R153-R166). -/
def trigForm (unit port sub : Nat) (m : Mv) : Option Instr :=
  match unit with
  | 1 => trigSa false port sub m
  | 2 => trigSa true port sub m
  | 3 => trigSm port sub m
  | 4 => trigAg port sub m
  | 5 => trigBr port sub m
  | 6 => trigLs port sub m
  | 7 => trigGm port sub m
  | 8 => trigVa false port sub m
  | 9 => trigVa true port sub m
  | 10 => trigVx port sub m
  | 11 => trigRg port sub m
  | 12 => trigMx port sub m
  | 13 => trigAn port sub m
  | 14 => trigXf port sub m
  | 15 => trigCp port sub m
  | 16 => trigSy port sub m
  | 17 => trigTk port sub m
  | 18 => trigDb port sub m
  | 19 => trigCt port sub m
  | _ => none

/-- The unit, trigger port and sub-field of a slot form (R153-R166), with its guard and source. -/
def slotForm (i : Instr) : Option (Nat × Nat × Nat × Mv) :=
  match i with
  | .saAdd b m => some ((if b then 2 else 1), 16, 0, m)
  | .saSub b m => some ((if b then 2 else 1), 17, 0, m)
  | .saRsub b m => some ((if b then 2 else 1), 18, 0, m)
  | .saAddw b m => some ((if b then 2 else 1), 19, 0, m)
  | .saSubw b m => some ((if b then 2 else 1), 20, 0, m)
  | .saShladd b n m => some ((if b then 2 else 1), 21, n.toNat + 1, m)
  | .saAnd b m => some ((if b then 2 else 1), 22, 0, m)
  | .saOr b m => some ((if b then 2 else 1), 23, 0, m)
  | .saXor b m => some ((if b then 2 else 1), 24, 0, m)
  | .saAndn b m => some ((if b then 2 else 1), 25, 0, m)
  | .saOrn b m => some ((if b then 2 else 1), 26, 0, m)
  | .saShl b m => some ((if b then 2 else 1), 27, 0, m)
  | .saShr b m => some ((if b then 2 else 1), 28, 0, m)
  | .saSar b m => some ((if b then 2 else 1), 29, 0, m)
  | .saRol b m => some ((if b then 2 else 1), 30, 0, m)
  | .saRor b m => some ((if b then 2 else 1), 31, 0, m)
  | .saSeq b m => some ((if b then 2 else 1), 32, 0, m)
  | .saSne b m => some ((if b then 2 else 1), 33, 0, m)
  | .saSlt b m => some ((if b then 2 else 1), 34, 0, m)
  | .saSle b m => some ((if b then 2 else 1), 35, 0, m)
  | .saSltn b m => some ((if b then 2 else 1), 36, 0, m)
  | .saSlen b m => some ((if b then 2 else 1), 37, 0, m)
  | .saMin b m => some ((if b then 2 else 1), 38, 0, m)
  | .saMax b m => some ((if b then 2 else 1), 39, 0, m)
  | .saMinn b m => some ((if b then 2 else 1), 40, 0, m)
  | .saMaxn b m => some ((if b then 2 else 1), 41, 0, m)
  | .saSel b m => some ((if b then 2 else 1), 42, 0, m)
  | .saClz b m => some ((if b then 2 else 1), 43, 0, m)
  | .saCtz b m => some ((if b then 2 else 1), 44, 0, m)
  | .saPopc b m => some ((if b then 2 else 1), 45, 0, m)
  | .saBswap b m => some ((if b then 2 else 1), 46, 0, m)
  | .saSext b w m => some ((if b then 2 else 1), 47, w.code, m)
  | .saZext b w m => some ((if b then 2 else 1), 48, w.code, m)
  | .saBfx b m => some ((if b then 2 else 1), 49, 0, m)
  | .saBfi b m => some ((if b then 2 else 1), 50, 0, m)
  | .saSetk b cc k m => some ((if b then 2 else 1), 51, cc.toNat * 8 + k.toNat, m)
  | .smMul m => some (3, 16, 0, m)
  | .smMulh m => some (3, 17, 0, m)
  | .smMulhn m => some (3, 18, 0, m)
  | .smMulw m => some (3, 19, 0, m)
  | .smDiv m => some (3, 20, 0, m)
  | .smDivn m => some (3, 21, 0, m)
  | .smRem m => some (3, 22, 0, m)
  | .smRemn m => some (3, 23, 0, m)
  | .agA2d m => some (4, 16, 0, m)
  | .agSidx n m => some (4, 17, n.toNat, m)
  | .agTaddr m => some (4, 18, 0, m)
  | .agBchk n m => some (4, 19, n.toNat, m)
  | .agDpack m => some (4, 20, 0, m)
  | .brPrep n m => some (5, 16, n.toNat, m)
  | .brGo n m => some (5, 17, n.toNat, m)
  | .brCall n m => some (5, 18, n.toNat, m)
  | .brRet m => some (5, 19, 0, m)
  | .brLoop n m => some (5, 20, n.toNat, m)
  | .brYield m => some (5, 21, 0, m)
  | .brEnd m => some (5, 22, 0, m)
  | .brTrap m => some (5, 23, 0, m)
  | .brTret m => some (5, 24, 0, m)
  | .lsLd t m => some (6, 16, t.code, m)
  | .lsSt t m => some (6, 17, t.code, m)
  | .lsLdv t m => some (6, 18, t.code, m)
  | .lsStv t m => some (6, 19, t.code, m)
  | .lsLdvs t m => some (6, 20, t.code, m)
  | .lsStvs t m => some (6, 21, t.code, m)
  | .lsGath t m => some (6, 22, t.code, m)
  | .lsScat t m => some (6, 23, t.code, m)
  | .lsLdvm t m => some (6, 24, t.code, m)
  | .lsStvm t m => some (6, 25, t.code, m)
  | .lsLdq t m => some (6, 26, t.code, m)
  | .lsStq t m => some (6, 27, t.code, m)
  | .lsLdvq t m => some (6, 28, t.code, m)
  | .lsStvq t m => some (6, 29, t.code, m)
  | .vaAdd b t m => some ((if b then 9 else 8), 16, t.code, m)
  | .vaSub b t m => some ((if b then 9 else 8), 17, t.code, m)
  | .vaMul b t m => some ((if b then 9 else 8), 18, t.code, m)
  | .vaFma b t m => some ((if b then 9 else 8), 19, t.code, m)
  | .vaFms b t m => some ((if b then 9 else 8), 20, t.code, m)
  | .vaFnma b t m => some ((if b then 9 else 8), 21, t.code, m)
  | .vaMin b t m => some ((if b then 9 else 8), 22, t.code, m)
  | .vaMax b t m => some ((if b then 9 else 8), 23, t.code, m)
  | .vaAbs b t m => some ((if b then 9 else 8), 24, t.code, m)
  | .vaNeg b t m => some ((if b then 9 else 8), 25, t.code, m)
  | .vaRcp b t m => some ((if b then 9 else 8), 26, t.code, m)
  | .vaRsqrt b t m => some ((if b then 9 else 8), 27, t.code, m)
  | .vaSqrt b t m => some ((if b then 9 else 8), 28, t.code, m)
  | .vaExp2 b t m => some ((if b then 9 else 8), 29, t.code, m)
  | .vaLog2 b t m => some ((if b then 9 else 8), 30, t.code, m)
  | .vaCmp b t m => some ((if b then 9 else 8), 31, t.code, m)
  | .vaCvt b t m => some ((if b then 9 else 8), 32, t.code, m)
  | .vaRnd b t m => some ((if b then 9 else 8), 33, t.code, m)
  | .vaMulh b t m => some ((if b then 9 else 8), 34, t.code, m)
  | .vaAnd b t m => some ((if b then 9 else 8), 35, t.code, m)
  | .vaOr b t m => some ((if b then 9 else 8), 36, t.code, m)
  | .vaXor b t m => some ((if b then 9 else 8), 37, t.code, m)
  | .vaShl b t m => some ((if b then 9 else 8), 38, t.code, m)
  | .vaShr b t m => some ((if b then 9 else 8), 39, t.code, m)
  | .vaSar b t m => some ((if b then 9 else 8), 40, t.code, m)
  | .vaSel b t m => some ((if b then 9 else 8), 41, t.code, m)
  | .vaClz b t m => some ((if b then 9 else 8), 42, t.code, m)
  | .vaPopc b t m => some ((if b then 9 else 8), 43, t.code, m)
  | .vaAdds b t m => some ((if b then 9 else 8), 44, t.code, m)
  | .vaSubs b t m => some ((if b then 9 else 8), 45, t.code, m)
  | .vxPerm t m => some (10, 16, t.code, m)
  | .vxBcast t m => some (10, 17, t.code, m)
  | .vxRot t m => some (10, 18, t.code, m)
  | .vxRed t m => some (10, 19, t.code, m)
  | .vxScan t m => some (10, 20, t.code, m)
  | .vxCompact t m => some (10, 21, t.code, m)
  | .vxExpand t m => some (10, 22, t.code, m)
  | .vxMerge t m => some (10, 23, t.code, m)
  | .vxSort64 t m => some (10, 24, t.code, m)
  | .vxLidx t m => some (10, 25, t.code, m)
  | .vxTrstep t m => some (10, 26, t.code, m)
  | .rgBits m => some (11, 16, 0, m)
  | .rgKey m => some (11, 17, 0, m)
  | .rgSeed m => some (11, 18, 0, m)
  | .rgMode m => some (11, 19, 0, m)
  | .mxMma t m => some (12, 16, t.code, m)
  | .mxMmz t m => some (12, 17, t.code, m)
  | .mxMgrp t m => some (12, 18, t.code, m)
  | .mxTld t m => some (12, 19, t.code, m)
  | .mxTst t m => some (12, 20, t.code, m)
  | .mxZero m => some (12, 21, 0, m)
  | .mxCvt t m => some (12, 22, t.code, m)
  | .mxBjoin m => some (12, 23, 0, m)
  | .mxDrain m => some (12, 24, 0, m)
  | .anRun m => some (13, 16, 0, m)
  | .anLoad m => some (13, 17, 0, m)
  | .anParam n m => some (13, 18, n.toNat, m)
  | .xfComp m => some (14, 16, 0, m)
  | .xfDecomp m => some (14, 17, 0, m)
  | .xfCb3 m => some (14, 18, 16, m)
  | .xfCbtab m => some (14, 19, 9, m)
  | .xfRepack t m => some (14, 20, t.code, m)
  | .xfGq t m => some (14, 21, t.code, m)
  | .xfDeq t m => some (14, 22, t.code, m)
  | .xfStat m => some (14, 23, 0, m)
  | .cpStart m => some (15, 16, 0, m)
  | .cpChain m => some (15, 17, 0, m)
  | .cpRed t m => some (15, 18, t.code, m)
  | .cpRelay m => some (15, 19, 0, m)
  | .cpCancel m => some (15, 20, 0, m)
  | .cpStatus m => some (15, 21, 0, m)
  | .cpResume m => some (15, 22, 0, m)
  | .syFence n m => some (16, 16, n.toNat, m)
  | .syXfence n m => some (16, 17, n.toNat, m)
  | .syLdacq n m => some (16, 18, n.toNat, m)
  | .syStrel n m => some (16, 19, n.toNat, m)
  | .syAmoadd s o m => some (16, 20, s.toNat * 4 + o.toNat, m)
  | .syAmomin s o m => some (16, 21, s.toNat * 4 + o.toNat, m)
  | .syAmomax s o m => some (16, 22, s.toNat * 4 + o.toNat, m)
  | .syAmominn s o m => some (16, 23, s.toNat * 4 + o.toNat, m)
  | .syAmomaxn s o m => some (16, 24, s.toNat * 4 + o.toNat, m)
  | .syAmoand s o m => some (16, 25, s.toNat * 4 + o.toNat, m)
  | .syAmoor s o m => some (16, 26, s.toNat * 4 + o.toNat, m)
  | .syAmoxor s o m => some (16, 27, s.toNat * 4 + o.toNat, m)
  | .syAmoswp s o m => some (16, 28, s.toNat * 4 + o.toNat, m)
  | .syAmocas s o m => some (16, 29, s.toNat * 4 + o.toNat, m)
  | .syWait n m => some (16, 30, n.toNat, m)
  | .syLock n m => some (16, 31, n.toNat, m)
  | .syUnlock n m => some (16, 32, n.toNat, m)
  | .syArrive n m => some (16, 33, n.toNat, m)
  | .syBwait n m => some (16, 34, n.toNat, m)
  | .syQwait n m => some (16, 35, n.toNat, m)
  | .queuePop q m => some (16, 36, q.toNat, m)
  | .queuePublish q m => some (16, 36, q.toNat, m)
  | .queueConfigure q m => some (16, 36, q.toNat, m)
  | .syQspace n m => some (16, 37, n.toNat, m)
  | .syTrig m => some (16, 38, 0, m)
  | .syCombine m => some (16, 39, 0, m)
  | .syBind n m => some (16, 40, n.toNat, m)
  | .tkSpawn m => some (17, 16, 0, m)
  | .tkVdecl m => some (17, 17, 0, m)
  | .tkVaddr m => some (17, 18, 0, m)
  | .tkFinish m => some (17, 19, 0, m)
  | .tkJoin m => some (17, 20, 0, m)
  | .tkStamp m => some (17, 21, 0, m)
  | .tkAbort m => some (17, 22, 0, m)
  | .dbBegin m => some (18, 16, 0, m)
  | .dbEnd m => some (18, 17, 0, m)
  | .dbRev m => some (18, 18, 0, m)
  | .dbZero m => some (18, 19, 0, m)
  | .dbPush m => some (18, 20, 0, m)
  | .dbPop m => some (18, 21, 0, m)
  | .dbSp m => some (18, 22, 0, m)
  | .dbMode m => some (18, 23, 0, m)
  | .ctRdc n m => some (19, 16, n.toNat, m)
  | .ctRdcHi n m => some (19, 17, n.toNat, m)
  | .ctWrc n m => some (19, 18, n.toNat, m)
  | .ctWrcHi n m => some (19, 19, n.toNat, m)
  | .ctCyc m => some (19, 20, 0, m)
  | .ctPerf m => some (19, 21, 0, m)
  | .ctDsel n m => some (19, 22, n.toNat, m)
  | .ctWrs n m => some (19, 23, n.toNat, m)
  | .gmLd t m => some (7, 16, t.code, m)
  | .gmLdv t m => some (7, 17, t.code, m)
  | .gmLdt m => some (7, 18, 0, m)
  | .gmSt t m => some (7, 19, t.code, m)
  | .gmStv t m => some (7, 20, t.code, m)
  | .gmStt m => some (7, 21, 0, m)
  | .gmStg t m => some (7, 22, t.code, m)
  | .gmPref l m => some (7, 23, (if l then 1 else 0), m)
  | .gmFlush m => some (7, 24, 0, m)
  | .gmInval m => some (7, 25, 0, m)
  | .powerOnReset => none
  | .perst => none
  | .imgload _ _ _ => none
  | .attest _ _ _ => none
  | .waketol _ _ _ => none
  | .pcap _ _ _ => none
  | .treq _ _ => none
  | .trig _ _ _ _ _ _ _ _ _ => none
  | .tread _ _ _ _ => none
  | .traceFreeze _ => none
  | .islandEntry _ => none
  | .islandExit _ => none
  | .cxlLinkDown _ => none
  | .qcfg _ _ _ _ => none
  | .qstop _ _ _ => none
  | .asset _ _ _ _ _ => none
  | .inval _ _ _ _ _ => none
  | .invalComplete _ => none
  | .partset _ _ _ _ => none
  | .wdog _ _ _ _ => none
  | .replcfg _ _ _ => none
  | .factResume _ _ _ => none
  | .factReflect _ _ _ => none
  | .factEnd _ _ _ => none
  | .factEvict _ _ _ => none
  | .tcancel _ _ _ => none
  | .inTail _ _ _ => none
  | .outHead _ _ _ => none
  | .endpointRingWrite _ _ _ _ => none
  | .endpointReread _ _ => none
  | .registerWrite _ _ _ => none
  | .notifyWrite _ _ _ => none
  | .hostWrite _ _ _ _ => none
  | .hostRead _ _ _ => none
  | .atomicopRequest => none
  | .recordFetch _ _ => none
  | .recordRefetch _ _ => none
  | .groupDispatch _ => none
  | .taskAdmit _ _ => none
  | .preemption _ => none
  | .restore _ _ => none
  | .taskEnd _ => none
  | .orderedCommit _ => none
  | .orderedRerun _ => none
  | .merge _ _ => none
  | .strandSelect _ => none
  | .bundleIssue _ => none
  | .landingArrival _ _ => none
  | .fetchArrival _ => none
  | .freezeWatchdogExpiry _ => none
  | .resultLatchLanding _ => none
  | .fmtShadowExpiry _ => none
  | .translationWalkComplete _ => none
  | .tokenComplete _ _ _ => none
  | .engineOpStart _ _ => none
  | .broadcastStart _ _ => none
  | .copyTrap _ => none
  | .residualSpill _ => none
  | .residualFill _ => none
  | .responseReturn _ => none
  | .nackRetry _ => none
  | .combineFold _ => none
  | .rs _ _ => none
  | .rx _ _ => none
  | .up _ _ => none
  | .wb _ _ => none
  | .evc _ _ => none
  | .inv _ _ => none
  | .ack _ _ _ => none
  | .fws _ _ _ => none
  | .fwx _ _ _ => none
  | .fmiss _ _ => none
  | .data _ _ _ => none
  | .grant _ _ => none
  | .memoryData _ => none
  | .l2Eviction _ _ => none
  | .segmentFree _ _ => none
  | .replicationWindowEnd _ => none
  | .helperStallEnd _ _ => none
  | .sldSectorPublish _ _ => none
  | .helperBaseInstruction _ _ => none
  | .helperFence _ => none
  | .hxSset _ _ _ => none
  | .hxSget _ _ => none
  | .hxQwr _ _ _ => none
  | .hxQrd _ _ _ => none
  | .hxQpub _ _ _ => none
  | .hxQpop _ _ _ => none
  | .hxQwd _ _ _ => none
  | .hxQws _ _ _ => none
  | .hxSld _ _ _ _ => none
  | .hxSst _ _ _ _ => none
  | .hxBsx _ _ _ _ => none
  | .hxLhint _ _ => none
  | .hxFence _ => none
  | .hxStop _ => none
  | .anchorNop => none
  | .anchorScale _ => none
  | .anchorSscale _ => none
  | .anchorBias _ => none
  | .anchorAddres _ _ => none
  | .anchorMulres _ _ => none
  | .anchorRelu => none
  | .anchorGelu => none
  | .anchorClamp _ => none
  | .anchorLeaky _ => none
  | .anchorSigmoid => none
  | .anchorDrop _ _ _ => none
  | .anchorCvt _ _ => none
  | .anchorCvtsr _ _ _ => none
  | .anchorRecm _ => none
  | .anchorRecs _ _ => none
  | .anchorWrt => none
  | .anchorWrl => none
  | .anchorWrq => none
  | .anchorRmax _ => none
  | .anchorLoop _ _ => none
  | .anchorEnd => none
  | .move _ _ => none
  | .cxlLinkUp _ => none

/-- The class of a slot form's trigger port (R149, R163): the value of a typed form of va, vb and vx is class P when its type
is 64 bits wide and V otherwise, rg.key takes a vector, and every other trigger port is class S. -/
def trigClass (unit port sub : Nat) : WClass :=
  match unit with
  | 8 | 9 | 10 => match ElemType.ofCode sub with
    | some t => if t.is64 then .P else .V
    | none => .V
  | 11 => if port = 17 then .V else .S
  | _ => .S

/-- What a source delivers: a fixed width class, the class of its destination (a queue), or the class of the load that filled
a landing entry, which is known when the slot runs (R123). -/
inductive SrcClass where
  | known (c : WClass)
  | queue
  | land
deriving DecidableEq, Repr

/-- The class of a source, or none when R121-R125 or R149 forbid it. -/
def srcClass (s : Src) : Option SrcClass :=
  match s with
  | .null => some (.known .S)
  | .latch u h pair =>
    if u.toNat = 0 then none
    else ((latchClass u.toNat h).bind (fun c => c.at (if pair then 1 else 0))).map .known
  | .reg c i p => (regClass c.toNat i.toNat p.toNat).map .known
  | .imm _ => some (.known .S)
  | .lit _ => some (.known .S)
  | .queue _ _ => some .queue
  | .land _ => some .land

/-- Whether R123 lists the move of a source into a destination of a class, or into a queue (`none`). What a landing entry
delivers is checked when the slot runs. -/
def moveOk (s : SrcClass) (d : Option WClass) : Bool :=
  match s, d with
  | .known c, some d => widthOk c d
  | .known c, none => c != .N
  | .queue, some d => d != .N
  | .queue, none => true
  | .land, some d => d != .N
  | .land, none => true

/-- The class of a destination: `some none` is a queue; `none` a destination that R121-R125 or R149 forbid. -/
def dstClass (d : Dst) : Option (Option WClass) :=
  match d with
  | .null => some (some .S)
  | .port u p pair => ((operandClass u.toNat p.toNat).bind (fun c => c.at (if pair then 1 else 0))).map some
  | .reg c i p => (regDstClass c.toNat i.toNat p.toNat).map some
  | .queue _ _ => some none

/-- Whether a trigger port accepts a sub-field value (R148). -/
def SubKind.accepts (k : SubKind) (sub : Nat) : Bool :=
  match k with
  | .typed l => l.contains sub
  | .untyped l => l.contains sub

end Sys2Proof
end

