-- ==== Sys2Proof/WellFormed.lean ====
section
/-! DEFINITION. Well-formed steps: a slot form whose encoding passes the static checks 1-5 of R140, a helper base instruction
within the ranges of its encoding, and every other step, whose fields hold any value. -/

namespace Sys2Proof

/-- Whether a source and the class of its destination (`none` for a queue) pass check 5 of R140. -/
def Src.wfTo (s : Src) (d : Option WClass) : Bool :=
  match srcClass s with
  | some c => moveOk c d
  | none => false

/-- A plain move passes the static checks: its destination is assigned and R123 lists the conversion. -/
def Dst.wf (d : Dst) (m : Mv) : Bool :=
  match dstClass d with
  | some c => m.src.wfTo c
  | none => false

/-- The three forms of sy.qadv are told apart by the operation a constant source names (R277). -/
def qadvWf (i : Instr) : Bool :=
  match i with
  | .queuePop _ m => qadvOp m.src != 1 && qadvOp m.src != 2
  | .queuePublish _ m => qadvOp m.src == 1
  | .queueConfigure _ m => qadvOp m.src == 2
  | _ => true

/-- A trigger move passes the static checks: the port accepts the sub-field and R123 lists the conversion. -/
def slotWf (unit port sub : Nat) (m : Mv) : Bool :=
  match trigPort unit port with
  | some k => k.accepts sub && m.src.wfTo (some (trigClass unit port sub))
  | none => false

/-- Whether a 64-bit immediate is the sign extension of its low n bits and a multiple of step. -/
def immFits (imm : Word) (n step : Nat) : Bool :=
  (imm.setWidth n).signExtend 64 == imm && imm.toNat % step == 0

/-- The operations that OP-IMM and OP-IMM-32 encode. -/
def opImmWf (op : RvAlu) (w : Bool) (imm : Word) : Bool :=
  match op with
  | .add => immFits imm 12 1
  | .slt | .sltu | .xor | .or | .and => !w && immFits imm 12 1
  | .sll | .srl | .sra => decide (imm.toNat < if w then 32 else 64)
  | _ => false

/-- The operations that OP and OP-32 encode. -/
def opWf (op : RvAlu) (w : Bool) : Bool :=
  match op with
  | .add | .sub | .sll | .srl | .sra | .mul | .div | .divu | .rem | .remu => true
  | _ => !w

/-- A helper base instruction whose fields lie in the ranges of its 32-bit encoding. -/
def Rv.wf (i : Rv) : Bool :=
  match i with
  | .lui _ imm | .auipc _ imm => immFits imm 32 4096
  | .jal _ imm => immFits imm 21 2
  | .jalr _ _ imm => immFits imm 12 1
  | .branch _ _ _ imm => immFits imm 13 2
  | .load n u _ _ imm => immFits imm 12 1 && (n == 1 || n == 2 || n == 4 || (n == 8 && !u))
  | .store n _ _ imm => immFits imm 12 1 && (n == 1 || n == 2 || n == 4 || n == 8)
  | .opImm o w _ _ imm => opImmWf o w imm
  | .op o w _ _ _ => opWf o w
  | .amo o _ _ _ _ _ rs2 => o != .lr || rs2 == 0
  | .ecall | .ebreak => true

/-- Well-formed steps. -/
def Instr.wf (i : Instr) : Bool :=
  match slotForm i with
  | some (u, p, sub, m) => slotWf u p sub m && qadvWf i
  | none =>
    match i with
    | .move m d => d.wf m
    | .helperBaseInstruction _ op => op.wf
    | _ => true

end Sys2Proof
end

