-- ==== Sys2Proof/Decode.lean ====
section
/-! DEFINITION. The decoder: bundles and slots (spec/04_core_encoding.md R134-R140), anchor words (08 R244-R245) and helper
words (10 R304, R310), total on any bits; and after it the encoder of the same encodings. -/

namespace Sys2Proof

/-- Bits hi down to lo of a bit vector, as a natural number. -/
def field {w : Nat} (x : BitVec w) (hi lo : Nat) : Nat := (x.extractLsb hi lo).toNat

/-- The fields of a slot (R135). -/
structure SlotBits where
  g   : BitVec 5
  sk  : BitVec 2
  src : BitVec 18
  dk  : BitVec 2
  dst : BitVec 18
  res : BitVec 3
deriving DecidableEq, Repr

/-- The fields of a slot word (R135). -/
def slotBits (w : BitVec 48) : SlotBits :=
  { g := w.extractLsb 47 43, sk := w.extractLsb 42 41, src := w.extractLsb 40 23, dk := w.extractLsb 22 21,
    dst := w.extractLsb 20 3, res := w.extractLsb 2 0 }

/-- The unit, port and sub-field of a port field (R136). -/
def portBits (f : BitVec 18) : Nat × Nat × Nat :=
  ((f.extractLsb 17 11).toNat, (f.extractLsb 10 5).toNat, (f.extractLsb 4 0).toNat)

/-- Check 1 of R140: the reserved bits, the destination kind 10 and the guard bits of a slot with no guard. -/
def checkShape (b : SlotBits) : Bool :=
  b.res == 0 && b.dk != 2 && (b.g.extractLsb 4 4 == 1#1 || b.g.extractLsb 3 0 == 0#4)

/-- Check 2 of R140 for a source port: only an assigned result latch, or port 0 of unit 0, is read. -/
def checkSrcPort (f : BitVec 18) : Bool :=
  let (u, p, _) := portBits f
  decide (p ≤ 1) && (latchClass u (p == 1)).isSome

/-- Check 2 of R140 for a destination port: an operand, parameter or trigger port, or port 0 of unit 0. -/
def checkDstPort (f : BitVec 18) : Bool :=
  let (u, p, _) := portBits f
  (u == 0 && p == 0) || (operandClass u p).isSome || (trigPort u p).isSome

/-- Check 3 of R140: the element type of a typed trigger port. -/
def checkType (f : BitVec 18) : Bool :=
  let (u, p, sub) := portBits f
  match trigPort u p with
  | some (.typed l) => l.contains sub
  | _ => true

/-- Check 4 of R140 for a source port: the part select of a result latch. -/
def checkSrcSub (f : BitVec 18) : Bool :=
  let (u, p, sub) := portBits f
  ((latchClass u (p == 1)).bind (fun c => c.at sub)).isSome

/-- Check 4 of R140 for a destination port. -/
def checkDstSub (f : BitVec 18) : Bool :=
  let (u, p, sub) := portBits f
  if u == 0 && p == 0 then sub == 0
  else match trigPort u p with
    | some (.untyped l) => l.contains sub
    | some (.typed _) => true
    | none => ((operandClass u p).bind (fun c => c.at sub)).isSome

/-- The guard of a slot (R137). -/
def decodeGuard (g : BitVec 5) : Option Guard :=
  if g.extractLsb 4 4 == 1#1 then some ⟨g.extractLsb 3 3 == 1#1, g.extractLsb 2 0⟩ else none

/-- The source of a slot that has passed checks 1-4 (R136, R138), or none when its landing bits are nonzero. -/
def decodeSrc (sk : BitVec 2) (f : BitVec 18) (lit : Option (BitVec 48)) : Option Src :=
  match sk.toNat with
  | 0 =>
    let (u, p, sub) := portBits f
    if u == 0 then some .null else some (.latch (BitVec.ofNat 5 u) (p == 1) (sub == 1))
  | 1 => some (.reg (f.extractLsb 17 15) (f.extractLsb 14 9) (f.extractLsb 8 0))
  | 2 => match lit with
    | some l => some (.lit ((l.extractLsb 45 0) ++ f))
    | none => some (.imm f)
  | _ =>
    if f.extractLsb 17 17 == 0#1 then some (.queue (f.extractLsb 16 13) (f.extractLsb 12 0))
    else if f.extractLsb 10 0 == 0#11 then some (.land (f.extractLsb 16 11)) else none

/-- The destination of a slot that has passed checks 1-4, when it is not a trigger port; none when it is a landing entry. -/
def decodeDst (dk : BitVec 2) (f : BitVec 18) : Option Dst :=
  match dk.toNat with
  | 0 =>
    let (u, p, sub) := portBits f
    if u == 0 then some .null else some (.port (BitVec.ofNat 5 u) (BitVec.ofNat 4 p) (sub == 1))
  | 1 => some (.reg (f.extractLsb 17 15) (f.extractLsb 14 9) (f.extractLsb 8 0))
  | _ => if f.extractLsb 17 17 == 0#1 then some (.queue (f.extractLsb 16 13) (f.extractLsb 12 0)) else none

/-- Whether the destination field of a slot names a trigger port. -/
def isTrigger (b : SlotBits) : Bool :=
  let (u, p, _) := portBits b.dst
  b.dk == 0 && (trigPort u p).isSome

/-- Decodes a slot, with the literal of the slot to its right if it has one: the static checks 1-5 of R140 in their order, then
the move. -/
def decodeSlot (w : BitVec 48) (lit : Option (BitVec 48)) : Except SlotErr Instr :=
  let b := slotBits w
  if !checkShape b then .error .slot
  else if (b.sk == 0 && !checkSrcPort b.src) || (b.dk == 0 && !checkDstPort b.dst) then .error .port
  else if b.dk == 0 && !checkType b.dst then .error .type
  else if (b.sk == 0 && !checkSrcSub b.src) || (b.dk == 0 && !checkDstSub b.dst) then .error .port
  else match decodeSrc b.sk b.src lit with
    | none => .error .slot
    | some src =>
      let m : Mv := ⟨decodeGuard b.g, src⟩
      if isTrigger b then
        let (u, p, sub) := portBits b.dst
        if !src.wfTo (some (trigClass u p sub)) then .error .slot
        else match trigForm u p sub m with
          | some i => .ok i
          | none => .error .port
      else match decodeDst b.dk b.dst with
        | none => .error .slot
        | some d => if d.wf m then .ok (.move m d) else .error .slot

/-- A decoded bundle: its wait mask, block head bit, literal position and slot words (R134). -/
structure Bundle where
  tw    : BitVec 8
  bh    : Bool
  li    : Nat
  slots : List (BitVec 48)
deriving DecidableEq, Repr

/-- The slots of a bundle, slot 0 first (R134). -/
def bundleSlots (w : BitVec 256) : List (BitVec 48) :=
  [w.extractLsb 239 192, w.extractLsb 191 144, w.extractLsb 143 96, w.extractLsb 95 48, w.extractLsb 47 0]

/-- The bundle-level checks (R134, R138): LI of 5-7, nonzero reserved bits, a literal whose bits 47:46 are nonzero or whose
move is not of source kind 10. `none` raises the illegal-bundle trap. -/
def decodeBundle (w : BitVec 256) : Option Bundle :=
  let li := (w.extractLsb 246 244).toNat
  let slots := bundleSlots w
  let litOk :=
    li == 0 || (((slots.getD li 0).extractLsb 47 46 == 0#2) && ((slots.getD (li - 1) 0).extractLsb 42 41 == 2#2))
  if 5 ≤ li ∨ w.extractLsb 243 240 ≠ 0#4 ∨ !litOk then none
  else some { tw := w.extractLsb 255 248, bh := w.extractLsb 247 247 == 1#1, li := li, slots := slots }

/-- Whether slot j of a bundle is a literal (R138). -/
def Bundle.isLit (b : Bundle) (j : Nat) : Bool := b.li != 0 && b.li == j

/-- Slot j of a bundle, decoded with its literal if it has one (R138). -/
def Bundle.decode (b : Bundle) (j : Nat) : Except SlotErr Instr :=
  decodeSlot (b.slots.getD j 0) (if b.li = j + 1 then some (b.slots.getD (j + 1) 0) else none)

/-- The anchor form of an anchor word (R244, R245): none when a field that the form does not use is nonzero or OP is 22-31. -/
def decodeAnchor (w : BitVec 32) : Option Instr :=
  let pa := w.extractLsb 26 23
  let pb := w.extractLsb 22 19
  let ty := w.extractLsb 18 16
  let rm := w.extractLsb 15 14
  let imm := w.extractLsb 13 0
  let i8 := w.extractLsb 7 0
  let none4 := pa == 0 && pb == 0 && ty == 0 && rm == 0 && imm == 0
  let paOnly := pb == 0 && ty == 0 && rm == 0 && imm == 0
  let guardOf (c : Bool) (i : Instr) : Option Instr := if c then some i else none
  match (w.extractLsb 31 27).toNat with
  | 0 => guardOf none4 .anchorNop
  | 1 => guardOf paOnly (.anchorScale pa)
  | 2 => guardOf paOnly (.anchorSscale pa)
  | 3 => guardOf paOnly (.anchorBias pa)
  | 4 => guardOf (pb == 0 && rm == 0 && imm == 0) (.anchorAddres pa ty)
  | 5 => guardOf (pb == 0 && rm == 0 && imm == 0) (.anchorMulres pa ty)
  | 6 => guardOf none4 .anchorRelu
  | 7 => guardOf none4 .anchorGelu
  | 8 => guardOf paOnly (.anchorClamp pa)
  | 9 => guardOf paOnly (.anchorLeaky pa)
  | 10 => guardOf none4 .anchorSigmoid
  | 11 => guardOf (ty == 0 && rm == 0 && w.extractLsb 13 8 == 0#6) (.anchorDrop pa pb i8)
  | 12 => guardOf (pa == 0 && pb == 0 && imm == 0) (.anchorCvt ty rm)
  | 13 => guardOf (pb == 0 && rm == 0 && w.extractLsb 13 8 == 0#6) (.anchorCvtsr pa ty i8)
  | 14 => guardOf paOnly (.anchorRecm pa)
  | 15 => guardOf (ty == 0 && rm == 0 && imm == 0) (.anchorRecs pa pb)
  | 16 => guardOf none4 .anchorWrt
  | 17 => guardOf none4 .anchorWrl
  | 18 => guardOf none4 .anchorWrq
  | 19 => guardOf paOnly (.anchorRmax pa)
  | 20 => guardOf (pa == 0 && pb == 0 && ty == 0 && rm == 0) (.anchorLoop (w.extractLsb 13 7) (w.extractLsb 6 0))
  | 21 => guardOf none4 .anchorEnd
  | _ => none

/-- The stream form of a helper word in the custom-0 opcode (R310): none for an encoding the table does not list. -/
def decodeHx (w : BitVec 32) : Option Instr :=
  let rd := w.extractLsb 11 7
  let rs1 := w.extractLsb 19 15
  let rs2 := w.extractLsb 24 20
  let q := w.extractLsb 28 25
  let s := w.extractLsb 27 25
  let f3 := w.extractLsb 31 29
  let b28 := w.extractLsb 28 28 == 0#1
  let guardOf (c : Bool) (i : Instr) : Option Instr := if c then some i else none
  if w.extractLsb 6 0 ≠ 0x0B#7 then none
  else match (w.extractLsb 14 12).toNat, f3.toNat with
    | 0, f => guardOf (b28 && rs2 == 0 && rd == 0 && decide (f < 4)) (.hxSset (w.extractLsb 30 29) s rs1)
    | 1, 0 => guardOf (b28 && rs2 == 0 && rs1 == 0) (.hxSget s rd)
    | 2, 0 => guardOf (rd == 0) (.hxQwr q rs1 rs2)
    | 3, 0 => guardOf (rs2 == 0) (.hxQrd q rd rs1)
    | 4, 0 => guardOf (rs2 == 0) (.hxQpub q rd rs1)
    | 4, 1 => guardOf (rs2 == 0) (.hxQpop q rd rs1)
    | 4, 2 => guardOf (rs2 == 0) (.hxQwd q rd rs1)
    | 4, 3 => guardOf (rs2 == 0) (.hxQws q rd rs1)
    | 5, 0 => some (.hxSld q rd rs1 rs2)
    | 5, 1 => some (.hxSst q rd rs1 rs2)
    | 6, 0 => some (.hxBsx q rd rs1 rs2)
    | 7, 0 => guardOf (b28 && rs2 == 0 && rd == 0) (.hxLhint s rs1)
    | 7, 1 => guardOf (b28 && rs2 == 0 && rs1 == 0 && rd == 0) (.hxFence s)
    | 7, 2 => guardOf (b28 && s == 0 && rs2 == 0 && rd == 0) (.hxStop rs1)
    | _, _ => none

/-- The 64-bit sign extension of a bit vector. -/
def sx {w : Nat} (x : BitVec w) : Word := x.signExtend 64

/-- The load and store sizes and extensions of RISC-V's funct3 (LOAD). -/
def loadShape : Nat → Option (Nat × Bool)
  | 0 => some (1, false) | 1 => some (2, false) | 2 => some (4, false) | 3 => some (8, false)
  | 4 => some (1, true) | 5 => some (2, true) | 6 => some (4, true) | _ => none

/-- RISC-V branch conditions by funct3. -/
def branchCond : Nat → Option RvCond
  | 0 => some .eq | 1 => some .ne | 4 => some .lt | 5 => some .ge | 6 => some .ltu | 7 => some .geu | _ => none

/-- RISC-V OP operations by funct7 and funct3, the M operations among them. -/
def opCode (f7 f3 : Nat) : Option RvAlu :=
  match f7, f3 with
  | 0, 0 => some .add | 0, 1 => some .sll | 0, 2 => some .slt | 0, 3 => some .sltu
  | 0, 4 => some .xor | 0, 5 => some .srl | 0, 6 => some .or | 0, 7 => some .and
  | 32, 0 => some .sub | 32, 5 => some .sra
  | 1, 0 => some .mul | 1, 1 => some .mulh | 1, 2 => some .mulhsu | 1, 3 => some .mulhu
  | 1, 4 => some .div | 1, 5 => some .divu | 1, 6 => some .rem | 1, 7 => some .remu
  | _, _ => none

/-- RISC-V atomic operations by funct5. -/
def amoCode : Nat → Option RvAmo
  | 2 => some .lr | 3 => some .sc | 1 => some .swap | 0 => some .add | 4 => some .xor | 12 => some .and
  | 8 => some .or | 16 => some .min | 20 => some .max | 24 => some .minu | 28 => some .maxu | _ => none

/-- A 32-bit RV64IMA word (10 R304; the RISC-V unprivileged encoding, notes/assumptions/7.md): none is an illegal
instruction. A fence is the step of its own (R308). -/
def decodeRv32 (w : BitVec 32) : Option Instr :=
  let rd := w.extractLsb 11 7
  let rs1 := w.extractLsb 19 15
  let rs2 := w.extractLsb 24 20
  let f3 := (w.extractLsb 14 12).toNat
  let f7 := (w.extractLsb 31 25).toNat
  let iImm : Word := sx (w.extractLsb 31 20)
  let sImm : Word := sx ((w.extractLsb 31 25) ++ (w.extractLsb 11 7))
  let bImm : Word := sx ((w.extractLsb 31 31) ++ (w.extractLsb 7 7) ++ (w.extractLsb 30 25) ++ (w.extractLsb 11 8) ++ 0#1)
  let jImm : Word := sx ((w.extractLsb 31 31) ++ (w.extractLsb 19 12) ++ (w.extractLsb 20 20) ++ (w.extractLsb 30 21) ++ 0#1)
  let uImm : Word := sx ((w.extractLsb 31 12) ++ 0#12)
  let base (i : Rv) : Option Instr := some (.helperBaseInstruction false i)
  match (w.extractLsb 6 0).toNat with
  | 0x37 => base (.lui rd uImm)
  | 0x17 => base (.auipc rd uImm)
  | 0x6F => base (.jal rd jImm)
  | 0x67 => if f3 = 0 then base (.jalr rd rs1 iImm) else none
  | 0x63 => (branchCond f3).bind (fun c => base (.branch c rs1 rs2 bImm))
  | 0x03 => (loadShape f3).bind (fun s => base (.load s.1 s.2 rd rs1 iImm))
  | 0x23 => if f3 < 4 then base (.store (2 ^ f3) rs1 rs2 sImm) else none
  | 0x13 =>
    match f3 with
    | 1 => if w.extractLsb 31 26 = 0#6 then base (.opImm .sll false rd rs1 ((w.extractLsb 25 20).setWidth 64)) else none
    | 5 =>
      if w.extractLsb 31 26 = 0#6 then base (.opImm .srl false rd rs1 ((w.extractLsb 25 20).setWidth 64))
      else if w.extractLsb 31 26 = 16#6 then base (.opImm .sra false rd rs1 ((w.extractLsb 25 20).setWidth 64)) else none
    | f => (opCode 0 f).bind (fun o => base (.opImm o false rd rs1 iImm))
  | 0x1B =>
    match f3 with
    | 0 => base (.opImm .add true rd rs1 iImm)
    | 1 => if f7 = 0 then base (.opImm .sll true rd rs1 (rs2.setWidth 64)) else none
    | 5 =>
      if f7 = 0 then base (.opImm .srl true rd rs1 (rs2.setWidth 64))
      else if f7 = 32 then base (.opImm .sra true rd rs1 (rs2.setWidth 64)) else none
    | _ => none
  | 0x33 => (opCode f7 f3).bind (fun o => base (.op o false rd rs1 rs2))
  | 0x3B => (opCode f7 f3).bind (fun o => if opWf o true then base (.op o true rd rs1 rs2) else none)
  | 0x2F =>
    (amoCode (w.extractLsb 31 27).toNat).bind (fun o =>
      if (f3 = 2 ∨ f3 = 3) ∧ (o = .lr → rs2 = 0) then
        base (.amo o (f3 == 3) (w.extractLsb 26 26 == 1#1) (w.extractLsb 25 25 == 1#1) rd rs1 rs2)
      else none)
  | 0x0F => if f3 = 0 then some (.helperFence ((w.extractLsb 31 15) ++ (w.extractLsb 11 7))) else none
  | 0x73 => if w = 0x00000073#32 then base .ecall else if w = 0x00100073#32 then base .ebreak else none
  | _ => none

/-- A compressed word of RV64C without floating point (10 R304): none is an illegal instruction. -/
def decodeRv16 (w : BitVec 16) : Option Instr :=
  let base (i : Rv) : Option Instr := some (.helperBaseInstruction true i)
  let f3 := (w.extractLsb 15 13).toNat
  let rdP : BitVec 5 := 1#2 ++ w.extractLsb 4 2
  let rsP : BitVec 5 := 1#2 ++ w.extractLsb 9 7
  let rd := w.extractLsb 11 7
  let rs2 := w.extractLsb 6 2
  let imm6 : Word := sx ((w.extractLsb 12 12) ++ (w.extractLsb 6 2))
  let sh6 : Word := ((w.extractLsb 12 12) ++ (w.extractLsb 6 2)).setWidth 64
  let lwOff : Word := ((w.extractLsb 5 5) ++ (w.extractLsb 12 10) ++ (w.extractLsb 6 6) ++ 0#2).setWidth 64
  let ldOff : Word := ((w.extractLsb 6 5) ++ (w.extractLsb 12 10) ++ 0#3).setWidth 64
  let jOff : Word := sx ((w.extractLsb 12 12) ++ (w.extractLsb 8 8) ++ (w.extractLsb 10 9) ++ (w.extractLsb 6 6) ++
    (w.extractLsb 7 7) ++ (w.extractLsb 2 2) ++ (w.extractLsb 11 11) ++ (w.extractLsb 5 3) ++ 0#1)
  let bOff : Word := sx ((w.extractLsb 12 12) ++ (w.extractLsb 6 5) ++ (w.extractLsb 2 2) ++ (w.extractLsb 11 10) ++
    (w.extractLsb 4 3) ++ 0#1)
  match (w.extractLsb 1 0).toNat, f3 with
  | 0, 0 =>
    let nz : Word := ((w.extractLsb 10 7) ++ (w.extractLsb 12 11) ++ (w.extractLsb 5 5) ++ (w.extractLsb 6 6) ++ 0#2).setWidth 64
    if nz = 0 then none else base (.opImm .add false rdP 2 nz)
  | 0, 2 => base (.load 4 false rdP rsP lwOff)
  | 0, 3 => base (.load 8 false rdP rsP ldOff)
  | 0, 6 => base (.store 4 rsP rdP lwOff)
  | 0, 7 => base (.store 8 rsP rdP ldOff)
  | 1, 0 => base (.opImm .add false rd rd imm6)
  | 1, 1 => if rd = 0 then none else base (.opImm .add true rd rd imm6)
  | 1, 2 => base (.opImm .add false rd 0 imm6)
  | 1, 3 =>
    if rd = 2 then
      let nz : Word := sx ((w.extractLsb 12 12) ++ (w.extractLsb 4 3) ++ (w.extractLsb 5 5) ++ (w.extractLsb 2 2) ++
        (w.extractLsb 6 6) ++ 0#4)
      if nz = 0 then none else base (.opImm .add false 2 2 nz)
    else if imm6 = 0 then none
    else base (.lui rd (sx ((w.extractLsb 12 12) ++ (w.extractLsb 6 2) ++ 0#12)))
  | 1, 4 =>
    match (w.extractLsb 11 10).toNat with
    | 0 => base (.opImm .srl false rsP rsP sh6)
    | 1 => base (.opImm .sra false rsP rsP sh6)
    | 2 => base (.opImm .and false rsP rsP imm6)
    | _ =>
      match (w.extractLsb 12 12).toNat, (w.extractLsb 6 5).toNat with
      | 0, 0 => base (.op .sub false rsP rsP rdP)
      | 0, 1 => base (.op .xor false rsP rsP rdP)
      | 0, 2 => base (.op .or false rsP rsP rdP)
      | 0, 3 => base (.op .and false rsP rsP rdP)
      | 1, 0 => base (.op .sub true rsP rsP rdP)
      | 1, 1 => base (.op .add true rsP rsP rdP)
      | _, _ => none
  | 1, 5 => base (.jal 0 jOff)
  | 1, 6 => base (.branch .eq rsP 0 bOff)
  | 1, 7 => base (.branch .ne rsP 0 bOff)
  | 2, 0 => base (.opImm .sll false rd rd sh6)
  | 2, 2 =>
    if rd = 0 then none
    else base (.load 4 false rd 2 (((w.extractLsb 3 2) ++ (w.extractLsb 12 12) ++ (w.extractLsb 6 4) ++ 0#2).setWidth 64))
  | 2, 3 =>
    if rd = 0 then none
    else base (.load 8 false rd 2 (((w.extractLsb 4 2) ++ (w.extractLsb 12 12) ++ (w.extractLsb 6 5) ++ 0#3).setWidth 64))
  | 2, 4 =>
    if w.extractLsb 12 12 = 0#1 then
      if rs2 = 0 then (if rd = 0 then none else base (.jalr 0 rd 0)) else base (.op .add false rd 0 rs2)
    else if rs2 = 0 then (if rd = 0 then base .ebreak else base (.jalr 1 rd 0)) else base (.op .add false rd rd rs2)
  | 2, 6 => base (.store 4 2 rs2 (((w.extractLsb 8 7) ++ (w.extractLsb 12 9) ++ 0#2).setWidth 64))
  | 2, 7 => base (.store 8 2 rs2 (((w.extractLsb 9 7) ++ (w.extractLsb 12 10) ++ 0#3).setWidth 64))
  | _, _ => none

/-- A helper word of 32 bits: a stream form in the custom-0 opcode, otherwise a base instruction (R304, R310). -/
def decodeHelper (w : BitVec 32) : Option Instr :=
  if w.extractLsb 6 0 = 0x0B#7 then decodeHx w else decodeRv32 w

/-- The word the opcode table shows of a row: 48 bits are a slot; 32 bits are a stream form where the custom-0 opcode lists
it, otherwise an anchor word, otherwise a helper word; 16 bits are a compressed helper word (notes/assumptions/8.md). -/
def decodeTableWord (nbits w : Nat) : Option Instr :=
  if nbits = 48 then
    match decodeSlot (BitVec.ofNat 48 w) none with
    | .ok i => some i
    | .error _ => none
  else if nbits = 32 then
    match decodeHx (BitVec.ofNat 32 w) with
    | some i => some i
    | none => match decodeAnchor (BitVec.ofNat 32 w) with
      | some i => some i
      | none => decodeHelper (BitVec.ofNat 32 w)
  else if nbits = 16 then decodeRv16 (BitVec.ofNat 16 w)
  else none

/-- The guard field of a slot (R137). -/
def encodeGuard (g : Option Guard) : BitVec 5 :=
  match g with
  | none => 0
  | some g => 1#1 ++ (BitVec.ofBool g.inv) ++ g.k

/-- The port field of a unit, port and sub-field (R136). -/
def portField (u p sub : Nat) : BitVec 18 := BitVec.ofNat 7 u ++ BitVec.ofNat 6 p ++ BitVec.ofNat 5 sub

/-- The source kind and source field of a source, and its literal slot if it needs one (R136, R138). -/
def encodeSrc (s : Src) : BitVec 2 × BitVec 18 × Option (BitVec 48) :=
  match s with
  | .null => (0, 0, none)
  | .latch u h pair => (0, portField u.toNat (if h then 1 else 0) (if pair then 1 else 0), none)
  | .reg c i p => (1, c ++ i ++ p, none)
  | .imm x => (2, x, none)
  | .lit x => (2, x.setWidth 18, some ((x.extractLsb 63 18).setWidth 48))
  | .queue q o => (3, 0#1 ++ q ++ o, none)
  | .land n => (3, 1#1 ++ n ++ 0#11, none)

/-- The destination kind and field of a plain move (R136). -/
def encodeDst (d : Dst) : BitVec 2 × BitVec 18 :=
  match d with
  | .null => (0, 0)
  | .port u p pair => (0, portField u.toNat p.toNat (if pair then 1 else 0))
  | .reg c i p => (1, c ++ i ++ p)
  | .queue q o => (3, 0#1 ++ q ++ o)

/-- A slot from its guard and source and its destination kind and field (R135), with its literal slot if it needs one. -/
def encodeMove (m : Mv) (dk : BitVec 2) (dst : BitVec 18) : BitVec 48 × Option (BitVec 48) :=
  let (sk, src, lit) := encodeSrc m.src
  (encodeGuard m.guard ++ sk ++ src ++ dk ++ dst ++ 0#3, lit)

/-- The slot word of a slot form, with its literal slot if it needs one (R135-R138). -/
def encodeSlot (i : Instr) : Option (BitVec 48 × Option (BitVec 48)) :=
  match slotForm i with
  | some (u, p, sub, m) => some (encodeMove m 0 (portField u p sub))
  | none => match i with
    | .move m d => some (encodeMove m (encodeDst d).1 (encodeDst d).2)
    | _ => none

/-- The anchor word of an OP, PA, PB, TY, RM and IMM (R244). -/
def anchorWord (op : BitVec 5) (pa pb : BitVec 4) (ty : BitVec 3) (rm : BitVec 2) (imm : BitVec 14) : BitVec 32 :=
  op ++ pa ++ pb ++ ty ++ rm ++ imm

/-- The anchor word of an anchor form (R245). -/
def encodeAnchor (i : Instr) : Option (BitVec 32) :=
  match i with
  | .anchorNop => some (anchorWord 0 0 0 0 0 0)
  | .anchorScale pa => some (anchorWord 1 pa 0 0 0 0)
  | .anchorSscale pa => some (anchorWord 2 pa 0 0 0 0)
  | .anchorBias pa => some (anchorWord 3 pa 0 0 0 0)
  | .anchorAddres pa ty => some (anchorWord 4 pa 0 ty 0 0)
  | .anchorMulres pa ty => some (anchorWord 5 pa 0 ty 0 0)
  | .anchorRelu => some (anchorWord 6 0 0 0 0 0)
  | .anchorGelu => some (anchorWord 7 0 0 0 0 0)
  | .anchorClamp pa => some (anchorWord 8 pa 0 0 0 0)
  | .anchorLeaky pa => some (anchorWord 9 pa 0 0 0 0)
  | .anchorSigmoid => some (anchorWord 10 0 0 0 0 0)
  | .anchorDrop pa pb i => some (anchorWord 11 pa pb 0 0 (i.setWidth 14))
  | .anchorCvt ty rm => some (anchorWord 12 0 0 ty rm 0)
  | .anchorCvtsr pa ty i => some (anchorWord 13 pa 0 ty 0 (i.setWidth 14))
  | .anchorRecm pa => some (anchorWord 14 pa 0 0 0 0)
  | .anchorRecs pa pb => some (anchorWord 15 pa pb 0 0 0)
  | .anchorWrt => some (anchorWord 16 0 0 0 0 0)
  | .anchorWrl => some (anchorWord 17 0 0 0 0 0)
  | .anchorWrq => some (anchorWord 18 0 0 0 0 0)
  | .anchorRmax pa => some (anchorWord 19 pa 0 0 0 0)
  | .anchorLoop c d => some (anchorWord 20 0 0 0 0 (c ++ d))
  | .anchorEnd => some (anchorWord 21 0 0 0 0 0)
  | _ => none

/-- A word of the R-type layout (R310). -/
def rType (f7 : BitVec 7) (rs2 rs1 : BitVec 5) (f3 : BitVec 3) (rd : BitVec 5) (op : BitVec 7) : BitVec 32 :=
  f7 ++ rs2 ++ rs1 ++ f3 ++ rd ++ op

/-- The word of a stream form (R310). -/
def encodeHx (i : Instr) : Option (BitVec 32) :=
  let h (f7 : BitVec 7) (rs2 rs1 : BitVec 5) (f3 : BitVec 3) (rd : BitVec 5) : Option (BitVec 32) :=
    some (rType f7 rs2 rs1 f3 rd 0x0B)
  match i with
  | .hxSset f s rs1 => h (0#1 ++ f ++ 0#1 ++ s) 0 rs1 0 0
  | .hxSget s rd => h (0#4 ++ s) 0 0 1 rd
  | .hxQwr q rs1 rs2 => h (0#3 ++ q) rs2 rs1 2 0
  | .hxQrd q rd rs1 => h (0#3 ++ q) 0 rs1 3 rd
  | .hxQpub q rd rs1 => h (0#3 ++ q) 0 rs1 4 rd
  | .hxQpop q rd rs1 => h (1#3 ++ q) 0 rs1 4 rd
  | .hxQwd q rd rs1 => h (2#3 ++ q) 0 rs1 4 rd
  | .hxQws q rd rs1 => h (3#3 ++ q) 0 rs1 4 rd
  | .hxSld q rd rs1 rs2 => h (0#3 ++ q) rs2 rs1 5 rd
  | .hxSst q rd rs1 rs2 => h (1#3 ++ q) rs2 rs1 5 rd
  | .hxBsx q rd rs1 rs2 => h (0#3 ++ q) rs2 rs1 6 rd
  | .hxLhint s rs1 => h (0#4 ++ s) 0 rs1 7 0
  | .hxFence c => h (1#3 ++ 0#1 ++ c) 0 0 7 0
  | .hxStop rs1 => h (2#3 ++ 0#4) 0 rs1 7 0
  | _ => none

/-- RISC-V funct3 of a branch condition. -/
def condF3 : RvCond → BitVec 3
  | .eq => 0 | .ne => 1 | .lt => 4 | .ge => 5 | .ltu => 6 | .geu => 7

/-- RISC-V funct7 and funct3 of an OP operation. -/
def aluCode : RvAlu → BitVec 7 × BitVec 3
  | .add => (0, 0) | .sub => (32, 0) | .sll => (0, 1) | .slt => (0, 2) | .sltu => (0, 3) | .xor => (0, 4)
  | .srl => (0, 5) | .sra => (32, 5) | .or => (0, 6) | .and => (0, 7)
  | .mul => (1, 0) | .mulh => (1, 1) | .mulhsu => (1, 2) | .mulhu => (1, 3)
  | .div => (1, 4) | .divu => (1, 5) | .rem => (1, 6) | .remu => (1, 7)

/-- RISC-V funct5 of an atomic operation. -/
def amoF5 : RvAmo → BitVec 5
  | .lr => 2 | .sc => 3 | .swap => 1 | .add => 0 | .xor => 4 | .and => 12 | .or => 8
  | .min => 16 | .max => 20 | .minu => 24 | .maxu => 28

/-- RISC-V funct3 of a load. -/
def loadF3 (n : Nat) (u : Bool) : BitVec 3 :=
  BitVec.ofNat 3 ((if n = 1 then 0 else if n = 2 then 1 else if n = 4 then 2 else 3) + if u then 4 else 0)

/-- The 32-bit word of a helper base instruction. -/
def encodeRv (i : Rv) : BitVec 32 :=
  match i with
  | .lui rd imm => imm.extractLsb 31 12 ++ rd ++ 0x37#7
  | .auipc rd imm => imm.extractLsb 31 12 ++ rd ++ 0x17#7
  | .jal rd imm =>
    imm.extractLsb 20 20 ++ imm.extractLsb 10 1 ++ imm.extractLsb 11 11 ++ imm.extractLsb 19 12 ++ rd ++ 0x6F#7
  | .jalr rd rs1 imm => imm.extractLsb 11 0 ++ rs1 ++ 0#3 ++ rd ++ 0x67#7
  | .branch c rs1 rs2 imm =>
    imm.extractLsb 12 12 ++ imm.extractLsb 10 5 ++ rs2 ++ rs1 ++ condF3 c ++ imm.extractLsb 4 1 ++
      imm.extractLsb 11 11 ++ 0x63#7
  | .load n u rd rs1 imm => imm.extractLsb 11 0 ++ rs1 ++ loadF3 n u ++ rd ++ 0x03#7
  | .store n rs1 rs2 imm => imm.extractLsb 11 5 ++ rs2 ++ rs1 ++ loadF3 n false ++ imm.extractLsb 4 0 ++ 0x23#7
  | .opImm op w rd rs1 imm =>
    let oc : BitVec 7 := if w then 0x1B else 0x13
    match op with
    | .sll | .srl | .sra =>
      (aluCode op).1.extractLsb 6 1 ++ imm.extractLsb 5 0 ++ rs1 ++ (aluCode op).2 ++ rd ++ oc
    | _ => imm.extractLsb 11 0 ++ rs1 ++ (aluCode op).2 ++ rd ++ oc
  | .op op w rd rs1 rs2 => rType (aluCode op).1 rs2 rs1 (aluCode op).2 rd (if w then 0x3B else 0x33)
  | .amo op d aq rl rd rs1 rs2 =>
    amoF5 op ++ BitVec.ofBool aq ++ BitVec.ofBool rl ++ rs2 ++ rs1 ++ (if d then 3#3 else 2#3) ++ rd ++ 0x2F#7
  | .ecall => 0x00000073
  | .ebreak => 0x00100073

/-- The helper word of a helper step (R304, R310). -/
def encodeHelper (i : Instr) : Option (BitVec 32) :=
  match i with
  | .helperBaseInstruction false op => some (encodeRv op)
  | .helperFence rest => some (rest.extractLsb 21 5 ++ 0#3 ++ rest.extractLsb 4 0 ++ 0x0F#7)
  | i => encodeHx i

/-- The words of a step that the part fetches: the slot and its literal slot if any, the anchor word or the helper word. Events
and messages have none, nor has a compressed helper word, which is one of several for its step. -/
def encode (i : Instr) : Option (List (Nat × Nat)) :=
  match encodeSlot i with
  | some (w, none) => some [(48, w.toNat)]
  | some (w, some l) => some [(48, w.toNat), (48, l.toNat)]
  | none => match encodeAnchor i with
    | some w => some [(32, w.toNat)]
    | none => (encodeHelper i).map (fun w => [(32, w.toNat)])

end Sys2Proof
end

