-- ==== Sys2Proof/Machine/Bits.lean ====
section
/-! DEFINITION. Bit fields, little-endian bytes (R5), and the association lists that hold numbered registers and agents. -/

namespace Sys2Proof

/-- Bits hi down to lo of a natural number. -/
def nbits (x hi lo : Nat) : Nat := (x / 2 ^ lo) % 2 ^ (hi + 1 - lo)

/-- Bits hi down to lo of a 64-bit word, as a natural number (R5). -/
def wbits (x : Word) (hi lo : Nat) : Nat := nbits x.toNat hi lo

/-- Bit i of a natural number. -/
def nbit (x i : Nat) : Bool := (x / 2 ^ i) % 2 == 1

/-- Bit i of a 64-bit word. -/
def wbit (x : Word) (i : Nat) : Bool := x.getLsbD i

/-- A natural number as a 64-bit word. -/
def wd (n : Nat) : Word := BitVec.ofNat 64 n

/-- A truth value as the word 0 or 1. -/
def wbool (b : Bool) : Word := if b then 1 else 0

/-- The value of an n-bit field read as two's complement. -/
def sint (n x : Nat) : Int := if x % 2 ^ n < 2 ^ (n - 1) then (x % 2 ^ n : Nat) else ((x % 2 ^ n : Nat) : Int) - (2 ^ n : Nat)

/-- An integer modulo 2^n, as a natural number. -/
def wrapN (n : Nat) (x : Int) : Nat := (x % (2 ^ n : Nat)).toNat

/-- The little-endian bytes of a natural number, n of them (R5). -/
def toBytes (n x : Nat) : List Byte := (List.range n).map (fun i => BitVec.ofNat 8 (x / 2 ^ (8 * i)))

/-- The natural number of little-endian bytes (R5). -/
def ofBytes (l : List Byte) : Nat := l.foldr (fun b acc => b.toNat + 256 * acc) 0

/-- The n bytes of a list from an offset; bytes past its end are zero. -/
def sliceBytes (l : List Byte) (off n : Nat) : List Byte := (List.range n).map (fun i => l.getD (off + i) 0)

/-- The natural number of n little-endian bytes of a list from an offset. -/
def leAt (l : List Byte) (off n : Nat) : Nat := ofBytes (sliceBytes l off n)

/-- A list with its n-th element replaced; the list is unchanged when n is past its end. -/
def setNth {α : Type} (l : List α) (n : Nat) (x : α) : List α := l.set n x

/-- A list of bytes written over another from an offset, within its length. -/
def overlay (l : List Byte) (off : Nat) (bs : List Byte) : List Byte :=
  l.zipIdx.map (fun (b, i) => if off ≤ i ∧ i < off + bs.length then bs.getD (i - off) 0 else b)

/-- Bytes padded with zeros, or cut, to n. -/
def padTo (n : Nat) (l : List Byte) : List Byte := sliceBytes l 0 n

/-- The value under a key, or a default. -/
def Tab.get {α : Type} (t : Tab α) (k : Nat) (d : α) : α :=
  match t with
  | [] => d
  | (j, x) :: r => if j = k then x else Tab.get r k d

/-- The value under a key, if there is one. -/
def Tab.find? {α : Type} (t : Tab α) (k : Nat) : Option α :=
  match t with
  | [] => none
  | (j, x) :: r => if j = k then some x else Tab.find? r k

/-- Writes the value under a key, keeping rising keys rising. -/
def Tab.set {α : Type} (t : Tab α) (k : Nat) (x : α) : Tab α :=
  match t with
  | [] => [(k, x)]
  | (j, y) :: r => if j = k then (k, x) :: r else if k < j then (k, x) :: (j, y) :: r else (j, y) :: Tab.set r k x

/-- Removes a key. -/
def Tab.del {α : Type} (t : Tab α) (k : Nat) : Tab α :=
  match t with
  | [] => []
  | (j, y) :: r => if j = k then Tab.del r k else (j, y) :: Tab.del r k

/-- Applies a function to every value. -/
def Tab.mapVals {α : Type} (t : Tab α) (f : Nat → α → α) : Tab α := t.map (fun (k, x) => (k, f k x))

/-- n divided by d, rounded up. -/
def ceilDiv (n d : Nat) : Nat := (n + d - 1) / d

/-- The integer square root, by n bits from the top: the largest r with r × r ≤ x, for x below 2^(2n). -/
def isqrtBits (x : Nat) : Nat → Nat → Nat
  | 0, r => r
  | n + 1, r =>
    let c := r + 2 ^ n
    if c * c ≤ x then isqrtBits x n c else isqrtBits x n r

/-- The integer square root of a natural number. -/
def isqrt (x : Nat) : Nat := isqrtBits x (Nat.log2 x / 2 + 1) 0

/-- The number of trailing zero bits among the low n bits. -/
def ctzN (x : Nat) : Nat → Nat
  | 0 => 0
  | n + 1 => if x % 2 = 1 then 0 else 1 + ctzN (x / 2) n

/-- The number of one bits among the low n bits. -/
def popcN (x : Nat) : Nat → Nat
  | 0 => 0
  | n + 1 => x % 2 + popcN (x / 2) n

/-- The number of leading zero bits within n bits. -/
def clzN (n x : Nat) : Nat := if x % 2 ^ n = 0 then n else n - 1 - Nat.log2 (x % 2 ^ n)

end Sys2Proof
end

