-- ==== Sys2Proof/Machine/Numbers.lean ====
section
/-! DEFINITION. Number formats and arithmetic (spec/02_numbers.md): exact values, rounding and its flags, conversions, sums and
dot products, the function forms, and group quantisation. -/

namespace Sys2Proof.Arith

/-- The exception flags of R58, bits 5:0 of fflags. -/
abbrev Flags := BitVec 6

def NX : Flags := 1
def UF : Flags := 2
def OF : Flags := 4
def DZ : Flags := 8
def NV : Flags := 16
def SAT : Flags := 32

/-- The rounding modes of rmode (R56). -/
inductive RMode where
  | rne | rtz | rup | rdn | sr
deriving DecidableEq, Repr

/-- The rounding mode of an rmode code; codes 5-7 are never held (R56). -/
def RMode.ofCode : Nat → RMode
  | 1 => .rtz | 2 => .rup | 3 => .rdn | 4 => .sr | _ => .rne

/-- The layout of a float type (R48-R51): precision p, exponent bias, width and the encoding of max finite. -/
structure Fmt where
  p    : Nat
  bias : Int
  w    : Nat
  max  : Nat
  inf  : Option Nat
  nan  : Nat
deriving DecidableEq, Repr

/-- The layouts of R48 and R51; only float types are asked for. -/
def Fmt.of : ElemType → Fmt
  | .f16 => ⟨11, 15, 16, 0x7BFF, some 0x7C00, 0x7E00⟩
  | .bf16 => ⟨8, 127, 16, 0x7F7F, some 0x7F80, 0x7FC0⟩
  | .f64 => ⟨53, 1023, 64, 0x7FEFFFFFFFFFFFFF, some 0x7FF0000000000000, 0x7FF8000000000000⟩
  | .f8a => ⟨4, 7, 8, 0x7E, none, 0x7F⟩
  | .f8b => ⟨3, 15, 8, 0x7B, some 0x7C, 0x7E⟩
  | _ => ⟨24, 127, 32, 0x7F7FFFFF, some 0x7F800000, 0x7FC00000⟩

/-- An exact value (R61): a NaN marker with its signalling mark, an infinity, or (-1)^neg × m × 2^e. -/
inductive Ex where
  | nan (sig : Bool)
  | inf (neg : Bool)
  | fin (neg : Bool) (m : Nat) (e : Int)
deriving DecidableEq, Repr

/-- The exact value of an encoding in a float type (R48-R50). -/
def exactF (t : ElemType) (v : Nat) : Ex :=
  let f := Fmt.of t
  let v := v % 2 ^ f.w
  let neg := nbit v (f.w - 1)
  let mag := v % 2 ^ (f.w - 1)
  let frac := mag % 2 ^ (f.p - 1)
  let E := mag / 2 ^ (f.p - 1)
  let fin : Ex :=
    if E = 0 then .fin neg frac (2 - f.bias - f.p) else .fin neg (2 ^ (f.p - 1) + frac) ((E : Int) - f.bias + 1 - f.p)
  match f.inf with
  | none => if mag = f.nan then .nan false else fin
  | some i =>
    if mag < i then fin else if mag = i then .inf neg else .nan (!(nbit frac (f.p - 2)))

/-- The exact value of an integer. -/
def exactI (x : Int) : Ex := .fin (decide (x < 0)) x.natAbs 0

/-- The integer that an encoding of an integer type holds (R47). -/
def intOf (t : ElemType) (v : Nat) : Int :=
  if t.isSigned then sint t.bits v else ((v % 2 ^ t.bits : Nat) : Int)

/-- The exact value of an encoding of a type of codes 0-13. -/
def exact (t : ElemType) (v : Nat) : Ex := if t.isFloat then exactF t v else exactI (intOf t v)

/-- The least integer an integer type holds (R47). -/
def intMin (t : ElemType) : Int := if t.isSigned then -((2 ^ (t.bits - 1) : Nat) : Int) else 0

/-- The greatest integer an integer type holds (R47). -/
def intMax (t : ElemType) : Int := if t.isSigned then ((2 ^ (t.bits - 1) : Nat) : Int) - 1 else ((2 ^ t.bits : Nat) : Int) - 1

/-- Sat (R61): the clamped integer and its flag. -/
def sat (x lo hi : Int) : Int × Flags := if x < lo then (lo, SAT) else if hi < x then (hi, SAT) else (x, 0)

/-- A rounded result: its encoding, the flags it raises and whether it drew a random word. -/
structure RRes where
  bits  : Nat
  flags : Flags
  drew  : Bool
deriving DecidableEq, Repr

/-- A positive real, by the floor of its binary logarithm and, at each scale k, the floor of x × 2^k and whether that is
exact. -/
structure PosReal where
  lg : Int
  fl : Int → Nat × Bool

/-- n × 2^k, rounded down. -/
def shiftFloor (n : Nat) (k : Int) : Nat := if 0 ≤ k then n * 2 ^ k.toNat else n / 2 ^ (-k).toNat

/-- The positive dyadic m × 2^e as a real. -/
def posDyadic (m : Nat) (e : Int) : PosReal :=
  { lg := (Nat.log2 m : Int) + e
    fl := fun k =>
      if 0 ≤ e + k then (m * 2 ^ (e + k).toNat, true)
      else (m / 2 ^ (-(e + k)).toNat, m % 2 ^ (-(e + k)).toNat == 0) }

/-- The positive quotient n / d as a real. -/
def posRat (n d : Nat) : PosReal :=
  let k0 : Int := (Nat.log2 n : Int) - Nat.log2 d
  let below := if 0 ≤ k0 then n < d * 2 ^ k0.toNat else n * 2 ^ (-k0).toNat < d
  { lg := if below then k0 - 1 else k0
    fl := fun k =>
      let (a, b) := if 0 ≤ k then (n * 2 ^ k.toNat, d) else (n, d * 2 ^ (-k).toNat)
      (a / b, a % b == 0) }

/-- The rounding decision (R61, R63) at a kept integer part t with the discarded fraction given as floor(f × 2^34) and whether
that is exact: the amount to add to t, whether f is nonzero, and whether a word was drawn. -/
def decideRound (m : RMode) (neg : Bool) (t frac : Nat) (ex : Bool) (rnd : BitVec 32) : Nat × Bool × Bool :=
  let some' := frac != 0 || !ex
  let half := 2 ^ 33
  match m with
  | .rtz => (0, some', false)
  | .rne =>
    let up := half < frac || (frac == half && !ex) || (frac == half && ex && t % 2 == 1)
    (if up then 1 else 0, some', false)
  | .rup => (if some' && !neg then 1 else 0, some', false)
  | .rdn => (if some' && neg then 1 else 0, some', false)
  | .sr =>
    let d := if ex then min 32 (34 - ctzN frac 34) else 32
    let g := frac / 2 ^ (34 - d)
    if !some' || g == 0 then (0, some', false)
    else (if 2 ^ d ≤ g + rnd.toNat % 2 ^ d then 1 else 0, some', true)

/-- The encoding and flags of an overflow (R62). -/
def overflow (t : ElemType) (m : RMode) (f8sat neg : Bool) : Nat :=
  let f := Fmt.of t
  let s := if neg then 2 ^ (f.w - 1) else 0
  match f.inf with
  | none => s + f.max
  | some i =>
    if t = .f8b ∧ f8sat then s + f.max
    else match m with
      | .rne | .sr => s + i
      | .rtz => s + f.max
      | .rup => if neg then s + f.max else i
      | .rdn => if neg then s + i else f.max

/-- Round of R61 for a nonzero real of a sign. `rnd` is the word a draw would return. -/
def roundReal (t : ElemType) (m : RMode) (f8sat neg : Bool) (x : PosReal) (rnd : BitVec 32) : RRes :=
  let f := Fmt.of t
  let emin : Int := 1 - f.bias
  let ue : Int := max x.lg emin - f.p + 1
  let (T, ex) := x.fl (34 - ue)
  let t0 := T / 2 ^ 34
  let (up, inexact, drew) := decideRound m neg t0 (T % 2 ^ 34) ex rnd
  let mag := (ue - (emin - f.p + 1)).toNat * 2 ^ (f.p - 1) + (t0 + up)
  let nx : Flags := if inexact then NX else 0
  if f.max < mag then ⟨overflow t m f8sat neg, OF ||| NX, drew⟩
  else
    let uf : Flags := if inexact && mag < 2 ^ (f.p - 1) then UF else 0
    ⟨(if neg then 2 ^ (f.w - 1) else 0) + mag, nx ||| uf, drew⟩

/-- The canonical NaN of a type (R51). -/
def canonNaN (t : ElemType) : Nat := (Fmt.of t).nan

/-- An infinity encoded in a type; f8a gives ±448 with NV (R61). -/
def encInf (t : ElemType) (neg : Bool) : Nat × Flags :=
  let f := Fmt.of t
  let s := if neg then 2 ^ (f.w - 1) else 0
  match f.inf with
  | some i => (s + i, 0)
  | none => (s + f.max, NV)

/-- Round (R61): the encoding of an exact value in a float type. A NaN marker raises NV when it is signalling (R53). -/
def round (t : ElemType) (m : RMode) (f8sat : Bool) (x : Ex) (rnd : BitVec 32) : RRes :=
  match x with
  | .nan s => ⟨canonNaN t, if s then NV else 0, false⟩
  | .inf neg => ⟨(encInf t neg).1, (encInf t neg).2, false⟩
  | .fin neg 0 _ => ⟨if neg then 2 ^ ((Fmt.of t).w - 1) else 0, 0, false⟩
  | .fin neg (n + 1) e => roundReal t m f8sat neg (posDyadic (n + 1) e) rnd

/-- RoundRNE (R61). -/
def roundRNE (t : ElemType) (x : Ex) : RRes := round t .rne false x 0

/-- Round of a quotient n / d of a sign, d above 0. -/
def roundRat (t : ElemType) (m : RMode) (f8sat neg : Bool) (n d : Nat) (rnd : BitVec 32) : RRes :=
  if n = 0 then ⟨if neg then 2 ^ ((Fmt.of t).w - 1) else 0, 0, false⟩
  else roundReal t m f8sat neg (posRat n d) rnd

/-- A rounded integer: its value, whether it differs from the exact one, and whether it drew. -/
structure IRes where
  val     : Int
  inexact : Bool
  drew    : Bool
deriving DecidableEq, Repr

/-- RoundInt (R61) of a nonnegative real given at scale 34 and a sign. -/
def roundIntCore (m : RMode) (neg : Bool) (T : Nat) (ex : Bool) (rnd : BitVec 32) : IRes :=
  let t0 := T / 2 ^ 34
  let (up, inexact, drew) := decideRound m neg t0 (T % 2 ^ 34) ex rnd
  let y : Int := (t0 + up : Nat)
  ⟨if neg then -y else y, inexact, drew⟩

/-- RoundInt (R61) of (-1)^neg × m × 2^e. -/
def roundIntDyadic (md : RMode) (neg : Bool) (m : Nat) (e : Int) (rnd : BitVec 32) : IRes :=
  let (T, ex) := (posDyadic m e).fl 34
  roundIntCore md neg T ex rnd

/-- RoundInt (R61) of a quotient of a sign. -/
def roundIntRat (md : RMode) (neg : Bool) (n d : Nat) (rnd : BitVec 32) : IRes :=
  let (T, ex) := (posRat n d).fl 34
  roundIntCore md neg T ex rnd

/-- The exact negation of a value; NaN markers are kept. -/
def neg (x : Ex) : Ex :=
  match x with
  | .nan s => .nan s
  | .inf n => .inf (!n)
  | .fin n m e => .fin (!n) m e

/-- An exact product and the NV it raises (R69). -/
def mul (x y : Ex) : Ex × Flags :=
  match x, y with
  | .nan s, .nan s' => (.nan false, if s || s' then NV else 0)
  | .nan s, _ | _, .nan s => (.nan false, if s then NV else 0)
  | .inf a, .inf b => (.inf (xor a b), 0)
  | .inf a, .fin b m _ | .fin b m _, .inf a => if m = 0 then (.nan false, NV) else (.inf (xor a b), 0)
  | .fin a m e, .fin b n f => (.fin (xor a b) (m * n) (e + f), 0)

/-- The signed integer that m × 2^e is at a common exponent c ≤ e. -/
def atExp (neg : Bool) (m : Nat) (e c : Int) : Int :=
  let v : Int := ((m * 2 ^ (e - c).toNat : Nat) : Int)
  if neg then -v else v

/-- The sum of the finite terms of a list at a common exponent. -/
def sumFin (c : Int) : List Ex → Int
  | [] => 0
  | .fin n m e :: r => atExp n m e c + sumFin c r
  | _ :: r => sumFin c r

/-- The least exponent among the nonzero finite terms. -/
def minExp : List Ex → Option Int
  | [] => none
  | .fin _ m e :: r =>
    match minExp r with
    | some c => if m = 0 then some c else some (min c e)
    | none => if m = 0 then none else some e
  | _ :: r => minExp r

/-- Whether a term is -0. -/
def isNegZero : Ex → Bool
  | .fin true 0 _ => true
  | _ => false

/-- SumExact (R69): the exact sum of terms with the NV it raises. -/
def sumExact (l : List Ex) : Ex × Flags :=
  let sig := l.any (fun x => x == .nan true)
  let isNan := l.any (fun x => match x with | .nan _ => true | _ => false)
  let pinf := l.contains (.inf false)
  let ninf := l.contains (.inf true)
  if isNan then (.nan false, if sig then NV else 0)
  else if pinf && ninf then (.nan false, NV)
  else if pinf then (.inf false, 0)
  else if ninf then (.inf true, 0)
  else match minExp l with
    | none => (.fin (l.all isNegZero) 0 0, 0)
    | some c =>
      let s := sumFin c (l.map (fun x => match x with | .fin _ 0 _ => .fin false 0 c | y => y))
      if s = 0 then (.fin false 0 0, 0) else (.fin (decide (s < 0)) s.natAbs c, 0)

/-- A result with further flags. -/
def RRes.or (r : RRes) (f : Flags) : RRes := { r with flags := r.flags ||| f }

/-- The operands of a rounding: type, mode, F8SAT and the word a draw would return. -/
structure Env where
  m     : RMode
  f8sat : Bool
  rnd   : BitVec 32
deriving DecidableEq, Repr

/-- Round of the exact sum of terms (R205). -/
def addRound (t : ElemType) (v : Env) (l : List Ex) : RRes :=
  let (s, f) := sumExact l
  (round t v.m v.f8sat s v.rnd).or f

/-- Round of the exact product (R205). -/
def mulRound (t : ElemType) (v : Env) (x y : Ex) : RRes :=
  let (s, f) := mul x y
  (round t v.m v.f8sat s v.rnd).or f

/-- Round of ±(x × y) ± z (R205), with one rounding. -/
def fmaRound (t : ElemType) (v : Env) (x y z : Ex) (negP negC : Bool) : RRes :=
  let (p, f) := mul x y
  let (s, g) := sumExact [if negP then neg p else p, if negC then neg z else z]
  (round t v.m v.f8sat s v.rnd).or (f ||| g)

/-- The comparison of two exact values that are no NaN: `.lt`, `.eq` or `.gt`, with +0 = -0. -/
def cmpEx (x y : Ex) : Ordering :=
  match x, y with
  | .inf a, .inf b => if a == b then .eq else if a then .lt else .gt
  | .inf a, _ => if a then .lt else .gt
  | _, .inf b => if b then .gt else .lt
  | .fin a m e, .fin b n f =>
    let c := min e f
    compare (atExp a m e c) (atExp b n f c)
  | _, _ => .eq

/-- Whether a value is a NaN marker. -/
def isNaN : Ex → Bool
  | .nan _ => true
  | _ => false

/-- Whether a value is a signalling NaN marker. -/
def isSig : Ex → Bool
  | .nan s => s
  | _ => false

/-- Float max and min (R74) on encodings of a type: the result encoding and its flags. -/
def fmaxmin (t : ElemType) (isMax : Bool) (a b : Nat) : Nat × Flags :=
  let x := exactF t a
  let y := exactF t b
  if isNaN x || isNaN y then (canonNaN t, if isSig x || isSig y then NV else 0)
  else
    let sgn (v : Nat) := nbit v ((Fmt.of t).w - 1)
    match cmpEx x y with
    | .lt => (if isMax then b else a, 0)
    | .gt => (if isMax then a else b, 0)
    | .eq => (if (sgn a == isMax) then b else a, 0)

/-- The float conditions of cmp by cc code (R210): the bit and its flags. -/
def fcmp (t : ElemType) (cc : Nat) (a b : Nat) : Bool × Flags :=
  let x := exactF t a
  let y := exactF t b
  let sig := if isSig x || isSig y then NV else 0
  if isNaN x || isNaN y then
    match cc with
    | 0 => (false, sig)
    | 1 => (true, sig)
    | 6 => (true, sig)
    | _ => (false, NV)
  else
    let o := cmpEx x y
    match cc with
    | 0 => (o == .eq, 0)
    | 1 => (o != .eq, 0)
    | 2 => (o == .lt, 0)
    | 3 => (o != .gt, 0)
    | 4 => (o == .gt, 0)
    | 5 => (o != .lt, 0)
    | _ => (false, 0)

/-- rcp (R207). -/
def rcp (t : ElemType) (v : Env) (x : Ex) : RRes :=
  match x with
  | .nan s => ⟨canonNaN t, if s then NV else 0, false⟩
  | .inf n => ⟨if n then 2 ^ ((Fmt.of t).w - 1) else 0, 0, false⟩
  | .fin n 0 _ => ⟨(encInf t n).1, DZ, false⟩
  | .fin n (k + 1) e =>
    let (a, b) := if 0 ≤ e then (1, (k + 1) * 2 ^ e.toNat) else (2 ^ (-e).toNat, k + 1)
    roundRat t v.m v.f8sat n a b v.rnd

/-- The positive square root of n / d as a real. -/
def posSqrt (n d : Nat) : PosReal :=
  { lg := (posRat n d).lg / 2
    fl := fun k =>
      let (a, b) := if 0 ≤ k then (n * 2 ^ (2 * k).toNat, d) else (n, d * 2 ^ (-(2 * k)).toNat)
      let q := a / b
      let r := isqrt q
      (r, a % b == 0 && r * r == q) }

/-- The numerator and denominator of m × 2^e. -/
def ratOf (m : Nat) (e : Int) : Nat × Nat := if 0 ≤ e then (m * 2 ^ e.toNat, 1) else (m, 2 ^ (-e).toNat)

/-- sqrt (R207). -/
def sqrt (t : ElemType) (v : Env) (x : Ex) : RRes :=
  match x with
  | .nan s => ⟨canonNaN t, if s then NV else 0, false⟩
  | .inf n => if n then ⟨canonNaN t, NV, false⟩ else ⟨(encInf t false).1, 0, false⟩
  | .fin n 0 _ => ⟨if n then 2 ^ ((Fmt.of t).w - 1) else 0, 0, false⟩
  | .fin true (_ + 1) _ => ⟨canonNaN t, NV, false⟩
  | .fin false (k + 1) e => roundReal t v.m v.f8sat false (posSqrt (ratOf (k + 1) e).1 (ratOf (k + 1) e).2) v.rnd

/-- rsqrt (R207). -/
def rsqrt (t : ElemType) (v : Env) (x : Ex) : RRes :=
  match x with
  | .nan s => ⟨canonNaN t, if s then NV else 0, false⟩
  | .inf n => if n then ⟨canonNaN t, NV, false⟩ else ⟨0, 0, false⟩
  | .fin n 0 _ => ⟨(encInf t n).1, DZ, false⟩
  | .fin true (_ + 1) _ => ⟨canonNaN t, NV, false⟩
  | .fin false (k + 1) e => roundReal t v.m v.f8sat false (posSqrt (ratOf (k + 1) e).2 (ratOf (k + 1) e).1) v.rnd

/-- Lower and upper bounds of ln 2 × 2^N: 2 × Σ 1 / ((2i+1) 3^(2i+1)) over n terms, each rounded down. -/
def ln2Terms (N : Nat) : Nat → Nat → Nat → Nat
  | 0, _, _ => 0
  | n + 1, i, pw => 2 ^ (N + 1) / ((2 * i + 1) * pw) + ln2Terms N n (i + 1) (9 * pw)

/-- Terms of the series of e^y for a fixed-point y of N bits, each from the last and rounded down. -/
def expTerms (N y : Nat) : Nat → Nat → Nat → Nat
  | 0, _, term => term
  | n + 1, i, term => term + expTerms N y n (i + 1) (term * y / 2 ^ N / (i + 1))

/-- Bounds of 2^(rn / 2^rj) × 2^N, for rn below 2^rj: the series with its rounding and truncation errors added above. -/
def exp2Bounds (N rn rj : Nat) : Nat × Nat :=
  let l := ln2Terms N (N / 3 + 4) 0 3
  let y := l * rn / 2 ^ rj
  let s := expTerms N y (N / 2 + 8) 0 (2 ^ N)
  (s, s + 16 * N + 64)

/-- floor(2^(i + rn / 2^rj) × 2^k) by the first precision of a list whose bounds agree. -/
def exp2Floor (i k : Int) (rn rj : Nat) : List Nat → Nat
  | [] => 0
  | N :: r =>
    let (lo, hi) := exp2Bounds N rn rj
    let a := shiftFloor lo (i + k - N)
    let b := shiftFloor hi (i + k - N)
    if a = b ∨ r = [] then a else exp2Floor i k rn rj r

/-- The working precisions, rising, of the function forms. -/
def precisions : List Nat := [160, 320, 640, 1400, 2800]

/-- exp2 (R207). -/
def exp2 (t : ElemType) (v : Env) (x : Ex) : RRes :=
  let one : RRes := round t v.m v.f8sat (.fin false 1 0) v.rnd
  match x with
  | .nan s => ⟨canonNaN t, if s then NV else 0, false⟩
  | .inf n => if n then ⟨0, 0, false⟩ else ⟨(encInf t false).1, 0, false⟩
  | .fin _ 0 _ => one
  | .fin n (k + 1) e =>
    let clamp (i : Int) : Int := max (-3000) (min 3000 i)
    if 0 ≤ e then
      let a : Int := if e < 64 then (((k + 1) * 2 ^ e.toNat : Nat) : Int) else 3000
      roundReal t v.m v.f8sat false (posDyadic 1 (clamp (if n then -a else a))) v.rnd
    else
      let rj := (-e).toNat
      let s : Int := if n then -((k + 1 : Nat) : Int) else ((k + 1 : Nat) : Int)
      let i := clamp (s / (2 ^ rj : Nat))
      let rn := (s % (2 ^ rj : Nat)).toNat
      if rn = 0 then roundReal t v.m v.f8sat false (posDyadic 1 i) v.rnd
      else roundReal t v.m v.f8sat false
        { lg := i, fl := fun q => (exp2Floor i q rn rj precisions, false) } v.rnd

/-- The first n binary digits of log2 of a number in [1, 2), held between lo and hi with N fraction bits: the digits so far, or
none when the bounds part. -/
def log2Digits (N : Nat) : Nat → Nat → Nat → Nat → Option Nat
  | 0, _, _, acc => some acc
  | n + 1, lo, hi, acc =>
    let l := lo * lo / 2 ^ N
    let h := hi * hi / 2 ^ N + 1
    let two := 2 ^ (N + 1)
    if two ≤ l then log2Digits N n (l / 2) (h / 2 + 1) (2 * acc + 1)
    else if h < two then log2Digits N n l h (2 * acc)
    else none

/-- floor(log2(n / d) × 2^k) for n / d above 1 and no power of two, by the first precision whose bounds agree. -/
def log2Floor (n d k : Nat) : List Nat → Nat
  | [] => 0
  | N :: r =>
    let i := ((posRat n d).lg).toNat
    let x := n * 2 ^ N / (d * 2 ^ i)
    match log2Digits N k x (x + 1) 0 with
    | some f => i * 2 ^ k + f
    | none => log2Floor n d k r

/-- log2 (R207). -/
def log2 (t : ElemType) (v : Env) (x : Ex) : RRes :=
  match x with
  | .nan s => ⟨canonNaN t, if s then NV else 0, false⟩
  | .inf n => if n then ⟨canonNaN t, NV, false⟩ else ⟨(encInf t false).1, 0, false⟩
  | .fin _ 0 _ => ⟨(encInf t true).1, DZ, false⟩
  | .fin true (_ + 1) _ => ⟨canonNaN t, NV, false⟩
  | .fin false (k + 1) e =>
    let tz := ctzN (k + 1) 64
    if (k + 1) / 2 ^ tz = 1 then round t v.m v.f8sat (exactI (e + tz)) v.rnd
    else
      let (n, d) := ratOf (k + 1) e
      let isNeg := decide (n < d)
      let (n, d) := if n < d then (d, n) else (n, d)
      let top := log2Floor n d 60 precisions
      let lg : Int := (Nat.log2 top : Int) - 60
      roundReal t v.m v.f8sat isNeg { lg := lg, fl := fun q => (log2Floor n d q.toNat precisions, false) } v.rnd

/-- rnd (R208): the integral value in the same type, carrying the sign of x. -/
def rndInt (t : ElemType) (v : Env) (x : Nat) : RRes :=
  match exactF t x with
  | .nan s => ⟨canonNaN t, if s then NV else 0, false⟩
  | .inf n => ⟨(encInf t n).1, 0, false⟩
  | .fin n 0 _ => ⟨if n then 2 ^ ((Fmt.of t).w - 1) else 0, 0, false⟩
  | .fin n (k + 1) e =>
    let r := roundIntDyadic v.m n (k + 1) e v.rnd
    let enc := round t .rne false (.fin n r.val.natAbs 0) 0
    ⟨enc.bits, (if r.inexact then NX else 0) ||| enc.flags, r.drew⟩

/-- A conversion of a float value to an integer type (R65). -/
def toInt (t : ElemType) (v : Env) (x : Ex) : RRes :=
  let enc (y : Int) : Nat := wrapN t.bits y
  match x with
  | .nan _ => ⟨0, NV, false⟩
  | .inf n => ⟨enc (if n then intMin t else intMax t), NV, false⟩
  | .fin n m e =>
    let r := if m = 0 then ⟨0, false, false⟩ else roundIntDyadic v.m n m e v.rnd
    if intMax t < r.val then ⟨enc (intMax t), NV, r.drew⟩
    else if r.val < intMin t then ⟨enc (intMin t), NV, r.drew⟩
    else ⟨enc r.val, if r.inexact then NX else 0, r.drew⟩

/-- A conversion between types of codes 0-13 (R64-R66, R211): an encoding to an encoding. -/
def convert (src dst : ElemType) (saturate : Bool) (v : Env) (x : Nat) : RRes :=
  if dst.isFloat then
    let y := exact src x
    if src = dst ∧ !isNaN y then ⟨x % 2 ^ src.bits, 0, false⟩ else round dst v.m v.f8sat y v.rnd
  else if src.isFloat then toInt dst v (exactF src x)
  else
    let i := intOf src x
    if saturate then
      let (y, f) := sat i (intMin dst) (intMax dst)
      ⟨wrapN dst.bits y, f, false⟩
    else ⟨wrapN dst.bits i, 0, false⟩

/-- Groups of a list, n elements each, the last one partial (R68); `fuel` bounds the groups. -/
def groups {α : Type} (n : Nat) : Nat → List α → List (List α)
  | 0, _ => []
  | fuel + 1, l => if l.isEmpty then [] else l.take n :: groups n fuel (l.drop n)

/-- DotAcc (R68) over pairs of exact operands: the f32 accumulator and the flags. -/
def dotAcc (acc : Nat) (ab : List (Ex × Ex)) : Nat × Flags :=
  (groups 16 (ab.length + 1) ab).foldl
    (fun (a, fl) g =>
      let ps := g.map (fun (x, y) => mul x y)
      let (s, f) := sumExact (exactF .f32 a :: ps.map (·.1))
      let r := roundRNE .f32 s
      (r.bits, fl ||| (ps.foldl (fun z p => z ||| p.2) 0) ||| f ||| r.flags))
    (acc, 0)

/-- The integer dot product (R71) over pairs of integers: the s32 accumulator and the flags. -/
def dotInt (saturate : Bool) (acc : Nat) (ab : List (Int × Int)) : Nat × Flags :=
  (groups 16 (ab.length + 1) ab).foldl
    (fun (a, fl) g =>
      let s := sint 32 a + (g.map (fun (x, y) => x * y)).foldl (· + ·) 0
      if saturate then
        let (y, f) := sat s (-(2 ^ 31)) (2 ^ 31 - 1)
        (wrapN 32 y, fl ||| f)
      else (wrapN 32 s, fl))
    (acc, 0)

/-- One quantisation group of a GQ dot product (R70): the scale's encoding, the zero point, and pairs of an exact a and a
code. -/
def dotGroup (acc : Nat) (s z : Nat) (aw : List (Ex × Nat)) : Nat × Flags :=
  let ps := aw.map (fun (a, w) => mul a (exactI ((w : Int) - z)))
  let (p, f) := sumExact (ps.map (·.1))
  let (sp, f') := mul (exactF .f16 s) p
  let (t, f'') := sumExact [exactF .f32 acc, sp]
  let r := roundRNE .f32 t
  (r.bits, ps.foldl (fun z p => z ||| p.2) 0 ||| f ||| f' ||| f'' ||| r.flags)

/-- The greatest (or least) of the finite values of a list against zero, as in GQParams (R67). -/
def extreme (isMax : Bool) (l : List Ex) : Ex :=
  l.foldl
    (fun b x => match x with
      | .fin _ _ _ => if (cmpEx x b == .gt) == isMax && cmpEx x b != .eq then x else b
      | _ => b)
    (.fin false 0 0)

/-- GQParams (R67): the scale and zero point of one group, and the flags. -/
def gqParams (w : Nat) (xs : List Ex) : Nat × Nat × Flags :=
  let lo := extreme false xs
  let hi := extreme true xs
  match (sumExact [hi, neg lo]).1, lo with
  | .fin _ (m + 1) e, .fin _ lm le =>
    let (n, d) := ratOf (m + 1) e
    let r := roundRat .f16 .rne false false n (d * (2 ^ w - 1)) 0
    let s := if r.bits = 0x7C00 then 0x7BFF else r.bits
    let s := if s = 0 then 1 else s
    match exactF .f16 s with
    | .fin _ sm se =>
      let (a, b) := ratOf lm le
      let (c, dd) := ratOf sm se
      let z := (roundIntRat .rne false (a * dd) (b * c) 0).val
      let (z', zf) := if lm = 0 then (0, 0) else sat z 0 (2 ^ w - 1)
      (s, z'.toNat, r.flags ||| zf)
    | _ => (s, 0, r.flags)
  | _, _ => (0, 0, 0)

/-- QuantGQ (R67): one element's code and its flags, and whether it drew. -/
def quantGQ (x : Ex) (s z w : Nat) (v : Env) : Nat × Flags × Bool :=
  match x with
  | .nan _ => (z, NV, false)
  | .inf n => if exactF .f16 s matches .fin _ 0 _ then (z, 0, false) else (if n then 0 else 2 ^ w - 1, SAT, false)
  | .fin n m e =>
    match exactF .f16 s with
    | .fin _ (k + 1) se =>
      let (a, b) := ratOf m e
      let (c, d) := ratOf (k + 1) se
      let r := if m = 0 then ⟨0, false, false⟩ else roundIntRat v.m n (a * d) (b * c) v.rnd
      let (y, f) := sat (r.val + z) 0 (2 ^ w - 1)
      (y.toNat, f ||| (if r.inexact then NX else 0), r.drew)
    | _ => (z, 0, false)

/-- DequantGQ (R67). -/
def dequantGQ (q s z : Nat) (t : ElemType) (v : Env) : RRes :=
  mulRound t v (exactF .f16 s) (exactI ((q : Int) - z))

/-- A constant f32 encoding's exact value. -/
def f32 (v : Nat) : Ex := exactF .f32 v

/-- f32 addition, RNE (R245). -/
def add32 (a b : Nat) : Nat × Flags :=
  let r := addRound .f32 ⟨.rne, false, 0⟩ [f32 a, f32 b]
  (r.bits, r.flags)

/-- f32 multiplication, RNE (R245). -/
def mul32 (a b : Nat) : Nat × Flags :=
  let r := mulRound .f32 ⟨.rne, false, 0⟩ (f32 a) (f32 b)
  (r.bits, r.flags)

/-- A step of the gelu and sigmoid programs: a result with the flags so far. -/
def acc2 (x : Nat × Flags) (f : Nat → Nat × Flags) : Nat × Flags :=
  let r := f x.1
  (r.1, x.2 ||| r.2)

/-- Gelu (R246). -/
def gelu (x : Nat) : Nat × Flags :=
  let K1 := 0x3F4C4231; let K3 := 0xBDE91FB3; let K5 := 0x3C3295EA; let K7 := 0xBA08509C
  let e := f32 x
  if isNaN e then (canonNaN .f32, if isSig e then NV else 0)
  else if cmpEx e (exactI 3) != .lt then (x, 0)
  else if cmpEx e (exactI (-3)) != .gt then (0x80000000, 0)
  else
    let u := mul32 x x
    let p := acc2 (acc2 (K7, u.2) (mul32 · u.1)) (add32 · K5)
    let p := acc2 (acc2 p (mul32 · u.1)) (add32 · K3)
    let p := acc2 (acc2 p (mul32 · u.1)) (add32 · K1)
    let t := acc2 p (fun q => mul32 x q)
    let t := acc2 t (fun q => fmaxmin .f32 true q 0xBF800000)
    let t := acc2 t (fun q => fmaxmin .f32 false q 0x3F800000)
    let h := acc2 (acc2 t (fun q => mul32 0x3F000000 q)) (fun q => add32 0x3F000000 q)
    acc2 h (fun q => mul32 x q)

/-- Sigmoid (R246). -/
def sigmoid (x : Nat) : Nat × Flags :=
  let v : Env := ⟨.rne, false, 0⟩
  let e := f32 x
  if isNaN e then (canonNaN .f32, if isSig e then NV else 0)
  else
    let neg32 (q : Nat) : Nat := if nbit q 31 then q - 2 ^ 31 else q + 2 ^ 31
    let p := mul32 (neg32 x) 0x3FB8AA3B
    let r := exp2 .f32 v (f32 p.1)
    let s := acc2 (r.bits, p.2 ||| r.flags) (fun q => add32 0x3F800000 q)
    let w := rcp .f32 v (f32 s.1)
    (w.bits, s.2 ||| w.flags)

end Sys2Proof.Arith
end

