-- ==== Sys2Proof/Machine/State.lean ====
section
/-! DEFINITION. The state of the part as plain data: all that INVENTORY.md lists under State, and State.reset. Agents are kept
in association lists by number; a missing agent is in its reset state. -/

namespace Sys2Proof.Machine

open Host

/-- The value of a port, latch or landing entry: a word, 64 lanes, or a tile's class and index (R123). -/
inductive Val where
  | w (x : Word)
  | v (x : Lanes)
  | tile (cls idx : Nat)
deriving DecidableEq, Repr, Inhabited

/-- A result in flight (R127): its unit and latch, its due clock, the value, the flags of R59, a guard-bit write (R169), a
poison mark (R411), and whether its lanes are those of a pair (class P). -/
structure Flight where
  unit   : Nat
  h      : Bool
  due    : Nat
  val    : Option Val
  flags  : BitVec 6
  k      : Option (Nat × Bool)
  poison : Bool
  pair   : Bool
deriving DecidableEq, Repr, Inhabited

/-- A piece of a load: its physical address and size, its page's ATTR (18 R434), and its bytes with their poison mark once it has been
performed (R88, R97). -/
structure Piece where
  pa   : Nat
  n    : Nat
  attr : Nat
  got  : Option (List Byte × Bool)
deriving DecidableEq, Repr, Inhabited

/-- A load a landing entry waits for (R128): its due clock, the form's port and type, the tile it fills, its pieces, the active
lanes, the virtual address, its place in the strand's program order (R97), and what arrived with its poison mark. Port 0 marks
the odd entry of a pair, which its even entry fills. -/
structure LandPend where
  due   : Nat
  form  : Nat
  ty    : Nat
  tile  : Option (Nat × Nat)
  pas   : List Piece
  lanes : Word
  addr  : Word
  seq   : Nat
  got   : Option (Val × Bool)
deriving DecidableEq, Repr, Inhabited

/-- A landing entry: its class code (0 S, 2 V, 3 P, 4 the odd entry of a pair), value, poison mark, the address of its load, and
the load it waits for (R121, R128, R263, R267). -/
structure Land where
  cls    : Nat
  val    : Val
  poison : Bool
  addr   : Word
  pend   : Option LandPend
deriving DecidableEq, Repr, Inhabited

/-- The state that task and system mode bank (R397): b, LC and LE, latches by unit × 2 + h, shadow ports by unit × 16 + port,
results in flight in trigger order, the clock at which sm is free, landing entries, poisoned latches. -/
structure Bank where
  b      : Tab Word
  lc     : Tab Word
  le     : Tab Word
  latch  : Tab Val
  shadow : Tab Val
  flight : List Flight
  smFree : Nat
  land   : Tab Land
  bad    : List Nat
deriving DecidableEq, Repr, Inhabited

/-- The control registers a task holds (R160). -/
structure Ctl where
  fmt     : Word
  rmode   : Word
  mode    : Word
  fflags  : Word
  taskid  : Word
  seed    : Word
  key     : Word
  rsp     : Word
  rgm     : Word
  prio    : Word
  dbmode  : Word
  perfsel : Word
  otag    : Word
  tvec    : Word
  xst     : Word
  xpc     : Word
  xinfo   : Word
  xscr    : Word
deriving DecidableEq, Repr, Inhabited

/-- The five states of a token (R132). -/
inductive TokState where
  | idle | pending | complete | error | faulted
deriving DecidableEq, Repr, Inhabited

/-- A token: its state, the unit of its last operation, its status word, record handle, coordinates (R132, R229, R290), and
whether the strand has observed its completion (R98). -/
structure Tok where
  st     : TokState
  unit   : Nat
  status : Word
  handle : Word
  coord  : List Nat
  seen   : Bool
deriving DecidableEq, Repr, Inhabited

/-- One lane's generator (R75). -/
structure Gen where
  fs   : Word
  eco  : Word
  tag  : Nat
  step : Nat
deriving DecidableEq, Repr, Inhabited

/-- A codebook slot (R252): eight table entries and the tag. -/
structure Codebook where
  table : List Nat
  tag   : Nat
deriving DecidableEq, Repr, Inhabited

/-- A view table entry (R324): entries 0-15 are declarations, 16-31 copies. -/
structure View where
  loc   : Word
  len   : Nat
  op    : Nat
  ty    : Nat
  st    : Nat
  mview : Nat
  melem : Nat
deriving DecidableEq, Repr, Inhabited

/-- What a strand whose block has ended waits for: its head condition (R35), or what stops it. -/
inductive Head where
  | ready
  | tokens (mask : Nat)
  | response
  | fence
  | qwait (q count : Nat)
  | qspace (q count : Nat)
  | barrier (level : Nat) (id phase : Nat)
  | join
  | finish
  | residual
  | baton
  | rerun
  | suspended
deriving DecidableEq, Repr, Inhabited

/-- Where a task stands between launch and end (R27, R409, R42): ended has left its strand, retired has been counted out. -/
inductive Stage where
  | waiting | resident | preempted | ended | retired
deriving DecidableEq, Repr, Inhabited

/-- What a pending store is when it is more than one (R271, R274, R276, R279): a release store, the release of a sync object's owner, a barrier
arrival of a group by the barrier's key and phase, or a trigger of dependants. Each is performed after what comes before it (R97 item 3). -/
inductive Rel where
  | none
  | store
  | unlock
  | arrive (group key phase : Nat)
  | trig
deriving DecidableEq, Repr, Inhabited

/-- A store issued and not yet performed (R265, R97, R193): its physical address and bytes, which lie in one sector unless they
are pushed on a queue (R88), whether caches take it (0 as its page's ATTR and its ALLOC say, 1 no L1, 2 performed at the home), its
place in the strand's program order, the clock by which an ls store is performed, the refusals and reserved number of a push
(R94), and whether it is a release. -/
structure Store where
  pa    : Nat
  bytes : List Byte
  attr  : Nat
  seq   : Nat
  due   : Option Nat
  tries : Nat
  num   : Option Nat
  rel   : Rel
deriving DecidableEq, Repr, Inhabited

/-- A requesting form's awaited response (R269, R303): the form's port, its slot, the object's physical address, what was sent
with it (0 its stage: 0 sent, 1 refused, 2 kept at the site; 1, 2 its refusals and reserved number of R94, plus 1; 3 the
fault that the response carries, class × 2^40 + code with its AUX word; 4 the virtual address; then its operands), and the value once it
returns. -/
structure Await where
  port  : Nat
  slot  : Nat
  addr  : Nat
  args  : List Nat
  value : Option Word
deriving DecidableEq, Repr, Inhabited

/-- The bundle a strand is executing: its word, units triggered (R120), the branch target set or the b register that br.go and
br.call read at its end (R181), what ct.wrc and an.param write at its end, the loop that br.loop starts
(R182), whether a return, an end (by its slot, and its status + 16 × its detail) or a walk follows, and whether the clock is
held at its end (R405), the top of the residual stack that its slots have left (R302), and how much of a push still under way they
have placed (R364). -/
structure Cur where
  word    : Option (BitVec 256)
  used    : List Nat
  target  : Option Word
  goB     : Option Nat
  loop    : Option (Nat × Word × Word)
  still   : Bool
  ends    : List (Nat × Word)
  ret     : Bool
  fin     : Option (Nat × Nat)
  yield   : Bool
  rev     : Option Word
  top     : Option Word
  pushed  : Nat
deriving DecidableEq, Repr, Inhabited

/-- An open differentiable block (R345-R347): its descriptor's fields, and for each code input written in the body so far
whether its last write was a constant of R487 (unit × 16 + port; the anchor parameter words from 1024). -/
structure Block where
  desc   : Word
  entry  : Word
  nb     : Nat
  bid    : Nat
  gmask  : Nat
  recomp : Bool
  prov   : Tab Bool
deriving DecidableEq, Repr, Inhabited

/-- The records of a drain that are held back until it ends (R362, R365): its slot, body bundle, code records, and the records
of its words once it has ended. -/
structure Drain where
  slot   : Nat
  bundle : Nat
  codes  : List Word
  done   : Option (List (Nat × List Byte))
deriving DecidableEq, Repr, Inhabited

/-- A reverse walk (R367-R371): the descriptor's address, its position, hidden gradients by port and by trigger (R351), the bytes
of the descriptor and of the frame's payload, the input records that it has popped and a replay still takes, the refusals
and number of a relay's push (R94), the address of the bundle after it, and what a replay changes and the walk gives back
(R369). -/
structure Walk where
  desc    : Word
  phase   : Nat
  bundle  : Nat
  slot    : Nat
  replay  : Bool
  grads   : Tab Lanes
  dbytes  : List Byte
  frame   : List Byte
  imports : List (List Byte)
  tries   : Nat
  num     : Option Nat
  next    : Word
  bank    : Bank
  g       : Tab Word
  m       : Tab Word
  k       : Tab Bool
  gens    : List Gen
  ctl     : Ctl
  aparam  : Tab Word
  clock   : Nat
deriving DecidableEq, Repr, Inhabited

/-- The suspended fault of a task: its class, code and detail (R408), and whether a merge raised it (R328). -/
structure Susp where
  cls   : Nat
  code  : Nat
  info  : Word
  merge : Bool
deriving DecidableEq, Repr, Inhabited

/-- A sector that an ordered task has read or written, with the buffered bytes of a write (R332, R333). -/
structure OrdSector where
  sector : Nat
  read   : Bool
  wrote  : Bool
  bytes  : List (Nat × Byte)
deriving DecidableEq, Repr, Inhabited

/-- What a launch record or a spawn sets for a task before it starts (17 R419, R421; 09 R292). -/
structure Setup where
  entry  : Word
  arg    : Word
  tvec   : Word
  seed   : Word
  key    : Word
  mode   : Word
  rgm    : Nat
  bt     : Nat
  ba     : Nat
  bd     : Nat
  ranges : List (Nat × Nat)
  helper : Tab Word
  resid  : List Word
  pre    : Tab Word
deriving DecidableEq, Repr, Inhabited

/-- A stream descriptor of a helper (R311). -/
structure Stream where
  base  : Word
  pitch : Word
  shape : Word
  cur   : Word
deriving DecidableEq, Repr, Inhabited

/-- A helper core (spec/10_helper_cores.md): its state (0 stopped, 1 running, 2 stalled, 3 halted, 4 stopping because its task ends, R306),
registers, private store, descriptors, outstanding sectors (queue, address, stream × 2^48 + CUR, and the form's address), stores still to be
performed (R316; the seq of each is the number of outstanding sectors that come before it, and 4 is added to its attr where its data is poisoned),
hints, the task and status word it serves, and the sectors that an hx.sld still at work has issued (R313). -/
structure Helper where
  st    : Nat
  task  : Nat
  x     : Tab Word
  pc    : Word
  store : List Cell
  desc  : Tab Stream
  out   : List (Nat × Nat × Nat × Nat)
  wr    : List Store
  hint  : Tab Word
  stat  : Nat
  moved : Nat
deriving DecidableEq, Repr, Inhabited

/-- A task: its context (R121, R410) and its place in the work model. Its own sibling set is sibset, its set among its parent's
children inset (R325); saved lists the storage that a scan-out has written to its save areas (R412); rslot is its residual slot
plus 1 (R422), since the order of its admission (R427), redo marks a serial re-execution (R343), hsave holds its
helpers while another task claims them (R317), and tagged says that its otag is assigned (R486). nseq numbers its ST accesses in
program order (R97), stored says that it has stored (R296), entering that its handler's first bundle is still to be fetched (R406),
hwalk is the walk that a handler interrupts (R370), and notBefore the core cycle before which its strand issues nothing (R403). -/
structure Task where
  stage   : Stage
  group   : Nat
  parent  : Option Nat
  depth   : Nat
  idx     : Nat
  coord   : List Nat
  core    : Nat
  strand  : Nat
  limit   : Nat
  near    : Nat
  bprio   : Nat
  setup   : Setup
  started : Bool
  tagged  : Bool
  g       : Tab Word
  v       : Tab Lanes
  m       : Tab Word
  k       : Tab Bool
  bank    : Bank
  held    : Bank
  ctl     : Ctl
  fmtPend : List (Nat × Word)
  toks    : Tab Tok
  gens    : List Gen
  aparam  : Tab Word
  books   : Tab Codebook
  views   : Tab View
  clock   : Nat
  hclock  : Nat
  sys     : Bool
  pc      : Word
  slot    : Nat
  cur     : Cur
  hcur    : Cur
  hpc     : Word
  head    : Head
  await   : Option Await
  hawait  : Option Await
  susp    : Option Susp
  copyTr  : List Nat
  stores  : List Store
  tmap    : Tab Nat
  nkids   : Nat
  kids    : List Nat
  sibset  : Nat
  inset   : Nat
  status  : Nat
  detail  : Word
  trigged : Bool
  stamp   : Nat
  ordered : List OrdSector
  commit  : Nat
  after   : Nat
  digest  : Word
  digest1 : Word
  walk    : Option Walk
  block   : Option Block
  drain   : Option Drain
  chunks  : Tab Nat
  image   : Nat
  tsave   : Nat
  lsave   : Nat
  saved   : List Nat
  rslot   : Nat
  since   : Nat
  redo    : Nat
  hsave   : Tab Helper
  nseq    : Nat
  stored  : Bool
  entering : Bool
  hwalk   : Option Walk
  notBefore : Nat
deriving DecidableEq, Repr, Inhabited

/-- An operation of a token engine (R228, R288): its task and token, the form's port and sub-field, the trigger value, the shadow
ports copied at the trigger, the arithmetic settings, its progress, its error and flags, the record it read, the residual
records it fills (R362), the numbered registers of its form's own progress, what a drain's words record (R259), the bytes that it has
computed and is still to commit, by physical address (R230), and the B operand that the broadcast bus brought it (R240). -/
structure EngOp where
  task   : Nat
  tok    : Nat
  unit   : Nat
  form   : Nat
  sub    : Nat
  trig   : Word
  ports  : Tab Val
  anports : Tab Val
  aparam : Tab Word
  fmt    : Nat
  rmode  : Nat
  key    : Word
  coord  : List Nat
  done   : Nat
  run    : Bool
  err    : Nat
  detail : Nat
  flags  : BitVec 6
  record : List Byte
  fault  : Option (Nat × Nat)
  cancel : Bool
  recs   : List Nat
  drains : Bool
  regs   : Tab Nat
  marks  : List (Nat × List Byte)
  out    : List (Nat × List Byte)
  bus    : List Byte
deriving DecidableEq, Repr, Inhabited

/-- A queue of a core (R277): its base, entry size and count exponents once configured, HEAD and TAIL. -/
structure Queue where
  cfg  : Option (Nat × Nat × Nat)
  head : BitVec 32
  tail : BitVec 32
deriving DecidableEq, Repr, Inhabited

/-- The row an anchor operation is executing (R243): the row, X, T, M, LCNT, the next word, words executed, pending writes, and
the words of the row that have recorded a residual. -/
structure ARow where
  row   : Nat
  x     : List Nat
  ty    : Nat
  m     : Nat
  lcnt  : Nat
  word  : Nat
  count : Nat
  pend  : List (Nat × List Byte)
  recd  : Nat
deriving DecidableEq, Repr, Inhabited

/-- A freeze of a core (R129): what for (0 landing, 1 fetch, 2 translation walk, 3 a residual chunk; 4 a reverse walk's own wait for
a chunk, R364), the entry, address or chunk, and the cycles counted. -/
structure Freeze where
  kind  : Nat
  arg   : Nat
  count : Nat
deriving DecidableEq, Repr, Inhabited

/-- A core's trace unit (R484, R485): the ring of 16-byte records, the write index, the trigger's settings, and whether it has
matched, how many records remain, and whether it is frozen. -/
structure Trace where
  ring   : Tab (List Byte)
  idx    : Nat
  ty     : Nat
  base   : Nat
  len    : Nat
  ttag   : Nat
  post   : Nat
  en     : Bool
  hit    : Bool
  left   : Nat
  frozen : Bool
deriving DecidableEq, Repr, Inhabited

/-- A cached translation (R439): its address space, the first virtual address and size exponent of its page, the leaf's
physical address and the leaf as it was cached. -/
structure Tlb where
  asid : Nat
  base : Nat
  lg   : Nat
  leaf : Nat
  pte  : Nat
deriving DecidableEq, Repr, Inhabited

/-- A core. l1 holds the lines of its L1 with the mask of the sectors held, and 4 added once it has written the line (R3, R450). -/
structure Core where
  res     : Tab Nat
  queues  : Tab Queue
  tags    : Tab Nat
  owner   : Tab Nat
  claims  : Tab Nat
  prog    : Tab Nat
  row     : Option ARow
  mxq     : List EngOp
  anq     : List EngOp
  xfq     : List EngOp
  bgroup  : Option Nat
  ret     : Helper
  set     : Helper
  issuing : Option Nat
  gap     : Nat
  last    : Tab Nat
  freeze  : Option Freeze
  fetched : Option Nat
  watch   : Nat
  cycles  : Nat
  issued  : Nat
  frozen  : Nat
  switches : Nat
  refused : Nat
  tlb     : List Tlb
  trace   : Trace
  power   : Nat
  l1      : Tab Nat
deriving DecidableEq, Repr, Inhabited

/-- A cluster's copy engine operations and broadcast joins (R240, R288). -/
structure Cluster where
  cpq    : List EngOp
  joins  : List (Nat × Nat)
deriving DecidableEq, Repr, Inhabited

/-- A home directory entry (19 R446): state, sharers, owner, the requester served, the waiting requests. -/
structure Home where
  st   : Nat
  shr  : Nat
  own  : Nat
  who  : Nat
  acks : Nat
  wait : List (Nat × Nat)
deriving DecidableEq, Repr, Inhabited

/-- A die-level line entry (R450): state, the cores or clusters holding copies, one-use mark, and the waiting access. -/
structure DieLine where
  st   : Nat
  vec  : Nat
  once : Bool
  want : Nat
deriving DecidableEq, Repr, Inhabited

/-- A region table entry (15 R389, 19 R453): degree, pin, replica set in order of joining, counters (the remote reads with die d's
as the digit d of base 2^32), and the order of its allocation. -/
structure Region where
  deg  : Nat
  pin  : Bool
  set  : List Nat
  rrd  : Nat
  wrt  : Nat
  col  : Nat
  born : Nat
deriving DecidableEq, Repr, Inhabited

/-- A coherence message in flight (19 R448-R450): its kind, sender or requester, receiver, line, and grant or detail. -/
structure CohMsg where
  kind : Nat
  src  : Nat
  dst  : Nat
  line : Nat
  arg  : Nat
deriving DecidableEq, Repr, Inhabited

/-- A Handler endpoint (18 R444). -/
structure Endpoint where
  inTail  : Nat
  outHead : Nat
  inHead  : Nat
  outTail : Nat
  ring    : Word
  oring   : Word
  inSeq   : Nat
  outSeq  : Nat
  bad     : Nat
  stopped : Bool
  hold    : List (List Byte)
deriving DecidableEq, Repr, Inhabited

/-- A die: endpoints, counters by selector, coherence and replication tables, the sizes of its compressed lines, its superblocks from
the least recently used, its translation cache and Handler settings. -/
structure Die where
  eps     : Tab Endpoint
  count   : Tab Nat
  home    : Tab Home
  lines   : Tab DieLine
  regions : Tab Region
  rt      : Nat
  ct      : Nat
  cycles  : Nat
  sizes   : Tab Nat
  olds    : List (Nat × Nat)
  lru     : List Nat
  tlb     : List Tlb
  waketol : Nat
deriving DecidableEq, Repr, Inhabited

/-- A host command queue (17 R416). -/
structure HQueue where
  ring    : Word
  log2n   : Nat
  asid    : Nat
  vector  : Nat
  st      : Nat
  head    : BitVec 32
  tail    : BitVec 32
  nseq    : BitVec 32
  lstat   : Nat
  retries : Nat
  stopReq : Bool
  due     : Bool
deriving DecidableEq, Repr, Inhabited

/-- A launch group (17 R416-R431): its record, queue, dispatch state (0 its dependences wait, 1 dispatched, 2 complete, 3
refused), completion counters and status counts by node (R430), barriers and root tasks. -/
structure Group where
  serial    : Nat
  part      : Nat
  queue     : Nat
  seq       : Nat
  asid      : Nat
  record    : List Byte
  stage     : Nat
  unit      : Nat
  eff       : Nat
  discarded : Nat
  counts    : Tab Nat
  statuses  : Tab Nat
  barriers  : Tab (Nat × Nat)
  kids      : List Nat
deriving DecidableEq, Repr, Inhabited

/-- A sync site's tables for one object (R273-R275): the bound region and the waits kept in order. -/
structure SyncObj where
  bound : Option (Nat × Nat)
  waits : List (Nat × Nat × Word)
deriving DecidableEq, Repr, Inhabited

/-- A resource's refusal counters and reservations (R94), and the numbers whose requests have been given up. -/
structure Resv where
  next  : BitVec 16
  serve : BitVec 16
  gone  : List Nat
deriving DecidableEq, Repr, Inhabited

/-- What the part has sent over the link outside the endpoint rings: MSI-X messages with their address and data (20 R462), and
the answers to reads, with whether they completed (R461). -/
inductive Sent where
  | msix (vector addr data : Nat)
  | completion (ok : Bool) (data : List Byte)
deriving DecidableEq, Repr

/-- What moves next while something indivisible is in progress: the rest of a strand's bundle, a helper's instruction, an anchor
row's word, or an event. -/
inductive Turn where
  | slot (task : Nat)
  | helper (core : Nat) (setter : Bool)
  | anchor (core : Nat)
  | event (i : Instr)
deriving DecidableEq, Repr

/-- A host or peer write that its homes have taken and not yet performed (R452): the lines it waits for, its physical pieces, whether it may be
overtaken (R466), and whether its data is poisoned. -/
structure HostWrite where
  lines   : List Nat
  parts   : List (Nat × List Byte)
  relaxed : Bool
  bad     : Bool
deriving DecidableEq, Repr, Inhabited

/-- Declared storage that children hold (11 R321): the view of the task that declares it, its physical pieces, the size of an element, and
the elements that something other than a merge has written. -/
structure Hold where
  task : Nat
  view : Nat
  pas  : List (Nat × Nat)
  z    : Nat
  hit  : List Nat
deriving DecidableEq, Repr, Inhabited

/-- The state of the part. mem is the coherent contents of every byte; back holds, for a line that a cache has changed, what the
memory behind the caches holds of it (R394, R449). -/
structure State where
  turn     : Option Turn
  inputs   : List Instr
  free     : Nat
  mem      : List Cell
  back     : Tab (List Byte)
  hostWs   : List HostWrite
  poison   : List Nat
  lrs      : List (Nat × Nat × Nat)
  held     : List Hold
  running  : Bool
  measure  : List Byte
  romver   : Nat
  boots    : Nat
  parts    : Tab Nat
  linkUp   : Tab Bool
  portOwn  : Tab Nat
  pwin     : Tab Word
  msix     : Tab Word
  pba      : BitVec 256
  sent     : List Sent
  asids    : Tab Nat
  hqs      : Tab HQueue
  otags    : Nat
  serial   : Nat
  groups   : Tab Group
  tasks    : Tab Task
  ntasks   : Nat
  waitq    : List (Nat × Nat)
  admits   : Nat
  cur      : Nat
  core     : Nat
  setter   : Bool
  cores    : Tab Core
  clusters : Tab Cluster
  dies     : Tab Die
  syncs    : Tab SyncObj
  resvs    : Tab Resv
  net      : List CohMsg
  invals   : List (Nat × Nat × Nat × Nat × Nat)
  pcap     : Tab Nat
deriving DecidableEq, Repr

/-- The reasons a step stops the machine. -/
inductive Fault where
  /-- Raised by a step whose turn names an agent that does not exist. Safe: no such turn arises from reset. -/
  | noSuchAgent
deriving DecidableEq, Repr

/-- The reasons a step is refused. -/
inductive Refusal where
  /-- Raised by exec for a step with no meaning yet. Safe: nothing is claimed of it. -/
  | notModelled (mnemonic : String)
deriving DecidableEq, Repr

/-- The part right after power-on reset (21 R476-R478): nothing is loaded, recovery waits for an image, every island's queues
hold nothing (R122), and one partition holds all eight dies (18 R443). The values the spec does not state are those of
notes/assumptions/5.md. -/
def State.reset : State :=
  { turn := none, inputs := [], free := 0, mem := [], back := [], hostWs := [], poison := [], lrs := [], held := [], running := false, measure := [], romver := 0, boots := 0
    parts := [], linkUp := [], portOwn := [], pwin := [], msix := [], pba := 0, sent := [], asids := [], hqs := []
    otags := 0, serial := 0, groups := [], tasks := [], ntasks := 0, waitq := [], admits := 0, cur := 0, core := 0, setter := false, cores := []
    clusters := [], dies := [], syncs := [], resvs := [], net := [], invals := [], pcap := [] }

end Sys2Proof.Machine
end

