-- ==== Sys2Proof/Machine/Ops.lean ====
section
/-! DEFINITION. The named operations over the state: the current task and core, the byte memory, tokens and results in flight,
the end of a block, taking a trap or fault and returning from one (spec/16_traps_preemption.md R403-R408). -/

namespace Sys2Proof.Machine

open Host Arith

/-- The lanes of a zero vector. -/
def zeroLanes : Lanes := List.replicate 64 0

/-- The zero value of an assigned port or latch: a vector where R151 gives it one, otherwise a word. -/
def Val.word (x : Val) : Word :=
  match x with
  | .w x => x
  | .v l => l.getD 0 0
  | .tile c i => wd (c * 32 + i)

/-- The lanes of a value; a word fills every lane. -/
def Val.lanes (x : Val) : Lanes :=
  match x with
  | .v l => l
  | .w 0 => zeroLanes
  | .w x => List.replicate 64 x
  | .tile _ _ => zeroLanes

/-- The bank of a task at its start (R122) and of a handler at its entry (R397): everything zero. -/
def Bank.empty : Bank := default

/-- A core's state after reset: no queue has a buffer, the watchdog exponent is 18 (R130, R415), and its island is off (R476). -/
def Core.init : Core := { (default : Core) with watch := 18, power := 3 }

/-- The current task. -/
def State.t (s : State) : Task := s.tasks.get s.cur default

/-- Replaces the current task. -/
def State.setT (s : State) (t : Task) : State := { s with tasks := s.tasks.set s.cur t }

/-- A task by its number. -/
def State.task (s : State) (id : Nat) : Task := s.tasks.get id default

/-- Replaces a task. -/
def State.setTask (s : State) (id : Nat) (t : Task) : State := { s with tasks := s.tasks.set id t }

/-- The current core. -/
def State.c (s : State) : Core := s.cores.get s.core Core.init

/-- Replaces the current core. -/
def State.setC (s : State) (c : Core) : State := { s with cores := s.cores.set s.core c }

/-- A core by its number: die × 64 + cluster × 8 + core (R17). -/
def State.coreAt (s : State) (n : Nat) : Core := s.cores.get n Core.init

/-- Replaces a core. -/
def State.setCore (s : State) (n : Nat) (c : Core) : State := { s with cores := s.cores.set n c }

/-- A die by its PDIE. -/
def State.die (s : State) (d : Nat) : Die := s.dies.get d default

/-- Replaces a die. -/
def State.setDie (s : State) (d : Nat) (x : Die) : State := { s with dies := s.dies.set d x }

/-- A launch group by its number. -/
def State.group (s : State) (g : Nat) : Group := s.groups.get g default

/-- Replaces a launch group. -/
def State.setGroup (s : State) (g : Nat) (x : Group) : State := { s with groups := s.groups.set g x }

/-- The partition of a die (R443). -/
def State.partOf (s : State) (die : Nat) : Nat := s.parts.get die 0

/-- The dies of a partition, by ascending PDIE (R17). -/
def State.diesOf (s : State) (part : Nat) : List Nat := (List.range 8).filter (fun d => s.partOf d == part)

/-- The lowest PDIE of a partition, its leader (R432). -/
def State.leader (s : State) (part : Nat) : Nat := (s.diesOf part).headD 0

/-- The die of a core number. -/
def dieOf (core : Nat) : Nat := core / 64

/-- The cluster number, in the part, of a core number. -/
def clusterOf (core : Nat) : Nat := core / 8

/-- A free value, with the counter advanced. -/
def State.freeWord (s : State) : Word × State := (Config.freeWord s.free, { s with free := s.free + 1 })

/-- A free choice below n, with the counter advanced. -/
def State.choose (s : State) (n : Nat) : Nat × State := (Config.choice s.free % n, { s with free := s.free + 1 })

/-! ### Memory -/

/-- The memory's canonical form: addresses strictly rise and no listed byte is what an unlisted address reads as. -/
def Memory.wf (m : List Cell) : Bool :=
  match m with
  | [] => true
  | (a, b) :: r => b != 0 && r.all (fun c => decide (a < c.1)) && Memory.wf r

/-- What an unlisted address reads as (notes/assumptions/4.md). -/
def Memory.blank : Byte := 0

/-- Reads one byte. -/
def Memory.get (m : List Cell) (a : Nat) : Byte :=
  match m with
  | [] => Memory.blank
  | (j, b) :: r => if j = a then b else Memory.get r a

/-- The cells of a run of bytes from an address, without those that read as unlisted. -/
def Memory.cells (a : Nat) (bs : List Byte) : List Cell :=
  match bs with
  | [] => []
  | b :: r => if b = Memory.blank then Memory.cells (a + 1) r else (a, b) :: Memory.cells (a + 1) r

/-- Writes bytes from an address. -/
def Memory.write (m : List Cell) (a : Nat) (bs : List Byte) : List Cell :=
  m.filter (fun c => decide (c.1 < a)) ++ Memory.cells a bs ++ m.filter (fun c => decide (a + bs.length ≤ c.1))

/-- Reads n bytes from an address. -/
def Memory.read (m : List Cell) (a n : Nat) : List Byte :=
  let w := m.filter (fun c => decide (a ≤ c.1 ∧ c.1 < a + n))
  (List.range n).map (fun i => Memory.get w (a + i))

/-- Reads n bytes of the physical map. -/
def State.rd (s : State) (a n : Nat) : List Byte := Memory.read s.mem a n

/-- Reads a little-endian number of n bytes of the physical map. -/
def State.rdN (s : State) (a n : Nat) : Nat := ofBytes (s.rd a n)

/-- The 128-byte sectors that n bytes from an address touch. -/
def sectorsOf (a n : Nat) : List Nat :=
  if n = 0 then [] else (List.range ((a + n - 1) / 128 - a / 128 + 1)).map (fun i => a / 128 + i)

/-- The place of a byte in pieces of storage. -/
def offsetIn : List (Nat × Nat) → Nat → Option Nat
  | [], _ => none
  | (p, n) :: r, a => if p ≤ a ∧ a < p + n then some (a - p) else (offsetIn r a).map (· + n)

/-- Notes the elements of held storage that a write touches (R321). -/
def Hold.touch (h : Hold) (a n : Nat) : Hold :=
  { h with hit := (h.hit ++ (List.range n).filterMap (fun i => (offsetIn h.pas (a + i)).map (· / h.z))).eraseDups }

/-- What an agent reads of bytes of the physical map: of declared storage that children hold, a free value (R321), the same as long as the
byte is unchanged (R9). -/
def State.seen (s : State) (a : Nat) (bs : List Byte) : List Byte :=
  if s.held.isEmpty then bs
  else bs.zipIdx.map (fun (b, i) => if s.held.any (fun h => (offsetIn h.pas (a + i)).isSome) then Config.heldByte (a + i) b else b)

/-- Reads bytes of the physical map for an agent. -/
def State.see (s : State) (a n : Nat) : List Byte := s.seen a (s.rd a n)

/-- Reads a little-endian number of n bytes of the physical map for an agent. -/
def State.seeN (s : State) (a n : Nat) : Nat := ofBytes (s.see a n)

/-- Writes bytes of the physical map; a sector that the write covers whole loses its poison mark (R267), a helper's
reservation of a written byte ends, and elements of held storage are noted (R321). -/
def State.wr (s : State) (a : Nat) (bs : List Byte) : State :=
  { s with
    mem := Memory.write s.mem a bs
    held := s.held.map (fun h => h.touch a bs.length)
    lrs := s.lrs.filter (fun r => decide (r.1 + r.2.1 ≤ a ∨ a + bs.length ≤ r.1))
    poison := s.poison.filter (fun k => !(decide (a ≤ k * 128 ∧ k * 128 + 128 ≤ a + bs.length))) }

/-- Writes a number as n little-endian bytes of the physical map. -/
def State.wrN (s : State) (a n x : Nat) : State := s.wr a (toBytes n x)

/-- Whether a byte of a run lies in a poisoned sector (R267). -/
def State.bad (s : State) (a n : Nat) : Bool := (sectorsOf a n).any (fun k => s.poison.contains k)

/-- Inserts a number into a rising list. -/
def insertNat (x : Nat) : List Nat → List Nat
  | [] => [x]
  | y :: r => if x = y then y :: r else if x < y then x :: y :: r else y :: insertNat x r

/-- Marks a sector poisoned. -/
def State.mark (s : State) (sector : Nat) : State := { s with poison := insertNat sector s.poison }

/-! ### The on-chip map (R83) -/

/-- The physical address of a core window's byte. -/
def coreWin (core off : Nat) : Nat :=
  0xE000000000000 + dieOf core * 0x8000000 + (core / 8 % 8) * 0x1000000 + (core % 8) * 0x100000 + off

/-- The physical address of a scratchpad's byte, by the cluster's number in the part. -/
def padWin (cluster off : Nat) : Nat :=
  0xE000000000000 + (cluster / 8) * 0x8000000 + (cluster % 8) * 0x1000000 + 0x800000 + off

/-- The offset of a physical tile in its core window: class 5 t, 6 a, 7 d (R83, R121). -/
def tileOff (cls n : Nat) : Nat :=
  if cls = 5 then 0x80000 + n * 0x800 else if cls = 6 then 0x88000 + n * 0x1000 else 0x90000 + n * 0x1000

/-- The size of a tile (R121). -/
def tileSize (cls : Nat) : Nat := if cls = 5 then 0x800 else 0x1000

/-! ### The task's clock, registers and results -/

/-- The clock that the strand's timing counts on: the handler clock in system mode (R396). -/
def Task.now (t : Task) : Nat := if t.sys then t.hclock else t.clock

/-- A shadow port of a unit (R117). -/
def Task.port (t : Task) (unit port : Nat) : Val := t.bank.shadow.get (unit * 16 + port) (.w 0)

/-- A shadow port's word. -/
def Task.pw (t : Task) (unit port : Nat) : Word := (t.port unit port).word

/-- Writes a shadow port. -/
def Task.setPort (t : Task) (unit port : Nat) (x : Val) : Task :=
  { t with bank := { t.bank with shadow := t.bank.shadow.set (unit * 16 + port) x } }

/-- A result latch (R116). -/
def Task.latch (t : Task) (unit : Nat) (h : Bool) : Val := t.bank.latch.get (unit * 2 + (if h then 1 else 0)) (.w 0)

/-- Sets the clock that the strand issues on (R397). -/
def Task.setNow (t : Task) (n : Nat) : Task := if t.sys then { t with hclock := n } else { t with clock := n }

/-- A general register; g0 reads zero (R121). -/
def Task.gr (t : Task) (n : Nat) : Word := if n = 0 then 0 else t.g.get n 0

/-- Writes a general register; g0 ignores writes (R121). -/
def Task.setG (t : Task) (n : Nat) (x : Word) : Task := if n = 0 then t else { t with g := t.g.set n x }

/-- A vector register's lanes (R121). -/
def Task.vr (t : Task) (n : Nat) : Lanes := t.v.get n zeroLanes

/-- Starts a result toward a latch, due after a latency (R127). -/
def Task.result (t : Task) (unit : Nat) (h : Bool) (lat : Nat) (x : Val) (fl : Flags) (pair : Bool := false) : Task :=
  { t with bank := { t.bank with
      flight := t.bank.flight ++ [⟨unit, h, t.now + lat, some x, fl, none, false, pair⟩] } }

/-- Starts a result that also writes a guard bit at the same boundary (R169). -/
def Task.resultK (t : Task) (unit lat : Nat) (x : Bool) (k : Nat) : Task :=
  { t with bank := { t.bank with
      flight := t.bank.flight ++ [⟨unit, false, t.now + lat, some (.w (wbool x)), 0, some (k, x), false, false⟩] } }

/-- Lands one result: its latch, its flags and its guard bit (R127, R59, R169). -/
def Task.landOne (t : Task) (f : Flight) : Task :=
  let lat := match f.val with
    | some x => t.bank.latch.set (f.unit * 2 + (if f.h then 1 else 0)) x
    | none => t.bank.latch
  let k := match f.k with
    | some (n, b) => t.k.set n b
    | none => t.k
  { t with
    bank := { t.bank with latch := lat }
    k := k
    ctl := { t.ctl with fflags := t.ctl.fflags ||| f.flags.setWidth 64 } }

/-- Lands every result due at or before the clock, in trigger order (R127). -/
def Task.landDue (t : Task) : Task :=
  let due := t.bank.flight.filter (fun f => decide (f.due ≤ t.now))
  let rest := t.bank.flight.filter (fun f => !(decide (f.due ≤ t.now)))
  due.foldl Task.landOne { t with bank := { t.bank with flight := rest } }

/-- Applies the fmt writes whose shadow has passed (R131); they run on the strand clock and are held in system mode (R397). -/
def Task.expireFmt (t : Task) : Task :=
  if t.sys then t
  else
    match t.fmtPend.filter (fun p => decide (p.1 ≤ t.clock)) with
    | [] => t
    | due =>
      { t with
        ctl := { t.ctl with fmt := (due.getLast?.getD (0, t.ctl.fmt)).2 }
        fmtPend := t.fmtPend.filter (fun p => !(decide (p.1 ≤ t.clock))) }

/-- The class of a landing entry that a load fills (R263). -/
def LandPend.cls (p : LandPend) : Nat :=
  if p.form = 17 then (if p.ty = 3 ∨ p.ty = 7 ∨ p.ty = 11 then 3 else 2) else if p.form = 0 then 4 else 0

/-- Moves arrived data into the landing entries that are due (R128). -/
def Task.landEntries (t : Task) : Task :=
  { t with bank := { t.bank with
      land := t.bank.land.mapVals (fun _ e =>
        match e.pend with
        | some p =>
          match p.got with
          | some (x, bad) =>
            if p.due ≤ t.now then { cls := p.cls, val := x, poison := bad, addr := p.addr, pend := none }
            else e
          | none => e
        | none => e) } }

/-- A token of the task (R132). -/
def Task.tok (t : Task) (n : Nat) : Tok := t.toks.get n default

/-- Replaces a token. -/
def Task.setTok (t : Task) (n : Nat) (x : Tok) : Task := { t with toks := t.toks.set n x }

/-- Whether a token holds up a wait: it is pending or faulted (R132). -/
def Tok.holds (k : Tok) : Bool := k.st == .pending || k.st == .faulted

/-- The tokens of a mask that hold up a wait, as a mask. -/
def Task.waitMask (t : Task) (mask : Nat) : Nat :=
  (List.range 8).foldl (fun m n => if nbit mask n && (t.tok n).holds then m + 2 ^ n else m) 0

/-- Marks the tokens of a mask as observed (R98). -/
def Task.observe (t : Task) (mask : Nat) : Task :=
  { t with toks := t.toks.mapVals (fun n k => if nbit mask n && !k.holds then { k with seen := true } else k) }

/-- ORs flags into fflags (R59). -/
def Task.orFlags (t : Task) (f : Flags) : Task :=
  { t with ctl := { t.ctl with fflags := t.ctl.fflags ||| f.setWidth 64 } }

/-! ### Endpoint messages (R444) -/

/-- The key under which the PCI Express address space outside the part is held in memory. -/
def extBase : Nat := 2 ^ 56

/-- The number of slots of an endpoint's ring, by its ring register; 0 when LOG2N is outside 4-12 (R444). -/
def ringSize (r : Word) : Nat :=
  let n := wbits r 3 0
  if 4 ≤ n ∧ n ≤ 12 then 2 ^ n else 0

/-- The memory key of a slot of an endpoint's ring. -/
def ringSlot (r : Word) (i : Nat) : Nat := extBase + wbits r 63 12 * 4096 + i % ringSize r * 256

/-- Writes held messages to an endpoint's outbound ring, as long as it has room, n of them at most (R444). -/
def State.flushOut (s : State) (die ep : Nat) : Nat → State
  | 0 => s
  | n + 1 =>
    let d := s.die die
    let e := d.eps.get ep default
    match e.hold with
    | [] => s
    | m :: r =>
      if (e.outTail + 2 ^ 32 - e.outHead) % 2 ^ 32 < ringSize e.oring then
        let s := s.wr (ringSlot e.oring e.outTail) m
        let s := s.setDie die { d with eps := d.eps.set ep { e with hold := r, outTail := (e.outTail + 1) % 2 ^ 32 } }
        s.flushOut die ep n
      else s

/-- A message's 256 bytes: header and payload (R444). -/
def msgBytes (ty ep die seq aux stat : Nat) (data : List Byte) : List Byte :=
  let n := min 240 (ceilDiv data.length 16 * 16)
  padTo 256 (toBytes 2 ty ++ toBytes 1 ep ++ toBytes 1 die ++ toBytes 4 seq ++ toBytes 4 aux ++ toBytes 2 n ++ toBytes 2 stat ++
    data.take 240)

/-- Puts a message into an endpoint's outbound order, and writes what its ring has room for (R444). -/
def State.outward (s : State) (die ep : Nat) (m : List Byte) : State :=
  let d := s.die die
  let e := d.eps.get ep default
  let e := { e with hold := e.hold ++ [m] }
  (s.setDie die { d with eps := d.eps.set ep e }).flushOut die ep e.hold.length

/-- Sends a message of the part's own from a die's endpoint, with the endpoint's next SEQ (R444). -/
def State.send (s : State) (die ep ty aux : Nat) (data : List Byte) : State :=
  let d := s.die die
  let e := d.eps.get ep default
  let s := s.setDie die { d with eps := d.eps.set ep { e with outSeq := (e.outSeq + 1) % 2 ^ 32 } }
  s.outward die ep (msgBytes ty ep die e.outSeq aux 0 data)

/-! ### Trace (21 R484, R485) -/

/-- Whether an event matches a trace unit's trigger (R485): its type, its address range, and its TTAG, 0 matching any. -/
def Trace.hits (x : Trace) (ty ttag data : Nat) : Bool :=
  x.ty == ty && decide (x.base ≤ data ∧ data < x.base + x.len) && (x.ttag == 0 || x.ttag == ttag)

/-- Records an event of the current strand in its core's trace ring while tracing is enabled (R484): type, slot, TTAG, data. -/
def State.trace (s : State) (ty slot ttag : Nat) (data : Word) : State :=
  let t := s.t
  let c := s.coreAt t.core
  let x := c.trace
  if !x.en ∨ x.frozen ∨ (x.hit ∧ x.left = 0) then s
  else
    let src := t.strand % 4 + slot % 8 * 4 + (if t.sys then 32 else 0)
    let r := toBytes 6 c.cycles ++ toBytes 1 ty ++ toBytes 1 src ++ toBytes 1 ttag ++ toBytes 7 data.toNat
    let x' := { x with ring := x.ring.set (x.idx % 4096) r, idx := x.idx + 1 }
    let x' := if x.hit then { x' with left := x.left - 1 }
      else if x.hits ty ttag data.toNat then { x' with hit := true, left := x.post } else x'
    s.setCore t.core { c with trace := x' }

/-! ### Blocks, traps and faults -/

/-- Ends the strand's block (R29, R33): the core issues nothing for the 2 gap cycles, and the strand waits on its head
condition. -/
def State.endBlock (s : State) (h : Head) : State :=
  let s := s.setT { s.t with head := h, cur := { s.t.cur with word := none } }
  { (s.setC { s.c with issuing := none, gap := 2, switches := s.c.switches + 1 }) with turn := none }

/-- The walk that the strand is in; a handler's own walk is beside the one it interrupts (R370, R395). -/
def Task.inWalk (t : Task) : Option Walk := t.walk

/-- The walk fields of xst (R399, R370). -/
def walkBits (t : Task) : Nat :=
  match t.inWalk with
  | some w =>
    2 ^ 47 + (if w.replay then 2 ^ 46 else 0) + ((w.phase - 1) % 4) * 2 ^ 44 + (w.bundle % 2 ^ 14) * 2 ^ 30
  | none => 0

/-- The status word of a trap (R399): class, code, walk fields and slot-resume point. -/
def statusWord (t : Task) (cls code : Nat) : Word :=
  wd (cls * 2 ^ 56 + code * 2 ^ 48 + walkBits t + (match t.inWalk with | some w => w.slot | none => t.slot))

/-- The status word and the detail of what stopped a task, in the xst layout: CLASS 0 when nothing did (R411). -/
def Task.stopWord (t : Task) : Word := match t.susp with | some x => statusWord t x.cls x.code | none => statusWord t 0 0
/-- The detail of what stopped a task (R411). -/
def Task.stopInfo (t : Task) : Word := match t.susp with | some x => x.info | none => 0

/-- STATE as the header and the fault record give it (R411, R412): 1 pre-empted, 2 suspended; 0 while the task runs
(notes/assumptions/34.md). -/
def Task.stateCode (t : Task) : Nat := if t.susp.isSome then 2 else if t.stage = .preempted then 1 else 0

/-- The address that tvec names: bits 56:5, canonical (R87, R398). -/
def handlerAddr (v : Word) : Word := (BitVec.ofNat 57 (wbits v 56 5 * 32)).signExtend 64

/-- Shows in `rsp` the top of the residual stack that the slots so far have left (R302). -/
def Task.flushTop (t : Task) : Task :=
  { t with ctl := { t.ctl with rsp := t.cur.top.getD t.ctl.rsp }, cur := { t.cur with top := none, pushed := 0 } }

/-- Taking an own-route trap (R403): xst, xpc and xinfo are written, the banked state is saved and the handler's is zero, the
strand clock is held, four cycles pass, and the strand issues at tvec in system mode with handler clock 0. -/
def Task.enterTrap (t : Task) (cls code : Nat) (info : Word) : Task :=
  let t := t.flushTop
  { t with
    ctl := { t.ctl with xst := statusWord t cls code, xpc := t.pc, xinfo := info }
    held := t.bank
    bank := Bank.empty
    hcur := t.cur
    hpc := t.pc
    hawait := t.await
    await := none
    cur := default
    sys := true
    hclock := 0
    pc := handlerAddr t.ctl.tvec
    slot := 0
    head := .ready
    susp := none
    entering := true
    hwalk := t.walk
    walk := none }

/-- The fault record of R412. -/
def faultRecord (t : Task) (state : Nat) (status info : Word) : List Byte :=
  toBytes 8 t.ctl.taskid.toNat ++ toBytes 2 (t.core % 512) ++ toBytes 1 t.strand ++ toBytes 1 state ++ toBytes 4 0 ++
    toBytes 8 status.toNat ++ toBytes 8 t.pc.toNat ++ toBytes 8 info.toNat ++
    toBytes 8 (if t.stage = .resident then 0 else t.image) ++ toBytes 8 t.ctl.otag.toNat ++ toBytes 8 0

/-- A Handler-route fault (R408): the strand stops at its slot, its head condition stays false, and the fault record goes to
the Handler's fault endpoint (R412). The code carries the message's AUX word above its 8 bits. -/
def State.suspend (s : State) (cls code : Nat) (info : Word) : State :=
  let t := s.t.flushTop
  let s := s.setT { t with susp := some ⟨cls, code % 256, info, false⟩ }
  let s := s.endBlock .suspended
  s.send (dieOf t.core) 2 1 (code / 256) (faultRecord s.t 2 (statusWord t cls (code % 256)) info)

/-- The trap classes and codes of the strand's own route (R401). -/
def ownRoute (cls code : Nat) : Bool :=
  match cls with
  | 1 | 2 | 3 | 5 | 7 | 8 | 9 => true
  | 6 => decide (code ≤ 5)
  | _ => false

/-- Raises a trap or fault of a class and code at the current slot (R401): an own-route trap enters the strand's handler
(R403), is suspended when there is none (R404) or when the strand already runs one (R407); the rest suspend (R408). -/
def State.raise (s : State) (cls code : Nat) (info : Word) : State :=
  if ownRoute cls code then
    if s.t.sys then s.suspend 15 1 (wd (cls * 256 + code))
    else if s.t.ctl.tvec = 0 then s.suspend cls code info
    else
      let s := (s.setT (s.t.enterTrap cls code info)).trace 5 s.t.slot 0 (handlerAddr s.t.ctl.tvec)
      { (s.setC { s.c with gap := 4 }) with turn := none }
  else s.suspend cls code info

/-- The return from a handler with PMODE 0 (R405): the handler's banked state is discarded, the task's restored, and the strand
re-enters xpc at SLOT in task mode after four cycles, or the walk that the handler interrupted at the position that xst names. -/
def Task.returnTask (t : Task) : Task :=
  let slot := min (wbits t.ctl.xst 2 0) 5
  { t with
    bank := t.held
    held := Bank.empty
    sys := false
    pc := t.ctl.xpc
    slot := slot
    cur := if t.ctl.xpc = t.hpc then { t.hcur with word := none } else default
    hcur := default
    await := t.hawait
    hawait := none
    hwalk := none
    walk := if wbit t.ctl.xst 47 then
        t.hwalk.map (fun w => { w with phase := wbits t.ctl.xst 45 44 + 1, bundle := wbits t.ctl.xst 43 30, slot := slot })
      else none }

/-- The return from a handler with PMODE 1 (R405): the strand stays in system mode and re-enters xpc at SLOT; a bundle that is
complete counts no further cycle. -/
def Task.returnSystem (t : Task) : Task :=
  let slot := min (wbits t.ctl.xst 2 0) 5
  { t with pc := t.ctl.xpc, slot := slot, cur := { (default : Cur) with still := slot == 5 } }

/-- The return of br.tret after its bundle (R405). -/
def State.trapReturn (s : State) : State :=
  let t := s.t
  let t' := if wbit t.ctl.xst 11 then t.returnSystem else t.returnTask
  let s := s.setT t'
  { (s.setC { s.c with gap := 4 }) with turn := none }

/-- A slot that has committed: the next one is the slot-resume point (R139, R141). -/
def State.commit (s : State) : State := s.setT { s.t with slot := s.t.slot + 1 }

/-- A step's next state. -/
abbrev Out := Outcome State Fault Refusal

/-- What an operation does at its slot. -/
inductive Eff where
  | done (s : State)
  | trap (s : State) (cls code : Nat) (info : Word)
  | block (s : State) (h : Head)
  | stay (s : State)
deriving Repr

/-- The next state of an operation at its slot: it commits, traps there, ends the block there, or is stopped there by a
freeze; inside a walk, where no strand switches, a wait stops it there too (R371). -/
def Eff.out (e : Eff) : Out :=
  match e with
  | .done s => .next s.commit
  | .trap s cls code info => .next (s.raise cls code info)
  | .block s h => .next (if s.t.inWalk.isSome then { s with turn := none } else s.endBlock h)
  | .stay s => .next { s with turn := none }

/-- The illegal-slot trap (R401). -/
def Eff.illSlot (s : State) : Eff := .trap s 1 2 0

/-- The illegal-port trap (R401). -/
def Eff.illPort (s : State) : Eff := .trap s 1 3 0

/-- The illegal-type trap (R401). -/
def Eff.illType (s : State) : Eff := .trap s 1 4 0

/-- Sequences operations: the second runs in the state the first leaves when it completes. -/
def Eff.andThen (e : Eff) (f : State → Eff) : Eff :=
  match e with
  | .done s => f s
  | e => e

end Sys2Proof.Machine
end

