-- ==== Sys2Proof/Machine/Flags.lean ====
section
/-! DEFINITION. The exception flags and their trap enables (spec/02_numbers.md R58-R60), and the field maps of the control registers. -/

namespace Sys2Proof.Machine

open Host Arith

/-- The trap enables NVE-NXE, as flags (R58); SAT has none. -/
def Task.enables (t : Task) : Flags := BitVec.ofNat 6 (wbits t.ctl.fflags 12 8)

/-- The reading of fflags after a write by ct.wrc: the enables are set, the flags written 1 are cleared (R58). -/
def fflagsWrite (old x : Word) : Word := (x &&& 0x1F00) ||| (old &&& 0x3F &&& ~~~x)

/-- Whether flags raised by an operation of va, vb, vx or sm take the FP trap (R60): never inside a walk (12 R355). -/
def Task.fpTraps (t : Task) (f : Flags) : Bool := f &&& t.enables != 0 && t.inWalk.isNone

/-- The detail of an FP trap (R401): the flags raised, and the enabled subset in bits 13:8. -/
def fpInfo (f en : Flags) : Word := wd (f.toNat + (f &&& en).toNat * 256)

/-- Completes an operation that raises flags: with one of them enabled the FP trap is taken at the slot, the flags set and
nothing else changed (R60, R202); otherwise the operation's own effect happens. -/
def fpGuard (s : State) (f : Flags) (ok : State → Eff) : Eff :=
  if s.t.fpTraps f then .trap (s.setT (s.t.orFlags f)) 2 1 (fpInfo f s.t.enables) else ok s

/-- The value a write of xst stores (R399). -/
def xstWrite (x : Word) : Word :=
  (x &&& 0xFFFFFFFFC0000800) ||| (if 5 < wbits x 2 0 then 5 else x &&& 7)

/-- A control register's field map (R56-R58, R160, R318, R398, R483): the value stored for a value written over the old one;
`none` is a write that raises the illegal-type trap. -/
def ctField (n : Nat) (old x : Word) : Option Word :=
  match n with
  | 0 => if 8 ≤ x.toNat ∨ wbits x 1 0 = 3 then none else some x
  | 1 => if 5 ≤ x.toNat then none else some x
  | 2 => if 256 ≤ x.toNat then none else some ((old &&& ~~~8) ||| (x &&& 8))
  | 3 => some (fflagsWrite old x)
  | 15 => some (x &&& 0xFF)
  | 32 => some (x &&& 0x01FFFFFFFFFFFFE0)
  | 33 => some (xstWrite x)
  | _ => some x

end Sys2Proof.Machine
end

