-- ==== Sys2Proof/Machine/LineCode.lean ====
section
/-! DEFINITION. The line code (spec/08_matrix_anchor_transform.md R250, R251): encoding a 256-byte line in the fewest segments
and decoding an image. -/

namespace Sys2Proof.LineCode

/-- The 8-byte or 4-byte words of a line. -/
def words (w : Nat) (line : List Byte) : List Nat := (List.range (256 / w)).map (fun i => leAt line (w * i) w)

/-- Whether a difference modulo 2^(8w) fits d signed bytes, and its d bytes. -/
def delta (w d x base : Nat) : Option (List Byte) :=
  let y := sint (8 * w) ((x + 2 ^ (8 * w) - base) % 2 ^ (8 * w))
  if -((2 ^ (8 * d - 1) : Nat) : Int) ≤ y ∧ y < ((2 ^ (8 * d - 1) : Nat) : Int) then some (toBytes d (wrapN (8 * d) y)) else none

/-- The bytes of a list of optional pieces, if all are there. -/
def allBytes : List (Option (List Byte)) → Option (List Byte)
  | [] => some []
  | none :: _ => none
  | some x :: r => (allBytes r).map (x ++ ·)

/-- The D code of a delta width. -/
def dCode (d : Nat) : Nat := if d = 1 then 0 else if d = 2 then 1 else 2

/-- The image of class 2 with words of w bytes and deltas of d bytes, if the line has one. -/
def baseDelta (w d : Nat) (line : List Byte) : Option (List Byte) :=
  let ws := words w line
  let w0 := ws.headD 0
  (allBytes (ws.map (fun x => delta w d x w0))).map (fun ds =>
    toBytes 1 (2 + (if w = 8 then 8 else 0) + dCode d * 16) ++ toBytes w w0 ++ ds)

/-- Values packed e bits each, least significant bit first. -/
def packBits (e : Nat) (l : List Nat) : Nat := l.foldr (fun x acc => x + acc * 2 ^ e) 0

/-- The image of class 3 with exponents of e bits, if the line has one. -/
def exponentPlane (e : Nat) (line : List Byte) : Option (List Byte) :=
  let hs := (List.range 128).map (fun i => (line.getD (2 * i + 1) 0).toNat)
  let b := hs.foldl min 255
  if hs.all (fun h => decide (h < b + 2 ^ e)) then
    some (toBytes 1 (3 + (if e = 4 then 8 else 0)) ++ toBytes 1 b ++ toBytes (16 * e) (packBits e (hs.map (· - b))) ++
      (List.range 128).map (fun i => line.getD (2 * i) 0))
  else none

/-- The segments that n bytes fill. -/
def segs (n : Nat) : Nat := ceilDiv n 32

/-- An image padded with zeros to whole segments. -/
def padSegs (l : List Byte) : List Byte := padTo (32 * segs l.length) l

/-- The image of a line (R251): the first of the classes in order of size, then class, then variant. -/
def encode (line : List Byte) : List Byte :=
  let ws := words 8 line
  let tries : List (Nat × Option (List Byte)) :=
    [ (1, if line.all (· == 0) then some [0] else none),
      (1, if ws.all (· == ws.headD 0) then some (1 :: toBytes 8 (ws.headD 0)) else none),
      (2, baseDelta 8 1 line), (3, baseDelta 4 1 line), (3, baseDelta 8 2 line),
      (5, baseDelta 4 2 line), (5, baseDelta 8 4 line), (6, exponentPlane 2 line), (7, exponentPlane 4 line) ]
  match tries.filterMap (fun t => t.2) with
  | x :: _ => padSegs x
  | [] => line

/-- The n e-bit fields of packed bytes. -/
def unpackBits (e n x : Nat) : List Nat := (List.range n).map (fun i => x / 2 ^ (e * i) % 2 ^ e)

/-- The line of an image of a size in segments, if the image is valid for that size (R251). -/
def decode (size : Nat) (img : List Byte) : Option (List Byte) :=
  if size = 8 then some (padTo 256 img)
  else if size = 0 ∨ 8 < size then none
  else
    let h := leAt img 0 1
    let p := h / 8
    match h % 8 with
    | 0 => if p = 0 ∧ size = 1 then some (List.replicate 256 0) else none
    | 1 => if p = 0 ∧ size = 1 then some ((List.range 256).map (fun i => img.getD (1 + i % 8) 0)) else none
    | 2 =>
      let w := if nbit h 3 then 8 else 4
      let d := 2 ^ nbits h 5 4
      let n := 256 / w
      if nbits h 7 6 ≠ 0 ∨ nbits h 5 4 = 3 ∨ (d = 4 ∧ w = 4) ∨ size ≠ segs (1 + w + n * d) then none
      else
        let w0 := leAt img 1 w
        some ((List.range n).flatMap (fun i =>
          toBytes w (wrapN (8 * w) (w0 + sint (8 * d) (leAt img (1 + w + i * d) d)))))
    | 3 =>
      let e := if nbit h 3 then 4 else 2
      if nbits h 7 4 ≠ 0 ∨ size ≠ segs (2 + 16 * e + 128) then none
      else
        let b := leAt img 1 1
        let hs := unpackBits e 128 (leAt img 2 (16 * e))
        some ((List.range 128).flatMap (fun i =>
          [img.getD (2 + 16 * e + i) 0, BitVec.ofNat 8 (b + hs.getD i 0)]))
    | _ => none

end Sys2Proof.LineCode
end

