-- ==== Sys2Proof/Machine/Image.lean ====
section
/-! DEFINITION. The context image (spec/16_traps_preemption.md R410, R411): its bytes from a task, and the writes of a strand
register window back into the task (R413), and loading one at restore (R414). -/

namespace Sys2Proof.Machine

open Host Arith

/-- Pieces of a byte layout: offsets with their bytes; every other byte is zero. -/
abbrev Parts := List (Nat × List Byte)

/-- A byte of a layout. -/
def Parts.byte (ps : Parts) (o : Nat) : Byte :=
  match ps with
  | [] => 0
  | (a, l) :: r => if a ≤ o ∧ o < a + l.length then l.getD (o - a) 0 else Parts.byte r o

/-- n bytes of a layout. -/
def Parts.slice (ps : Parts) (o n : Nat) : List Byte := (List.range n).map (fun i => Parts.byte ps (o + i))

/-- Words as bytes, 8 each. -/
def wordsBytes (l : List Word) : List Byte := l.flatMap (fun w => toBytes 8 w.toNat)

/-- The lanes of a V-class value as 256 bytes, 4 each. -/
def lanes4 (l : Lanes) : List Byte := l.flatMap (fun w => toBytes 4 w.toNat)

/-- The lanes of a P-class value as 512 bytes, 8 each. -/
def lanes8 (l : Lanes) : List Byte := wordsBytes l

/-- Token states as the image codes them (R410). -/
def TokState.code : TokState → Nat
  | .idle => 0 | .pending => 1 | .complete => 2 | .error => 3 | .faulted => 4

/-- The eight token nibbles (R410). -/
def tokenWord (t : Task) : Nat := (List.range 8).foldl (fun a n => a + (t.tok n).st.code * 16 ^ n) 0

/-- A control register's value as ct.rdc reads it, the identity registers from the task's place (R17, R160). `now` is the
clock that cyc reads, `ndie` and `ldie` the partition's. -/
def Task.creg (t : Task) (now ndie ldie n : Nat) : Word :=
  match n with
  | 0 => t.ctl.fmt | 1 => t.ctl.rmode | 2 => t.ctl.mode | 3 => t.ctl.fflags | 4 => t.ctl.taskid
  | 5 => wd (ndie * 128 + dieOf t.core * 8 + ldie)
  | 6 => wd t.core
  | 7 => wd t.strand
  | 8 => wd now
  | 9 => t.ctl.seed | 10 => t.ctl.key | 11 => t.ctl.rsp | 12 => t.ctl.rgm | 13 => t.ctl.prio | 14 => t.ctl.dbmode
  | 15 => t.ctl.perfsel | 16 => t.ctl.otag
  | 32 => t.ctl.tvec | 33 => t.ctl.xst | 34 => t.ctl.xpc | 35 => t.ctl.xinfo | 36 => t.ctl.xscr
  | _ => 0

/-- The number of dies of a task's partition, and its die's rank there (R17). -/
def State.ndie (s : State) (t : Task) : Nat := (s.diesOf (s.partOf (dieOf t.core))).length

/-- The rank of a task's die in its partition, LDIE (R17). -/
def State.ldie (s : State) (t : Task) : Nat :=
  ((s.diesOf (s.partOf (dieOf t.core))).filter (fun d => decide (d < dieOf t.core))).length

/-- A landing entry's state word (R410), with remaining cycles counted from a clock; both entries of a pair are of class P. -/
def landWord (now : Nat) (e : Land) : Nat :=
  match e.pend with
  | some p =>
    (p.due - now) % 2 ^ 32 + (match p.got with | some (_, bad) => 2 ^ 32 + (if bad then 2 ^ 33 else 0) | none => 0) +
      min p.cls 3 * 2 ^ 34
  | none => 2 ^ 32 + (if e.poison then 2 ^ 33 else 0) + min e.cls 3 * 2 ^ 34

/-- The data that an entry holds, or that has arrived for it. -/
def Land.data (e : Land) : Val :=
  match e.pend with
  | some p => (match p.got with | some (x, _) => x | none => e.val)
  | none => e.val

/-- Whether an entry's data is that of a pair (class P). -/
def Land.isPair (e : Land) : Bool := (match e.pend with | some p => p.cls | none => e.cls) == 3

/-- The 256 bytes of a landing entry of a table: its data; a pair's 512 bytes fill its even and its odd entry
(notes/assumptions/34.md). -/
def landBytes (l : Tab Land) (n : Nat) : List Byte :=
  let e := l.get n default
  let pair := l.get (n / 2 * 2) default
  if pair.isPair then sliceBytes (lanes8 pair.data.lanes) (256 * (n % 2)) 256
  else match e.data with
    | .v x => lanes4 x
    | x => padTo 256 (toBytes 8 x.word.toNat)

/-- A view table entry's 32 bytes (R324). -/
def viewBytes (v : View) : List Byte :=
  toBytes 8 v.loc.toNat ++ toBytes 4 v.len ++ toBytes 1 v.op ++ toBytes 1 v.ty ++ toBytes 1 v.st ++ toBytes 1 0 ++
    toBytes 4 v.mview ++ toBytes 4 v.melem ++ toBytes 8 0

/-- The coordinate record (R319). -/
def coordBytes (c : List Nat) : List Byte := toBytes 8 c.length ++ c.flatMap (toBytes 4)

/-- b registers, LC and LE of a bank, as 96 bytes (R410). -/
def branchBytes (b : Bank) : List Byte :=
  wordsBytes ((List.range 4).map (fun n => b.b.get n 0) ++ (List.range 4).map (fun n => b.lc.get n 0) ++
    (List.range 4).map (fun n => b.le.get n 0))

/-- The sizes of the assigned ports 0-15 of a unit (R151, R410): 512 bytes for a vector port, 8 otherwise. -/
def portSizes (unit : Nat) : List (Nat × Nat) :=
  (List.range 16).filterMap (fun p =>
    let c := if p < 2 then latchClass unit (p == 1) else operandClass unit p
    c.map (fun c => (p, match c with | .vp => 512 | .fixed .V => 512 | .fixed _ => 8)))

/-- The latches and shadow sets of a bank, by unit then port (R410). -/
def portBytes (b : Bank) : List Byte :=
  (List.range 19).flatMap (fun u0 =>
    let u := u0 + 1
    (portSizes u).flatMap (fun (p, n) =>
      let x := if p < 2 then b.latch.get (u * 2 + p) (.w 0) else b.shadow.get (u * 16 + p) (.w 0)
      if n = 512 then lanes8 x.lanes else toBytes 8 x.word.toNat))

/-- The class of a result in flight as its snapshot record codes it (R411): 0 S, 1 M, 2 V, 3 P. -/
def Flight.cls (f : Flight) : Nat :=
  match f.val with
  | some (.v _) => if f.pair then 3 else 2
  | _ => if f.h ∧ (f.unit = 8 ∨ f.unit = 9) then 1 else 0

/-- The payload bytes of a snapshot record of a class. -/
def snapSize (cls : Nat) : Nat := if cls = 3 then 512 else if cls = 2 then 256 else 8

/-- A snapshot record of a result in flight (R411), with its order among records due in one latch at one clock. -/
def snapBytes (now : Nat) (prev : List Flight) (f : Flight) : List Byte :=
  let order := (prev.filter (fun g => g.unit == f.unit && g.h == f.h && g.due == f.due)).length
  let body := match f.val with
    | some (.v l) => if f.pair then lanes8 l else lanes4 l
    | some x => toBytes 8 x.word.toNat
    | none => toBytes 8 0
  toBytes 1 f.unit ++ toBytes 1 (if f.h then 1 else 0) ++ toBytes 1 f.cls ++
    toBytes 1 ((if f.poison then 1 else 0) + f.flags.toNat * 2) ++ toBytes 2 (f.due - now) ++ toBytes 1 order ++
    toBytes 9 0 ++ body

/-- Every snapshot record of a list of results in flight. -/
def snapAll (now : Nat) : List Flight → List Flight → List Byte
  | _, [] => []
  | prev, f :: r => snapBytes now prev f ++ snapAll now (prev ++ [f]) r

/-- The header (R411). STATE is 1 pre-empted, 2 suspended, 3 double-fault halted. -/
def headerBytes (t : Task) (state : Nat) (xst info : Word) : List Byte :=
  let tm (base n : Nat) : List Byte := (List.range n).map (fun i => BitVec.ofNat 8 (t.tmap.get (base + i) 0xFF))
  toBytes 2 1 ++ toBytes 2 64 ++ toBytes 1 (if t.sys then 1 else 0) ++ toBytes 1 state ++ toBytes 1 t.bprio ++
    toBytes 1 t.bank.flight.length ++ toBytes 8 t.pc.toNat ++ toBytes 8 xst.toNat ++ toBytes 8 info.toNat ++
    toBytes 8 t.clock ++ toBytes 8 t.hclock ++ toBytes 8 t.ctl.taskid.toNat ++ toBytes 8 t.tsave ++
    tm 160 16 ++ tm 192 8 ++ tm 224 16 ++ toBytes 8 t.lsave ++
    toBytes 1 (t.copyTr.foldl (fun m n => m ||| 2 ^ n) 0) ++ toBytes 143 0

/-- The walk position, 16 bytes (R410, R370). -/
def walkBytes (w : Option Walk) : List Byte :=
  match w with
  | some w => toBytes 4 w.phase ++ toBytes 4 w.bundle ++ toBytes 4 w.slot ++ toBytes 4 (if w.replay then 1 else 0)
  | none => toBytes 16 0

/-- The awaited response, 16 bytes (R410). -/
def awaitBytes (a : Option Await) : List Byte :=
  match a with
  | some a => toBytes 1 a.port ++ toBytes 1 a.slot ++ toBytes 6 0 ++ toBytes 8 (a.value.getD 0).toNat
  | none => toBytes 16 0

/-- The walk whose position the image holds: the strand's own, or the one that its handler interrupts (R370). -/
def Task.ownWalk (t : Task) : Option Walk := if t.walk.isSome then t.walk else t.hwalk

/-- The context image (R410) of a task. In system mode the handler's banked state is in the sections of the task's state; the task's follows
the snapshot records, with its awaited response and its own records in flight (notes/assumptions/34.md). -/
def imageParts (t : Task) (state ndie ldie : Nat) (xst info : Word) : Parts :=
  let tb := if t.sys then t.held else t.bank
  let rng := List.range
  [ (0x0, headerBytes t state xst info),
    (0x100, wordsBytes ((rng 64).map t.gr)),
    (0x300, wordsBytes ((rng 8).map (fun n => t.m.get n 0))),
    (0x340, toBytes 8 ((rng 8).foldl (fun a n => a + (if t.k.get n false then 2 ^ n else 0)) 0)),
    (0x348, toBytes 8 (tokenWord t)),
    (0x350, branchBytes t.bank),
    (0x3B0, walkBytes t.ownWalk),
    (0x3C0, awaitBytes t.await),
    (0x400, wordsBytes ((rng 64).map (t.creg t.now ndie ldie))),
    (0x600, wordsBytes ((rng 16).map (fun n => t.aparam.get n 0))),
    (0x680, (rng 2).flatMap (fun n =>
      let b := t.books.get n ⟨[], 0⟩
      padTo 16 (b.table.flatMap (toBytes 2)) ++ toBytes 8 b.tag)),
    (0x6C0, match t.fmtPend.getLast? with
      | some (due, v) => toBytes 8 v.toNat ++ toBytes 8 due
      | none => toBytes 16 0),
    (0x800, wordsBytes ((rng 64).map (fun i => (t.gens.getD i default).fs))),
    (0xA00, wordsBytes ((rng 64).map (fun i => (t.gens.getD i default).eco))),
    (0xC00, (rng 64).flatMap (fun i => toBytes 4 (t.gens.getD i default).step)),
    (0xD00, (rng 64).flatMap (fun i => toBytes 1 (t.gens.getD i default).tag)),
    (0x1000, (rng 32).flatMap (fun n => viewBytes (t.views.get n default))),
    (0x1400, coordBytes t.coord),
    (0x1C00, (rng 64).flatMap (fun n => toBytes 8 (landWord t.clock (tb.land.get n default)))),
    (0x1E00, if t.sys then (rng 8).flatMap (fun n => toBytes 8 (landWord t.hclock (t.bank.land.get n default))) else []),
    (0x2000, (rng 32).flatMap (fun n => lanes4 (t.vr n))),
    (0x4000, (rng 64).flatMap (fun n => landBytes tb.land n)),
    (0x8000, portBytes t.bank),
    (0xC000, (snapAll t.now [] t.bank.flight ++
      (if t.sys then branchBytes t.held ++ padTo 0x4000 (portBytes t.held) ++ awaitBytes t.hawait ++ snapAll t.clock [] t.held.flight
        else [])).take 0x6000),
    (0x12000, match t.ownWalk with
      | some w => w.grads.flatMap (fun g => lanes8 g.2)
      | none => []),
    (0x18000, if t.sys then (rng 8).flatMap (fun n => landBytes t.bank.land n) else []) ]

/-! ### Loading an image (R413, R414) -/

/-- What a load of an image reads: n bytes of the layout from an offset. -/
abbrev ImageRd := Nat → Nat → List Byte

/-- A little-endian number of an image. -/
def ImageRd.num (rd : ImageRd) (o n : Nat) : Nat := ofBytes (rd o n)

/-- A word of an image. -/
def ImageRd.word (rd : ImageRd) (o : Nat) : Word := wd (rd.num o 8)

/-- Words of an image from an offset, n of them, as a numbered table. -/
def ImageRd.words (rd : ImageRd) (o n : Nat) : Tab Word := (List.range n).map (fun i => (i, rd.word (o + 8 * i)))

/-- Lanes of z bytes each. -/
def ImageRd.lanes (rd : ImageRd) (o z : Nat) : Lanes := (List.range 64).map (fun i => wd (rd.num (o + z * i) z))

/-- A token's state from its code (R410); a code that names none leaves it. -/
def TokState.ofCode (old : TokState) (n : Nat) : TokState :=
  match n with
  | 0 => .idle | 1 => .pending | 2 => .complete | 3 => .error | 4 => .faulted | _ => old

/-- b registers, LC and LE from 96 bytes (R410). -/
def Bank.loadBranch (b : Bank) (rd : ImageRd) (o : Nat) : Bank :=
  { b with b := rd.words o 4, lc := rd.words (o + 32) 4, le := rd.words (o + 64) 4 }

/-- The value of a port from an image; a tile name keeps its class while its word is the same. -/
def Val.load (old : Val) (rd : ImageRd) (o n : Nat) : Val :=
  if n = 512 then .v (rd.lanes o 8)
  else match old with
    | .tile c i => if rd.word o = wd (c * 32 + i) then old else .w (rd.word o)
    | _ => .w (rd.word o)

/-- Latches and shadow sets from an image (R410): the assigned ports from an offset, by unit then port. -/
def Bank.loadPorts (rd : ImageRd) : Nat → List (Nat × Nat × Nat) → Bank → Bank
  | _, [], b => b
  | o, (u, p, n) :: r, b =>
    let b :=
      if p < 2 then { b with latch := b.latch.set (u * 2 + p) ((b.latch.get (u * 2 + p) (.w 0)).load rd o n) }
      else { b with shadow := b.shadow.set (u * 16 + p) ((b.shadow.get (u * 16 + p) (.w 0)).load rd o n) }
    Bank.loadPorts rd (o + n) r b

/-- The assigned ports by unit then port, with their sizes in the image. -/
def portTable : List (Nat × Nat × Nat) :=
  (List.range 19).flatMap (fun u => (portSizes (u + 1)).map (fun p => (u + 1, p.1, p.2)))

/-- A landing entry from its state word and the offset of its data (R410). -/
def Land.load (e : Land) (rd : ImageRd) (now n word data : Nat) : Land :=
  let c := nbits word 35 34
  let odd := c == 3 && n % 2 == 1
  let x : Val := if odd then .w 0 else if c = 3 then .v (rd.lanes data 8) else if c = 2 then .v (rd.lanes data 4) else .w (rd.word data)
  let bad := nbit word 33
  let left := nbits word 31 0
  if nbit word 32 ∧ left = 0 then { e with cls := if odd then 4 else c, val := x, poison := bad, pend := none }
  else
    let p : LandPend := match e.pend with
      | some p => p
      | none => { (default : LandPend) with
          form := if odd then 0 else if c < 2 then 16 else 17, ty := if c = 3 then ElemType.s64.code else ElemType.s32.code, addr := e.addr }
    { e with pend := some { p with due := now + left, got := if nbit word 32 then some (x, bad) else p.got } }

/-- Landing entries from an image: n of them, their state words and their data (R410). -/
def loadLands (l : Tab Land) (rd : ImageRd) (now n words data : Nat) : Tab Land :=
  (List.range n).map (fun i => (i, (l.get i default).load rd now i (rd.num (words + 8 * i) 8) (data + 256 * i)))

/-- Results in flight from packed snapshot records (R411), with the order of each: n of them, or all that follow when a count is
not given; a guard-bit write stays with the record of its result. -/
def loadSnaps (rd : ImageRd) (now : Nat) : Nat → Nat → List Flight → List (Nat × Flight)
  | 0, _, _ => []
  | n + 1, o, old =>
    let unit := rd.num o 1
    if unit = 0 ∨ 19 < unit then []
    else
      let c := rd.num (o + 2) 1
      let fl := rd.num (o + 3) 1
      let h := rd.num (o + 1) 1 == 1
      let was := match old with
        | f :: _ => if f.unit = unit ∧ f.h = h then some f else none
        | [] => none
      let x : Val := if c = 3 then .v (rd.lanes (o + 16) 8) else if c = 2 then .v (rd.lanes (o + 16) 4) else .w (rd.word (o + 16))
      let f : Flight := ⟨unit, h, now + rd.num (o + 4) 2, match was with | some f => f.val.map (fun _ => x) | none => some x,
        BitVec.ofNat 6 (fl / 2), was.bind (·.k), nbit fl 0, c == 3⟩
      (rd.num (o + 6) 1, f) :: loadSnaps rd now n (o + 16 + snapSize c) (old.drop 1)

/-- Results in flight in the order of their records' ORDER (R411). -/
def snapOrder (l : List (Nat × Flight)) : List Flight := (l.mergeSort (fun a b => decide (a.1 ≤ b.1))).map (·.2)

/-- A view table entry from its 32 bytes (R324). -/
def View.load (rd : ImageRd) (o : Nat) : View :=
  ⟨rd.word o, rd.num (o + 8) 4, rd.num (o + 12) 1, rd.num (o + 13) 1, rd.num (o + 14) 1, rd.num (o + 16) 4, rd.num (o + 20) 4⟩

/-- The control registers of an image, each through a map of its old value and the value the image holds. -/
def Ctl.load (c : Ctl) (rd : ImageRd) (f : Nat → Word → Word → Word) : Ctl :=
  let r (n : Nat) (old : Word) : Word := f n old (rd.word (0x400 + 8 * n))
  { c with
    fmt := r 0 c.fmt, rmode := r 1 c.rmode, mode := r 2 c.mode, fflags := r 3 c.fflags, taskid := r 4 c.taskid, seed := r 9 c.seed
    key := r 10 c.key, rsp := r 11 c.rsp, rgm := r 12 c.rgm, prio := r 13 c.prio, dbmode := r 14 c.dbmode, perfsel := r 15 c.perfsel
    otag := r 16 c.otag, tvec := r 32 c.tvec, xst := r 33 c.xst, xpc := r 34 c.xpc, xinfo := r 35 c.xinfo, xscr := r 36 c.xscr }

/-- A walk's position from an image (R410). -/
def Walk.load (w : Walk) (rd : ImageRd) : Walk :=
  { w with phase := rd.num 0x3B0 4, bundle := rd.num 0x3B4 4, slot := rd.num 0x3B8 4, replay := rd.num 0x3BC 4 != 0 }

/-- An awaited response from an image (R410): the port and slot of its form, and its value once it has returned. -/
def Await.load (a : Await) (rd : ImageRd) (o : Nat) : Await :=
  { a with port := rd.num o 1, slot := rd.num (o + 1) 1, value := a.value.map (fun _ => rd.word (o + 8)) }

/-- The part of a task that bytes 0x0000-0x3FFF of its image give (R410, R413). The fields of the header that say what the part
has allocated or what stopped the task, and the identity registers that follow from its place, are not loaded
(notes/assumptions/34.md). -/
def Task.loadLow (t : Task) (rd : ImageRd) (f : Nat → Word → Word → Word) : Task :=
  let tb := if t.sys then t.held else t.bank
  let clock := rd.num 32 8
  let tb := { tb with land := loadLands tb.land rd clock 64 0x1C00 0x4000 }
  let hclock := if t.sys then rd.num 40 8 else t.hclock
  let (bank, held) :=
    if t.sys then ({ t.bank with land := loadLands t.bank.land rd hclock 8 0x1E00 0x18000 }, tb) else (tb, t.held)
  let pc := rd.word 8
  let slot := min (rd.num 16 1 % 8) 5
  let pend := rd.num 112 1
  { t with
    bprio := rd.num 6 1, pc := pc, clock := clock, hclock := hclock
    slot := if pc = t.pc ∧ rd.word 16 = t.stopWord then t.slot else slot
    cur := if pc = t.pc then t.cur else default
    copyTr := if pend = t.copyTr.foldl (fun m n => m ||| 2 ^ n) 0 then t.copyTr else (List.range 8).filter (fun n => nbit pend n)
    g := (rd.words 0x100 64).set 0 0
    m := rd.words 0x300 8
    k := (List.range 8).map (fun n => (n, nbit (rd.num 0x340 1) n))
    toks := (List.range 8).map (fun n => (n, { t.tok n with st := (t.tok n).st.ofCode (nbits (rd.num 0x348 4) (4 * n + 3) (4 * n)) }))
    bank := bank.loadBranch rd 0x350
    held := held
    walk := t.walk.map (fun w => w.load rd)
    hwalk := if t.walk.isSome then t.hwalk else t.hwalk.map (fun w => w.load rd)
    await := t.await.map (fun a => a.load rd 0x3C0)
    ctl := t.ctl.load rd f
    aparam := rd.words 0x600 16
    books := (List.range 2).map (fun n =>
      (n, ⟨(List.range 8).map (fun i => rd.num (0x680 + 24 * n + 2 * i) 2), rd.num (0x680 + 24 * n + 16) 8⟩))
    fmtPend := if rd.num 0x6C0 16 = 0 then [] else t.fmtPend.dropLast ++ [(rd.num 0x6C8 8, rd.word 0x6C0)]
    gens := (List.range 64).map (fun i =>
      { fs := rd.word (0x800 + 8 * i), eco := rd.word (0xA00 + 8 * i), step := rd.num (0xC00 + 4 * i) 4, tag := rd.num (0xD00 + i) 1 })
    views := (List.range 32).map (fun n => (n, View.load rd (0x1000 + 32 * n)))
    coord := (List.range (min (rd.num 0x1400 8) 510)).map (fun i => rd.num (0x1408 + 4 * i) 4)
    v := (List.range 32).map (fun n => (n, rd.lanes (0x2000 + 256 * n) 4)) }

/-- A live write of the strand register window (R413): the image's bytes below 0x4000 are read back, the control registers through
their own maps (R10, R56-R58, R318, R398, R399); a write that a register's map refuses leaves it as it was and raises nothing
(notes/assumptions/34.md). -/
def Task.fromWindow (t : Task) (off : Nat) (bs : List Byte) (ps : Parts) : Task :=
  let own (n : Nat) : Nat := ofBytes (Parts.slice [(off, bs)] (0x400 + 8 * n) 8)
  t.loadLow (fun o n => Parts.slice ((off, bs) :: ps) o n) (fun n old x =>
    if n = 4 ∨ n = 12 ∨ n = 13 ∨ n = 14 ∨ n = 16 then old
    else if n = 3 then (x &&& 0x1F00) ||| (old &&& 0x3F &&& ~~~(wd (own 3)))
    else (ctField n old x).getD old)

/-- Loads a task from its whole image (R414 step 3). -/
def Task.fromImage (t : Task) (rd : ImageRd) : Task :=
  let u := t.loadLow rd (fun n old x => if n = 3 then x &&& 0x1F3F else if n = 2 then x &&& 0x3F else (ctField n old x).getD old)
  let snaps := loadSnaps rd u.now (rd.num 7 1) 0xC000 t.bank.flight
  let bank := { Bank.loadPorts rd 0x8000 portTable u.bank with flight := snapOrder snaps }
  let walk (w : Walk) : Walk :=
    { w with grads := w.grads.zipIdx.map (fun (g, i) => (g.1, rd.lanes (0x12000 + 512 * i) 8)) }
  let u := { u with
    bank := bank, walk := u.walk.map walk, hwalk := if u.walk.isSome then u.hwalk else u.hwalk.map walk }
  if u.sys then
    let o := 0xC000 + (snaps.map (fun x => 16 + snapSize x.2.cls)).sum
    let held := Bank.loadPorts rd (o + 96) portTable (u.held.loadBranch rd o)
    { u with
      held := { held with flight := snapOrder (loadSnaps rd u.clock 64 (o + 0x4070) t.held.flight) }
      hawait := u.hawait.map (fun a => a.load rd (o + 0x4060)) }
  else u

/-- The task that holds a strand of a core, if one does. -/
def State.onStrand (s : State) (core strand : Nat) : Option Nat := (s.coreAt core).res.find? strand

/-- The image of a task as its strand's register window shows it (R413). -/
def State.liveImage (s : State) (id : Nat) : Parts :=
  let t := s.task id
  imageParts t t.stateCode (s.ndie t) (s.ldie t) t.stopWord t.stopInfo

/-- Reads bytes of a strand's register window; a strand that holds no task reads zero (R413). -/
def State.windowRead (s : State) (core strand off n : Nat) : List Byte :=
  match s.onStrand core strand with
  | some id => Parts.slice (s.liveImage id) off n
  | none => List.replicate n 0

/-- Writes bytes of a strand's register window (R413). -/
def State.windowWrite (s : State) (core strand off : Nat) (bs : List Byte) : State :=
  match s.onStrand core strand with
  | some id => s.setTask id ((s.task id).fromWindow off bs (s.liveImage id))
  | none => s

end Sys2Proof.Machine
end

