-- ==== Sys2Proof/Machine/Phys.lean ====
section
/-! DEFINITION. The physical map (spec/03_memory_model.md R82-R86, 20 R464, R465): where an address lies, which accesses it
permits, queue positions and pushes, and the reads and writes of physical bytes. -/

namespace Sys2Proof.Machine

open Host Arith

/-- Where a physical address lies. -/
inductive Place where
  | hbm (die : Nat)
  | cxl (port : Nat)
  | host (x : Nat)
  | peer (n off : Nat)
  | core (core off : Nat)
  | push (core q : Nat)
  | regs (core strand off : Nat)
  | pad (cluster off : Nat)
  | hole
deriving DecidableEq, Repr

/-- The size of one die's stack (R82). -/
def stackSize : Nat := 48 * 2 ^ 30

/-- The range of the physical map that an address lies in (R82, R83, R464). -/
def place (pa : Nat) : Place :=
  if pa < 8 * stackSize then .hbm (pa / stackSize)
  else if 0x1000000000000 ≤ pa ∧ pa < 0x1020000000000 then .cxl 0
  else if 0x1020000000000 ≤ pa ∧ pa < 0x1040000000000 then .cxl 1
  else if 0x2000000000000 ≤ pa ∧ pa < 0x3000000000000 then .host (pa - 0x2000000000000)
  else if 0x3000000000000 ≤ pa ∧ pa < 0x4000000000000 then
    .peer ((pa - 0x3000000000000) / 0x100000000000) ((pa - 0x3000000000000) % 0x100000000000)
  else if 0xE000000000000 ≤ pa ∧ pa < 0xE000040000000 then
    let A := pa - 0xE000000000000
    let cl := nbits A 29 27 * 8 + nbits A 26 24
    if nbit A 23 then
      let off := nbits A 22 0
      if off < 0x400000 then .pad cl off else .hole
    else
      let c := cl * 8 + nbits A 22 20
      let off := nbits A 19 0
      if off < 0xA0000 then .core c off
      else if off < 0xB0000 then .push c ((off - 0xA0000) / 0x1000)
      else if off < 0xC0000 then .regs c ((off - 0xB0000) / 0x4000) ((off - 0xB0000) % 0x4000)
      else .hole
  else .hole

/-- The firmware-reserved range of a stack: its top 64 MiB (R480). -/
def reserved (pa : Nat) : Bool := decide (pa < 8 * stackSize) && decide (stackSize - 64 * 2 ^ 20 ≤ pa % stackSize)

/-- Whether peer window n is open, and its size and base (R464). -/
def State.peerWin (s : State) (n : Nat) : Option (Nat × Nat) :=
  let w := s.pwin.get n 0
  let lg := wbits w 15 8
  if wbit w 0 ∧ 16 ≤ lg ∧ lg ≤ 44 then some (2 ^ lg, wbits w 63 16 * 2 ^ 16) else none

/-- The memory key of a physical address: the windows name PCI Express addresses (R464). -/
def State.key (s : State) (pa : Nat) : Nat :=
  match place pa with
  | .host x => extBase + x
  | .peer n off => match s.peerWin n with
    | some (_, b) => extBase + b + off
    | none => pa
  | _ => pa

/-- What an access is, for the checks of the physical map: the partition, whether it comes from system mode, whether peer
windows are open to it, and whether it is an atomic. -/
structure Acc where
  part   : Nat
  sys    : Bool
  peer   : Bool
  atomic : Bool
deriving DecidableEq, Repr

/-- Whether a strand's core issues at present. -/
def State.issuingStrand (s : State) (core strand : Nat) : Bool := (s.coreAt core).issuing == some strand

/-- Whether an access to a physical address is permitted (R82, R84, R91, R413, R435, R465, R471); otherwise it raises the access
fault of class MEM. -/
def State.permits (s : State) (a : Acc) (pa : Nat) : Bool :=
  match place pa with
  | .hbm d => s.partOf d == a.part && !reserved pa
  | .cxl p => s.linkUp.get p false && s.portOwn.find? p == some a.part
  | .host _ => !a.atomic
  | .peer n off => a.peer && !a.atomic && (match s.peerWin n with | some (sz, _) => decide (off < sz) | none => false)
  | .core c off => s.partOf (dieOf c) == a.part && !Config.fusedOff c && (!a.atomic || decide (off < 0x80000))
  | .push c _ => s.partOf (dieOf c) == a.part && !Config.fusedOff c && !a.atomic
  | .regs c st _ => s.partOf (dieOf c) == a.part && !Config.fusedOff c && a.sys && !a.atomic && !s.issuingStrand c st
  | .pad c _ => s.partOf (c / 8) == a.part
  | .hole => false

/-- Whether a read through the host window or a peer window is completed with an error (R465). -/
def State.linkRefuses (s : State) (pa : Nat) : Bool :=
  match place pa with
  | .host x => Config.linkRefuses x
  | .peer _ _ => Config.linkRefuses (s.key pa - extBase)
  | _ => false

/-! ### Queues (R277) -/

/-- A queue of a core. -/
def State.queue (s : State) (core q : Nat) : Queue := (s.coreAt core).queues.get q default

/-- Replaces a queue of a core. -/
def State.setQueue (s : State) (core q : Nat) (x : Queue) : State :=
  let c := s.coreAt core
  s.setCore core { c with queues := c.queues.set q x }

/-- The number of entries a queue holds, TAIL - HEAD. -/
def Queue.count (q : Queue) : Nat := (q.tail - q.head).toNat

/-- The entry size of a configured queue. -/
def Queue.entry (q : Queue) : Nat := match q.cfg with | some (_, e, _) => 2 ^ e | none => 0

/-- The capacity of a configured queue, in entries. -/
def Queue.cap (q : Queue) : Nat := match q.cfg with | some (_, _, n) => 2 ^ n | none => 0

/-- The local-store offset of the byte at an offset from a counter's entry, wrapped within the buffer (R136, R192, R277). -/
def Queue.pos (q : Queue) (ctr : BitVec 32) (off : Nat) : Nat :=
  match q.cfg with
  | some (b, e, n) => b + (ctr.toNat * 2 ^ e + off) % 2 ^ (e + n)
  | none => 0

/-- Reads n bytes at an offset from a counter's entry, with wrap. -/
def State.queueRead (s : State) (core : Nat) (q : Queue) (ctr : BitVec 32) (off n : Nat) : List Byte :=
  (List.range n).flatMap (fun i => s.see (coreWin core (q.pos ctr (off + i))) 1)

/-- Writes bytes at an offset from a counter's entry, with wrap: the piece before the buffer's end, then the piece after it; bytes
that go round the buffer more than once are written one by one. -/
def State.queueWrite (s : State) (core : Nat) (q : Queue) (ctr : BitVec 32) (off : Nat) (bs : List Byte) : State :=
  match q.cfg with
  | some (b, e, n) =>
    let p := (ctr.toNat * 2 ^ e + off) % 2 ^ (e + n)
    let first := min bs.length (2 ^ (e + n) - p)
    if 2 ^ (e + n) < bs.length then
      bs.zipIdx.foldl (fun s (x, i) => s.wr (coreWin core (q.pos ctr (off + i))) [x]) s
    else
      let s := s.wr (coreWin core (b + p)) (bs.take first)
      if first < bs.length then s.wr (coreWin core b) (bs.drop first) else s
  | none => s

/-- Whether an hx.sld of a helper of the core has sectors outstanding on a queue (R313). -/
def State.outstanding (s : State) (core q : Nat) : Bool :=
  let c := s.coreAt core
  c.ret.out.any (fun o => o.1 == q) || c.set.out.any (fun o => o.1 == q)

/-! ### Reads and writes of the physical map -/

/-- Reads bytes of the physical map: push windows read zero (R86), register windows their strands' images (R413). Bytes past the
end of a strand's register window are the next one's. -/
def State.load (s : State) (pa n : Nat) : List Byte :=
  match place pa with
  | .push _ _ => List.replicate n 0
  | .regs c st off =>
    let k := min n (0x4000 - off)
    s.windowRead c st off k ++ (if k < n then
      match place (pa + k) with
      | .regs c st off => s.windowRead c st off (n - k)
      | _ => List.replicate (n - k) 0
    else [])
  | _ => s.see (s.key pa) n

/-- Whether a read carries an uncorrectable error (R267). -/
def State.loadBad (s : State) (pa n : Nat) : Bool := s.bad (s.key pa) n

/-- The 256-byte lines that n bytes from a physical address touch. -/
def linesOf (pa n : Nat) : List Nat := ((sectorsOf pa n).map (· / 2)).eraseDups

/-- The set of an L2 that a superblock lies in: 2,048 sets in each of a die's eight slices (R3, R456); which is open. -/
def l2Set (sb : Nat) : Nat := Config.l2Set sb % (8 * 2048)

/-- The home slice of a line within its die, 0-7. -/
def sliceOf (line : Nat) : Nat := l2Set (line / 4) / 2048

/-- The die that a line is homed on (R82, R470). -/
def homeOf (line : Nat) : Nat :=
  match place (line * 256) with
  | .hbm d => d
  | .cxl p => if p = 0 then 0 else 7
  | _ => 0

/-- Keeps what the memory behind the caches holds of a line that an agent of the part is about to change (R394, R449). -/
def State.keepBack (s : State) (line : Nat) : State :=
  if (s.back.find? line).isSome then s else { s with back := s.back.set line (s.rd (line * 256) 256) }

/-- The memory behind the caches takes a line's bytes (R448, R449). -/
def State.writeBack (s : State) (line : Nat) : State := { s with back := s.back.del line }

/-- What the memory behind the caches holds of a line (R394). -/
def State.memoryLine (s : State) (line : Nat) : List Byte := s.back.get line (s.rd (line * 256) 256)

/-- What the memory behind the caches holds of every byte (R394). -/
def State.behind (s : State) : List Cell := s.back.foldl (fun m x => Memory.write m (x.1 * 256) x.2) s.mem

/-- Writes bytes of the physical map other than a push window. -/
def State.store (s : State) (pa : Nat) (bs : List Byte) : State :=
  match place pa with
  | .regs c st off =>
    let k := min bs.length (0x4000 - off)
    let s := s.windowWrite c st off (bs.take k)
    if k < bs.length then
      match place (pa + k) with
      | .regs c st off => s.windowWrite c st off (bs.drop k)
      | _ => s
    else s
  | .push _ _ => s
  | .hbm _ => ((linesOf pa bs.length).foldl State.keepBack s).wr pa bs
  | .cxl _ => ((linesOf pa bs.length).foldl State.keepBack s).wr pa bs
  | _ => s.wr (s.key pa) bs

/-- Whether a physical address is global memory: HBM or the CXL tier (R331). -/
def isGlobal (pa : Nat) : Bool :=
  match place pa with
  | .hbm _ => true
  | .cxl _ => true
  | _ => false

/-- Writes bytes at the home of their lines, where no cache holds a copy (R91): the memory behind the caches takes them. -/
def State.homeStore (s : State) (pa : Nat) (bs : List Byte) : State :=
  let s := s.store pa bs
  if isGlobal pa then (linesOf pa bs.length).foldl State.writeBack s else s

/-- A count of the negative acknowledgements of a core's agents (R483, selector 0x04). -/
def State.refuse (s : State) (core : Nat) : State :=
  let c := s.coreAt core
  s.setCore core { c with refused := c.refused + 1 }

end Sys2Proof.Machine
end

