-- ==== Sys2Proof/Machine/Translate.lean ====
section
/-! DEFINITION. Translation (spec/18_translation_partitions.md R432-R439): page-table walks, the updates of A and D, and the
translation caches. -/

namespace Sys2Proof.Machine

open Host Arith

/-- What a translation needs of its leaf (R435). -/
inductive Perm where
  | read | write | atomic | fetch
deriving DecidableEq, Repr

/-- The access field of a fault message's AUX word (R444). -/
def Perm.code : Perm → Nat
  | .read => 0 | .write => 1 | .fetch => 2 | .atomic => 3

/-- A translation's outcome: the physical address, or the fault's reason with the level reached (R438). -/
inductive Tr where
  | ok (pa : Nat)
  | bad (reason level : Nat)
deriving DecidableEq, Repr

/-- Whether a virtual address is canonical (R87). -/
def canonical (va : Word) : Bool :=
  let top := wbits va 63 56
  top == 0 || top == 255

/-- The 57 bits of an address that translation uses (R87). -/
def va57 (va : Word) : Nat := va.toNat % 2 ^ 57

/-- The index of a level in a virtual address (R433). -/
def walkIndex (level va : Nat) : Nat :=
  match level with
  | 0 => nbits va 56 48 | 1 => nbits va 47 39 | 2 => nbits va 38 30 | 3 => nbits va 29 21 | _ => nbits va 20 16

/-- The page-offset bits of a leaf at a level (R433). -/
def pageBits (level : Nat) : Nat := match level with | 2 => 30 | 3 => 21 | _ => 16

/-- The alignment of the table below a level (R433). -/
def tableAlign (level : Nat) : Nat := if level = 3 then 256 else 4096

/-- Whether a table lies in the partition's HBM (R437). -/
def State.tableOk (s : State) (part pa : Nat) : Bool :=
  match place pa with
  | .hbm d => s.partOf d == part && !reserved pa
  | _ => false

/-- The leaf a walk finds: its physical address, its value and its level. -/
inductive WalkEnd where
  | leaf (at_ pte level : Nat)
  | bad (reason level : Nat)
deriving DecidableEq, Repr

/-- The reason an entry at a level fails, 0 when it stands (R434). -/
def entryFault (level e : Nat) : Nat :=
  if !nbit e 0 then 1
  else if nbit e 63 ∨ nbits e 53 52 ≠ 0 ∨ nbit e 7 then 3
  else if nbit e 1 then
    if level < 2 ∨ nbits e 55 54 = 3 then 3
    else if nbits e 51 8 * 256 % 2 ^ pageBits level ≠ 0 then 4 else 0
  else if level = 4 ∨ nbits e 55 54 ≠ 0 ∨ nbits e 6 2 ≠ 0 then 3
  else if nbits e 51 8 * 256 % tableAlign level ≠ 0 then 4 else 0

/-- Walks the levels from one down (R433, R437): `fuel` counts the levels left. -/
def State.walkFrom (s : State) (part va : Nat) : Nat → Nat → Nat → WalkEnd
  | 0, level, _ => .bad 3 level
  | fuel + 1, level, table =>
    if !s.tableOk part table then .bad 7 level
    else
      let at_ := table + 8 * walkIndex level va
      if s.bad at_ 8 then .bad 6 level
      else
        let e := s.rdN at_ 8
        let r := entryFault level e
        if r ≠ 0 then .bad r level
        else if nbit e 1 then .leaf at_ e level
        else s.walkFrom part va fuel (level + 1) (nbits e 51 8 * 256)

/-- The root pointer of an address space of a partition, if it is set (R432). -/
def State.root (s : State) (part asid : Nat) : Option Nat := s.asids.find? (part * 256 + asid)

/-- A walk from the root of an address space (R432, R433). -/
def State.walk (s : State) (part asid va : Nat) : WalkEnd :=
  match s.root part asid with
  | none => .bad 5 0
  | some r => s.walkFrom part va 5 0 r

/-- Whether a leaf grants an access (R435). -/
def grants (p : Perm) (e : Nat) : Bool :=
  match p with
  | .read => nbit e 2
  | .write => nbit e 3
  | .atomic => nbit e 2 && nbit e 3
  | .fetch => nbit e 4

/-- The physical address that a leaf gives a virtual address (R433). -/
def leafAddr (pte lg va : Nat) : Nat := nbits pte 51 8 * 256 / 2 ^ lg * 2 ^ lg + va % 2 ^ lg

/-- The cached entry of an address, if there is one (R439). -/
def Tlb.find (l : List Tlb) (asid va : Nat) : Option Tlb :=
  l.find? (fun e => e.asid == asid && e.base == va / 2 ^ e.lg * 2 ^ e.lg)

/-- Adds an entry to a cache of n entries, the oldest leaving (R439). -/
def Tlb.add (n : Nat) (l : List Tlb) (e : Tlb) : List Tlb :=
  let l' := l.filter (fun x => !(x.asid == e.asid && x.base == e.base && x.lg == e.lg))
  (e :: l').take n

/-- Caches a leaf in a core's cache and its die's (R439). Cache tags carry the partition with the address space. -/
def State.cacheLeaf (s : State) (core : Nat) (e : Tlb) : State :=
  let c := s.coreAt core
  let s := s.setCore core { c with tlb := Tlb.add 128 c.tlb e }
  let d := s.die (dieOf core)
  s.setDie (dieOf core) { d with tlb := Tlb.add 16384 d.tlb e }

/-- A walk that caches its leaf, setting A, and D for a write, by compare-and-swap before the access (R436). -/
def State.walkCache (s : State) (core part asid va : Nat) (p : Perm) : State × Tr :=
  match s.walk part asid va with
  | .bad r l => (s, .bad r l)
  | .leaf at_ e level =>
    if !grants p e then (s, .bad 2 level)
    else
      let write := p == .write || p == .atomic
      let e' := e ||| 32 ||| (if write then 64 else 0)
      let s := if e' = e then s else s.homeStore at_ (toBytes 8 e')
      let lg := pageBits level
      let s := s.cacheLeaf core ⟨part * 256 + asid, va / 2 ^ lg * 2 ^ lg, lg, at_, e'⟩
      (s, .ok (leafAddr e' lg va))

/-- The cached leaf a core's accesses to an address use, if its core or die holds one (R439). -/
def State.cached (s : State) (core part asid va : Nat) : Option Tlb :=
  match Tlb.find (s.coreAt core).tlb (part * 256 + asid) va with
  | some e => some e
  | none => Tlb.find (s.die (dieOf core)).tlb (part * 256 + asid) va

/-- Translates through the caches when they hold the page, otherwise by a walk (R436, R439). A write through a cached leaf whose
D is 0 first sets D by compare-and-swap, and walks again when the entry has changed. -/
def State.translate (s : State) (core part asid : Nat) (va : Word) (p : Perm) : State × Tr :=
  let v := va57 va
  match s.cached core part asid v with
  | none => s.walkCache core part asid v p
  | some e =>
    let write := p == .write || p == .atomic
    if !grants p e.pte then s.walkCache core part asid v p
    else if write && !nbit e.pte 6 then s.walkCache core part asid v p
    else (s, .ok (leafAddr e.pte e.lg v))

/-- The address space of a task (R87, R432). -/
def State.asidOf (s : State) (t : Task) : Nat := (s.group t.group).asid

/-- The partition of a task. -/
def State.partOfTask (s : State) (t : Task) : Nat := s.partOf (dieOf t.core)

/-- The AUX word of a MEM fault message (R444): access, level and reason. -/
def auxWord (p : Perm) (level reason : Nat) : Nat := p.code + level * 16 + reason * 256

/-- The pieces of a run of virtual bytes that lie in one 64 KiB page each, by fuel. -/
def pagePieces : Nat → Nat → Nat → List (Nat × Nat)
  | 0, _, _ => []
  | fuel + 1, va, n =>
    if n = 0 then []
    else
      let k := min n (65536 - va % 65536)
      (va, k) :: pagePieces fuel (va + k) (n - k)

/-- A virtual address range as an agent reaches it: physical pieces, or the class MEM code (with its AUX word above 8 bits) and
the faulting address. -/
inductive Reach where
  | ok (ps : List (Nat × Nat))
  | bad (code : Nat) (va : Word)
deriving DecidableEq, Repr

/-- The class MEM code of a failed translation with its AUX word (R438, R444). -/
def trCode (p : Perm) (reason level : Nat) : Nat := (if p = .fetch then 6 else 1) + 256 * auxWord p level reason

/-- Translates pieces and checks that the physical map permits the access (R89). -/
def State.reachPieces (s : State) (core asid : Nat) (a : Acc) (p : Perm) : List (Nat × Nat) → State × Reach
  | [] => (s, .ok [])
  | (va, n) :: r =>
    if !canonical (wd va) then (s, .bad 3 (wd va))
    else match s.translate core a.part asid (wd va) p with
      | (s, .bad reason level) => (s, .bad (trCode p reason level) (wd va))
      | (s, .ok pa) =>
        if !s.permits a pa || (p != .write && s.linkRefuses pa) then (s, .bad (2 + 256 * auxWord p 0 0) (wd va))
        else match s.reachPieces core asid a p r with
          | (s, .ok ps) => (s, .ok ((pa, n) :: ps))
          | x => x

/-- Translates a run of virtual bytes. -/
def State.reach (s : State) (core asid : Nat) (a : Acc) (p : Perm) (va : Word) (n : Nat) : State × Reach :=
  s.reachPieces core asid a p (pagePieces (n / 65536 + 2) va.toNat n)

/-- The bytes of physical pieces. -/
def State.loadAll (s : State) (ps : List (Nat × Nat)) : List Byte := ps.flatMap (fun (pa, n) => s.load pa n)

/-- Whether any byte of physical pieces is poisoned (R267). -/
def State.badAll (s : State) (ps : List (Nat × Nat)) : Bool := ps.any (fun (pa, n) => s.loadBad pa n)

/-- Writes bytes over physical pieces in order. -/
def State.storeAll (s : State) (ps : List (Nat × Nat)) (bs : List Byte) : State :=
  match ps with
  | [] => s
  | (pa, n) :: r => (s.store pa (bs.take n)).storeAll r (bs.drop n)

/-- Writes bytes over physical pieces at the home of their lines. -/
def State.homeAll (s : State) (ps : List (Nat × Nat)) (bs : List Byte) : State :=
  match ps with
  | [] => s
  | (pa, n) :: r => (s.homeStore pa (bs.take n)).homeAll r (bs.drop n)

/-- The access of a task's strand to the physical map: peer windows are open to the copy forms alone (R465). -/
def State.accOf (s : State) (t : Task) : Acc := ⟨s.partOfTask t, t.sys, false, false⟩

end Sys2Proof.Machine
end

