-- ==== Sys2Proof/Machine/Pending.lean ====
section
/-! DEFINITION. The ST accesses that a strand has issued and that are still to be performed (spec/03_memory_model.md R97; 06 R193; 09 R263-R265):
their order, and the performing of those to the strand's own core; and the numbers of refused requests (03 R93, R94). -/

namespace Sys2Proof.Machine

open Host Arith

/-! ### Resources (R93, R94) -/

/-- A resource's counters (R94). -/
def State.resv (s : State) (key : Nat) : Resv := s.resvs.get key ⟨0, 0, []⟩

/-- Replaces a resource's counters. -/
def State.setResv (s : State) (key : Nat) (r : Resv) : State := { s with resvs := s.resvs.set key r }

/-- SERVE passes the numbers that their requests have given up, n of them at most. -/
def Resv.skip (r : Resv) : Nat → Resv
  | 0 => r
  | n + 1 =>
    if r.gone.contains r.serve.toNat then
      Resv.skip { r with serve := r.serve + 1, gone := r.gone.filter (fun k => k != r.serve.toNat) } n
    else r

/-- The request numbered SERVE has been accepted (R94). -/
def Resv.served (r : Resv) : Resv := { r with serve := r.serve + 1 }.skip r.gone.length

/-- A numbered request that will never be offered again gives its number up, so that SERVE passes it. -/
def State.giveUp (s : State) (key : Nat) (num : Option Nat) : State :=
  match num with
  | none => s
  | some k =>
    let r := s.resv key
    s.setResv key ({ r with gone := k :: r.gone }.skip (r.gone.length + 1))

/-- The site of an address (R91): its bank's unit, the banks interleaved at 64 bytes (06 R177), or its home slice. -/
def siteKey (pa : Nat) : Nat :=
  match place pa with
  | .core c off => 2 ^ 26 + c * 16 + off / 64 % 16
  | .pad c off => 2 ^ 27 + c * 32 + off / 64 % 32
  | _ => 2 ^ 28 + homeOf (pa / 256) * 8 + sliceOf (pa / 256)

/-- An operand of an awaited request. -/
def Await.arg (a : Await) (i : Nat) : Nat := a.args.getD i 0

/-- The resource that a request of a core asks (R93): the binding table of its site (R275), a queue (R277), a die's spawn queue, or the
atomic queue of its site. -/
def Await.resource (a : Await) (core : Nat) : Nat :=
  if a.port = 40 then 2 ^ 32 + siteKey a.addr
  else if a.port = 36 then 2 ^ 23 + core * 16 + a.arg 5
  else if a.port = 16 then 2 ^ 24 + core / 64
  else siteKey a.addr

/-- The number that a request has been given, if any (R94). -/
def Await.number (a : Await) : Option Nat := if a.arg 2 = 0 then none else some (a.arg 2 - 1)

/-- The requests of a task that wait for their responses: that of its present mode, and that which its handler interrupted (R303). -/
def Task.awaits (t : Task) : List (Bool × Await) :=
  (t.await.toList.map (fun a => (false, a)) ++ t.hawait.toList.map (fun a => (true, a))).filter (fun x => x.2.value.isNone)

/-- The first of them that a predicate names. -/
def Task.pick (t : Task) (f : Await → Bool) : Option (Bool × Await) := t.awaits.find? (fun x => f x.2)

/-- Replaces a request that waits for its response. -/
def Task.setAwait (t : Task) (held : Bool) (a : Await) : Task := if held then { t with hawait := some a } else { t with await := some a }

/-- The bytes in which two layouts of the same pieces differ. -/
def Parts.changes (old new : Parts) : List (Nat × Byte) :=
  (old.zip new).flatMap (fun (x, y) =>
    if x.2 = y.2 then []
    else (y.2.zipIdx.filter (fun (b, i) => x.2.getD i 0 != b)).map (fun (b, i) => (y.1 + i, b)))

/-- Changes a task that may be out of its strand: what its context image says of it then changes with it (R303, R410). -/
def State.setOut (s : State) (id : Nat) (t' : Task) : State :=
  if t'.stage = .preempted ∧ t'.image ≠ 0 then
    let old := s.liveImage id
    let s := s.setTask id t'
    (old.changes (s.liveImage id)).foldl (fun s c => s.wr (t'.image + c.1) [c.2]) s
  else s.setTask id t'

/-- The requests of a task that will never be offered again give up their numbers (R94), and its waits leave their sites (R274). -/
def State.forget (s : State) (id : Nat) : State :=
  let t := s.task id
  let syncs := s.syncs.mapVals (fun _ o => { o with waits := o.waits.filter (fun w => w.1 != id) })
  let s := { s with syncs := syncs.filter (fun x => x.2.bound.isSome || !x.2.waits.isEmpty) }
  let drop (s : State) (a : Option Await) : State :=
    match a with
    | some a => if a.value.isNone && a.arg 0 == 1 then s.giveUp (a.resource t.core) a.number else s
    | none => s
  let s := drop (drop s t.await) t.hawait
  s.setTask id { s.task id with await := none, hawait := none }

/-! ### Accesses still to be performed -/

/-- Whether two runs of bytes overlap. -/
def overlap (a n b m : Nat) : Bool := decide (a < b + m ∧ b < a + n)

/-- A landing entry of a task by its number; from 64, those of the bank held for it while it runs its handler (R397). -/
def Task.landAt (t : Task) (n : Nat) : Land := if n < 64 then t.bank.land.get n default else t.held.land.get (n - 64) default

/-- Replaces a landing entry. -/
def Task.setLandAt (t : Task) (n : Nat) (e : Land) : Task :=
  if n < 64 then { t with bank := { t.bank with land := t.bank.land.set n e } }
  else { t with held := { t.held with land := t.held.land.set (n - 64) e } }

/-- The loads of a bank's entries whose data has not arrived. -/
def loadsIn (l : Tab Land) (base : Nat) : List (Nat × LandPend) :=
  l.filterMap (fun (n, e) => match e.pend with
    | some p => if p.got.isNone then some (base + n, p) else none
    | none => none)

/-- The loads of a task whose data has not arrived, by their entries. -/
def Task.waitingLoads (t : Task) : List (Nat × LandPend) := loadsIn t.bank.land 0 ++ loadsIn t.held.land 64

/-- The queue that a store pushes on, if it is a push (R86). -/
def Store.push (x : Store) : Option (Nat × Nat) := match place x.pa with | .push c q => some (c, q) | _ => none

/-- Whether a pending store keeps an access to bytes waiting: it touches them, or pushes on the same queue (R86, R97 item 1). -/
def Store.meets (x : Store) (pa n : Nat) : Bool :=
  overlap x.pa x.bytes.length pa n || (match x.push, place pa with | some p, .push c q => p == (c, q) | _, _ => false)

/-- Whether every ST access of the task to bytes that comes before a place in its program order has been performed (R97 item 1). -/
def Task.inOrder (t : Task) (seq pa n : Nat) : Bool :=
  t.stores.all (fun x => decide (seq ≤ x.seq) || !x.meets pa n) &&
    t.waitingLoads.all (fun (_, p) => decide (seq ≤ p.seq) || p.pas.all (fun q => q.got.isSome || !overlap q.pa q.n pa n))

/-- Whether bytes lie in the core windows of a core. -/
def ownWindow (core pa : Nat) : Bool :=
  match place pa with
  | .core c _ => c == core
  | _ => false

/-- The places in program order of a task's accesses that are still to be performed, rising. -/
def Task.pendingSeqs (t : Task) : List Nat :=
  (t.stores.map (·.seq) ++ t.waitingLoads.map (fun x => x.2.seq)).foldl (fun l k => insertNat k l) []

/-- Gives bytes to the pieces of a load that a predicate names. -/
def State.takePieces (s : State) (id n : Nat) (mine : Piece → Bool) (f : Piece → List Byte × Bool) : State :=
  let t := s.task id
  let e := t.landAt n
  s.setTask id (t.setLandAt n { e with pend := e.pend.map (fun p =>
    { p with pas := p.pas.map (fun q => if mine q then { q with got := some (f q) } else q) }) })

/-- A store has been performed. -/
def State.dropStore (s : State) (id seq : Nat) : State :=
  s.setTask id { s.task id with stores := (s.task id).stores.filter (fun y => y.seq != seq) }

/-- Performs one access of the current task, by its place in program order, as far as it lies in the core windows of its own core. -/
def State.performOwn (s : State) (seq : Nat) : State :=
  let id := s.cur
  let own := ownWindow s.t.core
  let s := match s.t.stores.find? (fun x => x.seq == seq) with
    | some x => if x.rel == Rel.none && own x.pa && s.t.inOrder seq x.pa x.bytes.length then (s.store x.pa x.bytes).dropStore id seq else s
    | none => s
  match s.t.waitingLoads.find? (fun x => x.2.seq == seq) with
  | some (n, _) =>
    s.takePieces id n (fun q => own q.pa && q.got.isNone && s.t.inOrder seq q.pa q.n) (fun q => (s.load q.pa q.n, s.loadBad q.pa q.n))
  | none => s

/-- Performs the strand's earlier accesses to the bytes of its own core that an access at its slot touches, which it follows in trigger
order (R97 item 1, R193). -/
def State.settle (s : State) (ps : List (Nat × Nat)) : State :=
  if ps.all (fun (a, k) => s.t.inOrder s.t.nseq a k) then s else s.t.pendingSeqs.foldl State.performOwn s

end Sys2Proof.Machine
end

