-- ==== Sys2Proof/Machine/Record.lean ====
section
/-! DEFINITION. The residual stack (spec/12_reverse_mode.md R360-R366): records and their trailers, the chunks of the stack and
the tiers they move between, and what a trigger of an open block records (R362, R487). -/

namespace Sys2Proof.Machine

open Host Arith

/-- A number of the task's residual segments (17 R419, R422): 0 C1, 1 the local-store offset, 2 C2, 3 the HBM address, 4 C3, 5
the CXL address. -/
def Task.seg (t : Task) (i : Nat) : Nat := (t.setup.resid.getD i 0).toNat

/-- The bytes that the tiers hold together (R365). -/
def Task.residCap (t : Task) : Nat := 4096 * (t.seg 0 + t.seg 2 + t.seg 4)

/-- The position of a record in a block: its slot and body bundle (R360). -/
def Task.bodyPos (t : Task) : Nat × Nat :=
  match t.inWalk with
  | some w => (w.slot, w.bundle)
  | none => (t.slot, match t.block with | some b => (t.pc.toNat - b.entry.toNat) / 32 | none => 0)

/-- The reverse fault of a cause (R370, R372). -/
def revTrap (s : State) (cause : Nat) : Eff :=
  let (sl, bu) := s.t.bodyPos
  .trap s 7 cause (wd (cause + 256 * sl + 65536 * (bu % 2 ^ 16)))

/-- The chunk table: local-store slot k holds 2 × (chunk + 1), plus 1 when the chunk has been written to its outer tier since it last changed;
entry 2^20 + n is 1 when chunk n lies in HBM and 2 when it lies in CXL; entry 2^21 + n is the mask of the poisoned sectors of a
chunk in CXL, whose image holds no sector of its own. -/
def Task.slotChunk (t : Task) (k : Nat) : Option Nat :=
  let x := t.chunks.get k 0
  if x < 2 then none else some (x / 2 - 1)

/-- The top of the stack as the slots of the bundle have left it (R302). -/
def Task.top (t : Task) : Nat := (t.cur.top.getD t.ctl.rsp).toNat

/-- The end of the stack's bytes in use: its top, and what a push under way has placed. -/
def Task.live (t : Task) : Nat := t.top + t.cur.pushed

/-- Sets the top of the stack: `rsp` shows it at the end of the bundle (R302), and at once in a walk (R368). -/
def Task.setTop (t : Task) (x : Nat) : Task :=
  if t.inWalk.isSome then { t with ctl := { t.ctl with rsp := wd x }, cur := { t.cur with pushed := 0 } }
  else { t with cur := { t.cur with top := some (wd x), pushed := 0 } }

/-- Whether a chunk is in local store. -/
def Task.resident (t : Task) (n : Nat) : Bool := t.slotChunk (n % t.seg 0) == some n

/-- Where a chunk outside local store lies: 0 nowhere, 1 HBM, 2 CXL. -/
def Task.outside (t : Task) (n : Nat) : Nat := t.chunks.get (2 ^ 20 + n) 0

/-- The physical address of a byte of the stack that is in local store (R363). -/
def Task.residPa (t : Task) (off : Nat) : Nat :=
  coreWin t.core (t.seg 1 + off / 4096 % t.seg 0 * 4096 + off % 4096)

/-- The virtual address of a chunk in the HBM segment (R363). -/
def Task.hbmVa (t : Task) (n : Nat) : Word := wd (t.seg 3 + n % t.seg 2 * 4096)

/-- The virtual addresses of a chunk's sizes and of its slot in the CXL segment (R363). -/
def Task.cxlVa (t : Task) (n : Nat) : Word × Word := (wd (t.seg 5 + 16 * n), wd (t.seg 5 + 16 * t.seg 4 + 4096 * n))

/-- The chunk that a chunk's write to its HBM slot moves on to CXL (R363). -/
def Task.onward (t : Task) (m : Nat) : Option Nat :=
  if t.seg 2 ≠ 0 ∧ t.seg 2 ≤ m ∧ t.outside (m - t.seg 2) = 1 then some (m - t.seg 2) else none

/-- What a chunk needs before its slot can be used: nothing, the spill of the chunk in its slot, or its own fill. -/
inductive Need where
  | none | spill (m : Nat) | fill
deriving DecidableEq, Repr

/-- What chunk n needs (R364): a live chunk in its slot is spilled first, also one whose bytes have been written out before, which another
agent may have changed since (R366); a live chunk that lies outside is filled. -/
def Task.need (t : Task) (n : Nat) : Need :=
  if t.resident n then .none
  else
    let own : Need := if n * 4096 < t.live ∧ t.outside n ≠ 0 then .fill else .none
    match t.slotChunk (n % t.seg 0) with
    | some m => if m * 4096 < t.live then .spill m else own
    | .none => own

/-- The accesses of a chunk's write to its outer tier (R363): its CXL slot with its sizes, or its HBM slot, whose chunk moves on first. -/
def Task.spillVas (t : Task) (m : Nat) : List (Word × Nat × Perm) :=
  let cxl (n : Nat) : List (Word × Nat × Perm) := [((t.cxlVa n).1, 16, .write), ((t.cxlVa n).2, 4096, .write)]
  if t.seg 2 = 0 then cxl m
  else (match t.onward m with | some o => (t.hbmVa o, 4096, .read) :: cxl o | none => []) ++ [(t.hbmVa m, 4096, .write)]

/-- The accesses of a chunk's fill. -/
def Task.fillVas (t : Task) (n : Nat) : List (Word × Nat × Perm) :=
  if t.outside n = 2 then [((t.cxlVa n).1, 16, .read), ((t.cxlVa n).2, 4096, .read)] else [(t.hbmVa n, 4096, .read)]

/-- The accesses of the transfer that chunk n needs. -/
def Task.needVas (t : Task) (n : Nat) : List (Word × Nat × Perm) :=
  match t.need n with
  | .none => []
  | .spill m => t.spillVas m
  | .fill => t.fillVas n

/-- The first fault of accesses on path RS, with the state their translations leave. -/
def State.firstFault (s : State) : List (Word × Nat × Perm) → State × Option (Nat × Word)
  | [] => (s, none)
  | (va, n, p) :: r =>
    match s.reach s.t.core (s.asidOf s.t) (s.accOf s.t) p va n with
    | (s, .bad code va) => (s, some (code, va))
    | (s, .ok _) => s.firstFault r

/-- Takes the slot of a chunk that needs nothing. -/
def Task.takeSlot (t : Task) (n : Nat) : Task :=
  if t.resident n then t else { t with chunks := t.chunks.set (n % t.seg 0) (2 * (n + 1)) }

/-- The chunks that n bytes from an offset of the stack lie in. -/
def chunksOf (off n : Nat) : List Nat :=
  if n = 0 then [] else (List.range ((off + n - 1) / 4096 - off / 4096 + 1)).map (fun i => off / 4096 + i)

/-- Has chunks in place before an operation on the stack (R364): a chunk that needs a transfer stalls the strand, by a freeze in
forward execution and by the interlock in a walk; a fault of the transfer is raised at this slot. -/
def State.withChunks (s : State) (cs : List Nat) (ok : State → Eff) : Eff :=
  match cs.find? (fun c => s.t.need c != .none) with
  | none => ok (s.setT (cs.foldl Task.takeSlot s.t))
  | some c =>
    match s.firstFault (s.t.needVas c) with
    | (s, some (code, va)) => .trap s 4 code va
    | (s, none) => .stay (s.setC { s.c with freeze := some ⟨if s.t.inWalk.isSome then 4 else 3, c, 0⟩ })

/-! ### Reading the stack. A record's bytes are read in local store (R364); of a record of more chunks than local store holds, those of its
upper chunks were read before they left. -/

/-- The poisoned sectors of 4,096 bytes in physical pieces, as a mask. -/
def State.badMask (s : State) : Nat → List (Nat × Nat) → Nat
  | _, [] => 0
  | off, (pa, n) :: r =>
    (((sectorsOf (s.key pa) n).filter s.poison.contains).foldl (fun m k => m ||| 2 ^ ((off + (k * 128 - s.key pa)) / 128)) 0) |||
      s.badMask (off + n) r

/-- The lines of a chunk as the line code writes them: sizes and images back to back (R250, R363). -/
def chunkImage (bs : List Byte) : List Byte × List Byte :=
  let imgs := (List.range 16).map (fun i => LineCode.encode (sliceBytes bs (256 * i) 256))
  (imgs.map (fun l => BitVec.ofNat 8 (l.length / 32)), imgs.flatten)

/-- The lines of a chunk read back from its sizes and images. -/
def unchunk : List Nat → List Byte → List Byte
  | [], _ => []
  | n :: r, img => (LineCode.decode n (img.take (32 * n))).getD (List.replicate 256 0) ++ unchunk r (img.drop (32 * n))

/-- The bytes of a chunk outside local store with the mask of its poisoned sectors (R267, R372), or the fault of its fill. -/
def State.fromTier (s : State) (n : Nat) : Except (Nat × Word) (List Byte × Nat) :=
  let get (va : Word) (k : Nat) : Except (Nat × Word) (State × List (Nat × Nat)) :=
    match s.reach s.t.core (s.asidOf s.t) (s.accOf s.t) .read va k with
    | (s, .ok ps) => .ok (s, ps)
    | (_, .bad code va) => .error (code, va)
  if s.t.outside n = 2 then
    (get (s.t.cxlVa n).1 16).bind (fun (s1, p1) => (get (s.t.cxlVa n).2 4096).map (fun (s2, p2) =>
      (unchunk ((s1.loadAll p1).map (·.toNat)) (s2.loadAll p2),
        if s1.badAll p1 || s2.badAll p2 then 2 ^ 32 - 1 else s.t.chunks.get (2 ^ 21 + n) 0)))
  else (get (s.t.hbmVa n) 4096).map (fun (s, ps) => (s.loadAll ps, s.badMask 0 ps))

/-- The sectors of a chunk that bytes from an offset in it touch, tested in a mask. -/
def maskHit (mask off n : Nat) : Bool := (sectorsOf off n).any (nbit mask)

/-- n bytes of the stack, with whether any is poisoned (R372), or the fault of a fill that they need. -/
def State.residSee (s : State) (off n : Nat) : Except (Nat × Word) (List Byte × Bool) :=
  (chunksOf off n).foldlM (fun (acc : List Byte × Bool) c =>
    let a := max off (4096 * c)
    let e := min (off + n) (4096 * c + 4096)
    if s.t.resident c ∨ s.t.outside c = 0 then
      .ok (acc.1 ++ s.rd (s.t.residPa a) (e - a), acc.2 || s.bad (s.t.residPa a) (e - a))
    else (s.fromTier c).map (fun (bs, m) => (acc.1 ++ sliceBytes bs (a - 4096 * c) (e - a), acc.2 || maskHit m (a - 4096 * c) (e - a))))
    ([], false)

/-- Pops the stack down to an offset (R364): the chunks of what is popped are brought into local store, as many as it holds, the lowest
of them. -/
def State.popTo (s : State) (top : Nat) (ok : State → Eff) : Eff :=
  s.withChunks ((chunksOf top (s.t.top - top)).take (s.t.seg 0)) (fun s => ok (s.setT (s.t.setTop top)))

/-! ### Pushing -/

/-- Writes bytes of one chunk of the stack, which is then newer than its copy outside. -/
def State.residPut (s : State) (off : Nat) (bs : List Byte) : State :=
  let s := s.wr (s.t.residPa off) bs
  s.setT { s.t with chunks := s.t.chunks.set (off / 4096 % s.t.seg 0) (2 * (off / 4096 + 1)) }

/-- Places bytes above the top of the stack, chunk by chunk, each once its slot is free (R364); what a stall leaves placed is not placed
again. -/
def State.layDown (s : State) (bs : List Byte) (ok : State → Eff) : Nat → Eff
  | 0 => ok s
  | fuel + 1 =>
    let done := s.t.cur.pushed
    if bs.length ≤ done then ok s
    else
      let off := s.t.live
      let k := min (bs.length - done) (4096 - off % 4096)
      s.withChunks [off / 4096] (fun s =>
        let s := s.residPut off (sliceBytes bs done k)
        (s.setT { s.t with cur := { s.t.cur with pushed := done + k } }).layDown bs ok fuel)

/-! ### Records (R360) -/

/-- n rounded up to a multiple of 16. -/
def pad16 (n : Nat) : Nat := ceilDiv n 16 * 16

/-- The bytes of a record: its payload padded to 16 bytes, then its trailer (R360). -/
def recordBytes (kind rtype slot bundle bid : Nat) (payload : List Byte) : List Byte :=
  padTo (pad16 payload.length) payload ++ toBytes 4 payload.length ++ toBytes 1 kind ++ toBytes 1 rtype ++ toBytes 1 slot ++
    toBytes 1 0 ++ toBytes 4 bundle ++ toBytes 4 bid

/-- A record's trailer (R360). -/
structure Trailer where
  plen   : Nat
  kind   : Nat
  rtype  : Nat
  slot   : Nat
  bundle : Nat
  bid    : Nat
deriving DecidableEq, Repr

/-- A trailer's fields from its 16 bytes. -/
def trailerOf (l : List Byte) : Trailer :=
  ⟨leAt l 0 4, leAt l 4 1, leAt l 5 1, leAt l 6 1, leAt l 8 4, leAt l 12 4⟩

/-- The size of a record on the stack. -/
def Trailer.size (x : Trailer) : Nat := pad16 x.plen + 16

/-- Pushes whole records, all or none (R365): the continuation takes the offsets of their payloads. -/
def State.pushBytes (s : State) (bytes : List (List Byte)) (ok : List Nat → State → Eff) : Eff :=
  let top := s.t.top
  let total := (bytes.map List.length).sum
  if s.t.residCap < top + total then revTrap s 5
  else s.layDown bytes.flatten (fun s =>
    let offs := (bytes.foldl (fun (acc : List Nat × Nat) b => (acc.1 ++ [acc.2], acc.2 + b.length)) ([], top)).1
    ok offs (s.setT (s.t.setTop (top + total)))) (total / 4096 + 2)

/-- Pushes records of a kind, each with its RTYPE, slot, bundle, identity and payload. -/
def State.pushRecords (s : State) (kind : Nat) (rs : List (Nat × Nat × Nat × Nat × List Byte)) (ok : List Nat → State → Eff) : Eff :=
  s.pushBytes (rs.map (fun (rt, sl, bu, bid, p) => recordBytes kind rt sl bu bid p)) ok

/-- Whether the strand is in the body of its open block: in a replay of it, or at a bundle between the begin and the end bundle (R345). A
handler's bundles lie outside it. -/
def Task.inBody (t : Task) (b : Block) : Bool :=
  t.inWalk.isSome || decide (b.entry.toNat ≤ t.pc.toNat ∧ t.pc.toNat < b.entry.toNat + 32 * b.nb)

/-- Whether the task records: in the body of a block that is open in record mode (R345, R300), and that is not a recompute block outside
a replay. -/
def Task.recording (t : Task) : Bool :=
  t.ctl.dbmode == 1 && (match t.block with | some b => !b.recomp && t.inBody b | none => false)

/-- Places the records that a drain held back (R362, R365): a slot that reaches them before the drain has ended waits for it. -/
def State.settleDrain (s : State) (ok : State → Eff) : Eff :=
  match s.t.drain with
  | none => ok s
  | some d =>
    match d.done with
    | none => .block s .residual
    | some rs =>
      let bid := match s.t.block with | some b => b.bid | none => 0
      let items := d.codes.map (fun w => (1, d.slot, d.bundle, bid, toBytes 8 w.toNat)) ++
        rs.map (fun (rt, p) => (rt, d.slot, d.bundle, bid, padTo (if rt = 8 then 128 else if rt = 9 then 4096 else 16) p))
      s.pushRecords 3 items (fun _ s => ok (s.setT { s.t with drain := none }))

/-- Records the items of a trigger (R362): nothing outside record mode; the continuation takes the payload offsets. -/
def State.recorded (s : State) (items : List (Nat × List Byte)) (ok : List Nat → State → Eff) : Eff :=
  if !s.t.recording ∨ items.isEmpty then ok [] s
  else s.settleDrain (fun s =>
    let (sl, bu) := s.t.bodyPos
    let bid := match s.t.block with | some b => b.bid | none => 0
    s.pushRecords 3 (items.map (fun (rt, p) => (rt, sl, bu, bid, p))) ok)

/-- Records an import of a recompute block (R367): an input record of KIND 4, RTYPE 11 for each value. -/
def State.recordImport (s : State) (vals : List (List Byte)) (ok : List Nat → State → Eff) : Eff :=
  match s.t.block with
  | some b =>
    if b.recomp ∧ s.t.ctl.dbmode = 1 ∧ s.t.inBody b then
      let (sl, bu) := s.t.bodyPos
      s.pushRecords 4 (vals.map (fun v => (11, sl, bu, b.bid, v))) ok
    else ok [] s
  | none => ok [] s

/-- Whether a code input needs a code record: the body wrote it last from a source that is no constant of R487. -/
def Task.dynamic (t : Task) (key : Nat) : Bool :=
  match t.block with
  | some b => b.prov.get key true == false
  | none => false

/-- The code records of ports of a unit (R487). -/
def Task.codeRecs (t : Task) (unit : Nat) (ports : List Nat) : List (Nat × List Byte) :=
  (ports.filter (fun p => t.dynamic (unit * 16 + p))).map (fun p => (1, toBytes 8 (t.pw unit p).toNat))

/-- Whether a source is a constant of R487: an immediate, a literal, a tile name, or a block-constant g register. -/
def Task.constSrc (t : Task) (src : Src) : Bool :=
  match src with
  | .imm _ => true
  | .lit _ => true
  | .reg c i _ =>
    match c.toNat with
    | 0 => (match t.block with | some b => nbit b.gmask i.toNat | none => false)
    | 5 => true
    | 6 => true
    | 7 => decide (i.toNat < 32)
    | _ => false
  | _ => false

/-- Notes how a code input was last written in the body of an open block (R487). -/
def Task.noteCode (t : Task) (key : Nat) (const : Bool) : Task :=
  match t.block with
  | some b => if t.inBody b then { t with block := some { b with prov := b.prov.set key const } } else t
  | none => t

end Sys2Proof.Machine
end

