-- ==== Sys2Proof/Machine/Operands.lean ====
section
/-! DEFINITION. Operand forms: reading every source, converting between width classes, writing every destination
(spec/04_core_encoding.md R121-R125, R136), and the frame that every slot form shares: its guard, its checks and its trigger
(R137, R140). -/

namespace Sys2Proof.Machine

open Host Arith

/-- A lane's low half (R149). -/
def low32 (x : Word) : Word := x &&& 0xFFFFFFFF

/-- The lanes of a V read: bits 31:0 of each (R149). -/
def lanesV (l : Lanes) : Lanes := l.map low32

/-- Two vector registers as 64-bit lanes, the even one low (R5). -/
def pairLanes (lo hi : Lanes) : Lanes :=
  (List.range 64).map (fun i => low32 (lo.getD i 0) ||| (hi.getD i 0 <<< 32))

/-- A general, vector, mask, guard, branch or control register, or a tile name, as a source (R121, R124, R125). -/
def Task.readReg (t : Task) (ndie ldie cls idx part : Nat) : Val :=
  match cls with
  | 0 => .w (t.gr idx)
  | 1 =>
    if part = 0 then .v (t.vr idx)
    else if part = 1 then .v (pairLanes (t.vr idx) (t.vr (idx + 1)))
    else if part < 128 then .w ((t.vr idx).getD (part - 64) 0)
    else .w ((pairLanes (t.vr idx) (t.vr (idx + 1))).getD (part - 128) 0)
  | 2 => .w (t.m.get idx 0)
  | 3 => .w (wbool (t.k.get idx false))
  | 4 => .w (t.bank.b.get idx 0)
  | 7 => if 32 ≤ idx then .w (t.creg t.now ndie ldie (idx - 32)) else .tile 7 idx
  | c => .tile c idx

/-- A latch as a source, in class V or P (R149). -/
def Task.readLatch (t : Task) (unit : Nat) (h pair : Bool) : Val :=
  match t.latch unit h with
  | .v l => if pair then .v l else .v (lanesV l)
  | .w x =>
    if latchClass unit h = some .vp ∨ latchClass unit h = some (.fixed .V) then .v (List.replicate 64 x) else .w x
  | x => x

/-- A value moved into a class (R123): S into V and P fills every lane. -/
def convertVal (x : Val) (d : WClass) : Val :=
  match x, d with
  | .w x, .V => .v (List.replicate 64 (low32 x))
  | .w x, .P => .v (List.replicate 64 x)
  | .w x, .K => .w (x &&& 1)
  | .v l, .V => .v (lanesV l)
  | x, _ => x

/-- The bytes a class moves to or from a queue (R123). -/
def queueWidth (c : WClass) : Nat := match c with | .V => 256 | .P => 512 | _ => 8

/-- The bytes of a value written to a queue in a class (R123, R5). -/
def valBytes (x : Val) (c : WClass) : List Byte :=
  match c with
  | .V => lanes4 x.lanes
  | .P => lanes8 x.lanes
  | _ => toBytes 8 x.word.toNat

/-- The value of bytes read in a class (R5). -/
def bytesVal (bs : List Byte) (c : WClass) : Val :=
  match c with
  | .V => .v ((List.range 64).map (fun i => wd (leAt bs (4 * i) 4)))
  | .P => .v ((List.range 64).map (fun i => wd (leAt bs (8 * i) 8)))
  | _ => .w (wd (leAt bs 0 8))

/-- What a source delivers at its slot: a class and value, or a trap or fault. -/
inductive Got where
  | val (c : WClass) (x : Val)
  | trap (cls code : Nat) (info : Word)
deriving Repr

/-- The class a landing entry delivers by its class code (R263); the odd entry of a pair delivers none. -/
def landClass (code : Nat) : Option WClass := match code with | 0 => some .S | 2 => some .V | 3 => some .P | _ => none

/-- Checks of a source that the slot makes even when its guard is false (R140 check 5): a landing entry that system mode does not
have, or whose class R123 does not list for the destination, where R263 takes out the read of an S entry by a V or P
destination. -/
def State.srcIllegal (s : State) (src : Src) (d : Option WClass) : Bool :=
  match src with
  | .land n =>
    (s.t.sys && decide (8 ≤ n.toNat)) ||
      (match landClass (s.t.bank.land.get n.toNat default).cls with
       | some c => !moveOk (.known c) d || (c == .S && (d == some .V || d == some .P))
       | none => true)
  | _ => false

/-- The local-store bytes of a queue move, in runs that lie in one sector (R136, R193). -/
def queueRuns (core : Nat) (q : Queue) (ctr : BitVec 32) (off n : Nat) : List (Nat × Nat) :=
  (List.range (n / 8)).map (fun i => (coreWin core (q.pos ctr (off + 8 * i)), 8))

/-- Reads or writes bytes of the strand's own core at its slot, once its earlier accesses to them are performed (R97 item 1, R193); a
release among them that is not performed yet holds it. -/
def State.whenOrdered (s : State) (ps : List (Nat × Nat)) (ok : State → Eff) : Eff :=
  let s := s.settle ps
  if ps.all (fun (a, k) => s.t.inOrder s.t.nseq a k) then ok s else .block s .fence

/-- Reads a source in order (R97 item 1): a queue's bytes follow the strand's earlier accesses to them. -/
def State.ready (s : State) (src : Src) (d : Option WClass) (ok : State → Eff) : Eff :=
  match src with
  | .queue q off =>
    let x := s.queue s.t.core q.toNat
    s.whenOrdered (queueRuns s.t.core x x.head off.toNat (queueWidth (d.getD .S))) ok
  | _ => ok s

/-- Reads a source for a destination of a class, or for a queue (R123, R136, R267). A plain move from a queue without a buffer raises
the access fault, as the ls queue forms do (notes/assumptions/28.md). -/
def State.readSrc (s : State) (src : Src) (d : Option WClass) : Got :=
  let t := s.t
  match src with
  | .null => .val .S (.w 0)
  | .latch u h pair => .val (match srcClass src with | some (.known c) => c | _ => .S) (t.readLatch u.toNat h pair)
  | .reg c i p =>
    .val (match srcClass src with | some (.known c) => c | _ => .S)
      (t.readReg (s.ndie t) (s.ldie t) c.toNat i.toNat p.toNat)
  | .imm x => .val .S (.w (x.signExtend 64))
  | .lit x => .val .S (.w x)
  | .queue q off =>
    let x := s.queue t.core q.toNat
    let c := d.getD .S
    let n := queueWidth c
    let at_ := coreWin t.core (x.pos x.head off.toNat)
    if off.toNat % n ≠ 0 then .trap 4 4 (wd at_)
    else if x.cfg.isNone then .trap 4 2 (wd at_)
    else if (List.range (n / 8)).any (fun i => s.bad (coreWin t.core (x.pos x.head (off.toNat + 8 * i))) 8) then
      .trap 4 5 (wd at_)
    else .val c (bytesVal (s.queueRead t.core x x.head off.toNat n) c)
  | .land n =>
    let e := t.bank.land.get n.toNat default
    if e.poison then .trap 4 5 e.addr else .val ((landClass e.cls).getD .S) e.val

/-- Writes a general, vector, mask or guard register (R121, R124). -/
def Task.writeReg (t : Task) (cls idx part : Nat) (x : Val) : Task :=
  match cls with
  | 0 => t.setG idx x.word
  | 1 =>
    let put (v : Tab Lanes) : Task := { t with v := v }
    let l : Lanes := (convertVal x .P).lanes
    if part = 0 then put (t.v.set idx (lanesV (convertVal x .V).lanes))
    else if part = 1 then put ((t.v.set idx (lanesV l)).set (idx + 1) (l.map (fun (w : Word) => w >>> 32)))
    else if part < 128 then put (t.v.set idx ((t.vr idx).set (part - 64) (low32 x.word)))
    else
      put ((t.v.set idx ((t.vr idx).set (part - 128) (low32 x.word))).set (idx + 1)
        ((t.vr (idx + 1)).set (part - 128) (x.word >>> 32)))
  | 2 => { t with m := t.m.set idx x.word }
  | _ => { t with k := t.k.set idx (wbit x.word 0) }

/-- The class of a plain move's destination, `none` for a queue. -/
def Dst.cls (d : Dst) : Option WClass := match dstClass d with | some c => c | none => some .S

/-- Writes the destination of a plain move (R117, R123, R136). -/
def State.writeDst (s : State) (d : Dst) (c : WClass) (x : Val) : Eff :=
  let t := s.t
  match d with
  | .null => .done s
  | .port u p _ => .done (s.setT (t.setPort u.toNat p.toNat (convertVal x ((Dst.cls d).getD .S))))
  | .reg cl i p => .done (s.setT (t.writeReg cl.toNat i.toNat p.toNat x))
  | .queue q off =>
    let y := s.queue t.core q.toNat
    let n := queueWidth c
    let at_ := coreWin t.core (y.pos y.tail off.toNat)
    if off.toNat % n ≠ 0 then .trap s 4 4 (wd at_)
    else if y.cfg.isNone then .trap s 4 2 (wd at_)
    else
      s.whenOrdered (queueRuns t.core y y.tail off.toNat n) (fun s =>
        .done ((s.setT { s.t with stored := true }).queueWrite t.core y y.tail off.toNat (valBytes x c)))

/-- Whether a slot's guard lets it perform its move (R137). -/
def Task.guardHolds (t : Task) (g : Option Guard) : Bool :=
  match g with
  | none => true
  | some g => xor (t.k.get g.k.toNat false) g.inv

/-- Performs a slot: its static landing checks, its guard, the dynamic conditions of R140 check 6, its source, then the move (R139,
R140). -/
def slotRun (m : Mv) (d : Option WClass) (f : WClass → Val → State → Eff) (s : State) (busy : Bool := false) : Out :=
  if s.srcIllegal m.src d then (Eff.illSlot s).out
  else if !s.t.guardHolds m.guard then .next s.commit
  else if busy then (Eff.illSlot s).out
  else
    (s.ready m.src d (fun s =>
      match s.readSrc m.src d with
      | .trap cls code info => .trap s cls code info
      | .val c x => f c x s)).out

/-- Marks a unit as triggered in the bundle (R120). -/
def State.useUnit (s : State) (unit : Nat) : State :=
  s.setT { s.t with cur := { s.t.cur with used := unit :: s.t.cur.used } }

/-- An operation of a trigger port: one that completes marks the unit (R120). -/
def trigEff (unit : Nat) (f : State → Eff) (s : State) : Eff :=
  match f s with
  | .done s' => .done (s'.useUnit unit)
  | e => e

/-- Whether the bundle has already triggered a unit (R120). -/
def State.unitUsed (s : State) (unit : Nat) : Bool := s.t.cur.used.contains unit

/-- A slot form: a move of a class into a trigger port of a unit (R115, R118). Its dynamic conditions, a second trigger of the unit
in the bundle and what the form adds (R120, R128, R132), are checked before its source is read (R140 check 6). -/
def slotTrig (unit : Nat) (m : Mv) (d : WClass) (f : Val → State → Eff) (s : State)
    (busy : State → Bool := fun s => s.unitUsed unit) : Out :=
  slotRun m (some d) (fun _ x s => trigEff unit (f (convertVal x d)) s) s (busy s)

/-- A slot form whose trigger is a word. -/
def trigW (unit : Nat) (m : Mv) (f : Word → State → Eff) (s : State) (busy : State → Bool := fun s => s.unitUsed unit) : Out :=
  slotTrig unit m .S (fun x s => f x.word s) s busy

/-- Whether a move into a forward vector register imports a value into a recompute block (R367). -/
def isImport (src : Src) (d : Dst) : Bool :=
  match d with
  | .reg c i _ =>
    c == 1 && decide (i.toNat < 16) &&
      (match src with
       | .land _ => true
       | .queue _ _ => true
       | .latch u _ _ => u == 6 || srcClass src == some (.known .S)
       | _ => srcClass src == some (.known .S))
  | _ => false

/-- The vector registers that a register destination writes: both of a pair (R124). -/
def pairRegs (idx part : Nat) : List Nat := if part = 1 ∨ 128 ≤ part then [idx, idx + 1] else [idx]

/-- The move itself, with what an open block notes of it: an import's input record (R367), and how a code input was written
(R487). -/
def State.moveTo (s : State) (src : Src) (d : Dst) (c : WClass) (x : Val) : Eff :=
  match d with
  | .reg cl i p =>
    if isImport src d then
      let t' := s.t.writeReg cl.toNat i.toNat p.toNat x
      s.recordImport ((pairRegs i.toNat p.toNat).map (fun n => lanes4 (t'.vr n))) (fun _ s => s.writeDst d c x)
    else if cl = 2 then (s.trace 2 s.t.slot 0 x.word).writeDst d c x
    else s.writeDst d c x
  | .port u p _ =>
    (s.setT (s.t.noteCode (u.toNat * 16 + p.toNat) (s.t.constSrc src))).writeDst d c x
  | _ => s.writeDst d c x

/-- A plain move (R115, R117, R119, R123). -/
def execMove (m : Mv) (d : Dst) (s : State) : Out :=
  slotRun m (Dst.cls d) (fun c x s => s.moveTo m.src d c x) s

end Sys2Proof.Machine
end

