-- ==== Sys2Proof/Machine/Random.lean ====
section
/-! DEFINITION. Random generation (spec/02_numbers.md R75-R79) and the rg forms (spec/09_memory_sync_tasks.md R298, R299). -/

namespace Sys2Proof.Machine

open Host Arith

/-- Mix (R76). -/
def mix (x : Word) : Word :=
  let x := x ^^^ (x >>> 31)
  let x := x * 0x9E6C63D0676A9A99
  let x := x ^^^ (x >>> 29)
  let x := x * 0xD4C29B173F8E5E35
  x ^^^ (x >>> 32)

/-- Key (R76) of a coordinate, root first. -/
def keyHash (key : Word) (coord : List Nat) (eco : Word) (tag step : Nat) : Word :=
  let h := mix (key ^^^ 0x3C517E2B90D4A6F1)
  let h := coord.zipIdx.foldl (fun h (c, j) => mix (h ^^^ wd (j * 2 ^ 56 + c))) h
  let h := mix (h ^^^ eco)
  mix (h ^^^ wd (tag * 2 ^ 56 + step))

/-- The generators of a task; a task holds 64 (R75). -/
def Task.gen (t : Task) (i : Nat) : Gen := t.gens.getD i default

/-- Whether draws are keyed: `rgm`.EFF (R79, R299). -/
def Task.keyed (t : Task) : Bool := wbit t.ctl.rgm 1

/-- The word that Draw would return in a lane (R77). -/
def Task.peek (t : Task) (i : Nat) : BitVec 32 :=
  let g := t.gen i
  if t.keyed then (keyHash t.ctl.key t.coord g.eco g.tag g.step).setWidth 32
  else (mix (g.fs + 0xA3B195C47D2E06F9)).setWidth 32

/-- A generator after a draw (R77). -/
def Gen.next (g : Gen) (keyed : Bool) : Gen :=
  if keyed then { g with step := (g.step + 1) % 2 ^ 32 } else { g with fs := g.fs + 0xA3B195C47D2E06F9 }

/-- The 64 generators of a task, each as a function of its lane says. -/
def Task.mapGens (t : Task) (f : Nat → Gen → Gen) : Task :=
  { t with gens := (List.range 64).map (fun i => f i (t.gen i)) }

/-- The lanes that drew advance (R77). -/
def Task.drawn (t : Task) (lanes : List Nat) : Task :=
  if lanes.isEmpty then t else t.mapGens (fun i g => if lanes.contains i then g.next t.keyed else g)

/-- A write of `seed` (R77): in free-running mode it sets the generators too. -/
def Task.reseed (t : Task) (seed : Word) : Task :=
  { (t.mapGens (fun i g => if t.keyed then g else { g with fs := mix (seed + wd i) })) with ctl := { t.ctl with seed := seed } }

/-- rg.bits (R298). -/
def execRgBits (m : Mv) (s : State) : Out :=
  trigW 11 m (fun _ s =>
    let t := s.t
    let o := (List.range 64).map (fun i => (t.peek i).setWidth 64)
    .done (s.setT ((t.drawn (List.range 64)).result 11 false 2 (.v o) 0))) s

/-- rg.key (R298): ECO from the lanes of the trigger, TAG and STEP from the ports. -/
def execRgKey (m : Mv) (s : State) : Out :=
  slotTrig 11 m .V (fun x s =>
    let t := s.t
    .done (s.setT (t.mapGens (fun i g =>
      { g with eco := low32 (x.lanes.getD i 0), tag := wbits (t.pw 11 5) 7 0, step := wbits (t.pw 11 6) 31 0 })))) s

/-- rg.seed (R298). -/
def execRgSeed (m : Mv) (s : State) : Out :=
  trigW 11 m (fun x s => .done (s.setT (s.t.reseed x))) s

/-- rg.mode (R163, R298, R299): a value other than 0 and 1 raises the illegal-port trap. EFF stays 1 in ordered mode (R79). -/
def execRgMode (m : Mv) (s : State) : Out :=
  trigW 11 m (fun x s =>
    if 1 < x.toNat then .illPort s
    else
      let t := s.t
      let eff : Word := if x = 1 ∨ wbit t.ctl.mode 0 then 2 else 0
      .done (s.setT { t with ctl := { t.ctl with rgm := x ||| eff } })) s

end Sys2Proof.Machine
end

