-- ==== Sys2Proof/Machine/Control.lean ====
section
/-! DEFINITION. The branch forms (spec/06_scalar_control.md R180-R186) and the control-register forms (R194-R198, 05 R159, R160).
-/

namespace Sys2Proof.Machine

open Host Arith

/-- The checks of a branch target (R180): the fault's class MEM code, if any; alignment comes first (notes/assumptions/22.md). -/
def targetFault (x : Word) : Option Nat :=
  if wbits x 4 0 ≠ 0 then some 4 else if canonical x then none else some 3

/-- Runs an operation whose target passes R180. -/
def withTarget (s : State) (x : Word) (f : State → Eff) : Eff :=
  match targetFault x with
  | some code => .trap s 4 code x
  | none => f s

/-- Replaces the current bundle's record. -/
def State.setCur (s : State) (f : Cur → Cur) : State := s.setT { s.t with cur := f s.t.cur }

/-- Changes the branch registers of the current bank. -/
def Task.setB (t : Task) (n : Nat) (b lc : Word) : Task :=
  { t with bank := { t.bank with b := t.bank.b.set n b, lc := t.bank.lc.set n lc } }

/-- Records a taken branch of the current slot (R484). -/
def State.branched (s : State) (x : Word) : State := s.trace 1 s.t.slot 0 x

/-- Whether br.prep is a second trigger that R120 forbids: R181 lets one stand to the right of a go or a call, whose target it then
supplies (notes/assumptions/22.md). -/
def State.prepUsed (s : State) : Bool := s.unitUsed 5 && !(s.t.cur.goB.isSome && s.t.cur.used.count 5 == 1)

/-- br.prep (R180, R181). -/
def execBrPrep (bi : BitVec 2) (m : Mv) (s : State) : Out :=
  trigW 5 m (fun x s => withTarget s x (fun s => .done (s.setT (s.t.setB bi.toNat x 0)))) s State.prepUsed

/-- br.go (R181): b(N) is read at the end of the bundle. -/
def execBrGo (bi : BitVec 2) (m : Mv) (s : State) : Out :=
  trigW 5 m (fun _ s => .done ((s.branched (s.t.bank.b.get bi.toNat 0)).setCur (fun c => { c with goB := some bi.toNat }))) s

/-- br.call (R181): the link is visible to the first bundle at the target. -/
def execBrCall (bi : BitVec 2) (m : Mv) (s : State) : Out :=
  trigW 5 m (fun _ s =>
    let s := s.branched (s.t.bank.b.get bi.toNat 0)
    .done ((s.setT (s.t.result 5 false 1 (.w (s.t.pc + 32)) 0)).setCur (fun c => { c with goB := some bi.toNat }))) s

/-- br.ret (R181). -/
def execBrRet (m : Mv) (s : State) : Out :=
  trigW 5 m (fun x s => withTarget s x (fun s => .done ((s.branched x).setCur (fun c => { c with target := some x })))) s

/-- br.loop (R182): the loop-end address is `.a`. -/
def execBrLoop (bi : BitVec 2) (m : Mv) (s : State) : Out :=
  trigW 5 m (fun n s =>
    let le := s.t.pw 5 2
    withTarget s le (fun s => .done ((if n = 0 then s.branched (le + 32) else s).setCur (fun c =>
      { c with loop := some (bi.toNat, le, n), target := some (if n = 0 then le + 32 else s.t.pc + 32) })))) s

/-- br.yield (R184). -/
def execBrYield (m : Mv) (s : State) : Out :=
  trigW 5 m (fun _ s => .done (s.setCur (fun c => { c with yield := true }))) s

/-- br.end (R184): status 0 is normal. -/
def execBrEnd (m : Mv) (s : State) : Out :=
  trigW 5 m (fun _ s => .done (s.setCur (fun c => { c with fin := some (s.t.slot, 0) }))) s

/-- The first slot at or after j that holds a move; 5 when none does (R138, R185). -/
def nextMove (b : Bundle) (j : Nat) : Nat := if b.isLit j then min (j + 1) 5 else min j 5

/-- br.trap (R185): its slot commits, and SLOT names the next slot that holds a move, or 5. -/
def execBrTrap (m : Mv) (s : State) : Out :=
  trigW 5 m (fun x s =>
    let next := match s.t.cur.word.bind decodeBundle with
      | some b => nextMove b (s.t.slot + 1)
      | none => min (s.t.slot + 1) 5
    .trap ((s.useUnit 5).setT { (s.useUnit 5).t with slot := next }) 3 1 x) s

/-- br.tret (R186, R405): in task mode the privilege fault; in system mode xpc is checked at this slot. -/
def execBrTret (m : Mv) (s : State) : Out :=
  trigW 5 m (fun _ s =>
    if !s.t.sys then .trap s 10 1 24
    else withTarget s s.t.ctl.xpc (fun s => .done (s.setCur (fun c => { c with ret := true })))) s

/-! ### Control registers -/

/-- Whether a control register is reserved (R160). -/
def cReserved (n : Nat) : Bool := decide (17 ≤ n ∧ n ≤ 31) || decide (37 ≤ n)

/-- The registers a task may write by ct.wrc (R160). -/
def cTaskWritable (n : Nat) : Bool := n == 0 || n == 1 || n == 2 || n == 3 || n == 9 || n == 10 || n == 15

/-- The value that a read of a control register gives (R125, R194). -/
def State.creg (s : State) (n : Nat) : Word := s.t.creg s.t.now (s.ndie s.t) (s.ldie s.t) n

/-- A read of a control register into .o (R194, R196). -/
def ctRead (n : Nat) (m : Mv) (s : State) : Out :=
  trigW 19 m (fun _ s =>
    if cReserved n then .illPort s
    else if 33 ≤ n ∧ !s.t.sys then .trap s 10 1 (wd n)
    else .done (s.setT (s.t.result 19 false 1 (.w (s.creg n)) 0))) s

/-- ct.rdc (R194). -/
def execCtRdc (r : BitVec 5) (m : Mv) (s : State) : Out := ctRead r.toNat m s
/-- ct.rdc.hi (R194). -/
def execCtRdcHi (r : BitVec 5) (m : Mv) (s : State) : Out := ctRead (32 + r.toNat) m s

/-- Stores a control register's value. -/
def Task.setC (t : Task) (n : Nat) (x : Word) : Task :=
  let c := t.ctl
  match n with
  | 0 => { t with ctl := { c with fmt := x } }
  | 1 => { t with ctl := { c with rmode := x } }
  | 2 => { t with ctl := { c with mode := x } }
  | 3 => { t with ctl := { c with fflags := x } }
  | 9 => t.reseed x
  | 10 => { t with ctl := { c with key := x } }
  | 11 => { t with ctl := { c with rsp := x } }
  | 14 => { t with ctl := { c with dbmode := x } }
  | 15 => { t with ctl := { c with perfsel := x } }
  | 32 => { t with ctl := { c with tvec := x } }
  | 33 => { t with ctl := { c with xst := x } }
  | 34 => { t with ctl := { c with xpc := x } }
  | 35 => { t with ctl := { c with xinfo := x } }
  | 36 => { t with ctl := { c with xscr := x } }
  | _ => t

/-- Performs at the end of a bundle what a form asked of it: a control register's write by its number (R195), an anchor parameter
word from 1024, or from 1536 when its source is a constant of 12 R487 (08 R243). -/
def Task.endWrite (t : Task) (key : Nat) (x : Word) : Task :=
  if 1024 ≤ key then
    { t with aparam := t.aparam.set (key % 512) x }.noteCode (1024 + key % 512) (decide (1536 ≤ key))
  else t.setC key ((ctField key (t.creg t.now 0 0 key) x).getD x)

/-- Asks for a write at the end of the bundle. -/
def State.atEnd (s : State) (key : Nat) (x : Word) : State := s.setCur (fun c => { c with ends := c.ends ++ [(key, x)] })

/-- A write of a control register (R195, R196): fmt takes its shadow in task mode (R131), every other register the end of the
bundle. -/
def ctTake (n : Nat) (x : Word) (s : State) : Eff :=
  let t := s.t
  if cReserved n then .illPort s
  else if !(cTaskWritable n || (t.sys && (n == 11 || decide (32 ≤ n)))) then .trap s 10 1 (wd n)
  else if (ctField n 0 x).isNone then .illType s
  else if n = 0 ∧ !t.sys then .done (s.setT { t with fmtPend := t.fmtPend ++ [(t.clock + 5, x)] })
  else .done (s.atEnd n x)

/-- A form that writes a control register. -/
def ctWrite (n : Nat) (m : Mv) (s : State) : Out := trigW 19 m (fun x s => ctTake n x s) s

/-- ct.wrc (R195). -/
def execCtWrc (r : BitVec 5) (m : Mv) (s : State) : Out := ctWrite r.toNat m s
/-- ct.wrc.hi (R195, R196). -/
def execCtWrcHi (r : BitVec 5) (m : Mv) (s : State) : Out := ctWrite (32 + r.toNat) m s

/-- ct.wrs (R198): in task mode the privilege fault, whatever the register. -/
def execCtWrs (r : BitVec 5) (m : Mv) (s : State) : Out :=
  trigW 19 m (fun x s => if s.t.sys then ctTake (32 + r.toNat) x s else .trap s 10 1 (wd (32 + r.toNat))) s

/-- ct.cyc (R194). -/
def execCtCyc (m : Mv) (s : State) : Out :=
  trigW 19 m (fun _ s => .done (s.setT (s.t.result 19 false 1 (.w (wd s.t.now)) 0))) s

/-- The counter that `perfsel` selects (R483, R336, R390, R458). -/
def State.perf (s : State) : Nat :=
  let c := s.coreAt s.t.core
  match wbits s.t.ctl.perfsel 7 0 with
  | 0 => c.cycles
  | 1 => c.issued
  | 2 => c.frozen
  | 3 => c.switches
  | 4 => c.refused
  | n => if (0x40 ≤ n ∧ n ≤ 0x44) ∨ (0x50 ≤ n ∧ n ≤ 0x59) then (s.die (dieOf s.t.core)).count.get n 0 else 0

/-- ct.perf (R194). -/
def execCtPerf (m : Mv) (s : State) : Out :=
  trigW 19 m (fun _ s => .done (s.setT (s.t.result 19 false 1 (.w (wd s.perf)) 0))) s

/-- ct.dsel (R169, R197). -/
def execCtDsel (k : BitVec 3) (m : Mv) (s : State) : Out :=
  trigW 19 m (fun x s => .done (s.setT (s.t.resultK 19 1 (wbit x (s.ldie s.t)) k.toNat))) s

end Sys2Proof.Machine
end

