-- ==== Sys2Proof/Machine/Vector.lean ====
section
/-! DEFINITION. The elementwise forms of va and vb (spec/07_vector.md R199-R212, R222-R224). -/

namespace Sys2Proof.Machine

open Host Arith

/-- The class of a vector of a type (R149). -/
def vecClass (ty : ElemType) : WClass := if ty.is64 then .P else .V

/-- The types whose forms of va, vb and vx are differentiable (R222). -/
def gradType (ty : ElemType) : Bool := ty == .f16 || ty == .bf16 || ty == .f32 || ty == .f64

/-- An element's bits in a lane (R199). -/
def laneVal (ty : ElemType) (w : Word) : Nat := w.toNat % 2 ^ ty.bits

/-- A result lane of a type (R199). -/
def laneOut (ty : ElemType) (x : Nat) : Word :=
  match ty with
  | .s8 | .s16 => wd (wrapN 32 (sint ty.bits x))
  | _ => wd (x % 2 ^ ty.bits)

/-- Whether a lane is active under ports `m` and `men` (R152). -/
def laneOn (m men : Word) (i : Nat) : Bool := !wbit men 0 || wbit m i

/-- The arithmetic settings of a lane at its trigger (R56, R57): the drawn word is read only under SR. -/
def Task.env (t : Task) (i : Nat) : Env :=
  let md := RMode.ofCode (wbits t.ctl.rmode 2 0)
  ⟨md, wbit t.ctl.fmt 2, if md = .sr then t.peek i else 0⟩

/-- A lane's result: its bits, flags, and whether it draws. -/
abbrev LaneRes := Nat × Flags × Bool

/-- A rounded result as a lane's result. -/
def ofRes (r : RRes) : LaneRes := (r.bits, r.flags, r.drew)

/-- An exact result that raises flags. -/
def ofFl (r : Nat × Flags) : LaneRes := (r.1, r.2, false)

/-- A result that raises nothing. -/
def ofNat (x : Nat) : LaneRes := (x, 0, false)

/-- The operands of a va or vb form at its trigger: the task, the unit, the operands a, b (the trigger value) and c. -/
structure VIn where
  t : Task
  u : Nat
  a : Lanes
  b : Lanes
  c : Lanes

/-- The active lanes of a va or vb form (R200). -/
def VIn.on (v : VIn) (i : Nat) : Bool := laneOn (v.t.pw v.u 7) (v.t.pw v.u 8) i

/-- The operands of a trigger of a unit. -/
def vin (t : Task) (u : Nat) (x : Val) : VIn := ⟨t, u, (t.port u 2).lanes, x.lanes, (t.port u 4).lanes⟩

/-- The results of every lane: the lanes, the flags of the active ones, and the lanes that draw (R200, R203). -/
def runLanes (on : Nat → Bool) (f : Nat → LaneRes) : List (Option LaneRes) :=
  (List.range 64).map (fun i => if on i then some (f i) else none)

/-- The output lanes of a type. -/
def outLanes (ty : ElemType) (rs : List (Option LaneRes)) : Lanes :=
  rs.map (fun r => match r with | some x => laneOut ty x.1 | none => 0)

/-- The flags over active lanes. -/
def outFlags (rs : List (Option LaneRes)) : Flags :=
  rs.foldl (fun a r => match r with | some x => a ||| x.2.1 | none => a) 0

/-- The lanes that draw. -/
def outDrew (rs : List (Option LaneRes)) : List Nat :=
  rs.zipIdx.filterMap (fun (r, i) => match r with | some (_, _, true) => some i | _ => none)

/-- A vector as a record item (R362): RTYPE 3 in class V, 4 in class P. -/
def vecItem (ty : ElemType) (l : Lanes) : Nat × List Byte := if ty.is64 then (4, lanes8 l) else (3, lanes4 l)

/-- A lane mask as a word. -/
def maskOf (f : Nat → Bool) : Word := wd ((List.range 64).foldl (fun a i => if f i then a + 2 ^ i else a) 0)

/-- A lane mask as a record item (R362). -/
def maskItem (x : Word) : Nat × List Byte := (2, toBytes 8 x.toNat)

/-- The active mask of a recorded form, when `men` is 1 (R222). -/
def activeItem (m men : Word) : List (Nat × List Byte) := if wbit men 0 then [maskItem m] else []

/-- The active mask of a va or vb form. -/
def VIn.act (v : VIn) : List (Nat × List Byte) := activeItem (v.t.pw v.u 7) (v.t.pw v.u 8)

/-- The unit number of va, or of vb (R119). -/
def vaUnit (b : Bool) : Nat := if b then 9 else 8

/-- Completes a vector form: the FP trap, its records, then its result and its draws (R202, R203, R362). -/
def vecDone (s : State) (u lat : Nat) (h : Bool) (o : Val) (fl : Flags) (drew : List Nat) (items : List (Nat × List Byte)) : Eff :=
  fpGuard s fl (fun s => s.recorded items (fun _ s => .done (s.setT ((s.t.drawn drew).result u h lat o fl))))

/-- The latency of a va or vb form by whether it is float (R201). -/
def vaLat (fl : Bool) : Nat := if fl then 4 else 2

/-- An elementwise form of a type: its lanes by a function of the operands and the lane, and what it records. -/
def vaForm (b : Bool) (ty : ElemType) (m : Mv) (f : VIn → Nat → LaneRes) (items : VIn → Lanes → List (Nat × List Byte))
    (s : State) : Out :=
  slotTrig (vaUnit b) m (vecClass ty) (fun x s =>
    let v := vin s.t (vaUnit b) x
    let rs := runLanes v.on (f v)
    let o := outLanes ty rs
    vecDone s (vaUnit b) (vaLat ty.isFloat) false (.v o) (outFlags rs) (outDrew rs)
      (if gradType ty then v.act ++ items v o else [])) s

/-- Lane i of an operand as the form's type. -/
def lane (ty : ElemType) (l : Lanes) (i : Nat) : Nat := laneVal ty (l.getD i 0)

/-- Lane i of an operand as an exact value. -/
def laneEx (ty : ElemType) (l : Lanes) (i : Nat) : Ex := exact ty (lane ty l i)

/-- Lane i of an operand as an integer of the type. -/
def laneInt (ty : ElemType) (l : Lanes) (i : Nat) : Int := intOf ty (lane ty l i)

/-- An integer result modulo 2^w. -/
def intRes (ty : ElemType) (x : Int) : LaneRes := ofNat (wrapN ty.bits x)

/-- A saturated integer result (R209). -/
def satRes (ty : ElemType) (x : Int) : LaneRes :=
  let (y, f) := sat x (intMin ty) (intMax ty)
  (wrapN ty.bits y, f, false)

/-- No records beyond the active mask. -/
def noItems (_ : VIn) (_ : Lanes) : List (Nat × List Byte) := []

/-- Both operands as records (R222). -/
def bothItems (ty : ElemType) (v : VIn) (_ : Lanes) : List (Nat × List Byte) := [vecItem ty v.a, vecItem ty v.b]

/-- The output as a record. -/
def outItem (ty : ElemType) (_ : VIn) (o : Lanes) : List (Nat × List Byte) := [vecItem ty o]

/-- A form of two operands: float under rmode, integer modulo 2^w. -/
def vaArith (b : Bool) (ty : ElemType) (m : Mv) (ff : Env → Ex → Ex → RRes) (fi : Int → Int → Int)
    (items : VIn → Lanes → List (Nat × List Byte)) (s : State) : Out :=
  vaForm b ty m (fun v i =>
    if ty.isFloat then ofRes (ff (v.t.env i) (laneEx ty v.a i) (laneEx ty v.b i))
    else intRes ty (fi (laneInt ty v.a i) (laneInt ty v.b i))) items s

/-- add (R205, R209). -/
def execVaAdd (b : Bool) (ty : ElemType) (m : Mv) (s : State) : Out :=
  vaArith b ty m (fun e x y => addRound ty e [x, y]) (fun x y => x + y) noItems s

/-- sub (R205, R209). -/
def execVaSub (b : Bool) (ty : ElemType) (m : Mv) (s : State) : Out :=
  vaArith b ty m (fun e x y => addRound ty e [x, neg y]) (fun x y => x - y) noItems s

/-- mul (R205, R209). -/
def execVaMul (b : Bool) (ty : ElemType) (m : Mv) (s : State) : Out :=
  vaArith b ty m (fun e x y => mulRound ty e x y) (fun x y => x * y) (bothItems ty) s

/-- A fused form: ±(a × b) ± c, rounded once (R205). -/
def vaFused (negP negC : Bool) (b : Bool) (ty : ElemType) (m : Mv) (s : State) : Out :=
  vaForm b ty m (fun v i =>
    ofRes (fmaRound ty (v.t.env i) (laneEx ty v.a i) (laneEx ty v.b i) (laneEx ty v.c i) negP negC)) (bothItems ty) s

/-- fma (R205). -/
def execVaFma (b : Bool) (ty : ElemType) (m : Mv) (s : State) : Out := vaFused false false b ty m s
/-- fms (R205). -/
def execVaFms (b : Bool) (ty : ElemType) (m : Mv) (s : State) : Out := vaFused false true b ty m s
/-- fnma (R205). -/
def execVaFnma (b : Bool) (ty : ElemType) (m : Mv) (s : State) : Out := vaFused true false b ty m s

/-- Whether min or max of two float encodings chose a, ties and NaN included (R222). -/
def choseA (ty : ElemType) (isMax : Bool) (a b : Nat) : Bool :=
  let x := exactF ty a
  let y := exactF ty b
  isNaN x || isNaN y ||
    (match cmpEx x y with
     | .lt => !isMax
     | .gt => isMax
     | .eq => true)

/-- min and max (R206, R209). The recorded mask's bits of inactive lanes, of which R222 says nothing, are computed from the operands as those
of active ones (DESIGN CHOICE, notes/assumptions/32.md; no gradient reads them). -/
def vaExtreme (isMax : Bool) (b : Bool) (ty : ElemType) (m : Mv) (s : State) : Out :=
  vaForm b ty m (fun v i =>
    if ty.isFloat then ofFl (fmaxmin ty isMax (lane ty v.a i) (lane ty v.b i))
    else
      let x := laneInt ty v.a i
      let y := laneInt ty v.b i
      intRes ty (if isMax then max x y else min x y))
    (fun v _ => [maskItem (maskOf (fun i => choseA ty isMax (lane ty v.a i) (lane ty v.b i)))]) s

/-- min (R206). -/
def execVaMin (b : Bool) (ty : ElemType) (m : Mv) (s : State) : Out := vaExtreme false b ty m s
/-- max (R206). -/
def execVaMax (b : Bool) (ty : ElemType) (m : Mv) (s : State) : Out := vaExtreme true b ty m s

/-- The sign bit of a type's encoding. -/
def signBit (ty : ElemType) : Nat := 2 ^ (ty.bits - 1)

/-- abs (R206, R209). The float forms do not read `sat` (R206 names no use), so it reserves no code record (DEDUCED); the recorded mask's bits of
inactive lanes are the operand's (DESIGN CHOICE; notes/assumptions/32.md). -/
def execVaAbs (b : Bool) (ty : ElemType) (m : Mv) (s : State) : Out :=
  vaForm b ty m (fun v i =>
    if ty.isFloat then ofNat (lane ty v.b i % signBit ty)
    else if !ty.isSigned then ofNat (lane ty v.b i)
    else if wbit (v.t.pw v.u 9) 0 then satRes ty ((laneInt ty v.b i).natAbs : Int)
    else intRes ty ((laneInt ty v.b i).natAbs : Int))
    (fun v _ => [maskItem (maskOf (fun i => decide (signBit ty ≤ lane ty v.b i)))]) s

/-- neg (R206, R209). -/
def execVaNeg (b : Bool) (ty : ElemType) (m : Mv) (s : State) : Out :=
  vaForm b ty m (fun v i =>
    if ty.isFloat then ofNat (lane ty v.b i ^^^ signBit ty)
    else if wbit (v.t.pw v.u 9) 0 then satRes ty (-(laneInt ty v.b i))
    else intRes ty (-(laneInt ty v.b i))) noItems s

/-- A function form of one operand (R207). -/
def vaFun (f : Env → Ex → RRes) (items : VIn → Lanes → List (Nat × List Byte)) (b : Bool) (ty : ElemType) (m : Mv)
    (s : State) : Out :=
  vaForm b ty m (fun v i => ofRes (f (v.t.env i) (laneEx ty v.b i))) items s

/-- rcp (R207). -/
def execVaRcp (b : Bool) (ty : ElemType) (m : Mv) (s : State) : Out := vaFun (rcp ty) (outItem ty) b ty m s
/-- rsqrt (R207). -/
def execVaRsqrt (b : Bool) (ty : ElemType) (m : Mv) (s : State) : Out := vaFun (rsqrt ty) (outItem ty) b ty m s
/-- sqrt (R207). -/
def execVaSqrt (b : Bool) (ty : ElemType) (m : Mv) (s : State) : Out := vaFun (Arith.sqrt ty) (outItem ty) b ty m s
/-- exp2 (R207). -/
def execVaExp2 (b : Bool) (ty : ElemType) (m : Mv) (s : State) : Out := vaFun (exp2 ty) (outItem ty) b ty m s
/-- log2 (R207). -/
def execVaLog2 (b : Bool) (ty : ElemType) (m : Mv) (s : State) : Out :=
  vaFun (Arith.log2 ty) (fun v _ => [vecItem ty v.b]) b ty m s

/-- The integer conditions of cmp by cc code (R210). -/
def icmp (cc : Nat) (x y : Int) : Bool :=
  match cc with
  | 0 => x == y
  | 1 => x != y
  | 2 => decide (x < y)
  | 3 => decide (x ≤ y)
  | 4 => decide (y < x)
  | _ => decide (y ≤ x)

/-- cmp (R210): the mask goes to .h. -/
def execVaCmp (b : Bool) (ty : ElemType) (m : Mv) (s : State) : Out :=
  slotTrig (vaUnit b) m (vecClass ty) (fun x s =>
    let v := vin s.t (vaUnit b) x
    let cc := (v.t.pw v.u 5).toNat
    if 6 < cc ∨ (cc = 6 ∧ !ty.isFloat) then .illPort s
    else
      let rs := runLanes v.on (fun i =>
        if ty.isFloat then
          let (r, f) := fcmp ty cc (lane ty v.a i) (lane ty v.b i)
          ((if r then 1 else 0), f, false)
        else ofNat (if icmp cc (laneInt ty v.a i) (laneInt ty v.b i) then 1 else 0))
      let mask := maskOf (fun i => match rs.getD i none with | some (1, _) => true | _ => false)
      vecDone s (vaUnit b) (vaLat ty.isFloat) true (.w mask) (outFlags rs) [] []) s

/-- cvt (R211): from the type in `from`; 14-16 raises the illegal-type trap, 17 and above the illegal-port trap. A float-to-float conversion
does not read `sat` (R211), so it reserves no code record of it (DEDUCED, notes/assumptions/32.md). -/
def execVaCvt (b : Bool) (ty : ElemType) (m : Mv) (s : State) : Out :=
  slotTrig (vaUnit b) m (vecClass ty) (fun x s =>
    let v := vin s.t (vaUnit b) x
    let code := (v.t.pw v.u 6).toNat
    if 17 ≤ code then .illPort s
    else match ElemType.ofCode code with
      | none => .illPort s
      | some src =>
        if 14 ≤ code then .illType s
        else
          let rs := runLanes v.on (fun i => ofRes (convert src ty (wbit (v.t.pw v.u 9) 0) (v.t.env i) (lane src v.a i)))
          vecDone s (vaUnit b) (vaLat (ty.isFloat || src.isFloat)) false (.v (outLanes ty rs)) (outFlags rs) (outDrew rs)
            (if ty.isFloat && src.isFloat then v.act ++ v.t.codeRecs v.u [6] else [])) s

/-- rnd (R208); it is inert (R223). -/
def execVaRnd (b : Bool) (ty : ElemType) (m : Mv) (s : State) : Out :=
  slotTrig (vaUnit b) m (vecClass ty) (fun x s =>
    let v := vin s.t (vaUnit b) x
    let rs := runLanes v.on (fun i => ofRes (rndInt ty (v.t.env i) (lane ty v.b i)))
    vecDone s (vaUnit b) 4 false (.v (outLanes ty rs)) (outFlags rs) (outDrew rs) []) s

/-- mulh (R209). -/
def execVaMulh (b : Bool) (ty : ElemType) (m : Mv) (s : State) : Out :=
  vaForm b ty m (fun v i => intRes ty (laneInt ty v.a i * laneInt ty v.b i / (2 ^ ty.bits : Nat))) noItems s

/-- A bitwise form (R209). -/
def vaBits (f : Nat → Nat → Nat) (b : Bool) (ty : ElemType) (m : Mv) (s : State) : Out :=
  vaForm b ty m (fun v i => ofNat (f (lane ty v.a i) (lane ty v.b i))) noItems s

/-- and (R209). -/
def execVaAnd (b : Bool) (ty : ElemType) (m : Mv) (s : State) : Out := vaBits (· &&& ·) b ty m s
/-- or (R209). -/
def execVaOr (b : Bool) (ty : ElemType) (m : Mv) (s : State) : Out := vaBits (· ||| ·) b ty m s
/-- xor (R209). -/
def execVaXor (b : Bool) (ty : ElemType) (m : Mv) (s : State) : Out := vaBits (· ^^^ ·) b ty m s

/-- The shift count of a lane (R209). -/
def laneCount (ty : ElemType) (x : Nat) : Nat := x % ty.bits

/-- shl (R209). -/
def execVaShl (b : Bool) (ty : ElemType) (m : Mv) (s : State) : Out :=
  vaBits (fun x y => x * 2 ^ laneCount ty y) b ty m s
/-- shr (R209). -/
def execVaShr (b : Bool) (ty : ElemType) (m : Mv) (s : State) : Out :=
  vaBits (fun x y => x / 2 ^ laneCount ty y) b ty m s
/-- sar (R209). -/
def execVaSar (b : Bool) (ty : ElemType) (m : Mv) (s : State) : Out :=
  vaBits (fun x y => wrapN ty.bits (sint ty.bits x / (2 ^ laneCount ty y : Nat))) b ty m s

/-- sel (R212): every lane is active, and `m` selects; the mask is its residual (R222). -/
def execVaSel (b : Bool) (ty : ElemType) (m : Mv) (s : State) : Out :=
  slotTrig (vaUnit b) m (vecClass ty) (fun x s =>
    let v := vin s.t (vaUnit b) x
    let mk := v.t.pw v.u 7
    let o := (List.range 64).map (fun i => laneOut ty (lane ty (if wbit mk i then v.a else v.b) i))
    vecDone s (vaUnit b) (vaLat ty.isFloat) false (.v o) 0 [] (if gradType ty then [maskItem mk] else [])) s

/-- clz (R209). -/
def execVaClz (b : Bool) (ty : ElemType) (m : Mv) (s : State) : Out :=
  vaForm b ty m (fun v i => ofNat (clzN ty.bits (lane ty v.b i))) noItems s
/-- popc (R209). -/
def execVaPopc (b : Bool) (ty : ElemType) (m : Mv) (s : State) : Out :=
  vaForm b ty m (fun v i => ofNat (popcN (lane ty v.b i) 64)) noItems s
/-- adds (R209). -/
def execVaAdds (b : Bool) (ty : ElemType) (m : Mv) (s : State) : Out :=
  vaForm b ty m (fun v i => satRes ty (laneInt ty v.a i + laneInt ty v.b i)) noItems s
/-- subs (R209). -/
def execVaSubs (b : Bool) (ty : ElemType) (m : Mv) (s : State) : Out :=
  vaForm b ty m (fun v i => satRes ty (laneInt ty v.a i - laneInt ty v.b i)) noItems s

end Sys2Proof.Machine
end

