-- ==== Sys2Proof/Machine/CrossLane.lean ====
section
/-! DEFINITION. The cross-lane forms of vx (spec/07_vector.md R213-R221). Every form rounds under RNE and never draws (R203). -/

namespace Sys2Proof.Machine

open Host Arith

/-- The operands of a vx form: the task, a, x (the trigger value) and c. -/
def vxIn (t : Task) (x : Val) : VIn := ⟨t, 10, (t.port 10 2).lanes, x.lanes, (t.port 10 4).lanes⟩

/-- The active lanes of a vx form (R200, R151: ports 8 and 9). -/
def VIn.xon (v : VIn) (i : Nat) : Bool := laneOn (v.t.pw 10 8) (v.t.pw 10 9) i

/-- The active mask of a recorded vx form. -/
def VIn.xact (v : VIn) : List (Nat × List Byte) := activeItem (v.t.pw 10 8) (v.t.pw 10 9)

/-- A permute-class form: lane i of .o from the operands, for active lanes (R200, R213, R214). -/
def vxPermute (ty : ElemType) (m : Mv) (f : VIn → Nat → Nat) (items : VIn → List (Nat × List Byte)) (s : State) : Out :=
  slotTrig 10 m (vecClass ty) (fun x s =>
    let v := vxIn s.t x
    let o := (List.range 64).map (fun i => if v.xon i then laneOut ty (f v i) else 0)
    vecDone s 10 6 false (.v o) 0 [] (if ty.isFloat then v.xact ++ items v else [])) s

/-- perm (R214). -/
def execVxPerm (ty : ElemType) (m : Mv) (s : State) : Out :=
  vxPermute ty m (fun v i => lane ty v.a (lane ty v.b i % 64)) (fun v => [vecItem ty v.b]) s
/-- bcast (R214). -/
def execVxBcast (ty : ElemType) (m : Mv) (s : State) : Out :=
  vxPermute ty m (fun v _ => lane ty v.a (lane ty v.b 0 % 64)) (fun v => [vecItem ty v.b]) s
/-- rot (R214). -/
def execVxRot (ty : ElemType) (m : Mv) (s : State) : Out :=
  vxPermute ty m (fun v i => lane ty v.a ((i + lane ty v.b 0 % 64) % 64)) (fun v => [vecItem ty v.b]) s
/-- lidx (R214). -/
def execVxLidx (ty : ElemType) (m : Mv) (s : State) : Out :=
  vxPermute ty m (fun v i => (lane ty v.b 0 + i) % 2 ^ 32) (fun _ => []) s

/-- The identity of an operator (R73): op 0 sum, 1 min, 2 max, 3 and, 4 or. -/
def opIdentity (ty : ElemType) (op : Nat) : Nat :=
  if ty.isFloat then
    match op with
    | 0 => signBit ty
    | 1 => (encInf ty false).1
    | _ => (encInf ty true).1
  else
    match op with
    | 0 => 0
    | 1 => wrapN ty.bits (intMax ty)
    | 2 => wrapN ty.bits (intMin ty)
    | 3 => 2 ^ ty.bits - 1
    | _ => 0

/-- The value of an empty reduction (R73, R215): a sum is +0. -/
def opEmpty (ty : ElemType) (op : Nat) : Nat := if op = 0 then 0 else opIdentity ty op

/-- A node of a reduction (R215). -/
def opNode (ty : ElemType) (op : Nat) (x y : Nat × Flags) : Nat × Flags :=
  let (u, f) := x
  let (v, g) := y
  if ty.isFloat then
    if op = 0 then
      let (e, h) := sumExact [exactF ty u, exactF ty v]
      let r := roundRNE ty e
      (r.bits, f ||| g ||| h ||| r.flags)
    else
      let (r, h) := fmaxmin ty (op == 2) u v
      (r, f ||| g ||| h)
  else
    let a := intOf ty u
    let b := intOf ty v
    let r := match op with
      | 0 => (u + v) % 2 ^ ty.bits
      | 1 => wrapN ty.bits (min a b)
      | 2 => wrapN ty.bits (max a b)
      | 3 => u &&& v
      | _ => u ||| v
    (r, f ||| g)

/-- One level of a pairwise tree. -/
def treeLevel (node : Nat × Flags → Nat × Flags → Nat × Flags) : List (Nat × Flags) → List (Nat × Flags)
  | x :: y :: r => node x y :: treeLevel node r
  | l => l

/-- The fixed pairwise tree over 2^n leaves (R215). -/
def treeFold (node : Nat × Flags → Nat × Flags → Nat × Flags) : Nat → List (Nat × Flags) → List (Nat × Flags)
  | 0, l => l
  | n + 1, l => treeFold node n (treeLevel node l)

/-- Whether `op` is a code that red and scan accept for a type (R162, R215). -/
def opOk (ty : ElemType) (op : Nat) : Bool := if ty.isFloat then decide (op ≤ 2) else decide (op ≤ 4)

/-- The leaves of red and scan. -/
def opLeaves (ty : ElemType) (op : Nat) (on : Nat → Bool) (x : Lanes) : List (Nat × Flags) :=
  (List.range 64).map (fun i => (if on i then lane ty x i else opIdentity ty op, 0))

/-- The lane that red min and max mark (R222): the lowest active lane whose bits are the result's, or that holds a NaN when the
result is the canonical NaN. -/
def redMark (ty : ElemType) (on : Nat → Bool) (x : Lanes) (r : Nat) : Word :=
  let hit := (List.range 64).find? (fun i =>
    on i && (if r == canonNaN ty then isNaN (laneEx ty x i) else lane ty x i == r))
  match hit with
  | some i => wd (2 ^ i)
  | none => 0

/-- red (R215). -/
def execVxRed (ty : ElemType) (m : Mv) (s : State) : Out :=
  slotTrig 10 m (vecClass ty) (fun x s =>
    let v := vxIn s.t x
    let op := (v.t.pw 10 5).toNat
    if !opOk ty op then .illPort s
    else
      let any := (List.range 64).any v.xon
      let (y, fl) := (treeFold (opNode ty op) 6 (opLeaves ty op v.xon v.b)).headD (0, 0)
      let r := if any then y else opEmpty ty op
      let o := (List.range 64).map (fun i => if i = 0 then laneOut ty r else 0)
      vecDone s 10 12 false (.v o) (if any then fl else 0) []
        (if ty.isFloat then v.xact ++ v.t.codeRecs 10 [5] ++
          (if op = 0 then [] else [maskItem (if any then redMark ty v.xon v.b r else 0)]) else [])) s

/-- One step of the doubling network (R216). -/
def scanStep (node : Nat × Flags → Nat × Flags → Nat × Flags) (d : Nat) (l : List (Nat × Flags)) : List (Nat × Flags) :=
  l.zipIdx.map (fun (y, i) => if d ≤ i then node (l.getD (i - d) (0, 0)) y else y)

/-- scan (R216): each step reads the level before it. -/
def scanFold (node : Nat × Flags → Nat × Flags → Nat × Flags) (l : List (Nat × Flags)) : List (Nat × Flags) :=
  [1, 2, 4, 8, 16, 32].foldl (fun l d => scanStep node d l) l

/-- scan (R216). -/
def execVxScan (ty : ElemType) (m : Mv) (s : State) : Out :=
  slotTrig 10 m (vecClass ty) (fun x s =>
    let v := vxIn s.t x
    let op := (v.t.pw 10 5).toNat
    if !opOk ty op then .illPort s
    else
      let ys := scanFold (opNode ty op) (opLeaves ty op v.xon v.b)
      let some_ (i : Nat) : Bool := (List.range (i + 1)).any v.xon
      let o := ys.zipIdx.map (fun (y, i) => laneOut ty (if some_ i then y.1 else opEmpty ty op))
      let fl := ys.foldl (fun a y => a ||| y.2) (0 : Flags)
      vecDone s 10 12 false (.v o) (if some_ 63 then fl else 0) []
        (if ty.isFloat ∧ op = 0 then v.xact ++ v.t.codeRecs 10 [5] else [])) s

/-- The active lanes of a vx form in ascending order. -/
def VIn.xlanes (v : VIn) : List Nat := (List.range 64).filter v.xon

/-- compact (R217). -/
def execVxCompact (ty : ElemType) (m : Mv) (s : State) : Out :=
  slotTrig 10 m (vecClass ty) (fun x s =>
    let v := vxIn s.t x
    let ls := v.xlanes
    let o := (List.range 64).map (fun i => match ls[i]? with | some j => laneOut ty (lane ty v.b j) | none => 0)
    let h := (List.range 64).map (fun i => if i = 0 then wd ls.length else 0)
    s.recorded (if ty.isFloat then v.xact else []) (fun _ s =>
      .done (s.setT ((s.t.result 10 false 8 (.v o) 0).result 10 true 8 (.v h) 0)))) s

/-- expand (R217). -/
def execVxExpand (ty : ElemType) (m : Mv) (s : State) : Out :=
  slotTrig 10 m (vecClass ty) (fun x s =>
    let v := vxIn s.t x
    let ls := v.xlanes
    let o := (List.range 64).map (fun i => if v.xon i then laneOut ty (lane ty v.b (ls.idxOf i)) else 0)
    vecDone s 10 8 false (.v o) 0 [] (if ty.isFloat then v.xact else [])) s

/-- The stable merge of two lists of keyed pairs, by fuel (R218). -/
def mergePairs (le : Nat → Nat → Bool) : Nat → List (Nat × Nat) → List (Nat × Nat) → List (Nat × Nat)
  | 0, _, _ => []
  | n + 1, a :: as, b :: bs =>
    if le a.1 b.1 then a :: mergePairs le n as (b :: bs) else b :: mergePairs le n (a :: as) bs
  | _, as, bs => as ++ bs

/-- Two lists of 64 lanes paired as keys and payloads. -/
def keyed (ty : ElemType) (k p : Lanes) : List (Nat × Nat) :=
  (List.range 64).map (fun i => (lane ty k i, lane ty p i))

/-- Keys compare as the type. -/
def keyLe (ty : ElemType) (x y : Nat) : Bool := decide (intOf ty x ≤ intOf ty y)

/-- Writes keys to .o and payloads to .h. -/
def pairsDone (ty : ElemType) (lat : Nat) (l : List (Nat × Nat)) (s : State) : Eff :=
  .done (s.setT ((s.t.result 10 false lat (.v (l.map (fun p => laneOut ty p.1))) 0).result 10 true lat
    (.v (l.map (fun p => laneOut ty p.2))) 0))

/-- merge (R218). -/
def execVxMerge (ty : ElemType) (m : Mv) (s : State) : Out :=
  slotTrig 10 m (vecClass ty) (fun x s =>
    let v := vxIn s.t x
    let half := (v.t.pw 10 7).toNat
    if 1 < half then .illPort s
    else
      let l := mergePairs (keyLe ty) 128 (keyed ty v.a v.c) (keyed ty v.b (v.t.port 10 6).lanes)
      pairsDone ty 8 ((l.drop (64 * half)).take 64) s) s

/-- Inserts a pair after every pair whose key is not greater. -/
def insertPair (le : Nat → Nat → Bool) (x : Nat × Nat) : List (Nat × Nat) → List (Nat × Nat)
  | [] => [x]
  | y :: r => if le y.1 x.1 then y :: insertPair le x r else x :: y :: r

/-- sort64 (R219). -/
def execVxSort64 (ty : ElemType) (m : Mv) (s : State) : Out :=
  slotTrig 10 m (vecClass ty) (fun x s =>
    let v := vxIn s.t x
    pairsDone ty 12 ((keyed ty v.b v.c).foldl (fun l p => insertPair (keyLe ty) p l) []) s) s

/-- trstep (R220). -/
def execVxTrstep (ty : ElemType) (m : Mv) (s : State) : Out :=
  slotTrig 10 m (vecClass ty) (fun x s =>
    let v := vxIn s.t x
    let op := (v.t.pw 10 5).toNat
    let half := (v.t.pw 10 7).toNat
    if 4 < op ∨ 1 < half then .illPort s
    else
      let d := 2 ^ op
      let o := (List.range 64).map (fun i =>
        if !v.xon i then 0
        else laneOut ty (match half, nbit i op with
          | 0, false => lane ty v.a i
          | 0, true => lane ty v.b (i - d)
          | _, false => lane ty v.a (i + d)
          | _, true => lane ty v.b i))
      vecDone s 10 6 false (.v o) 0 [] (if ty.isFloat then v.xact ++ v.t.codeRecs 10 [5, 7] else [])) s

end Sys2Proof.Machine
end

