-- ==== Sys2Proof/Machine/Events.lean ====
section
/-! DEFINITION. A launch group's counters, records, events and interrupts (spec/01_work_model.md R43-R45; 17 R419, R430, R431; 20 R462).
-/

namespace Sys2Proof.Machine

open Host Arith

/-! ### A group's record (17 R419) -/

/-- n bytes of a group's launch record as a number. -/
def Group.at_ (g : Group) (off n : Nat) : Nat := leAt g.record off n

/-- The placement span of a group (R19): 0 core, 1 cluster, 2 die, 3 package. -/
def Group.span (g : Group) : Nat := g.at_ 5 1 % 4

/-- A bit of a record's FLAGS: 0 INDIRECT, 1 ORD, 2 DCHK, 3 DREC, 4 KEYED, 5 TIDENT. -/
def Group.flag (g : Group) (i : Nat) : Bool := nbit (g.at_ 7 1) i

/-- A bit of a record's EVEN: 0-4 the events by level, 5 the die interrupt, 6 the package interrupt. -/
def Group.even (g : Group) (i : Nat) : Bool := nbit (g.at_ 10 2) i

/-! ### Interrupts (20 R462) -/

/-- Sends an MSI-X message on a vector, or marks it pending while its table entry is masked (R431, R462). -/
def State.interrupt (s : State) (v : Nat) : State :=
  let hi := s.msix.get (2 * v + 1) (2 ^ 32)
  if wbit hi 32 then { s with pba := s.pba ||| BitVec.ofNat 256 (2 ^ v) }
  else { s with sent := s.sent ++ [.msix v (s.msix.get (2 * v) 0).toNat (wbits hi 31 0)] }

/-- The interrupt vector of a group's queue. -/
def State.vectorOf (s : State) (g : Group) : Nat := (s.hqs.get (g.part * 64 + g.queue) default).vector

/-! ### Records and events (R430, R431) -/

/-- The level of a node of R430 (0 strand to 4 package) and the offset of its record in the completion area. -/
def nodeRecord (k : Nat) : Nat × Nat :=
  if 1024 ≤ k then (0, 0x12480 + 0x80 * (k - 1024))
  else if 128 ≤ k then (1, 0x2480 + 0x80 * (k - 128))
  else if 16 ≤ k then (2, 0x480 + 0x80 * (k - 16))
  else if 1 ≤ k then (3, 0x80 + 0x80 * (k - 1))
  else (4, 0)

/-- Reads bytes of a group's address space, if every page is reached. -/
def State.groupRead (s : State) (g : Group) (p : Perm) (va : Word) (n : Nat) : State × Reach :=
  s.reach (s.leader g.part * 64) g.asid ⟨g.part, false, false, false⟩ p va n

/-- Writes bytes of a group's address space; an address that translates to nothing takes no write. -/
def State.groupWrite (s : State) (g : Group) (va : Nat) (bs : List Byte) : State :=
  match s.groupRead g .write (wd va) bs.length with
  | (s, .ok ps) => s.homeAll ps bs
  | (s, .bad _ _) => s

/-- The number of discarded tasks that the record of a node reports (R430). -/
def Group.disc (g : Group) (ndies level : Nat) : Nat :=
  if level = 4 then g.discarded
  else if level = 3 then (if g.span = 3 then g.discarded / ndies else g.discarded) else 0

/-- Step 1 of R431: NST0-NST4, DISC and REF of a node's record. -/
def State.writeRecord (s : State) (g : Group) (node ref : Nat) : State :=
  let (level, off) := nodeRecord node
  let nst := (List.range 5).flatMap (fun i => toBytes 4 (g.statuses.get (node * 16 + i) 0))
  s.groupWrite g (g.at_ 88 8 + off + 64) (nst ++ toBytes 4 (g.disc (s.diesOf g.part).length level) ++ toBytes 4 ref)

/-- Step 2 of R431: 1 is added to VALUE. -/
def State.addEvent (s : State) (g : Group) (node : Nat) : State :=
  let va := g.at_ 88 8 + (nodeRecord node).2
  match s.groupRead g .atomic (wd va) 8 with
  | (s, .ok ps) => s.homeAll ps (toBytes 8 (ofBytes (s.loadAll ps) + 1))
  | (s, .bad _ _) => s

/-- A counter below the package that reached zero: its event, and a die's interrupt, when enabled (R431). -/
def State.fire (s : State) (gid node : Nat) : State :=
  let g := s.group gid
  let level := (nodeRecord node).1
  if !g.even level then s
  else
    let s := (s.writeRecord g node 0).addEvent g node
    if level = 3 ∧ g.even 5 then s.interrupt (s.vectorOf g) else s

/-! ### Counters (R43, R44) -/

/-- The nodes of R430 whose counters a task is counted in, strand first: 1024 + strand, 128 + core, 16 + cluster, 1 + die,
and 0 for the package. -/
def pathOf (core strand : Nat) : List Nat := [1024 + core * 4 + strand, 128 + core, 16 + core / 8, 1 + core / 64, 0]

/-- Adds to, or takes from, the counters of a group at nodes (R43). -/
def State.countAt (s : State) (g : Nat) (ks : List Nat) (up : Bool) : State :=
  let x := s.group g
  s.setGroup g { x with counts := ks.foldl (fun c k =>
    c.set k (if up then c.get k 0 + 1 else c.get k 0 - 1)) x.counts }

/-- Counts a task's end status at every node of its path (R44). -/
def State.countStatus (s : State) (gid : Nat) (ks : List Nat) (status : Nat) (up : Bool) : State :=
  let g := s.group gid
  s.setGroup gid { g with statuses := ks.foldl (fun c k =>
    let n := c.get (k * 16 + status) 0
    c.set (k * 16 + status) (if up then n + 1 else n - 1)) g.statuses }

/-- Takes a task out of a counter below the package, whose event fires at zero (R43, R431). -/
def State.leaveBelow (s : State) (gid node : Nat) : State :=
  let s := s.countAt gid [node] false
  if node ≠ 0 ∧ (s.group gid).counts.get node 0 = 0 then s.fire gid node else s

end Sys2Proof.Machine
end

