-- ==== Sys2Proof/Machine/Lifecycle.lean ====
section
/-! DEFINITION. A task's life (spec/01_work_model.md R24-R28, R42-R45; 11 R322, R329, R330, R337): its start, its tiles and
copies, the end of its execution, ordered-mode keys and aborts. -/

namespace Sys2Proof.Machine

open Host Arith

/-- Clears and sets one bit of a word. -/
def setBit (x : Word) (i : Nat) (b : Bool) : Word := (x &&& ~~~wd (2 ^ i)) ||| (if b then wd (2 ^ i) else 0)

/-! ### Start (R122, R292, R421) -/

/-- `taskid` (R17). -/
def taskIdOf (serial depth idx : Nat) : Word := wd (serial % 2 ^ 24 * 2 ^ 40 + depth % 256 * 2 ^ 32 + idx % 2 ^ 32)

/-- A task at its start (R122) with the preloads of its record or spawn; place, identity and owner tag stay. -/
def Task.begun (t : Task) : Task :=
  let u := t.setup
  { (default : Task) with
    stage := t.stage, group := t.group, parent := t.parent, depth := t.depth, idx := t.idx, coord := t.coord,
    core := t.core, strand := t.strand, limit := t.limit, near := t.near, bprio := t.bprio, setup := u, started := t.started, tagged := t.tagged
    g := [(1, u.arg), (2, u.pre.get 2 0), (3, u.pre.get 3 0)]
    ctl := { (default : Ctl) with
      fmt := u.pre.get 0 0, rmode := u.pre.get 1 0, mode := u.mode, taskid := t.ctl.taskid, seed := u.seed, key := u.key,
      rgm := wd u.rgm, prio := wd t.bprio, otag := t.ctl.otag, tvec := u.tvec }
    gens := (List.range 64).map (fun i => { (default : Gen) with fs := mix (u.seed + wd i) })
    views := t.views.filter (fun v => decide (16 ≤ v.1))
    pc := u.entry, head := .ready, tmap := t.tmap, stamp := t.stamp, commit := t.commit, after := t.after
    digest := 1, digest1 := 1, tsave := t.tsave, lsave := t.lsave
    image := t.image, saved := t.saved, inset := t.inset, rslot := t.rslot, since := t.since, redo := t.redo }

/-! ### Tiles (R226, R425) -/

/-- The physical address of a tile that a task names, if the task holds it. -/
def Task.tilePa (t : Task) (code : Nat) : Option Nat :=
  (t.tmap.find? code).map (fun n => coreWin t.core (tileOff (code / 32) n))

/-- Whether a tile name is one of the task's own (R226). -/
def Task.hasTile (t : Task) (code : Nat) : Bool := (t.tmap.find? code).isSome

/-- Releases every tile and helper that a task claims on its core (R27, R304). -/
def State.releaseClaims (s : State) (id : Nat) : State :=
  let n := (s.task id).core
  let c := s.coreAt n
  let mine := c.owner.filter (fun o => o.2 != id)
  s.setCore n { c with owner := mine, claims := c.claims.filter (fun o => o.2 != id) }

/-- Frees a task's strand (R27): its core no longer issues from it. -/
def State.releaseStrand (s : State) (id : Nat) : State :=
  let t := s.task id
  let c := s.coreAt t.core
  if c.res.find? t.strand = some id then
    s.setCore t.core { c with
      res := c.res.del t.strand
      issuing := if c.issuing = some t.strand then none else c.issuing
      freeze := if c.issuing = some t.strand then none else c.freeze }
  else s

/-! ### Helpers (R304-R306) -/

/-- A word of a task's helper block. -/
def Task.helperWord (t : Task) (h k : Nat) : Nat := (t.setup.helper.get (h * 8 + k) 0).toNat

/-- Whether a task claims a helper: 0 the Retriever, 1 the Setter. -/
def Task.claims (t : Task) (h : Nat) : Bool := t.helperWord h 1 != 0

/-- Writes a helper's status word (R306): a release at core scope, which comes after the helper's own stores. -/
def State.helperStatus (s : State) (core : Nat) (h : Helper) (st cause detail : Nat) : State :=
  s.wr (coreWin core h.stat) (toBytes 8 (st * 2 ^ 56 + cause * 2 ^ 48 + detail % 2 ^ 32))

/-- A helper of a core: 0 the Retriever, 1 the Setter. -/
def State.helper (s : State) (core h : Nat) : Helper := if h = 0 then (s.coreAt core).ret else (s.coreAt core).set

/-- Replaces a helper of a core. -/
def State.setHelper (s : State) (core h : Nat) (x : Helper) : State :=
  let c := s.coreAt core
  s.setCore core (if h = 0 then { c with ret := x } else { c with set := x })

/-- Performs the stores that a helper has issued to the local store of its core (R308, R316). -/
def State.settleHelper (s : State) (core h : Nat) : State :=
  let x := s.helper core h
  let mine := x.wr.filter (fun w => ownWindow core w.pa)
  if mine.isEmpty then s
  else (mine.foldl (fun s w => s.store w.pa w.bytes) s).setHelper core h { x with wr := x.wr.filter (fun w => !ownWindow core w.pa) }

/-- The helpers of its core that a task claims. -/
def State.helpersOf (s : State) (id : Nat) : List Nat :=
  let c := s.coreAt (s.task id).core
  [0, 1].filter (fun h => c.claims.find? h == some id)

/-- The helpers of a task perform no further instruction once it ends (R306). -/
def State.haltHelpers (s : State) (id : Nat) : State :=
  (s.helpersOf id).foldl (fun s h =>
    let core := (s.task id).core
    let x := s.helper core h
    if x.st = 1 ∨ x.st = 2 then s.setHelper core h { x with st := 4 } else s) s

/-- Whether a helper has accesses that are still to be performed (R306, R308, R313). -/
def Helper.busy (x : Helper) : Bool := !x.out.isEmpty || !x.wr.isEmpty

/-- Whether a helper of the task has accesses that are still to be performed. -/
def State.helperBusy (s : State) (id : Nat) : Bool := (s.helpersOf id).any (fun h => (s.helper (s.task id).core h).busy)

/-- Puts a task's helpers back to their reset state as it leaves them: one that its end stopped writes STATE 3 (R306). -/
def State.stopHelpers (s : State) (id : Nat) : State :=
  (s.helpersOf id).foldl (fun s h =>
    let core := (s.task id).core
    let s := s.settleHelper core h
    let x := s.helper core h
    let s := if x.st = 4 then s.helperStatus core x 3 0 0 else s
    s.setHelper core h default) s

/-- Discards the state of an aborted task's helpers (R337). -/
def State.dropHelpers (s : State) (id : Nat) : State :=
  (s.helpersOf id).foldl (fun s h =>
    let core := (s.task id).core
    (s.settleHelper core h).setHelper core h default) s

/-! ### Engines and broadcast groups (08 R228, R240) -/

/-- A cluster by its number. -/
def State.cluster (s : State) (k : Nat) : Cluster := s.clusters.get k default

/-- Replaces a cluster. -/
def State.setCluster (s : State) (k : Nat) (x : Cluster) : State := { s with clusters := s.clusters.set k x }

/-- An operation's port, as the trigger copied it. -/
def EngOp.port (o : EngOp) (p : Nat) : Val := o.ports.get p (.w 0)

/-- The word of an operation's port. -/
def EngOp.pw (o : EngOp) (p : Nat) : Word := (o.port p).word

/-- A progress register of an operation. -/
def EngOp.reg (o : EngOp) (k : Nat) : Nat := o.regs.get k 0

/-- Writes a progress register. -/
def EngOp.setReg (o : EngOp) (k x : Nat) : EngOp := { o with regs := o.regs.set k x }

/-- A flag of the `flags` port (R231). -/
def EngOp.flag (o : EngOp) (i : Nat) : Bool := wbit (o.pw 12) i

/-- Whether an operation is a broadcast (R240). -/
def EngOp.isBroadcast (o : EngOp) : Bool := (o.form == 16 || o.form == 17) && o.flag 4 && o.unit == 12

/-- Ends a task's membership of a broadcast group (R240): the broadcasts of the other members that wait for its core are marked. -/
def State.leaveGroup (s : State) (n w : Nat) : State :=
  let g := w % 8
  let cl := n / 8
  let s := s.setCore n { s.coreAt n with bgroup := none }
  let k := s.cluster cl
  let s := s.setCluster cl { k with joins := Tab.set k.joins (8 + g) (Tab.get k.joins (8 + g) 0 ||| 2 ^ (n % 8)) }
  ((List.range 8).map (cl * 8 + ·)).foldl (fun s x =>
    let c := s.coreAt x
    match c.bgroup with
    | some u =>
      if u % 8 = g ∧ nbit (u / 8) (n % 8) then
        s.setCore x { c with
          mxq := c.mxq.map (fun o => if o.isBroadcast && !o.run && o.reg 23 == 0 then o.setReg 23 (n % 8 + 1) else o) }
      else s
    | none => s) s

/-- Ends a task's memberships of broadcast groups (R240). -/
def State.leaveGroups (s : State) (id : Nat) : State :=
  s.cores.foldl (fun s c => match c.2.bgroup with
    | some w => if w / 2 ^ 11 = id then s.leaveGroup c.1 w else s
    | none => s) s

/-! ### View copies (R322, R329) -/

/-- The element type of a view. -/
def View.elem (v : View) : ElemType := (ElemType.ofCode v.ty).getD .f32

/-- The identity of a view's operator (R322): 0 add, 1 min, 2 max, 3 or, 4 and, 5 product. -/
def View.identity (v : View) : Nat :=
  let ty := v.elem
  if ty.isFloat then
    match v.op with
    | 0 => 2 ^ (ty.bits - 1)
    | 1 => (encInf ty false).1
    | 2 => (encInf ty true).1
    | _ => 0x3F800000
  else
    match v.op with
    | 1 => wrapN ty.bits (intMax ty)
    | 2 => wrapN ty.bits (intMin ty)
    | 4 => 2 ^ ty.bits - 1
    | _ => 0

/-- The location form that a declaration's `vbase` names: a tile, or memory (R294, R323). -/
def declLoc (b : Word) : Word := if wbit b 63 then wd (2 ^ 63 + wbits b 7 0) else b

/-- The location of a view entry's storage, in the form of R323. -/
def View.place (v : View) : Word := if wbits v.loc 63 62 = 1 then v.loc else declLoc v.loc

/-- Where a copy or declared storage lies: physical pieces, or the fault that reaching it meets. -/
def State.viewPieces (s : State) (t : Task) (loc : Word) (len : Nat) (p : Perm) : State × Reach :=
  match wbits loc 63 62 with
  | 2 => (s, match t.tilePa (wbits loc 7 0) with | some pa => .ok [(pa, len)] | none => .bad 2 loc)
  | 1 => (s, .ok [(coreWin t.core (wbits loc 18 0), len)])
  | _ => s.reach t.core (s.asidOf t) (s.accOf t) p loc len

/-- The physical pieces of a view entry's storage as they stand; none where it is not reached. -/
def State.viewAt (s : State) (t : Task) (n : Nat) : List (Nat × Nat) :=
  let v := t.views.get n default
  match (s.viewPieces t v.place v.len .read).2 with
  | .ok ps => ps
  | .bad _ _ => []

/-- The storage of a copy in a task's saved list: a tile's code, or 512 + n in the view pool. -/
def View.saveCode (v : View) (n : Nat) : Nat := if wbits v.loc 63 62 = 2 then wbits v.loc 7 0 else 512 + n

/-- Fills a copy with its operator's identity (R322); a copy whose storage is scanned out is filled when it returns. -/
def State.blankView (s : State) (id n : Nat) : State :=
  let t := s.task id
  let v := t.views.get n default
  let z := v.elem.bytes
  let bs := (List.range (v.len / z)).flatMap (fun _ => toBytes z v.identity)
  if t.saved.any (fun x => x % 1024 == v.saveCode n) then s
  else match s.viewPieces t v.loc v.len .write with
    | (s, .ok ps) => s.storeAll ps bs
    | (s, .bad _ _) => s

/-- The copies a task holds: the entries 16-31 that are not empty (R324). -/
def Task.copies (t : Task) : List Nat := (t.views.filter (fun v => decide (16 ≤ v.1) && v.2.st != 0)).map (·.1)

/-- Fills every copy of a task with its identity. -/
def State.blankCopies (s : State) (id : Nat) : State := (s.task id).copies.foldl (fun s n => s.blankView id n) s

/-! ### Ordered mode: keys, the baton, aborts (R319, R330, R337) -/

/-- Whether a coordinate comes before another (R319): lexicographic, the shorter first. -/
def coordLt : List Nat → List Nat → Bool
  | _, [] => false
  | [], _ :: _ => true
  | x :: xs, y :: ys => decide (x < y) || (x == y && coordLt xs ys)

/-- Whether a task's commit key is smaller than another's (R319). -/
def keyLt (t u : Task) : Bool := decide (t.stamp < u.stamp) || (t.stamp == u.stamp && coordLt t.coord u.coord)

/-- Whether a task runs in ordered mode. -/
def Task.ord (t : Task) : Bool := wbit t.setup.mode 0

/-- Whether a task is ordered and has not committed. -/
def Task.uncommitted (t : Task) : Bool := t.ord && t.commit != 2 && t.stage != .retired

/-- The uncommitted tasks of a group. -/
def State.pending (s : State) (g : Nat) : List (Nat × Task) := s.tasks.filter (fun x => x.2.group == g && x.2.uncommitted)

/-- Whether an uncommitted task holds the baton: every other uncommitted task of its group has a larger key (R330). -/
def State.hasBaton (s : State) (id : Nat) : Bool :=
  let t := s.task id
  (s.pending t.group).all (fun x => x.1 == id || keyLt t x.2)

/-- Sets `mode`.SPEC of every task of a group: ordered, uncommitted, and without the baton (R318). -/
def State.passBaton (s : State) (g : Nat) : State :=
  { s with tasks := s.tasks.mapVals (fun id t =>
      if t.group == g && t.ord then
        let spec := t.uncommitted && !wbit t.ctl.mode 5 && !s.hasBaton id
        { t with ctl := { t.ctl with mode := setBit t.ctl.mode 4 spec } }
      else t) }

/-- Whether a task's accesses are speculative: buffered and tracked (R332, R333). -/
def Task.spec (t : Task) : Bool := t.uncommitted && !wbit t.ctl.mode 5

/-- Adds to an event counter of a die (R336, R390, R458). -/
def State.tally (s : State) (die sel : Nat) : State :=
  let d := s.die die
  s.setDie die { d with count := d.count.set sel (d.count.get sel 0 + 1) }

/-- The descendants of a task, by generations. -/
def State.descendants (s : State) : Nat → List Nat → List Nat
  | 0, _ => []
  | n + 1, ids =>
    let kids := (s.tasks.filter (fun x => match x.2.parent with | some p => ids.contains p | none => false)).map (·.1)
    if kids.isEmpty then [] else kids ++ s.descendants n kids

/-- Discards the engine operations of an aborted task (R337). -/
def State.dropOps (s : State) (id : Nat) : State :=
  let keep (l : List EngOp) : List EngOp := l.filter (fun o => o.task != id)
  { s with
    cores := s.cores.mapVals (fun _ c => { c with
      mxq := keep c.mxq, anq := keep c.anq, xfq := keep c.xfq
      row := if (c.anq.head?.map (·.task)) = some id then none else c.row })
    clusters := s.clusters.mapVals (fun _ x => { x with cpq := keep x.cpq }) }

/-- The writes of an aborted task outside global memory stand (R337): those still to be performed are performed now. -/
def State.keepWrites (s : State) (id : Nat) : State :=
  let s := (s.task id).stores.foldl (fun s x => match x.push with
    | some (c, q) => s.giveUp (c * 16 + q) x.num
    | none => if x.rel == Rel.none then s.homeStore x.pa x.bytes else s) s
  s.setTask id { s.task id with stores := [] }

/-- The counters that a task is counted in: its path once it has been admitted, before that the package alone (R43). -/
def Task.path (t : Task) : List Nat := if t.started then pathOf t.core t.strand else [0]

/-- Takes a descendant of an aborted task out of the part (R337). Until a rerun spawns it again (R42) it counts as aborted. -/
def State.dropTask (s : State) (id : Nat) : State :=
  let t := s.task id
  if t.stage = .retired then s
  else
    let s := (((s.dropOps id).keepWrites id).forget id).haltHelpers id
    let s := (((s.stopHelpers id).leaveGroups id).releaseStrand id).releaseClaims id
    let s := s.setTask id { s.task id with
      stage := .retired, commit := 3, status := 1, ordered := [], head := .finish, rslot := 0 }
    let s := { s with waitq := s.waitq.filter (fun w => w.1 != id) }
    t.path.foldl (fun s k => s.leaveBelow t.group k) (s.countStatus t.group t.path 1 true)

/-- Aborts an uncommitted task (R337): its buffered stores, copies, residual stack and helpers are discarded, its descendants
leave, and it restarts from its entry once the task it conflicted with has committed (R333). -/
def State.abortTask (s : State) (id blocker : Nat) : State :=
  let s := (s.descendants 256 [id]).foldl State.dropTask s
  let s := ((((s.dropOps id).keepWrites id).dropHelpers id).leaveGroups id).forget id
  let s := s.blankCopies id
  let t := s.task id
  let t' := { t.begun with commit := 1, after := blocker, head := .rerun }
  let s := s.tally (dieOf t.core) 0x41
  let s :=
    if t.stage = .resident then
      let c := s.coreAt t.core
      let s := s.setTask id t'
      if c.issuing = some t.strand then s.setCore t.core { c with issuing := none, gap := 2, freeze := none } else s
    else
      let s := s.releaseClaims id
      s.setTask id { t' with stage := .waiting, tmap := [], saved := [], image := 0, tsave := 0, lsave := 0 }
  s.passBaton t.group

/-! ### The end of a task's execution (R31, R42, R295, R297, R329) -/

/-- Ends a task's execution with a status and detail (R42): it leaves its strand; with a status other than normal its copies
become the identity (R329). Its completion is counted when it retires. -/
def State.endTask (s : State) (id status : Nat) (detail : Word) : State :=
  let s := ((s.releaseStrand id).forget id).haltHelpers id
  let t := s.task id
  let s := s.setTask id { t with
    stage := .ended, status := status, detail := detail, head := .finish, sibset := t.sibset + 1, susp := none
    slot := (match t.cur.fin with | some (i, _) => i | none => t.slot), cur := default, walk := none, hwalk := none, entering := false }
  if status = 0 then s else s.blankCopies id

/-- Ends the current task: the block ends with it (R29), and the core switches after its gap (R33). -/
def State.endCurrent (s : State) (status : Nat) (detail : Word) : State :=
  let s := s.endTask s.cur status detail
  { (s.setC { s.c with issuing := none, gap := 2, switches := s.c.switches + 1 }) with turn := none }

end Sys2Proof.Machine
end

