-- ==== Sys2Proof/Machine/Lines.lean ====
section
/-! DEFINITION. The caches (spec/19_coherence_replication.md R446, R450, R451, R456-R459; 00 R3): the L1 of each core, each die's lines, their
compressed storage, and an agent's accesses to lines. -/

namespace Sys2Proof.Machine

open Host Arith

/-! ### L1 (00 R3, 19 R450, R451) -/

/-- The lines of an L1: 128 KiB of 256-byte lines. -/
def l1Lines : Nat := 512

/-! ### Die-level lines (19 R446, R450, R451). The newest data of every line is in the one physical memory, and what the memory behind the
caches holds beside it; the protocol's states and messages are kept apart. Line states: 1 S, 2 E, 3 O, 4 M, 5 IS_D, 6 IM_D, 7 SM_A, 8 MI_A. Message kinds: 0 RS, 1 RX, 2 UP, 3 WB, 4 EVC, 5 INV,
6 ACK to the home, 7 FWS, 8 FWX, 9 FMISS, 10 DATA, 11 GRANT, 12 ACK of a write-back, 13 data from memory. -/

/-- Puts a coherence message on the package network. -/
def State.post (s : State) (kind src dst line arg : Nat) : State := { s with net := s.net ++ [⟨kind, src, dst, line, arg⟩] }

/-- A line's entry at a die. -/
def State.dieLine (s : State) (die line : Nat) : DieLine := (s.die die).lines.get line ⟨0, 0, false, 0⟩

/-- Replaces a line's entry at a die; a line in I has none. -/
def State.setLine (s : State) (die line : Nat) (x : DieLine) : State :=
  let d := s.die die
  s.setDie die { d with lines := if x.st = 0 then d.lines.del line else d.lines.set line x }

/-- Moves a line's superblock to the end of its die's order of use (R457). -/
def State.useBlock (s : State) (die line : Nat) : State :=
  let d := s.die die
  s.setDie die { d with lru := d.lru.filter (fun b => b != line / 4) ++ [line / 4] }

/-! ### Compressed storage in L2 (R456-R459) -/

/-- Whether a task of an ordered group is resident on a die (R459). -/
def State.orderedOn (s : State) (die : Nat) : Bool :=
  s.tasks.any (fun x => x.2.stage == .resident && x.2.ord && dieOf x.2.core == die)

/-- Removes a line's compressed image from a die. -/
def State.dropSize (s : State) (die line : Nat) : State :=
  let d := s.die die
  s.setDie die { d with sizes := d.sizes.del line }

/-- Whether an L1 of a die, but for one core's, holds a line that its core has written. -/
def State.l1Written (s : State) (die line : Nat) (but : Nat) : Bool :=
  s.cores.any (fun x => dieOf x.1 == die && x.1 != but && nbit (x.2.l1.get line 0) 2)

/-- Recalls the L1 copies of a line on a die, but for one core's (R446, R450, R451). -/
def State.l1Recall (s : State) (die line : Nat) (keep : Option Nat) : State :=
  { s with cores := s.cores.mapVals (fun n c => if dieOf n = die ∧ keep ≠ some n then { c with l1 := c.l1.del line } else c) }

/-- A die drops a line: nothing of it stays, in its L1s either (R446). -/
def State.dropLine (s : State) (die line : Nat) : State :=
  ((s.l1Recall die line none).setLine die line ⟨0, 0, false, 0⟩).dropSize die line

/-- A die's L2 evicts a line (R446, R447): its L1 copies are recalled; S falls silently, E sends EVC, O and M send WB. -/
def State.evict (s : State) (die line : Nat) : State :=
  match (s.dieLine die line).st with
  | 1 => s.dropLine die line
  | 2 => (s.dropLine die line).post 4 die (homeOf line) line 0
  | 3 => (((s.l1Recall die line none).dropSize die line).setLine die line ⟨8, 0, false, 0⟩).post 3 die (homeOf line) line 0
  | 4 => (((s.l1Recall die line none).dropSize die line).setLine die line ⟨8, 0, false, 0⟩).post 3 die (homeOf line) line 0
  | _ => s

/-- L2_EVICTION (R446). -/
def execL2Eviction (die line : Nat) (s : State) : Out := .next (s.evict die line)

/-- The segments of a set that are in use on a die: those of its lines, and old ones not yet freed (R457). -/
def Die.segments (d : Die) (set : Nat) : Nat :=
  (d.sizes.filter (fun x => l2Set (x.1 / 4) == set)).foldl (fun n x => n + x.2) 0 +
    (d.olds.filter (fun x => l2Set (x.1 / 4) == set)).foldl (fun n x => n + x.2) 0

/-- The superblocks of a set that hold tags on a die. -/
def Die.tagsIn (d : Die) (set : Nat) : Nat :=
  ((d.sizes.filter (fun x => l2Set (x.1 / 4) == set)).map (fun x => x.1 / 4)).eraseDups.length

/-- Evicts superblocks of a set, least recently used first, until its segments and tags fit (R457, R459); an eviction for want of
segments counts (R458). -/
def State.fit (s : State) (die keep pool tags : Nat) : List Nat → State
  | [] => s
  | b :: r =>
    let d := s.die die
    let full := decide (pool < d.segments (l2Set keep))
    if !full && decide (d.tagsIn (l2Set keep) ≤ tags) then s
    else if b = keep ∨ l2Set b ≠ l2Set keep ∨ !(d.sizes.any (fun x => x.1 / 4 == b)) then s.fit die keep pool tags r
    else
      let s := (List.range 4).foldl (fun s i => s.evict die (4 * b + i)) s
      (if full then s.tally die 0x59 else s).fit die keep pool tags r

/-- Stores a line's image in a die's L2 (R457): new segments, the swap, and the old segments to be freed. -/
def State.storeImage (s : State) (die line : Nat) : State :=
  let d := s.die die
  let n := (LineCode.encode (s.rd (line * 256) 256)).length / 32
  let old := d.sizes.get line 0
  if old = n then s
  else
    let s := s.setDie die { d with
      sizes := d.sizes.set line n
      olds := if old = 0 then d.olds else d.olds ++ [(line, old)] }
    let s := if old = 0 then s else s.tally die 0x58
    let ord := s.orderedOn die
    s.fit die (line / 4) (if ord then 384 else 512) (if ord then 28 else 32) (s.die die).lru

/-- The reserved ways of a die (R459): the first resident task of an ordered group evicts what exceeds 28 tags and 384 segments of a set. -/
def State.reserveWays (s : State) (die : Nat) : State :=
  if !s.orderedOn die then s
  else (s.die die).lru.foldr (fun b s => s.fit die b 384 28 (s.die die).lru) s

/-- SEGMENT_FREE (R457): the old segments of a swap are freed. -/
def execSegmentFree (die n : Nat) (s : State) : Out :=
  let d := s.die die
  .next (s.setDie die { d with olds := d.olds.eraseIdx n })

/-- A core's L1 takes sectors of a line, a mask with 4 added for a write (R450); a full one drops another line, which the spec leaves
open (notes/assumptions/10.md). -/
def State.l1Fill (s : State) (core line mask : Nat) : State :=
  let c := s.coreAt core
  if (c.l1.find? line).isSome then s.setCore core { c with l1 := c.l1.set line (c.l1.get line 0 ||| mask) }
  else if c.l1.length < l1Lines then s.setCore core { c with l1 := c.l1.set line mask }
  else
    let (k, s) := s.choose c.l1.length
    let old := (c.l1.map (·.1)).getD k 0
    let s := s.setCore core { c with l1 := (c.l1.del old).set line mask }
    if nbit (c.l1.get old 0) 2 then s.storeImage (dieOf core) old else s

/-- A store of a core takes a line that its die owns (R451): the L1 copies of the other cores fall, and one that was written is written
back, which stores the line anew (R457). -/
def State.takeLine (s : State) (core line : Nat) (x : DieLine) : State :=
  let die := dieOf core
  let s := if s.l1Written die line core then s.storeImage die line else s
  (s.l1Recall die line (some core)).setLine die line { x with st := 4, vec := 2 ^ (clusterOf core % 8) }

/-- An access of a core's cluster to a line (R450, R451): its die's copy serves it, or the die asks the home. -/
def State.touchLine (s : State) (core line : Nat) (write : Bool) : State :=
  let die := dieOf core
  let s := s.useBlock die line
  let x := s.dieLine die line
  let bit := 2 ^ (clusterOf core % 8)
  let wants := max x.want (if write then 2 else 1)
  match x.st, write with
  | 0, false => (s.setLine die line ⟨5, bit, false, 1⟩).post 0 die (homeOf line) line 0
  | 0, true => (s.setLine die line ⟨6, bit, false, 2⟩).post 1 die (homeOf line) line 0
  | 2, true => s.takeLine core line x
  | 4, true => s.takeLine core line x
  | 1, true => ((s.setLine die line { x with st := 7, want := 2 }).post 2 die (homeOf line) line 0).tally die 0x51
  | 3, true => ((s.setLine die line { x with st := 7, want := 2 }).post 2 die (homeOf line) line 0).tally die 0x51
  | 5, _ => s.setLine die line { x with want := wants, vec := x.vec ||| bit }
  | 8, _ => s.setLine die line { x with want := wants }
  | 6, _ => s
  | 7, _ => s
  | _, _ => s.setLine die line { x with vec := x.vec ||| bit }

/-- Accesses to the lines of physical pieces that are global memory. -/
def State.touch (s : State) (core : Nat) (ps : List (Nat × Nat)) (write : Bool) : State :=
  ((ps.filter (fun p => isGlobal p.1)).flatMap (fun p => linesOf p.1 p.2)).eraseDups.foldl
    (fun s l => s.touchLine core l write) s

/-- The mask of a line's sectors that bytes touch. -/
def sectorMask (line pa n : Nat) : Nat :=
  (sectorsOf pa n).foldl (fun m k => if k / 2 = line then m ||| 2 ^ (k % 2) else m) 0

/-- Whether a core's die may perform a store to a run of bytes: memory that no cache holds, or lines that the die holds in M (R450,
R451). -/
def State.owns (s : State) (core pa n : Nat) : Bool :=
  !isGlobal pa || (linesOf pa n).all (fun l => (s.dieLine (dieOf core) l).st == 4)

/-- A write of bytes by an agent of a core (R450, R451): performed when the die owns the lines it touches; otherwise the die asks their homes,
and the write waits. The Boolean says that it was performed. -/
def State.put (s : State) (core pa : Nat) (bs : List Byte) : State × Bool :=
  let s := s.touch core [(pa, bs.length)] true
  if s.owns core pa bs.length then (s.store pa bs, true) else (s, false)

/-- A write of bytes over physical pieces by an agent of a core (R450, R451): all of it, once the die owns every line that it touches. -/
def State.putAll (s : State) (core : Nat) (ps : List (Nat × Nat)) (bs : List Byte) : State × Bool :=
  let s := s.touch core ps true
  if ps.all (fun p => s.owns core p.1 p.2) then (s.storeAll ps bs, true) else (s, false)

end Sys2Proof.Machine
end

