-- ==== Sys2Proof/Machine/Coherence.lean ====
section
/-! DEFINITION. The coherence protocol between dies (spec/19_coherence_replication.md R446-R452; 15 R389-R392), replication (R453,
R454), and the writes of the host and of peers (R452). The newest bytes of a line are in the one physical memory, and the protocol moves states and
messages and says when the memory behind the caches takes a line (R449).

Home states: 0 I, 1 ID, 2 S, 3 SI_A, 4 E, 5 M, 6 O, 7 OF, 8 OFW, 9 OW, 10 MF, 11 MFW, 12 MW, 13 HI_A, 14 O while the other
sharers' acknowledgements are out, 15 S or O while a lowered region's copies fall (R454). Requests: 0 RS, 1 RX, 2 UP, 3 a host or
peer write (from 8) or the recall of every copy for an access at the home (from 9), 4 the collapse of a region's removed members. -/

namespace Sys2Proof.Machine

open Host Arith

/-- A line's entry at its home; a line with no entry is in I (R446). -/
def State.homeLine (s : State) (line : Nat) : Home := (s.die (homeOf line)).home.get line ⟨0, 0, 0, 0, 0, []⟩

/-- Replaces a line's entry at its home. -/
def State.setHome (s : State) (line : Nat) (h : Home) : State :=
  let d := s.die (homeOf line)
  s.setDie (homeOf line) { d with home := if h.st = 0 ∧ h.wait = [] then d.home.del line else d.home.set line h }

/-- Removes the first message that a predicate names from the network, with its argument. -/
def State.takeMsg (s : State) (p : CohMsg → Bool) : State × Nat :=
  match s.net.find? p with
  | some m => ({ s with net := s.net.erase m }, m.arg)
  | none => (s, 0)

/-- The dies of a mask. -/
def diesIn (mask : Nat) : List Nat := (List.range 8).filter (fun d => nbit mask d)

/-- A mask without the bits of another. -/
def without (mask drop : Nat) : Nat := (diesIn mask).foldl (fun m d => if nbit drop d then m else m + 2 ^ d) 0

/-! ### Regions (R389, R453, R454) -/

/-- The region of a line. -/
def regionOf (line : Nat) : Nat := line / 8192

/-- The next and the previous degree (R389). -/
def degUp (n : Nat) : Nat := if n = 0 then 1 else if n = 1 then 2 else if n = 2 then 4 else 7
/-- The degree below another (R389). -/
def degDown (n : Nat) : Nat := if n = 7 then 4 else if n = 4 then 2 else if n = 2 then 1 else 0

/-- The region entry of a line, if its home has one. -/
def State.region (s : State) (line : Nat) : Option Region := (s.die (homeOf line)).regions.find? (regionOf line)

/-- Changes the region entry of a line, if its home has one. -/
def State.onRegion (s : State) (line : Nat) (f : Region → Region) : State :=
  let d := s.die (homeOf line)
  match d.regions.find? (regionOf line) with
  | some r => s.setDie (homeOf line) { d with regions := d.regions.set (regionOf line) (f r) }
  | none => s

/-- The members of a line's replica set. -/
def State.members8 (s : State) (line : Nat) : List Nat := match s.region line with | some r => r.set | none => []

/-- Allocates a region entry at a home die (R453): a free entry, or the least recently allocated of degree 0 that is not pinned. -/
def Die.newRegion (d : Die) (key : Nat) : Option Die :=
  let r : Region := ⟨0, false, [], 0, 0, 0, d.regions.foldl (fun m x => max m (x.2.born + 1)) 0⟩
  if d.regions.length < 4096 then some { d with regions := d.regions.set key r }
  else
    match (d.regions.filter (fun x => x.2.deg == 0 && !x.2.pin)).mergeSort (fun a b => decide (a.2.born ≤ b.2.born)) with
    | x :: _ => some { d with regions := Tab.set (d.regions.del x.1) key r }
    | [] => none

/-- Counts a read shared that reaches the home from another die (R389, R453); CXL lines are not tracked (R470). -/
def State.countRead (s : State) (die line : Nat) : State :=
  if die = homeOf line ∨ 8 * stackSize ≤ line * 256 then s
  else
    let d := s.die (homeOf line)
    let s := if (d.regions.find? (regionOf line)).isSome then s
      else match d.newRegion (regionOf line) with
        | some d => s.setDie (homeOf line) d
        | none => s
    s.onRegion line (fun r => { r with rrd := r.rrd + 2 ^ (32 * die) })

/-- Counts an upgrade, read exclusive or write that reaches the home (R389). -/
def State.countWrite (s : State) (line : Nat) : State := s.onRegion line (fun r => { r with wrt := r.wrt + 1 })

/-- Counts a write that invalidates the copies of a mask of dies, when a member of the replica set is among them (R454). -/
def State.countCollapse (s : State) (line mask : Nat) : State :=
  if (s.members8 line).any (fun d => nbit mask d) then
    (s.onRegion line (fun r => { r with col := r.col + 1 })).tally (homeOf line) 0x55
  else s

/-! ### The home (R448, R449) -/

/-- Performs at a line's home what the first host or peer write that waits for the line writes there (R452): its bytes go to memory over
what the owner gave back. -/
def State.hostDone (s : State) (line : Nat) : State :=
  match s.hostWs.find? (fun w => w.lines.contains line) with
  | none => s
  | some w =>
    let mine := w.parts.filter (fun p => p.1 / 256 == line)
    let s := mine.foldl (fun s p =>
      let s := s.wr p.1 p.2
      if w.bad then (sectorsOf p.1 p.2.length).foldl (fun s k => s.mark k) s else s) s
    let w' := { w with lines := w.lines.erase line, parts := w.parts.filter (fun p => p.1 / 256 != line) }
    { s.writeBack line with hostWs := if w'.lines = [] then s.hostWs.erase w else s.hostWs.map (fun x => if x = w then w' else x) }

/-- The end of a request that emptied a line's entry (R452): a host write is performed. -/
def State.emptied (s : State) (line who : Nat) : State := if who % 16 = 8 then s.hostDone line else s.writeBack line

/-- Sends a message from a line's home to a die. -/
def State.toDie (s : State) (kind die line arg : Nat) : State := s.post kind (homeOf line) die line arg

/-- Sends INV to the dies of a mask. -/
def State.invalidate (s : State) (line mask : Nat) : State :=
  (diesIn mask).foldl (fun s d => s.toDie 5 d line (if (s.members8 line).contains d then 1 else 0)) (s.countCollapse line mask)

/-- The grants of DATA: 0 S, 1 E, 2 M. -/
def grantCode : CohGrant → Nat
  | .s => 0 | .e => 1 | .m => 2

/-- The home takes one request in a stable state (R448, R452). -/
def State.serve (s : State) (line kind die : Nat) : State :=
  let h := s.homeLine line
  let bit := 2 ^ die
  let others := without h.shr bit
  let kind' := if kind = 2 ∧ !nbit h.shr die then 1 else kind
  let s := if kind = 2 ∧ kind' = 1 then s.tally die 0x52 else s
  let who := die + 16 * kind'
  let memory (s : State) (h : Home) : State := (s.setHome line { h with st := 1, who := who }).post 13 (homeOf line) (homeOf line) line 0
  if kind' = 3 then
    let dirty := h.st = 4 ∨ h.st = 5 ∨ h.st = 6
    let inv := if dirty then without h.shr (2 ^ h.own) else h.shr
    if h.shr = 0 then s.emptied line die
    else
      let s := s.invalidate line inv
      let s := if dirty then s.toDie 8 h.own line 8 else s
      s.setHome line { h with st := 13, who := who, acks := (diesIn inv).length + (if dirty then 1 else 0) }
  else if kind' = 4 then
    let gone := (diesIn h.shr).filter (fun d => nbit die d && !((h.st == 6 || h.st == 4 || h.st == 5) && d == h.own))
    if (h.st = 2 ∨ h.st = 6) ∧ gone ≠ [] then
      let mask := gone.foldl (fun m d => m + 2 ^ d) 0
      let s := gone.foldl (fun s d => s.toDie 5 d line 1) s
      s.setHome line { h with st := 15, who := h.st, acks := gone.length, shr := without h.shr mask }
    else s
  else if h.st = 0 then memory s h
  else if h.st = 2 then
    if kind' = 0 then memory s { h with shr := others + bit }
    else if others = 0 then
      if kind' = 2 then (s.setHome line { h with st := 5, own := die, shr := bit }).toDie 11 die line 0 else memory s h
    else (s.invalidate line others).setHome line { h with st := 3, who := who, acks := (diesIn others).length }
  else if h.st = 4 ∨ h.st = 5 then
    if kind' = 0 then (s.setHome line { h with st := 7, who := who, shr := others + bit }).toDie 7 h.own line die
    else (s.setHome line { h with st := 10, who := who }).toDie 8 h.own line die
  else if kind' = 0 then (s.setHome line { h with st := 7, who := who, shr := others + bit }).toDie 7 h.own line die
  else if h.own = die ∧ kind' = 2 then
    if others = 0 then (s.setHome line { h with st := 5, shr := bit }).toDie 11 die line 0
    else (s.invalidate line others).setHome line { h with st := 3, who := who, acks := (diesIn others).length }
  else
    let rest := without others (2 ^ h.own)
    if rest = 0 then (s.setHome line { h with st := 10, who := who }).toDie 8 h.own line die
    else (s.invalidate line rest).setHome line { h with st := 14, who := who, acks := (diesIn rest).length }

/-- Whether a home state is stable. -/
def homeStable (st : Nat) : Bool := [0, 2, 4, 5, 6].contains st

/-- In a stable state the home takes the queued requests, one after another, until the line is in a transient state (R448). -/
def State.nextRequest (s : State) (line : Nat) : Nat → State
  | 0 => s
  | n + 1 =>
    let h := s.homeLine line
    if !homeStable h.st then s
    else
      match h.wait with
      | [] => s
      | (k, d) :: r => ((s.setHome line { h with wait := r }).serve line k d).nextRequest line n

/-- Moves a line to a stable state, in which the home takes its next request. -/
def State.settleHome (s : State) (line : Nat) (h : Home) : State :=
  let h := if h.st = 2 ∧ h.shr = 0 then { h with st := 0 } else h
  let h := if h.st = 0 then { h with shr := 0, own := 0 } else h
  (s.setHome line { h with who := 0, acks := 0 }).nextRequest line 16

/-- The die that a transient state serves, and its request. -/
def Home.reqDie (h : Home) : Nat := h.who % 16
/-- The request that a transient state serves. -/
def Home.reqKind (h : Home) : Nat := h.who / 16 % 16

/-- Ends a transient state in M for the requester. -/
def State.homeM (s : State) (line : Nat) (h : Home) : State :=
  s.settleHome line { h with st := 5, own := h.reqDie, shr := 2 ^ h.reqDie }

/-- A request arrives at the home (R448): it is taken in a stable state with nothing queued, joins the line's queue, or, when a die's
request finds 15 entries queued, is refused and stays to be retried under R94. -/
def State.arrive (s : State) (line kind die arg : Nat) : State :=
  let h := s.homeLine line
  if homeStable h.st ∧ h.wait = [] then (s.serve line kind die).nextRequest line 16
  else
    let key := 2 ^ 40 + line
    let r := s.resv key
    let num := arg / 2 ^ 16
    let free := 15 - h.wait.length
    let held := if r.next = r.serve then 0 else 1
    if 3 ≤ kind ∨ (num ≠ 0 ∧ num - 1 = r.serve.toNat ∧ 0 < free) ∨ (num = 0 ∧ held < free) then
      let s := if num ≠ 0 then s.setResv key r.served else s
      s.setHome line { h with wait := h.wait ++ [(kind, die)] }
    else if arg % 2 ^ 16 = 1 ∧ num = 0 then
      (s.setResv key { r with next := r.next + 1 }).post kind die (homeOf line) line (2 + 2 ^ 16 * (r.next.toNat + 1))
    else s.post kind die (homeOf line) line (min (arg % 2 ^ 16 + 1) 3 + 2 ^ 16 * num)

/-- RS (R448). -/
def execRs (die line : Nat) (s : State) : Out :=
  let (s, a) := s.takeMsg (fun m => m.kind == 0 && m.src == die && m.line == line)
  .next ((if a = 0 then s.countRead die line else s).arrive line 0 die a)

/-- RX (R448). -/
def execRx (die line : Nat) (s : State) : Out :=
  let (s, a) := s.takeMsg (fun m => m.kind == 1 && m.src == die && m.line == line)
  .next ((if a = 0 then s.countWrite line else s).arrive line 1 die a)

/-- UP (R448, R391): upgrades of several dies may arrive in one cycle, a free choice; then the lowest PDIE's is granted, and the
others are converted and queued behind it. -/
def execUp (die line : Nat) (s : State) : Out :=
  let (s, a) := s.takeMsg (fun m => m.kind == 2 && m.src == die && m.line == line)
  let s := if a = 0 then s.countWrite line else s
  let rest := s.net.filter (fun m => m.kind == 2 && m.line == line)
  let h := s.homeLine line
  if rest = [] ∨ !homeStable h.st ∨ h.wait ≠ [] then .next (s.arrive line 2 die a)
  else
    let (k, s) := s.choose 2
    if k = 0 then .next (s.arrive line 2 die a)
    else
      let s := rest.foldl (fun s m => { s with net := s.net.erase m }.countWrite line) s
      let all := (die :: rest.map (·.src)).mergeSort (fun a b => decide (a ≤ b))
      let losers := all.drop 1
      let s := s.serve line 2 (all.headD die)
      let s := losers.foldl (fun s d => s.tally d 0x52) (s.tally (homeOf line) 0x53)
      let h := s.homeLine line
      .next ((s.setHome line { h with wait := h.wait ++ losers.map (fun d => (1, d)) }).nextRequest line 16)

/-- MEMORY_DATA (R448): a line in ID goes to the requester in E or M, or in S where it is shared or a member installs its replica
(R389). -/
def execMemoryData (line : Nat) (s : State) : Out :=
  let (s, _) := s.takeMsg (fun m => m.kind == 13 && m.line == line)
  let h := s.homeLine line
  if h.st ≠ 1 then .next s
  else
    let d := h.reqDie
    if h.reqKind ≠ 0 then .next ((s.toDie 10 d line 2).homeM line h)
    else if without h.shr (2 ^ d) ≠ 0 ∨ (s.members8 line).contains d then
      .next ((s.toDie 10 d line 0).settleHome line { h with st := 2, shr := without h.shr (2 ^ d) + 2 ^ d })
    else .next ((s.toDie 10 d line 1).settleHome line { h with st := 4, own := d, shr := 2 ^ d })

/-- Dirty data or a clean eviction of the owner arrives at the home (R448, R392). -/
def State.ownerData (s : State) (die line : Nat) (back : Bool) : State :=
  let h := s.homeLine line
  let s' := if back then s.toDie 12 die line 0 else s
  let count (s : State) : State := s.tally (homeOf line) 0x54
  let rest := without h.shr (2 ^ die)
  let rest' := without rest (2 ^ h.reqDie) + 2 ^ h.reqDie
  if h.own ≠ die then s'
  else
    match h.st with
    | 4 => s'.settleHome line { h with st := 0 }
    | 5 => s'.settleHome line { h with st := 0 }
    | 6 => s'.settleHome line { h with st := 2, shr := rest }
    | 7 => ((count s').toDie 10 h.reqDie line 0).setHome line { h with st := 8, shr := rest' }
    | 9 => ((count s').toDie 10 h.reqDie line 0).settleHome line { h with st := 2, shr := rest' }
    | 10 => ((count s').toDie 10 h.reqDie line 2).setHome line { h with st := 11 }
    | 12 => ((count s').toDie 10 h.reqDie line 2).homeM line h
    | 13 => if h.acks ≤ 1 then (s'.emptied line h.who).settleHome line { h with st := 0 } else s'.setHome line { h with acks := h.acks - 1 }
    | 14 => s'.setHome line { h with st := 3, who := h.reqDie + 16 }
    | _ => s'

/-- WB (R448, R449): the owner's dirty line; a stale one is acknowledged and discarded. A write-back that the home has asked for
(R452) is not acknowledged. Memory takes the data of the line's owner (R449). -/
def execWb (die line : Nat) (s : State) : Out :=
  let (s, a) := s.takeMsg (fun m => m.kind == 3 && m.src == die && m.line == line)
  let s := if (s.homeLine line).own = die then s.writeBack line else s
  .next (s.ownerData die line (a == 0))

/-- EVC (R448). -/
def execEvc (die line : Nat) (s : State) : Out :=
  let (s, _) := s.takeMsg (fun m => m.kind == 4 && m.src == die && m.line == line)
  .next (s.ownerData die line false)

/-- FMISS (R392, R448): it moves the states that await a forward's answer, and is discarded in any other. -/
def execFmiss (die line : Nat) (s : State) : Out :=
  let (s, _) := s.takeMsg (fun m => m.kind == 9 && m.src == die && m.line == line)
  let h := s.homeLine line
  match h.st with
  | 7 => .next (s.setHome line { h with st := 9 })
  | 8 => .next (s.settleHome line { h with st := 2 })
  | 10 => .next (s.setHome line { h with st := 12 })
  | 11 => .next (s.homeM line h)
  | _ => .next s

/-! ### A die's L2 (R450) -/

/-- An invalidation drops a die's copy; it counts when the copy is a replica (R390, R454). -/
def State.fall (s : State) (die line a : Nat) : State :=
  if (a = 1 ∨ (s.members8 line).contains die) ∧ [1, 7].contains (s.dieLine die line).st then s.tally die 0x50 else s

/-- INV (R450): the L1 copies are recalled, the copy falls, and the die acknowledges; one that waits for data of a read keeps it for
one use, and one that waits for a grant waits for data. -/
def execInv (die line : Nat) (s : State) : Out :=
  let (s, a) := s.takeMsg (fun m => m.kind == 5 && m.dst == die && m.line == line)
  let x := s.dieLine die line
  let s := s.fall die line a
  let s := match x.st with
    | 1 => s.dropLine die line
    | 2 => s.dropLine die line
    | 3 => s.dropLine die line
    | 4 => s.dropLine die line
    | 5 => s.setLine die line { x with once := true }
    | 7 => ((s.l1Recall die line none).dropSize die line).setLine die line { x with st := 6, vec := 0 }
    | _ => s
  .next (s.post 6 die (homeOf line) line 0)

/-- ACK: of an invalidation, at the home, whose last one completes the transition (R448); or of a write-back, at the die, whose
waiting access then asks the home again (R450). -/
def execAck (die line : Nat) (toHome : Bool) (s : State) : Out :=
  if toHome then
    let (s, _) := s.takeMsg (fun m => m.kind == 6 && m.src == die && m.line == line)
    let h := s.homeLine line
    let last := decide (h.acks ≤ 1)
    if !([3, 13, 14, 15].contains h.st) then .next s
    else if !last then .next (s.setHome line { h with acks := h.acks - 1 })
    else
      match h.st with
      | 3 => .next (((if h.reqKind = 2 then s.toDie 11 h.reqDie line 0 else s.toDie 10 h.reqDie line 2)).homeM line h)
      | 13 => .next ((s.emptied line h.who).settleHome line { h with st := 0 })
      | 14 => .next ((s.setHome line { h with st := 10, acks := 0 }).toDie 8 h.own line h.reqDie)
      | _ => .next (s.settleHome line { h with st := h.who })
  else
    let (s, _) := s.takeMsg (fun m => m.kind == 12 && m.dst == die && m.line == line)
    let x := s.dieLine die line
    if x.st ≠ 8 then .next s
    else if x.want = 0 then .next (s.setLine die line ⟨0, 0, false, 0⟩)
    else .next ((s.setLine die line ⟨4 + x.want, x.vec, false, x.want⟩).post (x.want - 1) die (homeOf line) line 0)

/-- FWS (R450): an owner sends the data, with the state it held, and keeps S or O; a die without the line answers FMISS. A forward for the home itself (8)
changes no copy (R452). -/
def execFws (die line req : Nat) (s : State) : Out :=
  let (s, _) := s.takeMsg (fun m => m.kind == 7 && m.dst == die && m.line == line)
  let x := s.dieLine die line
  if req = 8 then .next s
  else if [2, 3, 4, 7].contains x.st then
    let s := s.storeImage die line
    let x := s.dieLine die line
    let s := s.setLine die line { x with st := if x.st = 2 then 1 else if x.st = 4 then 3 else x.st }
    let h := s.homeLine line
    let s := if x.st ≠ 2 ∧ h.st = 7 then s.setHome line { h with who := h.who % 256 + 256 } else s
    .next (s.post 10 die req line 0)
  else .next (s.post 9 die (homeOf line) line 0)

/-- FWX (R450): an owner recalls its L1 copies and sends the data; one that waits for a grant then waits for data. -/
def execFwx (die line req : Nat) (s : State) : Out :=
  let (s, _) := s.takeMsg (fun m => m.kind == 8 && m.dst == die && m.line == line)
  let x := s.dieLine die line
  if [2, 3, 4, 7].contains x.st then
    let s := if x.st = 7 then ((s.l1Recall die line none).dropSize die line).setLine die line { x with st := 6, vec := 0 } else s.dropLine die line
    .next (if req = 8 then s.post 3 die (homeOf line) line 1 else s.post 10 die req line 2)
  else .next (s.post 9 die (homeOf line) line 0)

/-- DATA (R450): line data serves the waiting fill or store; data of an owner also ends the home's wait (R448). -/
def execData (die line : Nat) (grant : CohGrant) (s : State) : Out :=
  let (s, _) := s.takeMsg (fun m => m.kind == 10 && m.dst == die && m.line == line && m.arg == grantCode grant)
  let x := s.dieLine die line
  let s := match x.st with
    | 5 =>
      let again (s : State) (st : Nat) : State :=
        if x.want ≤ 1 then s
        else if st = 0 then (s.setLine die line ⟨6, x.vec, false, 2⟩).post 1 die (homeOf line) line 0
        else if st = 1 then ((s.setLine die line { x with st := 7 }).post 2 die (homeOf line) line 0).tally die 0x51
        else s.setLine die line { x with st := 4, want := 0 }
      if x.once then again (s.setLine die line ⟨0, 0, false, 0⟩) 0
      else
        let st := grantCode grant
        let st := if st = 2 then 4 else st + 1
        again ((s.setLine die line { x with st := st, want := 0 }).storeImage die line) st
    | 6 => (s.setLine die line { x with st := 4, want := 0 }).storeImage die line
    | 7 => (s.setLine die line { x with st := 4, want := 0 }).storeImage die line
    | _ => s
  let h := s.homeLine line
  if h.reqDie ≠ die then .next s
  else
    match h.st with
    | 7 => .next (s.settleHome line (if h.who / 256 = 1 then { h with st := 6, shr := without h.shr (2 ^ h.own) + 2 ^ h.own }
        else { h with st := 2, shr := without h.shr (2 ^ h.own) + 2 ^ h.own }))
    | 10 => .next (s.homeM line h)
    | _ => .next s

/-- GRANT (R450): the waiting store is performed in M. -/
def execGrant (die line : Nat) (s : State) : Out :=
  let (s, _) := s.takeMsg (fun m => m.kind == 11 && m.dst == die && m.line == line)
  let x := s.dieLine die line
  .next (if x.st = 7 then s.setLine die line { x with st := 4, want := 0 } else s)

/-! ### Replication windows (R389, R454) -/

/-- Collapses the replicas that the removed members of a region hold (R454): the home invalidates every line of the region there. -/
def State.collapse (s : State) (home region : Nat) (gone : List Nat) : State :=
  let mask := gone.foldl (fun m d => m + 2 ^ d) 0
  if gone = [] then s
  else (((s.die home).home.map (·.1)).filter (fun l => regionOf l == region)).foldl (fun s l => s.arrive l 4 mask 0) s

/-- The dies that may join a region's replica set, by descending read contribution, then PDIE (R389). -/
def State.joiners (s : State) (home : Nat) (r : Region) : List Nat :=
  ((s.diesOf (s.partOf home)).filter (fun d => d != home && !r.set.contains d)).mergeSort
    (fun a b => decide (r.rrd / 2 ^ (32 * b) % 2 ^ 32 ≤ r.rrd / 2 ^ (32 * a) % 2 ^ 32))

/-- Sets a region's degree: the first members stay, and the rest of the set joins or falls. -/
def State.setDegree (s : State) (home region deg : Nat) (set : List Nat) : State :=
  let d := s.die home
  match d.regions.find? region with
  | some r =>
    let s := s.setDie home { d with regions := d.regions.set region { r with deg := deg, set := set } }
    s.collapse home region (r.set.filter (fun m => !set.contains m))
  | none => s

/-- The home's thresholds (R389). -/
def Die.readT (d : Die) : Nat := if d.rt = 0 then 1024 else d.rt
/-- The collapse threshold (R389). -/
def Die.collapseT (d : Die) : Nat := if d.ct = 0 then 64 else d.ct

/-- The end of a window for one region (R389): of a pinned region nothing changes. -/
def State.windowEnd (s : State) (home region : Nat) (r : Region) : State :=
  let d := s.die home
  let reads := (List.range 8).foldl (fun n i => n + r.rrd / 2 ^ (32 * i) % 2 ^ 32) 0
  let s := if r.pin then s
    else if d.collapseT ≤ r.col then
      if r.deg = 0 then s
      else (s.setDegree home region (degDown r.deg) (r.set.take (degDown r.deg))).tally home 0x57
    else if d.readT ≤ reads ∧ 16 * r.wrt < reads + r.wrt ∧ r.deg ≠ 7 then
      (s.setDegree home region (degUp r.deg) ((r.set ++ s.joiners home r).take (degUp r.deg))).tally home 0x56
    else s
  let d := s.die home
  match d.regions.find? region with
  | some r =>
    if r.pin then s else s.setDie home { d with regions := d.regions.set region { r with rrd := 0, wrt := 0, col := 0 } }
  | none => s

/-- REPLICATION_WINDOW_END (R389). -/
def execReplicationWindowEnd (die : Nat) (s : State) : Out :=
  let d := s.die die
  let s := s.setDie die { d with cycles := (d.cycles / 2 ^ 16 + 1) * 2 ^ 16 }
  .next (d.regions.foldl (fun s x => s.windowEnd die x.1 x.2) s)

/-! ### Host and peer writes (R452), and accesses at a home (R91, R266, R434) -/

/-- A run of bytes cut at the lines' ends. -/
def lineParts : Nat → Nat → List Byte → List (Nat × List Byte)
  | 0, _, _ => []
  | fuel + 1, pa, bs =>
    if bs.isEmpty then []
    else
      let k := 256 - pa % 256
      (pa, bs.take k) :: lineParts fuel (pa + k) (bs.drop k)

/-- A host or peer write arrives at the homes of its lines (R112, R452): a request at each, and its bytes are written when the home has no
copy left out. -/
def State.hostLines (s : State) (pa : Nat) (bs : List Byte) (relaxed bad : Bool) : State :=
  let parts := lineParts (bs.length / 256 + 2) pa bs
  let lines := linesOf pa bs.length
  if bs.isEmpty then s
  else lines.foldl (fun s l => (s.countWrite l).arrive l 3 8 0) { s with hostWs := s.hostWs ++ [⟨lines, parts, relaxed, bad⟩] }

/-- Prepares an access that is performed at the home of a run of bytes, no cache holding a copy: the lines with copies are recalled, like
for a host write (R452). The Boolean says that no copy is left. -/
def State.homeClear (s : State) (pa n : Nat) : State × Bool :=
  if !isGlobal pa then (s, true)
  else
    (linesOf pa n).foldl (fun (acc : State × Bool) l =>
      let s := acc.1
      let h := s.homeLine l
      if h.st = 0 ∧ h.wait = [] then acc
      else if homeStable h.st then (((s.countWrite l).arrive l 3 9 0), false)
      else (s, false)) (s, true)

/-- gm.flush of a line (R266): every dirty copy is written back to the memory of the home, and clean copies stay. It waits while the home is
in a transient state. -/
def State.flushLine (s : State) (line : Nat) : State × Bool :=
  let h := s.homeLine line
  if !homeStable h.st then (s, false)
  else
    let s := s.writeBack line
    let own := s.dieLine h.own line
    if (h.st = 4 ∨ h.st = 5) ∧ own.st = 4 then ((s.setHome line { h with st := 4 }).setLine h.own line { own with st := 2 }, true)
    else if h.st = 6 ∧ own.st = 3 then ((s.setHome line { h with st := 2 }).setLine h.own line { own with st := 1 }, true)
    else (s, true)

/-- gm.inval of a line (R266): its newest bytes are in memory, and no cache holds a copy. -/
def State.invalLine (s : State) (line : Nat) : State × Bool :=
  let (s, ok) := s.homeClear (line * 256) 1
  if ok then (s.writeBack line, true) else (s, false)

end Sys2Proof.Machine
end

