-- ==== Sys2Proof/Machine/Ordered.lean ====
section
/-! DEFINITION. Ordered mode's buffers, conflicts, commits and digests (spec/11_views_determinism.md R332-R334, R340; 19 R460). -/

namespace Sys2Proof.Machine

open Host Arith

/-- The entry of a sector in a task's ordered record. -/
def Task.sectorOf (t : Task) (k : Nat) : OrdSector :=
  match t.ordered.find? (fun o => o.sector == k) with
  | some o => o
  | none => ⟨k, false, false, []⟩

/-- Replaces the entry of a sector. -/
def Task.setSector (t : Task) (o : OrdSector) : Task :=
  { t with ordered := t.ordered.filter (fun x => x.sector != o.sector) ++ [o] }

/-- The bytes a task reads: memory, under its own buffered bytes (R332). -/
def State.ownLoad (s : State) (t : Task) (pa n : Nat) : List Byte :=
  let bs := s.load pa n
  if !t.spec then bs
  else bs.zipIdx.map (fun (b, i) =>
    match (t.sectorOf ((pa + i) / 128)).bytes.find? (fun c => c.1 == pa + i) with
    | some c => c.2
    | none => b)

/-- The sectors that uncommitted tasks have registered at one slice of a home die (R460). -/
def State.registered (s : State) (k : Nat) : List Nat :=
  ((s.tasks.flatMap (fun x => if x.2.uncommitted then x.2.ordered.map (·.sector) else [])).filter (fun j =>
    homeOf (j / 2) == homeOf (k / 2) && sliceOf (j / 2) == sliceOf (k / 2))).eraseDups

/-- Whether the registration of sectors finds a speculative sector table full: 8,192 entries at each home slice (R460). -/
def State.tableFull (s : State) (secs : List Nat) : Bool :=
  secs.any (fun k =>
    let old := s.registered k
    let new := (secs.filter (fun j => homeOf (j / 2) == homeOf (k / 2) && sliceOf (j / 2) == sliceOf (k / 2) && !old.contains j)).eraseDups
    new.contains k && decide (8192 < old.length + new.length))

/-- Marks a sector read by the current task (R333): reading a sector that an earlier uncommitted task has written aborts the
reader. The Boolean says that the task goes on. -/
def State.noteRead (s : State) (k : Nat) : State × Bool :=
  let t := s.t
  if !t.spec then (s, true)
  else
    match (s.pending t.group).find? (fun x => x.1 != s.cur && keyLt x.2 t && (x.2.sectorOf k).wrote) with
    | some x => (s.abortTask s.cur x.1, false)
    | none => (s.setT (t.setSector { t.sectorOf k with read := true }), true)

/-- Marks a sector written by the current task (R333): every later uncommitted task that has read it is aborted. -/
def State.noteWrite (s : State) (k : Nat) : State :=
  let t := s.t
  let s := s.setT (t.setSector { t.sectorOf k with wrote := true })
  let hit := (s.pending t.group).filter (fun x => x.1 != s.cur && keyLt t x.2 && (x.2.sectorOf k).read)
  hit.foldl (fun s x => s.abortTask x.1 s.cur) s

/-- Marks the sectors of global memory that a direct write of an uncommitted task covers (R333). -/
def State.noteAll (s : State) (ps : List (Nat × Nat)) : State :=
  if s.t.uncommitted then
    ((ps.filter (fun p => isGlobal p.1)).flatMap (fun p => sectorsOf p.1 p.2)).foldl (fun s k => s.noteWrite k) s
  else s

/-- Buffers bytes of a speculative task's store (R332). -/
def Task.buffer (t : Task) (pa : Nat) (bs : List Byte) : Task :=
  bs.zipIdx.foldl (fun t (b, i) =>
    let o := t.sectorOf ((pa + i) / 128)
    t.setSector { o with wrote := true, bytes := o.bytes.filter (fun c => c.1 != pa + i) ++ [(pa + i, b)] }) t

/-- Writes a task's buffered bytes home in ascending address order (R332), through RX and UP (19 R460): lines that its die does not own
yet stay buffered, and the Boolean says that nothing is left. Its read and write sets stay until it commits (R333). -/
def State.commitBytes (s : State) (id : Nat) : State × Bool :=
  let t := s.task id
  let cells := (t.ordered.flatMap (fun o => o.bytes)).mergeSort (fun a b => decide (a.1 ≤ b.1))
  let (s, left) := cells.foldl (fun (acc : State × List (Nat × Byte)) c =>
    if !acc.2.isEmpty then (acc.1.touch t.core [(c.1, 1)] true, acc.2 ++ [c])
    else
      let (s, ok) := acc.1.put t.core c.1 [c.2]
      (s, if ok then [] else [c])) (s, [])
  (s.setTask id { s.task id with ordered := t.ordered.map (fun o => { o with bytes := o.bytes.filter left.contains }) }, left.isEmpty)

/-- Serialising (R334): a speculative task waits for the baton, then commits its lines, becomes serial, and goes on. The event
counts under a selector (R336). While lines of the commit are not owned yet, it waits with the baton. -/
def State.serialisedAs (s : State) (sel : Nat) (ok : State → Eff) : Eff :=
  if !s.t.spec then ok s
  else if !s.hasBaton s.cur then .block s .baton
  else
    let (s, done) := s.commitBytes s.cur
    if !done then .block s .baton
    else
      let t := s.t
      let s := s.setT { t with ctl := { t.ctl with mode := setBit (setBit t.ctl.mode 5 true) 4 false } }
      ok (s.tally (dieOf t.core) sel)

/-- An operation that cannot be buffered (R334). -/
def State.serialised (s : State) (ok : State → Eff) : Eff := s.serialisedAs 0x42 ok

/-- GMul of R340: n bits of b remain, from bit n - 1 down. -/
def gmulBits (a b : Word) : Nat → Word → Word
  | 0, p => p
  | n + 1, p =>
    let p := (p <<< 1) ^^^ (if p.msb then 0x1B else 0)
    gmulBits a b n (if b.getLsbD n then p ^^^ a else p)

/-- GMul (R340). -/
def gmul (a b : Word) : Word := gmulBits a b 64 0

/-- Fold (R340). -/
def foldWord (d h w : Word) : Word := gmul d h ^^^ w

/-- H0 and H1 (R340). -/
def digH0 : Word := 0x8D2C41F65A93E71B
def digH1 : Word := 0x2F7AC9B06E15D483

/-- Folds one element of z bytes at a virtual address into a task's digest (R340). -/
def Task.foldElem (t : Task) (va : Word) (z x : Nat) : Task :=
  let h := wd (Nat.log2 z * 2 ^ 57 + va57 va)
  let d := wd x
  { t with digest := foldWord (foldWord t.digest digH0 h) digH0 d, digest1 := foldWord (foldWord t.digest1 digH1 h) digH1 d }

/-- Folds the elements of a store to global memory, when digests are on and DX is 0 (R340). -/
def Task.foldStore (t : Task) (l : List (Word × Nat × Nat × Nat)) : Task :=
  if !(wbit t.ctl.mode 1 || wbit t.ctl.mode 2) || wbit t.ctl.mode 3 then t
  else l.foldl (fun t (va, pa, z, x) => if isGlobal pa then t.foldElem va z x else t) t

end Sys2Proof.Machine
end

