-- ==== Sys2Proof/Machine/Objects.lean ====
section
/-! DEFINITION. Sync objects and barriers at their sites (spec/09_memory_sync_tasks.md R273-R276; 03 R91, R92, R97, R104): their words, the
waits kept there, effective priorities (01 R36), and when a release may be performed. -/

namespace Sys2Proof.Machine

open Host Arith

/-! ### Requests -/

/-- Replaces an operand of an awaited request. -/
def Await.setArg (a : Await) (i x : Nat) : Await := { a with args := a.args.set i x }

/-- The response of a request: a value, or the fault it carries. -/
def Await.answered (a : Await) (x : Word) : Await := { a with value := some x }

/-- The response of a request that carries a fault. -/
def Await.failed (a : Await) (cls code : Nat) : Await := { a.setArg 3 (cls * 2 ^ 40 + code) with value := some 0 }

/-! ### Words at a site -/

/-- A sync object's record at its site. -/
def State.syncAt (s : State) (pa : Nat) : SyncObj := s.syncs.get pa ⟨none, []⟩

/-- Replaces a sync object's record. -/
def State.setSync (s : State) (pa : Nat) (o : SyncObj) : State :=
  { s with syncs := if o.bound.isNone ∧ o.waits.isEmpty then s.syncs.del pa else s.syncs.set pa o }

/-- Writes a word of the current task's synchronisation at its site (R91), which an ordered task's sectors take note of (R333). -/
def State.syncWrite (s : State) (pa : Nat) (x : Word) : State := (s.noteAll [(pa, 8)]).homeStore pa (toBytes 8 x.toNat)

/-- A word at a site. -/
def State.syncRead (s : State) (pa : Nat) : Word := wd (ofBytes (s.load pa 8))

/-! ### Priorities (01 R36) -/

/-- The tasks that wait at sync objects that a task owns (R274, R486). -/
def State.waitersOn (s : State) (id : Nat) : List Nat :=
  if !(s.task id).tagged then []
  else s.syncs.flatMap (fun (pa, o) =>
    if !o.waits.isEmpty && s.syncRead (pa + 8) == (s.task id).ctl.otag then o.waits.map (·.1) else [])

/-- The effective priority of a task (R36), by chains of at most `fuel` owners. -/
def State.effFuel (s : State) : Nat → Nat → Nat
  | 0, id => (s.task id).bprio
  | fuel + 1, id => (s.waitersOn id).foldl (fun p w => max p (s.effFuel fuel w)) (s.task id).bprio

/-- The effective priority of a task (R36): a chain of owners that repeats none is no longer than the tasks are many. -/
def State.effPrio (s : State) (id : Nat) : Nat := s.effFuel s.tasks.length id

/-! ### Waits (R273, R274) -/

/-- Whether a wait's condition holds (R165, R273): eq, ne, ge, lt of naturals. -/
def condHolds (cond : Nat) (v a : Word) : Bool :=
  match cond with
  | 0 => v == a
  | 1 => v != a
  | 2 => decide (a ≤ v)
  | _ => decide (v < a)

/-- Answers the request that a site keeps for a task: a wait with its condition and value, or, under condition 8, a lock. -/
def State.release (s : State) (id pa cond : Nat) (x : Word) : State :=
  let t := s.task id
  let mine (a : Await) : Bool := a.arg 0 == 2 && a.addr == pa &&
    (if cond = 8 then a.port == 31 else a.port == 30 && a.arg 7 == cond && a.arg 5 == x.toNat)
  match t.pick mine with
  | some (h, a) => s.setOut id (t.setAwait h (a.answered 0))
  | none => s

/-- Re-evaluates the waits at every site (R273): those whose condition holds return. -/
def State.wake (s : State) : State :=
  s.syncs.foldl (fun s (pa, o) =>
    let v := s.syncRead pa
    let met (w : Nat × Nat × Word) : Bool := decide (w.2.1 < 8) && condHolds w.2.1 v w.2.2
    if o.waits.any met then
      ((o.waits.filter met).foldl (fun s w => s.release w.1 pa w.2.1 w.2.2) s).setSync pa { o with waits := o.waits.filter (fun w => !met w) }
    else s) s

/-- The most urgent lock kept at an object, the earliest among equals (R274). -/
def State.nextOwner (s : State) (o : SyncObj) : Option Nat :=
  ((o.waits.filter (fun w => w.2.1 == 8)).foldl (fun (b : Option (Nat × Nat)) w =>
    let p := s.effPrio w.1
    match b with
    | some (q, id) => if q < p then some (p, w.1) else some (q, id)
    | none => some (p, w.1)) none).map (·.2)

/-- Hands a released object to its most urgent waiter, or leaves it unowned (R274). -/
def State.handOver (s : State) (pa : Nat) : State :=
  let o := s.syncAt pa
  match s.nextOwner o with
  | none => s.syncWrite (pa + 8) (BitVec.allOnes 64)
  | some id =>
    let s := s.setSync pa { o with waits := o.waits.filter (fun w => !(w.1 == id && w.2.1 == 8)) }
    (s.syncWrite (pa + 8) (s.task id).ctl.otag).release id pa 8 0

/-! ### Barriers (R276). A barrier is kept in its group under node × 2^16 + ID: its phase, and for that phase and those after it, in digits of
base 2^48, the arrivals still to be performed × 2^32 + the arrivals counted × 2^16 + COUNT. -/

/-- The node of a level that holds a core (R276): 1 core, 2 cluster, 3 die, 4 the partition. -/
def levelNode (level core : Nat) : Nat :=
  match level with
  | 1 => 128 + core
  | 2 => 16 + core / 8
  | 3 => 1 + core / 64
  | _ => 0

/-- The live identities that a node holds, over the groups of its partition that have not completed (R276). -/
def State.liveBarriers (s : State) (part node : Nat) : Nat :=
  (s.groups.map (fun (_, g) =>
    if g.part = part ∧ g.stage < 2 then (g.barriers.filter (fun b => b.1 / 2 ^ 16 == node)).length else 0)).sum

/-- A barrier's digit for the i-th phase from its present one. -/
def barDigit (st i : Nat) : Nat := nbits st (48 * i + 47) (48 * i)

/-- Replaces a digit. -/
def setBarDigit (st i x : Nat) : Nat := st - barDigit st i * 2 ^ (48 * i) + x * 2 ^ (48 * i)

/-- The first phase, from the present one, whose arrivals have not reached its COUNT. -/
def openPhase (st : Nat) : Nat → Nat → Nat
  | 0, i => i
  | fuel + 1, i => if barDigit st i ≠ 0 ∧ nbits (barDigit st i) 31 16 = nbits (barDigit st i) 15 0 then openPhase st fuel (i + 1) else i

/-- A phase whose arrivals have all been performed ends, and the next begins (R276). -/
def endPhases : Nat → Nat × Nat → Nat × Nat
  | 0, b => b
  | fuel + 1, (phase, st) =>
    let d := barDigit st 0
    if d ≠ 0 ∧ nbits d 31 16 = nbits d 15 0 ∧ nbits d 47 32 = 0 then endPhases fuel ((phase + 1) % 2 ^ 32, st / 2 ^ 48) else (phase, st)

/-- An arrival of a barrier is performed (R276). -/
def State.arrived (s : State) (group key phase : Nat) : State :=
  let g := s.group group
  let (now, st) := g.barriers.get key (0, 0)
  let i := (phase + 2 ^ 32 - now) % 2 ^ 32
  let st := setBarDigit st i (barDigit st i - 2 ^ 32)
  s.setGroup group { g with barriers := g.barriers.set key (endPhases (Nat.log2 st / 48 + 2) (now, st)) }

/-! ### Releases (R97 item 3, R104) -/

/-- The region that an object is bound to, as physical pieces; none where it is unbound. -/
def State.boundPieces (s : State) (t : Task) (pa : Nat) : Option (List (Nat × Nat)) :=
  match (s.syncAt pa).bound with
  | none => none
  | some (base, len) => match s.reach t.core (s.asidOf t) (s.accOf t) .write (wd base) len with
    | (_, .ok ps) => some ps
    | _ => none

/-- Whether what a release orders before it has been performed (R97 item 3): the task's accesses that come before a place in its program order;
of its stores, only those to the region that a bound object publishes (R104). -/
def State.released (s : State) (id seq pa : Nat) : Bool :=
  let t := s.task id
  let before := t.stores.filter (fun x => decide (x.seq < seq))
  t.waitingLoads.all (fun x => decide (seq ≤ x.2.seq) || x.2.pas.all (fun q => q.got.isSome)) &&
    (before.isEmpty || (match s.boundPieces t pa with
      | some ps => before.all (fun x => !ps.any (fun p => x.meets p.1 p.2))
      | none => false))

end Sys2Proof.Machine
end

