-- ==== Sys2Proof/Machine/Access.lean ====
section
/-! DEFINITION. A strand's accesses to memory: landing loads and stores, when they are performed (spec/03_memory_model.md R97,
R105; 09 R263-R265, R271, R274, R276, R279), and pushes and their refusals (R86, R94). -/

namespace Sys2Proof.Machine

open Host Arith

/-! ### Pushes (R86, R94) -/

/-- The outcome of offering a request to a resource: accepted, refused with its refusals and number so far, or discarded. -/
inductive Offer where
  | ok (s : State)
  | refused (s : State) (tries : Nat) (num : Option Nat)
  | discard (s : State)
deriving Repr

/-- Offers a request to a resource with n free entries (R94): a numbered request is accepted when its number is SERVE, an
unreserved one only into an entry other than the one held for SERVE. At its second refusal a request gets the number NEXT.
Every refusal counts for its core (R483). -/
def State.offer (s : State) (key core free tries : Nat) (num : Option Nat) (ok : State → State) : Offer :=
  let r := s.resv key
  let held := if r.next = r.serve then 0 else 1
  let accept := match num with
    | some k => k == r.serve.toNat && decide (0 < free)
    | none => decide (held < free)
  if accept then
    let s := if num.isSome then s.setResv key r.served else s
    .ok (ok s)
  else
    let s := s.refuse core
    if tries = 1 ∧ num.isNone then .refused (s.setResv key { r with next := r.next + 1 }) 2 (some r.next.toNat)
    else .refused s (tries + 1) num

/-- The free entries of a queue for a push (R86, R313). -/
def State.queueFree (s : State) (core q : Nat) : Nat :=
  let x := s.queue core q
  if s.outstanding core q then 0 else x.cap - x.count

/-- Offers one entry to a queue of a core (R86): discarded when the queue's entry size is no longer the write's. -/
def State.offerPush (s : State) (from_ core q : Nat) (bs : List Byte) (tries : Nat) (num : Option Nat) : Offer :=
  let x := s.queue core q
  if x.cfg.isNone ∨ x.entry ≠ bs.length then .discard (s.giveUp (core * 16 + q) num)
  else s.offer (core * 16 + q) from_ (s.queueFree core q) tries num (fun s =>
    (s.queueWrite core x x.tail 0 bs).setQueue core q { x with tail := x.tail + 1 })

/-! ### Landing loads -/

/-- The value that a landing load delivers from the bytes of its pieces (R263): the pieces are those of the active lanes. -/
def landValue (p : LandPend) (bs : List (List Byte)) : Val :=
  let ty := (ElemType.ofCode p.ty).getD .s64
  match p.form with
  | 16 => .w (if ty.isSigned then BitVec.ofInt 64 (sint ty.bits (ofBytes (bs.headD []))) else wd (ofBytes (bs.headD [])))
  | 17 =>
    let lanes := (List.range 64).filter (fun i => wbit p.lanes i)
    .v ((List.range 64).map (fun i =>
      if wbit p.lanes i then
        let x := ofBytes (bs.getD (lanes.idxOf i) [])
        match ty with
        | .s8 | .s16 => wd (wrapN 32 (sint ty.bits x))
        | _ => wd x
      else 0))
  | _ => .w 0

/-- What the caches take of an access of a core to a line that its die holds, unless its page keeps it out of L1 (R434, R450). -/
def State.noteL1 (s : State) (core pa n attr write : Nat) : State :=
  if !isGlobal pa ∨ attr ≠ 0 then s
  else (linesOf pa n).foldl (fun s l =>
    if decide (1 ≤ (s.dieLine (dieOf core) l).st ∧ (s.dieLine (dieOf core) l).st ≤ 4) then s.l1Fill core l (sectorMask l pa n + write) else s) s

/-- Performs the part of a load that lies in one sector, as one access (R88), once the task's earlier accesses to those bytes are
performed; flush and inval act on their line (R266). -/
def State.performSector (s : State) (id n sector : Nat) : State :=
  let t := s.task id
  match (t.landAt n).pend with
  | none => s
  | some p =>
    let mine (q : Piece) : Bool := q.got.isNone && q.pa / 128 == sector
    if !(p.pas.any mine) || !(p.pas.all (fun q => !mine q || t.inOrder p.seq q.pa q.n)) then s
    else if p.form = 24 ∨ p.form = 25 then
      let (s, ok) := if p.form = 24 then s.flushLine (sector / 2) else s.invalLine (sector / 2)
      if ok then s.takePieces id n mine (fun _ => ([], false)) else s
    else
      let s := (p.pas.filter mine).foldl (fun s q =>
        if q.attr = 2 then s else (s.touch t.core [(q.pa, q.n)] false).noteL1 t.core q.pa q.n q.attr 0) s
      s.takePieces id n mine (fun q => (s.ownLoad t q.pa q.n, s.loadBad q.pa q.n))

/-- The sectors of a load's pieces. -/
def LandPend.sectors (p : LandPend) : List Nat := (p.pas.map (fun q => q.pa / 128)).eraseDups

/-- Performs what is left of a load, as far as it may be. -/
def State.performPieces (s : State) (id n : Nat) : State :=
  match ((s.task id).landAt n).pend with
  | none => s
  | some p => p.sectors.foldl (fun s k => s.performSector id n k) s

/-- Writes a loaded tile, its poisoned sectors marked (R264, R267). -/
def State.fillTile (s : State) (dst : Nat) (ps : List Piece) : State :=
  let got := ps.map (fun q => q.got.getD ([], false))
  got.zipIdx.foldl (fun s (x, i) => if x.2 then s.mark ((dst + 128 * i) / 128) else s) (s.wr dst (got.flatMap (·.1)))

/-- The data of a load that is performed arrives at its entry (R128, R263, R264). -/
def State.arriveLoad (s : State) (id n : Nat) : State :=
  let t := s.task id
  let e := t.landAt n
  match e.pend with
  | none => s
  | some p =>
    if p.got.isSome || !(p.pas.all (fun q => q.got.isSome)) then s
    else
      let bad := p.form != 18 && p.pas.any (fun q => (q.got.getD ([], false)).2)
      let x := landValue p (p.pas.map (fun q => (q.got.getD ([], false)).1))
      let s := match p.form, p.tile with
        | 18, some (core, off) => s.fillTile (coreWin core off) p.pas
        | _, _ => s
      s.setTask id ((s.task id).setLandAt n { e with pend := some { p with got := some (x, bad) } })

/-- Performs a landing load, and its data arrives once all of it is performed. -/
def State.performLoad (s : State) (id n : Nat) : State := (s.performPieces id n).arriveLoad id n

/-! ### Stores -/

/-- Performs one pending store of a task once its earlier accesses to those bytes are performed (R97 item 1). A push may be refused and
stays (R86, R94); a store to global memory waits until its die owns the line (R450, R451), or until no cache holds it (R434). -/
def State.performStore (s : State) (id seq : Nat) : State :=
  let t := s.task id
  match t.stores.find? (fun x => x.seq == seq) with
  | none => s
  | some x =>
    let n := x.bytes.length
    if !t.inOrder seq x.pa n then s
    else match x.push with
      | some (c, q) =>
        match s.offerPush t.core c q x.bytes x.tries x.num with
        | .ok s => s.dropStore id seq
        | .discard s => s.dropStore id seq
        | .refused s k num =>
          s.setTask id { s.task id with stores := (s.task id).stores.map (fun y => if y.seq = seq then { y with tries := k, num := num } else y) }
      | none =>
        if x.rel != .none && !s.released id seq x.pa then s
        else match x.rel with
        | .arrive g key phase => (s.arrived g key phase).dropStore id seq
        | .trig => (s.setTask id { s.task id with trigged := true }).dropStore id seq
        | .unlock =>
          let (s, ok) := s.homeClear x.pa n
          if ok then { { s with cur := id }.handOver x.pa with cur := s.cur }.dropStore id seq else s
        | _ =>
        if x.attr = 2 then
          let (s, ok) := s.homeClear x.pa n
          if ok then (s.homeStore x.pa x.bytes).dropStore id seq else s
        else
          let (s, ok) := s.put t.core x.pa x.bytes
          if ok then (s.noteL1 t.core x.pa n x.attr 4).dropStore id seq else s

/-- Performs, in program order, the accesses of a task that a predicate on addresses names, as far as they may be. -/
def State.performWhere (s : State) (id : Nat) (f : Nat → Bool) : State :=
  (s.task id).pendingSeqs.foldl (fun s k =>
    let t := s.task id
    let s := match t.stores.find? (fun x => x.seq == k) with
      | some x => if f x.pa then s.performStore id k else s
      | none => s
    match t.waitingLoads.find? (fun x => x.2.seq == k) with
    | some (n, p) => (p.sectors.filter (fun k => f (k * 128))).foldl (fun s k => s.performSector id n k) s
    | none => s) s

/-- Performs the accesses of a task that are still to be performed, as far as they may be (R97 items 3 and 4). -/
def State.settleAll (s : State) (id : Nat) : State := s.performWhere id (fun _ => true)

/-- Whether every access that a task has issued is performed. -/
def Task.memIdle (t : Task) : Bool :=
  t.stores.isEmpty && t.waitingLoads.all (fun x => x.2.pas.all (fun q => q.got.isSome))

/-- A fence's or release's wait for the strand's earlier accesses (R97): while one is still to be performed the strand waits. -/
def State.drained (s : State) (ok : State → Eff) : Eff :=
  let s := s.settleAll s.cur
  if s.t.memIdle then ok s else .block s .fence

/-- Runs of bytes cut at the sectors' ends; a push stays whole (R86, R88). -/
def sectorParts : Nat → Nat → List Byte → List (Nat × List Byte)
  | 0, _, _ => []
  | fuel + 1, pa, bs =>
    if bs.isEmpty then []
    else match place pa with
      | .push _ _ => [(pa, bs)]
      | _ =>
        let k := 128 - pa % 128
        (pa, bs.take k) :: sectorParts fuel (pa + k) (bs.drop k)

/-- Performs the current strand's loads of bytes that it is about to buffer. -/
def State.performLoadsOf (s : State) (pa n : Nat) : State :=
  (s.t.waitingLoads.filter (fun x => x.2.pas.any (fun q => q.got.isNone && overlap q.pa q.n pa n))).foldl
    (fun s x => s.performPieces s.cur x.1) s

/-- Issues one part of a store: bytes of global memory are buffered while the task is speculative (R332, R114); the rest are pending
until they are performed. -/
def State.issuePart (s : State) (attr : Nat) (due : Option Nat) (pa : Nat) (bs : List Byte) : State :=
  let s := if isGlobal pa then s.noteAll [(pa, bs.length)] else s
  if s.t.spec ∧ isGlobal pa then
    let s := s.performLoadsOf pa bs.length
    s.setT (s.t.buffer pa bs)
  else
    let t := s.t
    s.setT { t with stores := t.stores ++ [⟨pa, bs, attr, t.nseq, due, 0, none, .none⟩], nseq := t.nseq + 1 }

/-- Issues a release of the current strand (R97 item 3), which is performed once what comes before it has been. -/
def State.issueRelease (s : State) (rel : Rel) (pa : Nat) (bs : List Byte) (attr : Nat) : State :=
  let t := s.t
  let s := s.setT { t with stores := t.stores ++ [⟨pa, bs, attr, t.nseq, none, 0, none, rel⟩], nseq := t.nseq + 1 }
  s.settleAll s.cur

/-- Issues a store of the current strand (R265, R187): physical parts with their bytes and what the caches take, and the clock by which an ls store is
performed. -/
def State.issueStore (s : State) (parts : List (Nat × List Byte × Nat)) (due : Option Nat := none) : State :=
  (parts.flatMap (fun p => (sectorParts (p.2.1.length / 128 + 2) p.1 p.2.1).map (fun x => (x.1, x.2, p.2.2)))).foldl
    (fun s p => s.issuePart p.2.2 due p.1 p.2.1) (s.setT { s.t with stored := true })

/-- Whether two addresses lie in one queue's push window, or neither in any: bytes that a push takes never join others (R86). -/
def sameWindow (a b : Nat) : Bool :=
  match place a, place b with
  | .push c q, .push d r => c == d && q == r
  | .push _ _, _ => false
  | _, .push _ _ => false
  | _, _ => true

/-- Joins neighbouring parts of a store into runs. -/
def joinParts : List (Nat × List Byte × Nat) → List (Nat × List Byte × Nat)
  | [] => []
  | (a, x, k) :: r =>
    match joinParts r with
    | (b, y, l) :: r' =>
      if a + x.length = b ∧ k = l ∧ sameWindow a b then (a, x ++ y, k) :: r' else (a, x, k) :: (b, y, l) :: r'
    | [] => [(a, x, k)]

/-- The ls stores of the current task whose clock has come are performed, with what they follow (R193). -/
def State.performDue (s : State) : State :=
  if s.t.stores.any (fun x => match x.due with | some d => decide (d ≤ s.t.now) | none => false) then
    s.performWhere s.cur (ownWindow s.t.core)
  else s

end Sys2Proof.Machine
end

