-- ==== Sys2Proof/Machine/LocalStore.lean ====
section
/-! DEFINITION. The local-store forms (spec/06_scalar_control.md R187-R193). -/

namespace Sys2Proof.Machine

open Host Arith

/-- The elements a form accesses: lanes with their local-store offsets, or the trap of its queue operand (R192). -/
inductive LsAddrs where
  | ok (l : List (Nat × Nat))
  | port
  | noBuffer
deriving DecidableEq, Repr

/-- The physical address, as xinfo names it, of a local-store offset. -/
def lsInfo (core off : Nat) : Word := wd (coreWin core 0 + off)

/-- R187: every byte of every active element lies in local store, and every element is aligned; the fault otherwise. The spec does
not say which is raised when elements fail both: the model looks for an access fault first, then for misalignment, each at its lowest
lane (notes/assumptions/26.md). -/
def lsCheck (core z : Nat) (l : List (Nat × Nat)) : Option (Nat × Word) :=
  match l.find? (fun p => decide (0x80000 < p.2 + z)) with
  | some p => some (2, lsInfo core p.2)
  | none => match l.find? (fun p => p.2 % z != 0) with
    | some p => some (4, lsInfo core p.2)
    | none => none

/-- The checks of a form, then for a load the strand's earlier accesses to the same bytes, then its own access (R187, R193). -/
def lsGuard (s : State) (z : Nat) (write : Bool) (a : LsAddrs) (f : List (Nat × Nat) → State → Eff) : Eff :=
  match a with
  | .port => .illPort s
  | .noBuffer => .trap s 4 2 (lsInfo s.t.core 0)
  | .ok l => match lsCheck s.t.core z l with
    | some (code, info) => .trap s 4 code info
    | none => if write then f l s else s.whenOrdered (l.map (fun p => (coreWin s.t.core p.2, z))) (f l)

/-- The z bytes at a local-store offset. -/
def State.lsGet (s : State) (off z : Nat) : Nat := s.seeN (coreWin s.t.core off) z

/-- A load's poisoned element, if it has one (R267). -/
def State.lsBad (s : State) (z : Nat) (l : List (Nat × Nat)) : Option Nat :=
  (l.find? (fun p => s.bad (coreWin s.t.core p.2) z)).map (·.2)

/-- A scalar element as a 64-bit result (R188). -/
def scalarElem (ty : ElemType) (x : Nat) : Word := if ty.isSigned then BitVec.ofInt 64 (sint ty.bits x) else wd x

/-- A vector element as a lane (R189). -/
def laneElem (ty : ElemType) (x : Nat) : Word := laneOut ty x

/-- A poisoned source stops a load at its slot (R267). -/
def lsClean (s : State) (z : Nat) (l : List (Nat × Nat)) (f : State → Eff) : Eff :=
  match s.lsBad z l with
  | some off => .trap s 4 5 (lsInfo s.t.core off)
  | none => f s

/-- A scalar load (R188). -/
def lsLoad (ty : ElemType) (m : Mv) (addr : Word → State → LsAddrs) (s : State) : Out :=
  trigW 6 m (fun x s => lsGuard s ty.bytes false (addr x s) (fun l s => lsClean s ty.bytes l (fun s =>
    .done (s.setT (s.t.result 6 false 4 (.w (scalarElem ty (s.lsGet (l.headD (0, 0)).2 ty.bytes))) 0))))) s

/-- Issues the elements of a store, in lane order; its bank performs it no later than the 4 cycles of an ls form (R187, R193). -/
def State.lsIssue (s : State) (l : List (Nat × List Byte)) : State :=
  s.issueStore (joinParts (l.map (fun p => (coreWin s.t.core p.1, p.2, 0)))) (some (s.t.now + 4))

/-- A scalar store (R188). -/
def lsStore (ty : ElemType) (m : Mv) (addr : Word → State → LsAddrs) (s : State) : Out :=
  trigW 6 m (fun x s => lsGuard s ty.bytes true (addr x s) (fun l s =>
    .done (s.lsIssue [((l.headD (0, 0)).2, toBytes ty.bytes (s.t.pw 6 2).toNat)]))) s

/-- A vector load (R189, R190): inactive lanes are 0. -/
def lsLoadV (ty : ElemType) (m : Mv) (addrs : Word → State → LsAddrs) (s : State) : Out :=
  trigW 6 m (fun x s => lsGuard s ty.bytes false (addrs x s) (fun l s => lsClean s ty.bytes l (fun s =>
    let o := (List.range 64).map (fun i =>
      match l.find? (fun p => p.1 == i) with
      | some p => laneElem ty (s.lsGet p.2 ty.bytes)
      | none => 0)
    .done (s.setT (s.t.result 6 true 4 (.v o) 0 ty.is64))))) s

/-- A vector store, in ascending lane order (R189, R191). -/
def lsStoreV (ty : ElemType) (m : Mv) (addrs : Word → State → LsAddrs) (s : State) : Out :=
  trigW 6 m (fun x s => lsGuard s ty.bytes true (addrs x s) (fun l s =>
    let data := (s.t.port 6 4).lanes
    .done (s.lsIssue (l.map (fun p => (p.2, toBytes ty.bytes (data.getD p.1 0).toNat)))))) s

/-- The active lanes of an ls form; ldvm and stvm use `m` whatever `men` holds (R190). -/
def lsLanes (t : Task) (always : Bool) : List Nat :=
  (List.range 64).filter (fun i => if always then wbit (t.pw 6 6) i else laneOn (t.pw 6 6) (t.pw 6 7) i)

/-- One element at the trigger offset (R188). -/
def lsOne (x : Word) (_ : State) : LsAddrs := .ok [(0, x.toNat)]

/-- Elements at the offset in steps of their size (R189). -/
def lsContig (always : Bool) (z : Nat) (x : Word) (s : State) : LsAddrs :=
  .ok ((lsLanes s.t always).map (fun i => (i, (x + wd (i * z)).toNat)))

/-- Elements in steps of `stride` (R189). -/
def lsStrided (x : Word) (s : State) : LsAddrs :=
  .ok ((lsLanes s.t false).map (fun i => (i, (x + wd i * s.t.pw 6 5).toNat)))

/-- Elements at lane offsets from `.b` (R189). -/
def lsGathered (x : Word) (s : State) : LsAddrs :=
  let b := (s.t.port 6 3).lanes
  .ok ((lsLanes s.t false).map (fun i => (i, (x + low32 (b.getD i 0)).toNat)))

/-- Elements at offsets from a queue's head, or tail, wrapped in its buffer (R192). -/
def lsQueued (tail : Bool) (z : Nat) (lanes : State → List Nat) (x : Word) (s : State) : LsAddrs :=
  let q := (s.t.pw 6 8).toNat
  if 15 < q then .port
  else
    let y := s.queue s.t.core q
    if y.cfg.isNone then .noBuffer
    else .ok ((lanes s).map (fun i => (i, y.pos (if tail then y.tail else y.head) (x.toNat + i * z))))

/-- The single element of a scalar queue form. -/
def lane0 (_ : State) : List Nat := [0]

/-- The active lanes of a vector queue form. -/
def lanesOn (s : State) : List Nat := lsLanes s.t false

/-- ls.ld (R188). -/
def execLsLd (ty : ElemType) (m : Mv) (s : State) : Out := lsLoad ty m lsOne s
/-- ls.st (R188). -/
def execLsSt (ty : ElemType) (m : Mv) (s : State) : Out := lsStore ty m lsOne s
/-- ls.ldv (R189). -/
def execLsLdv (ty : ElemType) (m : Mv) (s : State) : Out := lsLoadV ty m (lsContig false ty.bytes) s
/-- ls.stv (R189). -/
def execLsStv (ty : ElemType) (m : Mv) (s : State) : Out := lsStoreV ty m (lsContig false ty.bytes) s
/-- ls.ldvs (R189). -/
def execLsLdvs (ty : ElemType) (m : Mv) (s : State) : Out := lsLoadV ty m lsStrided s
/-- ls.stvs (R189). -/
def execLsStvs (ty : ElemType) (m : Mv) (s : State) : Out := lsStoreV ty m lsStrided s
/-- ls.gath (R189). -/
def execLsGath (ty : ElemType) (m : Mv) (s : State) : Out := lsLoadV ty m lsGathered s
/-- ls.scat (R189, R191). -/
def execLsScat (ty : ElemType) (m : Mv) (s : State) : Out := lsStoreV ty m lsGathered s
/-- ls.ldvm (R190). -/
def execLsLdvm (ty : ElemType) (m : Mv) (s : State) : Out := lsLoadV ty m (lsContig true ty.bytes) s
/-- ls.stvm (R190). -/
def execLsStvm (ty : ElemType) (m : Mv) (s : State) : Out := lsStoreV ty m (lsContig true ty.bytes) s
/-- ls.ldq (R192). -/
def execLsLdq (ty : ElemType) (m : Mv) (s : State) : Out := lsLoad ty m (lsQueued false ty.bytes lane0) s
/-- ls.stq (R192). -/
def execLsStq (ty : ElemType) (m : Mv) (s : State) : Out := lsStore ty m (lsQueued true ty.bytes lane0) s
/-- ls.ldvq (R192). -/
def execLsLdvq (ty : ElemType) (m : Mv) (s : State) : Out := lsLoadV ty m (lsQueued false ty.bytes lanesOn) s
/-- ls.stvq (R192). -/
def execLsStvq (ty : ElemType) (m : Mv) (s : State) : Out := lsStoreV ty m (lsQueued true ty.bytes lanesOn) s

end Sys2Proof.Machine
end

