-- ==== Sys2Proof/Machine/Global.lean ====
section
/-! DEFINITION. The global-memory forms (spec/09_memory_sync_tasks.md R261-R268). -/

namespace Sys2Proof.Machine

open Host Arith

/-- The tile code that a tile port names (R226); a port that no tile name was moved to names none. -/
def Task.portTile (t : Task) (unit port : Nat) : Nat := (t.port unit port).word.toNat

/-- Has the translations of pieces cached before any is used (R262): a miss freezes the core until its walk ends. -/
def gmCached (s : State) (p : Perm) (ps : List (Nat × Nat)) (ok : State → Eff) : Eff :=
  let t := s.t
  match ps.find? (fun x => (s.cached t.core (s.partOfTask t) (s.asidOf t) (va57 (wd x.1))).isNone) with
  | some x => .stay (s.setC { s.c with freeze := some ⟨2, va57 (wd x.1) + p.code * 2 ^ 57, 0⟩ })
  | none => ok s

/-- The checks of a gm access at its trigger slot (R262): alignment, canonical form, translation of every page, then the physical
map; the continuation takes the physical pieces. -/
def gmReach (s : State) (align : Nat) (p : Perm) (ps : List (Nat × Nat)) (ok : List (Nat × Nat) → State → Eff) : Eff :=
  match ps.find? (fun x => x.1 % align != 0) with
  | some x => .trap s 4 4 (wd x.1)
  | none =>
    match ps.find? (fun x => !canonical (wd x.1)) with
    | some x => .trap s 4 3 (wd x.1)
    | none => gmCached s p ps (fun s =>
        match s.reachPieces s.t.core (s.asidOf s.t) (s.accOf s.t) p ps with
        | (s, .bad code va) => .trap s 4 code va
        | (s, .ok pas) => ok pas s)

/-- Whether the load that a landing entry waits for has not reached its due clock (R128). -/
def Task.landBusy (t : Task) (k : Nat) : Bool :=
  match (t.bank.land.get k default).pend with
  | some p => decide (t.now < p.due)
  | none => false

/-- The dynamic conditions of a load form (R120, R128, R140 check 6). -/
def State.loadBusy (s : State) (pair : Bool) : Bool :=
  let n := (s.t.pw 7 5).toNat
  s.unitUsed 7 || (decide (n ≤ 63) && (s.t.landBusy n || (pair && s.t.landBusy (n + 1))))

/-- The landing entry and arrival offset of a load form (R261), with the checks of R128 and R397. -/
def gmLand (s : State) (pair : Bool) (ok : Nat → Nat → Eff) : Eff :=
  let t := s.t
  let n := (t.pw 7 5).toNat
  let d := (t.pw 7 6).toNat
  if 63 < n ∨ d = 0 ∨ 65535 < d then .illPort s
  else if (t.sys ∧ 8 ≤ n) ∨ (pair ∧ n % 2 = 1) then .illSlot s
  else if t.landBusy n || (pair && t.landBusy (n + 1)) then .illSlot s else ok n d

/-- Sets a landing entry to wait for a load. -/
def Task.await_ (t : Task) (n : Nat) (p : LandPend) : Task :=
  let e := t.bank.land.get n default
  { t with bank := { t.bank with land := t.bank.land.set n { e with pend := some p } } }

/-- The ATTR of the page of a virtual address, as its core or die caches it (18 R434). -/
def State.pageAttr (s : State) (va : Word) : Nat :=
  match s.cached s.t.core (s.partOfTask s.t) (s.asidOf s.t) (va57 va) with
  | some e => nbits e.pte 55 54
  | none => 0

/-- Issues a landing load of physical pieces with their ATTR (R128): reading a sector of an earlier speculative write restarts the
task (R333). -/
def gmIssueLoad (s : State) (n d form ty : Nat) (tile : Option (Nat × Nat)) (pas : List (Nat × Nat)) (attrs : List Nat)
    (lanes va : Word) (pair : Bool) : Eff :=
  let secs := (pas.filter (fun p => isGlobal p.1)).flatMap (fun p => sectorsOf p.1 p.2)
  let (s, on) := secs.foldl (fun (acc : State × Bool) k => if acc.2 then acc.1.noteRead k else acc) (s, true)
  if !on then .stay s
  else
    let t := s.t
    let due := t.now + d
    let ps : List Piece := (pas.zip attrs).map (fun (p, k) => ⟨p.1, p.2, k, none⟩)
    let t := { t.await_ n ⟨due, form, ty, tile, ps, lanes, va, t.nseq, none⟩ with nseq := t.nseq + 1 }
    let t := if pair then t.await_ (n + 1) ⟨due, 0, ty, none, [], 0, va, t.nseq, some (.w 0, false)⟩ else t
    .done ((s.setT t).trace 3 t.slot 0 va)

/-- Whether an access of a speculative task must serialise (R334): host and peer windows, and push windows when it stores. -/
def gmSerial (store : Bool) (pas : List (Nat × Nat)) : Bool :=
  pas.any (fun p => match place p.1 with
    | .host _ => true
    | .peer _ _ => true
    | .push _ _ => store
    | _ => false)

/-- Runs an access, serialised when it must be (R334), when the lines of a speculative task overflow its L1 and the reserved ways (R335), or
when a sector table is full (R460). -/
def gmWhen (b : Bool) (pas : List (Nat × Nat)) (s : State) (ok : State → Eff) : Eff :=
  if b then s.serialised ok
  else if s.t.spec then
    let secs := ((pas.filter (fun p => isGlobal p.1)).flatMap (fun p => sectorsOf p.1 p.2)).eraseDups
    if Config.specOverflow (s.t.ordered.map (·.sector) ++ secs) || s.tableFull secs then s.serialisedAs 0x43 ok else ok s
  else ok s

/-- gm.ld (R263). -/
def execGmLd (ty : ElemType) (m : Mv) (s : State) : Out :=
  trigW 7 m (fun x s => gmLand s false (fun n d =>
    gmReach s ty.bytes .read [(x.toNat, ty.bytes)] (fun pas s =>
      gmWhen (gmSerial false pas) pas s (fun s => gmIssueLoad s n d 16 ty.code none pas [s.pageAttr x] 1 x false)))) s (fun s => s.loadBusy false)

/-- The active lanes of a gm vector form, with their addresses (R152, R263). -/
def gmLanes (t : Task) (x : Word) (z : Nat) : List (Nat × Nat) :=
  ((List.range 64).filter (laneOn (t.pw 7 9) (t.pw 7 10))).map (fun i => (i, (x + wd (i * z)).toNat))

/-- gm.ldv (R263). -/
def execGmLdv (ty : ElemType) (m : Mv) (s : State) : Out :=
  trigW 7 m (fun x s => gmLand s ty.is64 (fun n d =>
    let ls := gmLanes s.t x ty.bytes
    gmReach s ty.bytes .read (ls.map (fun p => (p.2, ty.bytes))) (fun pas s =>
      gmWhen (gmSerial false pas) pas s (fun s =>
        gmIssueLoad s n d 17 ty.code none pas (ls.map (fun p => s.pageAttr (wd p.2))) (maskOf (fun i => ls.any (fun p => p.1 == i))) x ty.is64)))) s
    (fun s => s.loadBusy ty.is64)

/-- The tile that `tile` names, which must be the task's own (R226, R264). -/
def gmTile (s : State) (ok : Nat → Nat → Eff) : Eff :=
  let code := s.t.portTile 7 7
  match s.t.tmap.find? code with
  | some n => ok code n
  | none => .illSlot s

/-- gm.ldt (R264): the tag of an a tile becomes f32. -/
def execGmLdt (m : Mv) (s : State) : Out :=
  trigW 7 m (fun x s => gmLand s false (fun n d => gmTile s (fun code k =>
    let size := tileSize (code / 32)
    gmReach s 128 .read (pagePieces 3 x.toNat size) (fun pas s =>
      gmWhen (gmSerial false pas) pas s (fun s =>
        let core := s.t.core
        let c := s.coreAt core
        let s := if code / 32 = 6 then s.setCore core { c with tags := c.tags.set k 10 } else s
        let secs := pas.flatMap (fun p => (List.range (p.2 / 128)).map (fun i => (p.1 + 128 * i, 128)))
        gmIssueLoad s n d 18 0 (some (core, tileOff (code / 32) k)) secs
          ((List.range (size / 128)).map (fun i => s.pageAttr (x + wd (128 * i)))) 0 x false))))) s (fun s => s.loadBusy false)

/-- Checks a store's bytes against the push windows it reaches (R86): the whole write is one entry, aligned to it. -/
def gmPushOk (s : State) (parts : List (Nat × List Byte × Nat)) : Bool :=
  parts.all (fun (pa, bs, _) => match place pa with
    | .push c q =>
      let e := (s.queue c q).entry
      parts.length == 1 && (s.queue c q).cfg.isSome && e == bs.length && pa % e == 0
    | _ => true)

/-- What the caches take of a store by the ATTR of its page and its ALLOC (R265, R434). -/
def storeAttr (attr alloc : Nat) : Nat := max attr alloc

/-- Issues a store of elements: their virtual addresses, physical addresses, sizes and bits (R265, R340), under an ALLOC. -/
def gmIssueStore (s : State) (va : Word) (ttag alloc : Nat) (els : List (Word × Nat × Nat × Nat)) : Eff :=
  let parts := joinParts (els.map (fun (v, pa, z, x) => (pa, toBytes z x, storeAttr (s.pageAttr v) alloc)))
  if !gmPushOk s parts then .trap s 4 (2 + 256 * auxWord .write 0 0) va
  else
    let s := s.setT (s.t.foldStore els)
    .done ((s.issueStore parts).trace 4 s.t.slot ttag va)

/-- A scalar store (R265). -/
def gmStoreOne (ty : ElemType) (x : Word) (ttag alloc : Nat) (s : State) : Eff :=
  gmReach s ty.bytes .write [(x.toNat, ty.bytes)] (fun pas s =>
    gmWhen (gmSerial true pas) pas s (fun s =>
      gmIssueStore s x ttag alloc (pas.map (fun p => (x, p.1, ty.bytes, (s.t.pw 7 2).toNat % 2 ^ ty.bits)))))

/-- gm.st (R265). -/
def execGmSt (ty : ElemType) (m : Mv) (s : State) : Out := trigW 7 m (fun x s => gmStoreOne ty x 0 0 s) s

/-- gm.stg (R265): ALLOC 3 raises the illegal-port trap. -/
def execGmStg (ty : ElemType) (m : Mv) (s : State) : Out :=
  trigW 7 m (fun x s =>
    let tag := s.t.pw 7 8
    if wbits tag 1 0 = 3 then .illPort s else gmStoreOne ty x (wbits tag 15 8) (wbits tag 1 0) s) s

/-- gm.stv (R265), in ascending lane order. -/
def execGmStv (ty : ElemType) (m : Mv) (s : State) : Out :=
  trigW 7 m (fun x s =>
    let z := ty.bytes
    let ls := gmLanes s.t x z
    gmReach s z .write (ls.map (fun p => (p.2, z))) (fun pas s =>
      gmWhen (gmSerial true pas) pas s (fun s =>
        let data := (s.t.port 7 4).lanes
        gmIssueStore s x 0 0 ((ls.zip pas).map (fun (l, p) =>
          (wd l.2, p.1, z, (data.getD l.1 0).toNat % 2 ^ ty.bits)))))) s

/-- gm.stt (R264, R340): a poisoned sector of the tile raises the poison fault. -/
def execGmStt (m : Mv) (s : State) : Out :=
  trigW 7 m (fun x s => gmTile s (fun code k =>
    let size := tileSize (code / 32)
    let src := coreWin s.t.core (tileOff (code / 32) k)
    gmReach s 128 .write (pagePieces 3 x.toNat size) (fun pas s =>
      if s.bad src size then .trap s 4 5 (wd src)
      else gmWhen (gmSerial true pas) pas s (fun s =>
        let bs := s.see src size
        let pa (o : Nat) : Nat := match pas with
          | [(a, _)] => a + o
          | (a, n) :: (b, _) :: _ => if o < n then a + o else b + (o - n)
          | [] => 0
        gmIssueStore s x 0 0 ((List.range (size / 8)).map (fun i =>
          (x + wd (8 * i), pa (8 * i), 8, leAt bs (8 * i) 8))))))) s

/-- gm.pref (R266, R435): a line of the caches that the strand may read is asked for, and comes into its L1 unless it is for L2; anything
else is dropped. It changes no value. -/
def execGmPref (l2 : Bool) (m : Mv) (s : State) : Out :=
  trigW 7 m (fun x s =>
    match s.reachPieces s.t.core (s.asidOf s.t) (s.accOf s.t) .read [(x.toNat, 1)] with
    | (s, .ok ((pa, _) :: _)) =>
      let attr := s.pageAttr x
      .done (if !isGlobal pa ∨ attr = 2 then s
        else
          let s := s.touch s.t.core [(pa, 1)] false
          if l2 then s else s.noteL1 s.t.core (pa / 256 * 256) 256 attr 0)
    | _ => .done s) s

/-- flush and inval (R266, R334, R435): the entry lands 0 once memory has accepted the line; nothing is cached outside global memory. -/
def gmLine (form : Nat) (m : Mv) (s : State) : Out :=
  trigW 7 m (fun x s => gmLand s false (fun n d =>
    gmReach s 1 .write [(x.toNat, 1)] (fun pas s => s.serialised (fun s =>
      let lines := (pas.filter (fun p => isGlobal p.1)).map (fun p => (p.1 / 256 * 256, 256))
      gmIssueLoad s n d form 3 none lines (lines.map (fun _ => 0)) 0 x false)))) s (fun s => s.loadBusy false)

/-- gm.flush (R266). -/
def execGmFlush (m : Mv) (s : State) : Out := gmLine 24 m s

/-- gm.inval (R266): every copy of the line leaves the caches of the partition, replicas included. -/
def execGmInval (m : Mv) (s : State) : Out := gmLine 25 m s

end Sys2Proof.Machine
end

