-- ==== Sys2Proof/Machine/Sync.lean ====
section
/-! DEFINITION. The synchronisation forms (spec/09_memory_sync_tasks.md R269-R281): requests, their refusals and responses, sync
objects, barriers, queues and staging descriptors; and effective priorities (01 R36). -/

namespace Sys2Proof.Machine

open Host Arith

/-! ### Requests (R269, R93, R94) -/

/-- The bindings that a site holds (R275). -/
def State.bindings (s : State) (key : Nat) : Nat := (s.syncs.filter (fun x => siteKey x.1 == key && x.2.bound.isSome)).length

/-- Whether a queue configuration is within its ranges (R277). -/
def configOk (x : Word) : Bool :=
  let e := wbits x 27 24
  let n := wbits x 23 20
  let b := wbits x 18 0
  decide (3 ≤ e ∧ e ≤ 9 ∧ n + e ≤ 19 ∧ b % 2 ^ e = 0 ∧ b + 2 ^ (e + n) ≤ 0x80000)

/-- Configures a queue (R277): HEAD and TAIL are 0. -/
def State.configure (s : State) (core q : Nat) (x : Word) : State :=
  s.setQueue core q ⟨some (wbits x 18 0, wbits x 27 24, wbits x 23 20), 0, 0⟩

/-- Publishes n entries of a queue (R277), if it has room for them. -/
def State.publish (s : State) (core q n : Nat) : Option State :=
  let y := s.queue core q
  if y.cap - y.count < n then none else some (s.setQueue core q { y with tail := y.tail + BitVec.ofNat 32 n })

/-- The free entries of the resource that a request asks: of a binding table (R275), of a queue's configuration or publication while
sectors are outstanding on it (R277, R313), and otherwise of a request queue or, for spawn, a die's spawn queue, whose room is open
(R93). -/
def State.room (s : State) (core : Nat) (a : Await) : Nat × State :=
  if a.port = 40 then
    let new := (s.syncAt a.addr).bound.isNone && decide (a.arg 6 ≠ 0)
    (if new then 4096 - s.bindings (siteKey a.addr) else 2, s)
  else if a.port = 36 then (if s.outstanding core (a.arg 5) then 0 else 2, s)
  else s.choose 3

/-- Offers a request to its resource (R93, R94): it is sent, or refused and retried. A configure or publish is performed as it is
accepted (R277), and a spawn at its slot once the spawn queue has accepted it (R292). -/
def State.submit (s : State) (core : Nat) (a : Await) : State × Await :=
  let (free, s) := s.room core a
  match s.offer (a.resource core) core free (a.arg 1) a.number (fun s => s) with
  | .refused s k n => (s, ((a.setArg 0 1).setArg 1 k).setArg 2 (match n with | some n => n + 1 | none => 0))
  | .ok s =>
    if a.port = 36 then
      if wbits (wd (a.arg 6)) 63 62 = 1 then
        match s.publish core (a.arg 5) (wbits (wd (a.arg 6)) 31 0) with
        | some s => (s, (a.setArg 0 0).answered 0)
        | none => (s, (a.setArg 0 0).failed 5 5)
      else (s.configure core (a.arg 5) (wd (a.arg 6)), (a.setArg 0 0).answered 0)
    else if a.port = 16 then (s, (a.setArg 0 0).answered 0) else (s, a.setArg 0 0)
  | .discard s => (s, a.setArg 0 0)

/-- Sends a request of the current slot and ends the block there (R269). -/
def State.request (s : State) (port pa : Nat) (va : Word) (ops : List Nat) : Eff :=
  let a : Await := ⟨port, s.t.slot, pa, [0, 0, 0, 0, va.toNat] ++ ops, none⟩
  let (s, a) := s.submit s.t.core a
  .block (s.setT { s.t with await := some a }) .response

/-- A requesting form at its slot (R269, R303): it sends its request, or on re-entry takes the response or the fault that the
response carries; a re-entry before the response waits again. -/
def State.requesting (s : State) (port : Nat) (send : State → Eff) (fin : Word → State → Eff) : Eff :=
  match s.t.await with
  | some a =>
    if a.port ≠ port ∨ a.slot ≠ s.t.slot then send s
    else match a.value with
      | none => .block s .response
      | some v =>
        let s := s.setT { s.t with await := none }
        if a.arg 3 = 0 then fin v s else .trap s (a.arg 3 / 2 ^ 40) (a.arg 3 % 2 ^ 40) (wd (a.arg 4))
  | none => send s

/-- A result of sy, visible one clock later (R269). -/
def syResult (x : Word) (s : State) : Eff := .done (s.setT (s.t.result 16 false 1 (.w x) 0))

/-- A completed form without a result. -/
def syDone (_ : Word) (s : State) : Eff := .done s

/-! ### Addresses -/

/-- The physical address of an access of n bytes at an aligned address, where atomics are performed (R88, R91, R92). -/
def syReach (s : State) (align n : Nat) (p : Perm) (x : Word) (ok : Nat → State → Eff) : Eff :=
  if x.toNat % align ≠ 0 then .trap s 4 4 x
  else if !canonical x then .trap s 4 3 x
  else match s.reachPieces s.t.core (s.asidOf s.t) { s.accOf s.t with atomic := true } p [(x.toNat, n)] with
    | (s, .bad code va) => .trap s 4 code va
    | (s, .ok ((pa, _) :: _)) => ok pa s
    | (s, .ok []) => .done s

/-! ### Requests at their sites -/

/-- What an atomic makes of the word w (R272): its operand is a, and c is the new value of amocas. -/
def amoNew (port : Nat) (w a c : Word) : Word :=
  match port with
  | 20 => w + a
  | 21 => if w.slt a then w else a
  | 22 => if w.slt a then a else w
  | 23 => if w < a then w else a
  | 24 => if w < a then a else w
  | 25 => w &&& a
  | 26 => w ||| a
  | 27 => w ^^^ a
  | 28 => a
  | _ => if w = a then c else w

/-- Has a waiting request kept at the site (R273, R274). Condition 8 marks a lock. -/
def State.keepWait (s : State) (id pa cond : Nat) (x : Word) (a : Await) : State × Await :=
  let o := s.syncAt pa
  (s.setSync pa { o with waits := o.waits ++ [(id, cond, x)] }, a.setArg 0 2)

/-- Performs a request at its site (R271-R275): the state after it, and the request with its response, or kept at the site. -/
def State.perform (s : State) (id : Nat) (a : Await) : State × Await :=
  let otag := (s.task id).ctl.otag
  let pa := a.addr
  if s.loadBad pa 8 ∧ a.port ≠ 40 then (s, a.failed 4 5)
  else if a.port = 18 then (s, a.answered (s.syncRead pa))
  else if a.port = 30 then
    if s.syncRead (pa + 8) = otag then (s, a.failed 5 1)
    else if condHolds (a.arg 7) (s.syncRead pa) (wd (a.arg 5)) then (s, a.answered 0)
    else s.keepWait id pa (a.arg 7) (wd (a.arg 5)) a
  else if a.port = 31 then
    let owner := s.syncRead (pa + 8)
    if owner = otag then (s, a.failed 5 1)
    else if owner = BitVec.allOnes 64 then (s.syncWrite (pa + 8) otag, a.answered 0)
    else s.keepWait id pa 8 0 a
  else if a.port = 40 then
    (s.setSync pa { s.syncAt pa with bound := if a.arg 6 = 0 then none else some (a.arg 5, a.arg 6) }, a.answered 0)
  else
    let w := s.syncRead pa
    let c := wd (a.arg 6)
    let x := amoNew a.port w (wd (a.arg 5)) c
    (if a.port = 29 ∧ w ≠ wd (a.arg 5) then s else s.syncWrite pa x, a.answered w)

/-- Whether a request waits at its site to be performed: it has been accepted, and no operation of its own performs it. -/
def Await.atSite (a : Await) : Bool := a.arg 0 == 0 && a.port != 39 && a.port != 36 && a.port != 16

/-- Prepares the site of a request (R91, R97): the task's earlier accesses to the line are performed, for a release all that it orders
before it (R272), and no cache holds a copy of the line; a ldacq reads through its caches, and a bind reads no memory. The Boolean
says that the request may be performed. -/
def State.siteReady (s : State) (id : Nat) (a : Await) : State × Bool :=
  let rel := a.arg 8 = 1
  let s := s.performWhere id (fun pa => rel || pa / 256 == a.addr / 256)
  let t := s.task id
  if !t.inOrder t.nseq a.addr 16 || (rel && !s.released id t.nseq a.addr) then (s, false)
  else if a.port = 40 then (s, true)
  else if a.port = 18 then (s.touch t.core [(a.addr, 8)] false, true)
  else s.homeClear a.addr 16

/-- RESPONSE_RETURN (R269): a request that its site has accepted is performed there, and its response returns or the site keeps
it. A fold is COMBINE_FOLD's (R281). -/
def execResponseReturn (task : Nat) (s : State) : Out :=
  match (s.task task).pick Await.atSite with
  | some (h, a) =>
    let (s, ok) := { s with cur := task }.siteReady task a
    if !ok then .next s
    else
      let (s, a) := s.perform task a
      .next (s.setOut task (s.t.setAwait h a))
  | none => .next s

/-- NACK_RETRY (R94): a refused request, or a refused push, is offered again. -/
def execNackRetry (task : Nat) (s : State) : Out :=
  let t := s.task task
  match t.pick (fun a => a.arg 0 == 1) with
  | some (h, a) =>
    let (s, a) := { s with cur := task }.submit t.core a
    .next (s.setOut task (s.t.setAwait h a))
  | none =>
    match t.stores.find? (fun x => decide (0 < x.tries)) with
    | some x => .next ({ s with cur := task }.performStore task x.seq)
    | none => .next s

/-! ### Fences, acquire and release (R270-R275) -/

/-- A sy form that a speculative task performs serialised (R334). -/
def syForm (m : Mv) (f : Word → State → Eff) (s : State) : Out := trigW 16 m (fun x s => f x s) s

/-- fence (R270). -/
def execSyFence (scope : BitVec 3) (m : Mv) (s : State) : Out :=
  syForm m (fun _ s => if scope = 0 then .done s else s.drained .done) s

/-- xfence (R270, R98): the operations of an engine path whose completion the strand has observed have been performed. -/
def execSyXfence (_scope : BitVec 3) (m : Mv) (s : State) : Out :=
  syForm m (fun _ s =>
    let p := (s.t.pw 16 5).toNat
    if 5 < p ∨ 5 < (s.t.pw 16 6).toNat then .illPort s
    else if p = 0 then s.drained .done else .done s) s

/-- A request with an aligned address and its operands, and whether it is a release (R269). -/
def syRequest (s : State) (port align : Nat) (p : Perm) (x : Word) (rel : Bool) (ops : Nat × Nat × Nat) (fin : Word → State → Eff) : Eff :=
  s.requesting port (fun s => syReach s align 8 p x (fun pa s => s.serialised (fun s =>
    s.request port pa x [ops.1, ops.2.1, ops.2.2, if rel then 1 else 0]))) fin

/-- ldacq (R271). -/
def execSyLdacq (_scope : BitVec 3) (m : Mv) (s : State) : Out :=
  syForm m (fun x s => syRequest s 18 64 .atomic x false (0, 0, 0) syResult) s

/-- strel (R271): the store is performed after what it releases; the form completes. -/
def execSyStrel (_scope : BitVec 3) (m : Mv) (s : State) : Out :=
  syForm m (fun x s => syReach s 64 8 .atomic x (fun pa s => s.serialised (fun s =>
    let s := (s.setT { s.t with stored := true }).noteAll [(pa, 8)]
    .done (s.issueRelease .store pa (toBytes 8 (s.t.pw 16 2).toNat) (s.pageAttr x))))) s

/-- An atomic (R272): the ordering is 0 relaxed, 1 acquire, 2 release, 3 both. -/
def syAmo (port : Nat) (scope : BitVec 3) (ord : BitVec 2) (m : Mv) (s : State) : Out :=
  syForm m (fun x s =>
    if 5 < scope.toNat then .illPort s
    else syRequest s port (if ord = 0 then 8 else 64) .atomic x (decide (2 ≤ ord.toNat))
      ((s.t.pw 16 2).toNat, (s.t.pw 16 4).toNat, 0) syResult) s

/-- amoadd (R272). -/
def execSyAmoadd (scope : BitVec 3) (ord : BitVec 2) (m : Mv) (s : State) : Out := syAmo 20 scope ord m s
/-- amomin (R272). -/
def execSyAmomin (scope : BitVec 3) (ord : BitVec 2) (m : Mv) (s : State) : Out := syAmo 21 scope ord m s
/-- amomax (R272). -/
def execSyAmomax (scope : BitVec 3) (ord : BitVec 2) (m : Mv) (s : State) : Out := syAmo 22 scope ord m s
/-- amominn (R272). -/
def execSyAmominn (scope : BitVec 3) (ord : BitVec 2) (m : Mv) (s : State) : Out := syAmo 23 scope ord m s
/-- amomaxn (R272). -/
def execSyAmomaxn (scope : BitVec 3) (ord : BitVec 2) (m : Mv) (s : State) : Out := syAmo 24 scope ord m s
/-- amoand (R272). -/
def execSyAmoand (scope : BitVec 3) (ord : BitVec 2) (m : Mv) (s : State) : Out := syAmo 25 scope ord m s
/-- amoor (R272). -/
def execSyAmoor (scope : BitVec 3) (ord : BitVec 2) (m : Mv) (s : State) : Out := syAmo 26 scope ord m s
/-- amoxor (R272). -/
def execSyAmoxor (scope : BitVec 3) (ord : BitVec 2) (m : Mv) (s : State) : Out := syAmo 27 scope ord m s
/-- amoswp (R272). -/
def execSyAmoswp (scope : BitVec 3) (ord : BitVec 2) (m : Mv) (s : State) : Out := syAmo 28 scope ord m s
/-- amocas (R272): compare `.a`, new `.c`. -/
def execSyAmocas (scope : BitVec 3) (ord : BitVec 2) (m : Mv) (s : State) : Out := syAmo 29 scope ord m s

/-- wait (R273): a cond above 3 raises the illegal-port trap. -/
def execSyWait (_scope : BitVec 3) (m : Mv) (s : State) : Out :=
  syForm m (fun x s =>
    let cond := (s.t.pw 16 7).toNat
    if 3 < cond then .illPort s
    else syRequest s 30 64 .atomic x false ((s.t.pw 16 2).toNat, 0, cond) syDone) s

/-- lock (R274). -/
def execSyLock (_scope : BitVec 3) (m : Mv) (s : State) : Out :=
  syForm m (fun x s => syRequest s 31 64 .atomic x false (0, 0, 0) syDone) s

/-- unlock (R274): a release, then OWNER is none or the next waiter's; the not-owner fault otherwise, as when an unlock of the same
object comes before it. Earlier stores to the object's words are performed first (notes/assumptions/27.md). -/
def execSyUnlock (_scope : BitVec 3) (m : Mv) (s : State) : Out :=
  syForm m (fun x s => syReach s 64 16 .atomic x (fun pa s => s.serialised (fun s =>
    let s := s.performWhere s.cur (fun a => a / 256 == pa / 256)
    if s.t.stores.any (fun y => y.rel == Rel.unlock && y.pa == pa) then .trap s 5 2 x
    else if !s.t.inOrder s.t.nseq pa 16 then .block s .fence
    else if s.loadBad pa 16 then .trap s 4 5 x
    else if s.syncRead (pa + 8) ≠ s.t.ctl.otag then .trap s 5 2 x
    else .done (s.issueRelease .unlock pa (List.replicate 16 0) 2)))) s

/-- bind (R275). -/
def execSyBind (_scope : BitVec 3) (m : Mv) (s : State) : Out :=
  syForm m (fun x s =>
    let base := s.t.pw 16 2
    let len := s.t.pw 16 4
    if base.toNat % 64 ≠ 0 ∨ len.toNat % 64 ≠ 0 then .trap s 4 4 base
    else syRequest s 40 64 .atomic x false (base.toNat, len.toNat, 0) syDone) s

/-- arrive (R276): it counts in the first phase that is not full; its arrival is performed as the release that it is. -/
def execSyArrive (level : BitVec 3) (m : Mv) (s : State) : Out :=
  syForm m (fun x s =>
    if level = 0 ∨ 4 < level.toNat then .illPort s
    else s.serialised (fun s =>
      let g := s.group s.t.group
      let node := levelNode level.toNat s.t.core
      let key := node * 2 ^ 16 + wbits x 15 0
      let count := wbits x 31 16
      let (now, st) := g.barriers.get key (0, 0)
      let i := openPhase st (Nat.log2 st / 48 + 1) 0
      let d := barDigit st i
      if count = 0 ∨ (d ≠ 0 ∧ d % 2 ^ 16 ≠ count) then .trap s 5 3 x
      else if (g.barriers.find? key).isNone ∧ 64 ≤ s.liveBarriers g.part node then .trap s 5 4 x
      else
        let phase := (now + i) % 2 ^ 32
        let d' := d / 2 ^ 16 * 2 ^ 16 + 2 ^ 32 + 2 ^ 16 + count
        let s := s.setGroup s.t.group { g with barriers := g.barriers.set key (now, setBarDigit st i d') }
        syResult (wd phase) (s.issueRelease (.arrive s.t.group key phase) 0 [] 0))) s

/-- The phase of a barrier, as a strand of a core sees it. -/
def State.phase (s : State) (group level core id : Nat) : Nat :=
  ((s.group group).barriers.get (levelNode level core * 2 ^ 16 + id) (0, 0)).1

/-- bwait (R276). -/
def execSyBwait (level : BitVec 3) (m : Mv) (s : State) : Out :=
  syForm m (fun x s =>
    if level = 0 ∨ 4 < level.toNat then .illPort s
    else s.serialised (fun s =>
      let a := s.t.pw 16 2
      if wd (s.phase s.t.group level.toNat s.t.core (wbits x 15 0)) ≠ a then .done s
      else .block s (.barrier level.toNat (wbits x 15 0) a.toNat))) s

/-! ### Queues (R277, R278) -/

/-- Checks a queue wait: an unconfigured queue, or a count above its capacity (R278). -/
def queueWait (s : State) (q : Nat) (count : Nat) (ok : Queue → Eff) : Eff :=
  let y := s.queue s.t.core q
  if y.cfg.isNone then .trap s 4 2 (lsInfo s.t.core 0)
  else if y.cap < count then .trap s 5 5 (wd q)
  else ok y

/-- qwait (R278). -/
def execSyQwait (q : BitVec 4) (m : Mv) (s : State) : Out :=
  syForm m (fun x s => s.serialised (fun s => queueWait s q.toNat (wbits x 31 0) (fun y =>
    if wbits x 31 0 ≤ y.count then .done s else .block s (.qwait q.toNat (wbits x 31 0))))) s

/-- qspace (R278). -/
def execSyQspace (q : BitVec 4) (m : Mv) (s : State) : Out :=
  syForm m (fun x s => s.serialised (fun s => queueWait s q.toNat (wbits x 31 0) (fun y =>
    if wbits x 31 0 ≤ y.cap - y.count then syResult (wd (y.cap - y.count)) s
    else .block s (.qspace q.toNat (wbits x 31 0))))) s

/-- Pop (R277). -/
def State.popQueue (s : State) (q n : Nat) : Eff :=
  let y := s.queue s.t.core q
  if y.count < n then .trap s 5 5 (wd q)
  else .done (s.setQueue s.t.core q { y with head := y.head + BitVec.ofNat 32 n })

/-- Publish (R277), refused while sectors are outstanding on the queue (R313). -/
def State.publishQueue (s : State) (q : Nat) (x : Word) : Eff :=
  s.requesting 36 (fun s =>
    if s.outstanding s.t.core q then s.request 36 0 (wd q) [q, x.toNat]
    else match s.publish s.t.core q (wbits x 31 0) with
      | some s => .done s
      | none => .trap s 5 5 (wd q)) syDone

/-- Configure (R277), refused while sectors are outstanding on the queue. -/
def State.configureQueue (s : State) (q : Nat) (x : Word) : Eff :=
  s.requesting 36 (fun s =>
    if !configOk x then .trap s 4 2 (lsInfo s.t.core (wbits x 18 0))
    else if s.outstanding s.t.core q then s.request 36 0 0 [q, x.toNat]
    else .done (s.configure s.t.core q x)) syDone

/-- sy.qadv (R277): the operation is bits 63:62 of the trigger value. -/
def syQadv (q : BitVec 4) (m : Mv) (s : State) : Out :=
  syForm m (fun x s =>
    if wbits x 63 62 = 3 then .illPort s
    else s.serialised (fun s =>
      match wbits x 63 62 with
      | 0 => s.popQueue q.toNat (wbits x 31 0)
      | 1 => s.publishQueue q.toNat x
      | _ => s.configureQueue q.toNat x)) s

/-- QUEUE_POP (R277). -/
def execQueuePop (q : BitVec 4) (m : Mv) (s : State) : Out := syQadv q m s
/-- QUEUE_PUBLISH (R277). -/
def execQueuePublish (q : BitVec 4) (m : Mv) (s : State) : Out := syQadv q m s
/-- QUEUE_CONFIGURE (R277). -/
def execQueueConfigure (q : BitVec 4) (m : Mv) (s : State) : Out := syQadv q m s

/-! ### Early launch and staging (R279-R281) -/

/-- trig (R279, R109): a release, once per task. -/
def execSyTrig (m : Mv) (s : State) : Out :=
  syForm m (fun _ s => s.serialised (fun s =>
    .done (if s.t.trigged || s.t.stores.any (fun y => y.rel == Rel.trig) then s else s.issueRelease .trig 0 [] 0))) s

/-- A staging descriptor (R280). -/
structure Staging where
  target : Nat
  base   : Nat
  len    : Nat
  ty     : ElemType
  op     : Nat
  n      : Nat
  free   : Bool
deriving DecidableEq, Repr

/-- The buffer step of a source: LEN rounded up to a multiple of 256 (R280). -/
def Staging.step (d : Staging) : Nat := ceilDiv d.len 256 * 256

/-- A staging descriptor from its 64 bytes, or the number of the field that breaks R280. -/
def stagingOf (b : List Byte) : Except Nat Staging :=
  let ty := (ElemType.ofCode (leAt b 20 1)).getD .s8
  let z := ty.bytes
  let op := leAt b 21 1
  if !([2, 3, 10, 11].contains (leAt b 20 1)) then .error (leAt b 20 1)
  else if 4 < op ∨ (ty.isFloat ∧ 3 ≤ op) then .error op
  else if leAt b 0 8 % z ≠ 0 then .error (leAt b 0 8)
  else if leAt b 8 8 % 256 ≠ 0 then .error (leAt b 8 8)
  else if leAt b 16 4 = 0 ∨ 2 ^ 24 < leAt b 16 4 ∨ leAt b 16 4 % z ≠ 0 then .error (leAt b 16 4)
  else if leAt b 22 1 = 0 then .error 0
  else if 1 < leAt b 23 1 then .error (leAt b 23 1)
  else if leAt b 24 8 ≠ 0 then .error (leAt b 24 8)
  else .ok ⟨leAt b 0 8, leAt b 8 8, leAt b 16 4, ty, op, leAt b 22 1, leAt b 23 1 == 1⟩

/-- combine (R281): a descriptor that is not aligned, not in HBM or malformed raises the staging fault. -/
def execSyCombine (m : Mv) (s : State) : Out :=
  syForm m (fun x s => s.requesting 39 (fun s =>
    if x.toNat % 64 ≠ 0 then .trap s 5 6 x
    else syReach s 64 64 .atomic x (fun pa s =>
      if s.loadBad pa 64 then .trap s 4 5 x
      else match place pa, stagingOf (s.load pa 64) with
        | .hbm _, .ok _ => s.serialised (fun s => s.request 39 pa x [])
        | _, _ => .trap s 5 6 x)) syDone) s

/-- Elements of z bytes from little-endian bytes. -/
def elemsOf (z : Nat) (bs : List Byte) : List Nat := (List.range (bs.length / z)).map (fun i => leAt bs (i * z) z)

/-- Elements as bytes. -/
def elemBytes (z : Nat) (l : List Nat) : List Byte := l.flatMap (toBytes z)

/-- Folds one list of elements into another, element by element: values and flags (R215, R281). -/
def foldElems (ty : ElemType) (op : Nat) (acc src : List Nat) : List Nat × Flags :=
  let r := (acc.zip src).map (fun (u, v) => opNode ty op (u, 0) (v, 0))
  (r.map (·.1), r.foldl (fun f x => f ||| x.2) 0)

/-- Whether bits 0 to n - 1 of ARRIVED are 1 (R281). -/
def arrivedAll (b : List Byte) (n : Nat) : Bool := (List.range n).all (fun i => nbit (leAt b 32 32) i)

/-- Reaches a range of the current task's memory for an engine. -/
def State.engineReach (s : State) (p : Perm) (va : Word) (n : Nat) : State × Reach :=
  s.reach s.t.core (s.asidOf s.t) (s.accOf s.t) p va n

/-- The sources of a staging descriptor folded in order over the bytes of TARGET, or the fault met (R281). -/
def State.foldStaged (s : State) (d : Staging) : Nat → State → List Nat → Flags → State × Except (Nat × Word) (List Nat × Flags)
  | 0, st, acc, f => (st, .ok (acc, f))
  | k + 1, st, acc, f =>
    let i := d.n - (k + 1)
    match st.engineReach .read (wd (d.base + i * d.step)) d.len with
    | (st, .bad code va) => (st, .error (code, va))
    | (st, .ok ps) =>
      if st.badAll ps then (st, .error (5, wd (d.base + i * d.step)))
      else
        let (acc, g) := foldElems d.ty d.op acc (elemsOf d.ty.bytes (st.loadAll ps))
        s.foldStaged d k st acc (f ||| g)

/-- COMBINE_FOLD (R281): when every source has arrived, ordered mode folds the staged data into TARGET, and ARRIVED is cleared. The fold
waits for the lines of TARGET and for copies of the descriptor's line to leave the caches. -/
def execCombineFold (task : Nat) (s : State) : Out :=
  match (s.task task).pick (fun a => a.port == 39 && a.arg 0 == 0) with
  | none => .next s
  | some (h, a) =>
    let s := { s with cur := task }
    let b := s.load a.addr 64
    let answer (s : State) (a : Await) : Out := .next (s.setOut task (s.t.setAwait h a))
    match stagingOf b with
    | .error _ => answer s (a.failed 5 6)
    | .ok d =>
      let (s, idle) := if arrivedAll b d.n then s.homeClear a.addr 64 else (s, false)
      if !idle then .next s
      else
        let clear (s : State) (f : Flags) : Out :=
          let s := (s.noteAll [(a.addr + 32, 32)]).homeStore (a.addr + 32) (toBytes 32 0)
          answer (s.setT (s.t.orFlags f)) (a.answered 0)
        if d.free then clear s 0
        else match s.engineReach .write (wd d.target) d.len with
          | (s, .bad code va) => answer s ((a.setArg 4 va.toNat).failed 4 code)
          | (s, .ok ps) =>
            if s.badAll ps then answer s ((a.setArg 4 d.target).failed 4 5)
            else match s.foldStaged d d.n s (elemsOf d.ty.bytes (s.loadAll ps)) 0 with
              | (s, .error (code, va)) => answer s ((a.setArg 4 va.toNat).failed 4 code)
              | (s, .ok (acc, f)) =>
                let (s, done) := s.putAll s.t.core ps (elemBytes d.ty.bytes acc)
                if done then clear (s.noteAll ps) f else .next s

end Sys2Proof.Machine
end

