-- ==== Sys2Proof/Machine/Engine.lean ====
section
/-! DEFINITION. The token engines (spec/08 R228, R229; 04 R132; 05 R164): what a trigger copies, the queues of the engines, and
how an operation leaves its token. -/

namespace Sys2Proof.Machine

open Host Arith

/-- The operations of an engine of a core, in trigger order: mx, an, xf, or the copy engine of its cluster (R228, R291). -/
def State.ops (s : State) (core unit : Nat) : List EngOp :=
  match unit with
  | 12 => (s.coreAt core).mxq
  | 13 => (s.coreAt core).anq
  | 14 => (s.coreAt core).xfq
  | _ => (s.cluster (core / 8)).cpq

/-- Replaces the operations of an engine. -/
def State.setOps (s : State) (core unit : Nat) (l : List EngOp) : State :=
  let c := s.coreAt core
  match unit with
  | 12 => s.setCore core { c with mxq := l }
  | 13 => s.setCore core { c with anq := l }
  | 14 => s.setCore core { c with xfq := l }
  | _ => s.setCluster (core / 8) { s.cluster (core / 8) with cpq := l }

/-- The core that an operation was triggered on. -/
def EngOp.core (o : EngOp) : Nat := o.reg 15

/-- Ends an operation with an error (R229). -/
def EngOp.fail (o : EngOp) (err detail : Nat) : EngOp := { o with err := err, detail := detail % 2 ^ 32 }

/-- Whether two operations are the same: a task has at most one operation on a token (R132). -/
def EngOp.same (a b : EngOp) : Bool := a.task == b.task && a.tok == b.tok && a.unit == b.unit

/-- The shadow ports 2-15 of a unit, as a table. -/
def Task.shadow (t : Task) (unit : Nat) : Tab Val := (List.range 14).map (fun p => (p + 2, t.port unit (p + 2)))

/-- What a trigger of a token engine copies (R228, R243): the shadow sets, the settings and the parameter words. -/
def State.newOp (s : State) (unit form sub : Nat) (x : Word) (tok : Nat) : EngOp :=
  let t := s.t
  { task := s.cur, tok := tok, unit := unit, form := form, sub := sub, trig := x, ports := t.shadow unit
    anports := t.shadow 13, aparam := t.aparam, fmt := t.ctl.fmt.toNat, rmode := t.ctl.rmode.toNat, key := t.ctl.key
    coord := t.coord, done := 0, run := false, err := 0, detail := 0, flags := 0, record := [], fault := none, cancel := false
    recs := [], drains := false, regs := [(15, t.core)], marks := [], out := [], bus := [] }

/-- The token that a token-class trigger names in its `tok` port (R132, R164). -/
def withToken (s : State) (unit port : Nat) (ok : Nat → State → Eff) : Eff :=
  let n := s.t.pw unit port
  if 7 < n.toNat then .illPort s
  else if (s.t.tok n.toNat).holds then .illSlot s
  else ok n.toNat s

/-- The dynamic conditions of a token-class trigger (R120, R132, R140 check 6). -/
def State.tokenBusy (s : State) (unit port : Nat) : Bool :=
  s.unitUsed unit || (decide ((s.t.pw unit port).toNat ≤ 7) && (s.t.tok (s.t.pw unit port).toNat).holds)

/-- Sets a token pending on a unit (R132). -/
def State.startToken (s : State) (unit n : Nat) : State := s.setT (s.t.setTok n ⟨.pending, unit, 0, 0, [], false⟩)

/-- Starts an operation: its token becomes pending and it joins its engine's order (R228). -/
def State.start (s : State) (o : EngOp) : State :=
  let s := s.startToken o.unit o.tok
  s.setOps s.t.core o.unit (s.ops s.t.core o.unit ++ [o])

/-- Replaces an operation in its engine. -/
def State.putOp (s : State) (core : Nat) (o : EngOp) : State :=
  s.setOps core o.unit ((s.ops core o.unit).map (fun x => if x.same o then o else x))

/-- Takes an operation out of its engine. -/
def State.dropOp (s : State) (core : Nat) (o : EngOp) : State :=
  s.setOps core o.unit ((s.ops core o.unit).filter (fun x => !x.same o))

/-- The operation of a task on a token, in the copy engines and the transform engines. -/
def State.findOp (s : State) (task tok : Nat) : Option EngOp :=
  (s.clusters.flatMap (fun x => x.2.cpq) ++ s.cores.flatMap (fun c => c.2.xfq)).find? (fun o => o.task == task && o.tok == tok)

/-- The status word of an ended mx, an or xf operation (R229). -/
def statusOf (o : EngOp) : Word := wd (o.err + o.unit * 256 + (if o.err = 0 then 0 else o.detail) * 2 ^ 16)

/-- Leaves an operation's token complete, or complete-with-error, with its flags ORed into fflags (R59, R132, R228). -/
def State.endToken (s : State) (o : EngOp) (status : Word) : State :=
  let t := s.task o.task
  let k := t.tok o.tok
  s.setOut o.task
    ((t.setTok o.tok { k with st := if o.err = 0 then .complete else .error, status := status, seen := false }).orFlags o.flags)

/-- The sectors of a faulted or ended copy as its status word counts them (R290): the word without STATE. -/
def copyStatus (o : EngOp) (cause detail : Nat) : Word :=
  wd (cause * 2 ^ 48 + detail % 2 ^ 32 * 2 ^ 16 + o.unit * 256 + o.err)

/-- Leaves an operation's token faulted, with the copy trap pending in its strand (R288, R256). -/
def State.faultToken (s : State) (o : EngOp) (cause detail handle : Nat) (coord : List Nat) : State :=
  let t := s.task o.task
  s.setOut o.task { t.setTok o.tok ⟨.faulted, o.unit, copyStatus o cause detail, wd handle, coord, false⟩ with
    copyTr := insertNat o.tok t.copyTr }

/-- The cause that a copy fault reports (R290): 1 translation, 3 access. -/
def copyCause (code : Nat) : Nat := if code % 256 = 1 then 1 else 3

/-- Unspecified bytes (R9), n of them. -/
def State.freeBytes (s : State) (n : Nat) : List Byte × State :=
  let k := ceilDiv n 8
  (((List.range k).flatMap (fun i => toBytes 8 (Config.freeWord (s.free + i)).toNat)).take n, { s with free := s.free + k })

/-- Writes an engine's bytes to physical pieces, which an ordered task's sectors take note of (R333), once the die of the current task owns
their lines (R451). The Boolean says that they are written. -/
def State.enginePut (s : State) (ps : List (Nat × Nat)) (bs : List Byte) : State × Bool :=
  let (s, ok) := s.putAll s.t.core ps bs
  if ok then (s.noteAll ps, true) else (s, false)

/-- What an engine's read gives: bytes with whether any is poisoned, a fault, or the abort of its task. -/
inductive EngineGot where
  | ok (bs : List Byte) (bad : Bool)
  | fault (code : Nat) (va : Word)
  | gone
deriving DecidableEq, Repr

/-- Reads physical pieces for an engine of the current task, whose sectors an ordered task takes note of, over its own buffered bytes (R332,
R333). -/
def State.engineLoad (s : State) (ps : List (Nat × Nat)) : State × EngineGot :=
  let secs := (ps.filter (fun p => isGlobal p.1)).flatMap (fun p => sectorsOf p.1 p.2)
  let (s, on) := secs.foldl (fun (acc : State × Bool) k => if acc.2 then acc.1.noteRead k else acc) (s, true)
  if on then (s, .ok (ps.flatMap (fun p => s.ownLoad s.t p.1 p.2)) (s.badAll ps)) else (s, .gone)

/-- Makes the current task ready for an engine's write that cannot be buffered (R334): a speculative task's bytes are committed and it is
serial once it holds the baton. The Boolean says that it is ready. -/
def State.engineSerial (s : State) : State × Bool :=
  if !s.t.spec then (s, true)
  else match s.serialised .done with
    | .done s => (s, true)
    | .block s _ => (s, false)
    | _ => (s, false)

/-- Marks every sector that n bytes touch. -/
def State.markAll (s : State) (a n : Nat) : State := (sectorsOf a n).foldl (fun s k => s.mark k) s

/-- Marks the sectors of physical pieces poisoned (R267, R288). -/
def State.markPieces (s : State) (ps : List (Nat × Nat)) : State :=
  ps.foldl (fun s (pa, n) => s.markAll (s.key pa) n) s

/-! ### The outer tiers of the residual stack (12 R363, R366) -/

/-- What a write of the residual unit leads to: whether it is done, or waits for its lines; or its fault. -/
abbrev TierEnd := Except (Nat × Word) Bool

/-- Marks the sectors of physical pieces that a mask names, from an offset of the chunk. -/
def State.markMask (s : State) (mask : Nat) : Nat → List (Nat × Nat) → State
  | _, [] => s
  | off, (pa, n) :: r =>
    ((sectorsOf (s.key pa) n).foldl (fun s k => if nbit mask ((off + (k * 128 - s.key pa)) / 128) then s.mark k else s) s).markMask mask
      (off + n) r

/-- Writes bytes at a virtual address on path RS for the current task. -/
def State.tierPut (s : State) (va : Word) (bs : List Byte) (mask : Nat) : State × TierEnd :=
  match s.reach s.t.core (s.asidOf s.t) (s.accOf s.t) .write va bs.length with
  | (s, .bad code va) => (s, .error (code, va))
  | (s, .ok ps) =>
    let (s, ok) := s.enginePut ps bs
    (if ok then s.markMask mask 0 ps else s, .ok ok)

/-- Writes the bytes of chunk n to its place in a tier, 1 HBM or 2 CXL, with its poisoned sectors: as marks, or in CXL, whose images hold no
sectors of the chunk, as its mask (R267, R372). -/
def State.toTier (s : State) (n tier : Nat) (bs : List Byte) (mask : Nat) : State × TierEnd :=
  let now (s : State) : State := s.setT { s.t with chunks := s.t.chunks.set (2 ^ 20 + n) tier }
  if tier = 2 then
    let (sizes, img) := chunkImage bs
    match s.tierPut (s.t.cxlVa n).1 sizes 0 with
    | (s, .ok true) =>
      match s.tierPut (s.t.cxlVa n).2 img 0 with
      | (s, .ok true) =>
        (now (s.setT { s.t with chunks := if mask = 0 then s.t.chunks.del (2 ^ 21 + n) else s.t.chunks.set (2 ^ 21 + n) mask }), .ok true)
      | x => x
    | x => x
  else match s.tierPut (s.t.hbmVa n) bs mask with
    | (s, .ok true) => (now s, .ok true)
    | x => x

/-- The bytes of a chunk that is in local store, and its poisoned sectors. -/
def State.slotBytes (s : State) (n : Nat) : List Byte × Nat :=
  let a := s.t.residPa (4096 * n)
  (s.rd a 4096, s.badMask 0 [(a, 4096)])

/-- Bytes written over those of a chunk from an offset: the chunk's bytes, and its mask without the sectors that they cover. -/
def patchChunk (c : List Byte × Nat) (off : Nat) (bs : List Byte) : List Byte × Nat :=
  (overlay c.1 off bs, (List.range 32).foldl (fun m k =>
    if nbit c.2 k && !(decide (off ≤ 128 * k ∧ 128 * k + 128 ≤ off + bs.length)) then m + 2 ^ k else m) 0)

/-- Fills bytes of records that have been reserved (R362), wherever their chunk lies by now. The Boolean says that they are written, or that
the chunk cannot be reached, which the walk's own fill will meet (R364). -/
def State.residFill (s : State) (off : Nat) (bs : List Byte) : State × Bool :=
  (chunksOf off bs.length).foldl (fun (acc : State × Bool) c =>
    let s := acc.1
    let a := max off (4096 * c)
    let part := sliceBytes bs (a - off) (min (off + bs.length) (4096 * c + 4096) - a)
    if s.t.resident c then (s.residPut a part, acc.2)
    else if s.t.outside c = 0 then acc
    else match s.fromTier c with
      | .error _ => acc
      | .ok old =>
        let x := patchChunk old (a - 4096 * c) part
        match s.toTier c (s.t.outside c) x.1 x.2 with
        | (s, .ok ok) => (s, acc.2 && ok)
        | (s, .error _) => (s, acc.2)) (s, true)

/-- Bytes of the local store of a core. -/
def State.lsBytes (s : State) (core off n : Nat) : List Byte := s.see (coreWin core off) n

/-! ### Tiles (R226, R227) -/

/-- Writes the type tag of an a tile (R227): 10 f32, 2 s32. -/
def State.setTag (s : State) (core n code : Nat) : State :=
  let c := s.coreAt core
  s.setCore core { c with tags := c.tags.set n code }

/-- The type tag of an a tile. -/
def State.tag (s : State) (core n : Nat) : Nat := (s.coreAt core).tags.get n 10

/-- Whether the task is in a walk's replay (R367). -/
def Task.replaying (t : Task) : Bool := match t.inWalk with | some w => w.replay | none => false

/-- The physical address of a tile port's tile, if the task owns it and its class is allowed (R226). -/
def Task.tileAt (t : Task) (unit port : Nat) (classes : List Nat) : Option Nat :=
  let code := (t.port unit port).word.toNat
  if classes.contains (code / 32) then t.tilePa code else none

end Sys2Proof.Machine
end

