-- ==== Sys2Proof/Machine/Copy.lean ====
section
/-! DEFINITION. The copy engine (spec/09_memory_sync_tasks.md R282-R291): layout records, boxes, chains, reductions, relays, copy
faults, and the control forms. -/

namespace Sys2Proof.Machine

open Host Arith

/-- A tensor layout record (R282). -/
structure Layout where
  sbase : Nat
  dbase : Nat
  next  : Nat
  ext   : List Nat
  str   : List Nat
  ty    : Nat
  ndim  : Nat
  flags : Nat
  last  : Nat
deriving DecidableEq, Repr

/-- A layout record from its 64 bytes. -/
def layoutOf (b : List Byte) : Layout :=
  ⟨leAt b 0 8, leAt b 8 8, leAt b 16 8, (List.range 5).map (fun d => leAt b (24 + 4 * d) 4),
    0 :: (List.range 4).map (fun d => leAt b (44 + 4 * d) 4), leAt b 60 1, leAt b 61 1, leAt b 62 1, leAt b 63 1⟩

/-- The element type of a record. -/
def Layout.elem (l : Layout) : ElemType := (ElemType.ofCode l.ty).getD .n8

/-- Whether the record transposes its two lowest dimensions. -/
def Layout.trans (l : Layout) : Bool := nbit l.flags 2

/-- The start coordinate of a dimension, from its port (R283). -/
def EngOp.boxStart (o : EngOp) (d : Nat) : Int := sint 32 (wbits (o.pw (5 + d)) 31 0)

/-- The extent of a dimension: 1 beyond NDIM (R283). -/
def EngOp.boxExt (o : EngOp) (l : Layout) (d : Nat) : Nat := if d < l.ndim then wbits (o.pw (5 + d)) 47 32 else 1

/-- The value that makes a copy complete with error SHAPE, if one does (R283). -/
def boxFault (o : EngOp) (l : Layout) : Option Nat :=
  let step := match l.elem with | .gq4 => 2 | .c3 => 8 | _ => 1
  if l.ndim = 0 ∨ 5 < l.ndim then some l.ndim
  else if 16 < l.ty then some l.ty
  else if l.last ≠ 0 then some l.last
  else match (List.range l.ndim).find? (fun d => o.boxExt l d == 0) with
    | some _ => some 0
    | none =>
      if o.boxStart 0 % (step : Int) ≠ 0 then some (wbits (o.pw 5) 31 0)
      else if o.boxExt l 0 % step ≠ 0 then some (o.boxExt l 0)
      else if l.trans ∧ l.elem = .c3 then some l.flags
      else none

/-- The elements of a box. -/
def EngOp.boxCount (o : EngOp) (l : Layout) : Nat := (List.range 5).foldl (fun n d => n * o.boxExt l d) 1

/-- The bytes of a box at its destination. -/
def EngOp.boxBytes (o : EngOp) (l : Layout) : Nat := ceilDiv (o.boxCount l * l.elem.bits) 8

/-- The source coordinates of the n-th element at the destination (R283): dimension 0 is fastest, or dimension 1 under TRANS. -/
def EngOp.boxCoord (o : EngOp) (l : Layout) (n : Nat) : List Int :=
  let e := o.boxExt l
  let a := n % e (if l.trans then 1 else 0)
  let r := n / e (if l.trans then 1 else 0)
  let b := r % e (if l.trans then 0 else 1)
  let r := r / e (if l.trans then 0 else 1)
  let i := [if l.trans then b else a, if l.trans then a else b, r % e 2, r / e 2 % e 3, r / e 2 / e 3]
  i.zipIdx.map (fun (x, d) => (if d < l.ndim then o.boxStart d else 0) + (x : Int))

/-- The fill of elements outside the source (R282). -/
def Layout.fill (l : Layout) : Nat :=
  let ty := l.elem
  let k := l.flags % 4
  if k = 0 ∨ ty.bits < 8 then 0
  else if ty.isFloat then
    match k with
    | 1 => canonNaN ty
    | 2 => (encInf ty true).1
    | _ => (encInf ty false).1
  else
    let ty := if ty = .gq8 then .n8 else ty
    match k with
    | 1 => 0
    | 2 => wrapN ty.bits (intMin ty)
    | _ => wrapN ty.bits (intMax ty)

/-- The bit address of a source element (R283). -/
def Layout.srcBit (l : Layout) (c : List Int) : Int :=
  let dims := (List.range 4).map (fun d => c.getD (d + 1) 0 * (l.str.getD (d + 1) 0 : Int))
  (l.sbase : Int) * 8 + c.getD 0 0 * (l.elem.bits : Int) + dims.sum * 8

/-- Whether coordinates lie in the source. -/
def Layout.inside (l : Layout) (c : List Int) : Bool :=
  (List.range l.ndim).all (fun d => decide (0 ≤ c.getD d 0 ∧ c.getD d 0 < (l.ext.getD d 0 : Int)))

/-- What reading a run of elements meets: their bits with whether any was poisoned, or a fault. -/
inductive Fetched where
  | ok (els : List Nat) (bad : Bool)
  | fault (code : Nat) (va : Word)
  | gone
deriving DecidableEq, Repr

/-- Reaches a range of the current task's memory for a cp form, to which the peer windows are open (R465). -/
def State.copyReach (s : State) (p : Perm) (va : Word) (n : Nat) : State × Reach :=
  s.reach s.t.core (s.asidOf s.t) { s.accOf s.t with peer := true } p va n

/-- Reads k elements of a box from the n-th on, on path CP (R283). -/
def State.boxRead (s : State) (o : EngOp) (l : Layout) : Nat → Nat → State × Fetched
  | 0, _ => (s, .ok [] false)
  | k + 1, n =>
    let c := o.boxCoord l n
    if !l.inside c then
      match s.boxRead o l k (n + 1) with
      | (s, .ok r b) => (s, .ok (l.fill :: r) b)
      | x => x
    else
      let bit := l.srcBit c
      let va := BitVec.ofInt 64 (bit / 8)
      let off := (bit % 8).toNat
      match s.copyReach .read va (ceilDiv (off + l.elem.bits) 8) with
      | (s, .bad code va) => (s, .fault code va)
      | (s, .ok ps) =>
        match s.engineLoad ps with
        | (s, .ok bs bad) =>
          let x := ofBytes bs / 2 ^ off % 2 ^ l.elem.bits
          match s.boxRead o l k (n + 1) with
          | (s, .ok r b) => (s, .ok (x :: r) (b || bad))
          | x => x
        | (s, .fault code va) => (s, .fault code va)
        | (s, .gone) => (s, .gone)

/-- n bytes of a box from a byte offset: the elements they hold, packed (R283, R54). -/
def State.boxSlice (s : State) (o : EngOp) (l : Layout) (off n : Nat) : State × EngineGot :=
  let z := l.elem.bits
  let first := off * 8 / z
  let count := min (ceilDiv ((off + n) * 8) z) (o.boxCount l) - first
  match s.boxRead o l count first with
  | (s, .fault code va) => (s, .fault code va)
  | (s, .gone) => (s, .gone)
  | (s, .ok els bad) =>
    let x := els.foldr (fun e acc => e + acc * 2 ^ z) 0
    (s, .ok (toBytes n (x / 2 ^ (off * 8 - first * z))) bad)

/-! ### Progress. Registers of a copy: 0 and 1 the refusals and the number, plus 1, of a refused push, whose bytes are kept beside them (R86);
2 the address of the chain's record; 3 set when nothing is left to copy; 4 the sectors of a chain's earlier records; 6 set when the
descriptor is read; 7 set when a relay has started; 8 set while a refused push carries an error; 9 the queue of a refused push. -/

/-- The destination of the box in progress. -/
def EngOp.dest (o : EngOp) : Nat :=
  let l := layoutOf o.record
  if o.form = 18 then
    match stagingOf (o.record.drop 64) with
    | .ok d => if d.free then d.target else d.base + wbits (o.pw 14) 7 0 * d.step
    | .error _ => 0
  else if o.form = 16 ∧ o.pw 12 ≠ 0 then (o.pw 12).toNat
  else l.dbase

/-- The sectors of the destination written so far (R290); a relay counts 128 bytes for one. -/
def EngOp.sectors (o : EngOp) : Nat :=
  if o.form = 19 then o.done / 128
  else if o.record.isEmpty then o.reg 4
  else
    let total := o.boxBytes (layoutOf o.record)
    let d := o.dest
    o.reg 4 + (if o.done = 0 then 0
      else if total ≤ o.done then (d + total - 1) / 128 - d / 128 + 1 else (d + o.done) / 128 - d / 128)

/-- The coordinates reached, as words (R289). -/
def EngOp.coordsNow (o : EngOp) : List Nat :=
  if o.record.isEmpty ∨ o.form = 19 then []
  else
    let l := layoutOf o.record
    (o.boxCoord l (o.done * 8 / l.elem.bits)).map (wrapN 64)

/-- The record handle (R289). -/
def EngOp.handle (o : EngOp) : Nat := if o.form = 17 then o.reg 2 else (o.pw 10).toNat

/-- Keeps the token's status word, handle and coordinates as the operation stands (R289, R290). -/
def State.noteCopy (s : State) (o : EngOp) : State :=
  let t := s.task o.task
  let k := t.tok o.tok
  s.setTask o.task (t.setTok o.tok
    { k with status := copyStatus o 0 (if o.err = 0 then o.sectors else o.detail), handle := wd o.handle, coord := o.coordsNow })

/-- A refused push that its operation will not offer again gives its number up (R94). -/
def State.dropNumber (s : State) (o : EngOp) : State := if o.reg 1 = 0 then s else s.giveUp (o.reg 9) (some (o.reg 1 - 1))

/-- An operation without a refused push. -/
def EngOp.noPush (o : EngOp) : EngOp := { (o.setReg 0 0).setReg 1 0 with out := [] }

/-- Stops a copy with a fault before the sector reached (R288). -/
def State.copyFault (s : State) (o : EngOp) (cause : Nat) : State × EngOp :=
  ((s.dropNumber o).faultToken o cause o.sectors o.handle o.coordsNow, { o.noPush with fault := some (cause, 0) })

/-- An uncorrectable error on a source: the destination sector's bytes are unspecified and marked poisoned (R288). -/
def State.copyPoison (s : State) (o : EngOp) (ps : List (Nat × Nat)) (n : Nat) : State × EngOp :=
  let (bs, s) := s.freeBytes n
  match s.enginePut ps bs with
  | (s, true) => (s.markPieces ps).copyFault o 2
  | (s, false) => (s, o)

/-- An entry whose source carries an error (R288): its bytes at the queue's TAIL are unspecified and their sectors poisoned, and it is reached
but not pushed (notes/assumptions/23.md). -/
def State.badEntry (s : State) (core q n : Nat) : State :=
  let (bs, s) := s.freeBytes n
  let x := s.queue core q
  (List.range n).foldl (fun s i => s.mark (coreWin core (x.pos x.tail i) / 128)) (s.queueWrite core x x.tail 0 bs)

/-- Pushes one entry for a copy or relay; a refused push is offered again with the bytes that it had (R86, R94). -/
def State.copyPush (s : State) (o : EngOp) (core q : Nat) (bs : List Byte) (bad : Bool) : State × EngOp :=
  let clear := o.noPush
  let x := s.queue core q
  match s.offerPush s.t.core core q bs (o.reg 0) (if o.reg 1 = 0 then none else some (o.reg 1 - 1)) with
  | .refused s k n =>
    let o := ((o.setReg 0 k).setReg 1 (match n with | some n => n + 1 | none => 0)).setReg 9 (core * 16 + q)
    (s, { o.setReg 8 (if bad then 1 else 0) with out := [(0, bs)] })
  | .ok s' =>
    if bad then ((s'.setQueue core q x).badEntry core q bs.length).copyFault clear 2 else (s', { clear with done := o.done + bs.length })
  | .discard s => (s, { clear with done := o.done + bs.length })

/-- Copies the next sector of a box, or pushes its next entry (R283, R286, R288). -/
def State.copySector (s : State) (o : EngOp) : State × EngOp :=
  let l := layoutOf o.record
  let total := o.boxBytes l
  let va := o.dest + o.done
  match s.copyReach .write (wd va) 1 with
  | (s, .bad code _) => s.copyFault o (copyCause code)
  | (s, .ok []) => (s, o)
  | (s, .ok ((pa, _) :: _)) =>
    match place pa, o.out with
    | .push c q, (_, bs) :: _ => s.copyPush o c q bs (o.reg 8 == 1)
    | _, _ =>
    let n := match place pa with
      | .push c q => (s.queue c q).entry
      | _ => min (128 - va % 128) (total - o.done)
    let odd : Bool := match place pa with | .push _ _ => pa % n != 0 | _ => false
    let near : Bool := match place pa with | .core _ _ => true | .pad _ _ => true | _ => false
    let (s, ready) := if near then (s, true) else s.engineSerial
    if !ready then (s, o)
    else if n = 0 ∨ total < o.done + n ∨ odd then s.copyFault o 3
    else match s.boxSlice o l o.done n with
      | (s, .fault code _) => s.copyFault o (copyCause code)
      | (s, .gone) => (s, o)
      | (s, .ok bs bad) =>
        let put (s : State) : State × EngOp :=
          match s.enginePut [(pa, n)] bs with
          | (s, true) => (s, { o with done := o.done + n })
          | (s, false) => (s, o)
        match place pa with
        | .push c q => s.copyPush o c q bs bad
        | _ =>
          if bad then s.copyPoison o [(pa, n)] n
          else match stagingOf (o.record.drop 64) with
            | .ok d =>
              if d.free then
                let z := d.ty.bytes
                let (els, f) := foldElems d.ty d.op (elemsOf z (s.load pa n)) (elemsOf z bs)
                if s.loadBad pa n then s.copyFault o 2
                else match s.homeClear pa n with
                  | (s, true) =>
                    ((s.noteAll [(pa, n)]).homeStore pa (elemBytes z els), { o with done := o.done + n, flags := o.flags ||| f })
                  | (s, false) => (s, o)
              else put s
            | .error _ => put s

/-- Marks an operation as having nothing left to do. -/
def EngOp.finished (o : EngOp) : EngOp := o.setReg 3 1

/-- Reads 64 bytes at an address for a copy, on path CP. -/
def State.copyRead (s : State) (va : Nat) : State × Except Nat (Nat × List Byte) :=
  match s.copyReach .read (wd va) 64 with
  | (s, .bad code _) => (s, .error (copyCause code))
  | (s, .ok ps) => if s.badAll ps then (s, .error 2) else (s, .ok ((ps.headD (0, 0)).1, s.loadAll ps))

/-- The next step of a chain (R285): its record is read, its box copied, its OWN cleared and the next record taken. -/
def State.chainStep (s : State) (o : EngOp) : State × EngOp :=
  let p := o.reg 2
  if o.record.isEmpty then
    if p = 0 then (s, o.finished)
    else if p % 64 ≠ 0 then (s, o.fail 1 p)
    else match s.copyRead p with
      | (s, .error cause) => s.copyFault o cause
      | (s, .ok (_, b)) =>
        if !nbit (layoutOf b).flags 7 then (s, o.finished)
        else match boxFault o (layoutOf b) with
          | some x => (s, o.fail 1 x)
          | none => (s, { o with record := b, done := 0 })
  else if o.done < o.boxBytes (layoutOf o.record) then s.copySector o
  else match s.copyReach .write (wd (p + 62)) 1 with
    | (s, .bad code _) => s.copyFault o (copyCause code)
    | (s, .ok ps) =>
      let l := layoutOf o.record
      match s.enginePut ps [BitVec.ofNat 8 (l.flags % 128)] with
      | (s, true) => (s, { (o.setReg 4 o.sectors).setReg 2 l.next with record := [], done := 0 })
      | (s, false) => (s, o)

/-- The value that makes a reduction complete with error SHAPE, if one does (R286). -/
def redFault (o : EngOp) (d : Staging) (desc : List Byte) : Option Nat :=
  let l := layoutOf o.record
  let src := wbits (o.pw 14) 7 0
  if d.ty.code ≠ o.sub then some o.sub
  else if l.elem.bits ≠ d.ty.bits then some l.ty
  else if o.boxCount l ≠ d.len / d.ty.bytes then some (o.boxCount l)
  else if d.n ≤ src then some src
  else if nbit (leAt desc 32 32) src then some src
  else none

/-- The next step of a reduction (R286): its descriptor is read and checked, its box copied or folded, then its ARRIVED bit set. -/
def State.redStep (s : State) (o : EngOp) : State × EngOp :=
  let desc := (o.pw 13).toNat
  if o.reg 6 = 0 then
    if desc % 64 ≠ 0 then (s, o.fail 1 desc)
    else match s.copyRead desc with
      | (s, .error cause) => s.copyFault o cause
      | (s, .ok (_, b)) =>
        match stagingOf b with
        | .error x => (s, o.fail 1 x)
        | .ok d =>
          match redFault o d b with
          | some x => (s, o.fail 1 x)
          | none => (s, { o.setReg 6 1 with record := o.record.take 64 ++ b })
  else if o.done < o.boxBytes (layoutOf o.record) then s.copySector o
  else
    let src := wbits (o.pw 14) 7 0
    match s.copyReach .write (wd (desc + 32 + src / 8)) 1 with
    | (s, .bad code _) => s.copyFault o (copyCause code)
    | (s, .ok ps) =>
      let (pa, _) := ps.headD (0, 0)
      match s.homeClear pa 1 with
      | (s, true) => ((s.noteAll ps).homeStore pa [BitVec.ofNat 8 (ofBytes (s.loadAll ps) ||| 2 ^ (src % 8))], o.finished)
      | (s, false) => (s, o)

/-- The peer of a relay: its core and queue (R287). -/
def relayPeer (rh : Word) : Nat × Nat :=
  (wbits rh 2 0 * 64 + wbits rh 5 3 * 8 + wbits rh 8 6, if wbit rh 17 then wbits rh 16 13 else wbits rh 12 9)

/-- The next push of a relay (R287): the queue's entry size is checked as the relay starts and before each push. -/
def State.relayStep (s : State) (o : EngOp) : State × EngOp :=
  let (core, q) := relayPeer (o.pw 15)
  let n := o.trig.toNat
  let x := s.queue core q
  let started := o.reg 7 = 1
  let quit (s : State) : State × EngOp := (s.dropNumber o, o.noPush.fail 10 o.done)
  if started ∧ n ≤ o.done then (s, o.finished)
  else if x.cfg.isNone ∨ n % x.entry ≠ 0 then quit s
  else
    let o := o.setReg 7 1
    if n ≤ o.done then (s, o.finished)
    else match o.out with
      | (_, bs) :: _ => if bs.length = x.entry then s.copyPush o core q bs (o.reg 8 == 1) else quit s
      | [] =>
        let at_ := coreWin o.core (wbits (o.pw 5) 18 0 + o.done)
        s.copyPush o core q (s.see at_ x.entry) (s.bad at_ x.entry)

/-- The next step of a copy engine's operation. -/
def State.copyStep (s : State) (o : EngOp) : State × EngOp :=
  match o.form with
  | 16 => if o.done < o.boxBytes (layoutOf o.record) then s.copySector o else (s, o.finished)
  | 17 => s.chainStep o
  | 18 => s.redStep o
  | _ => s.relayStep o

/-- Whether a copy engine's operation can take a step: it has neither ended nor faulted nor been cancelled. -/
def EngOp.copying (o : EngOp) : Bool := o.err == 0 && o.fault.isNone && o.reg 3 == 0 && !o.cancel

/-- A copy engine advances one of its operations by a sector, an entry or a record (R283, R291). -/
def State.copyAdvance (s : State) (core n : Nat) : State :=
  match (s.ops core 15)[n]? with
  | some o =>
    if o.copying then
      let (s, o) := { s with cur := o.task }.copyStep { o with run := true }
      if !((s.ops core 15).any (fun x => x.same o)) then s
      else (if o.fault.isNone then s.noteCopy o else s).putOp core o
    else s
  | none => s

/-- Whether an operation of the copy engine is over, so that its token completes. -/
def EngOp.copyOver (o : EngOp) : Bool := o.fault.isNone && (o.err != 0 || o.reg 3 == 1 || o.cancel)

/-- The end of a copy engine's operation: a cancelled one ends with CANCEL (R289), and gives up its refused push's number. -/
def State.copyEnd (s : State) (core : Nat) (o : EngOp) : State :=
  let s := if o.cancel then s.dropNumber o else s
  let o := if o.cancel ∧ o.err = 0 ∧ o.reg 3 = 0 then o.fail 12 o.sectors else o
  (s.endToken o (copyStatus o 0 (if o.err = 0 then o.sectors else o.detail))).dropOp core o

/-! ### The forms -/

/-- The record that cp.start and cp.red name in local store (R284). -/
def cpRecord (s : State) (o : EngOp) : EngOp :=
  let rec_ := (o.pw 10).toNat
  if rec_ % 64 ≠ 0 ∨ 0x80000 < rec_ + 64 then o.fail 7 rec_
  else if s.bad (coreWin s.t.core rec_) 64 then o.fail 11 0
  else
    let b := s.lsBytes s.t.core rec_ 64
    match boxFault o (layoutOf b) with
    | some x => { o with record := b }.fail 1 x
    | none => { o with record := b }

/-- Whether a virtual address of the current task lies in a tile, local store or scratchpad. -/
def State.nearVa (s : State) (p : Perm) (va : Word) : Bool :=
  match s.copyReach p va 1 with
  | (_, .ok ((pa, _) :: _)) => (match place pa with | .core _ _ => true | .pad _ _ => true | _ => false)
  | _ => false

/-- Whether a virtual address of the current task lies in a host or peer window. -/
def State.linkVa (s : State) (va : Word) : Bool :=
  match s.copyReach .read va 1 with
  | (_, .ok ((pa, _) :: _)) => (match place pa with | .host _ => true | .peer _ _ => true | _ => false)
  | _ => false

/-- Whether a copy cannot be buffered (R334): a chain, which writes its records, a reduction, a box with a page of its destination outside the
tiles, local stores and scratchpads, or one that reads through a host or peer window. -/
def State.copySerial (s : State) (o : EngOp) : Bool :=
  let l := layoutOf o.record
  let n := o.boxBytes l
  let row := o.boxExt l (if l.trans then 1 else 0)
  o.form != 16 ||
    (o.err == 0 &&
      (!((pagePieces (n / 65536 + 2) o.dest n).all (fun p => s.nearVa .write (wd p.1))) ||
        (List.range (o.boxCount l / max row 1)).any (fun r => [r * row, r * row + row - 1].any (fun k =>
          let c := o.boxCoord l k
          l.inside c && s.linkVa (BitVec.ofInt 64 (l.srcBit c / 8))))))

/-- Starts an operation of the copy engine; a speculative task serialises before one that cannot be buffered (R334). -/
def cpForm (form sub : Nat) (m : Mv) (f : State → EngOp → EngOp) (s : State) : Out :=
  trigW 15 m (fun x s => withToken s 15 11 (fun tok s =>
    let go (s : State) : Eff :=
      let o := f s (s.newOp 15 form sub x tok)
      .done ((s.start o).noteCopy o)
    if s.t.spec && s.copySerial (f s (s.newOp 15 form sub x tok)) then s.serialised go else go s)) s (fun s => s.tokenBusy 15 11)

/-- cp.start (R284). -/
def execCpStart (m : Mv) (s : State) : Out := cpForm 16 0 m cpRecord s
/-- cp.chain (R285). -/
def execCpChain (m : Mv) (s : State) : Out := cpForm 17 0 m (fun _ o => o.setReg 2 (o.pw 10).toNat) s
/-- cp.red (R286). -/
def execCpRed (ty : ElemType) (m : Mv) (s : State) : Out := cpForm 18 ty.code m cpRecord s

/-- cp.relay (R287): a peer outside the partition raises the access fault at the trigger slot. -/
def execCpRelay (m : Mv) (s : State) : Out :=
  trigW 15 m (fun x s => withToken s 15 11 (fun tok s =>
    let (core, q) := relayPeer (s.t.pw 15 15)
    let pa := coreWin core (0xA0000 + q * 0x1000)
    if !s.permits (s.accOf s.t) pa then .trap s 4 2 (wd pa)
    else s.serialised (fun s =>
      let o := s.newOp 15 19 0 x tok
      let o := if 0x80000 < wbits (o.pw 5) 18 0 + x.toNat then o.fail 7 (wbits (o.pw 5) 18 0) else o
      .done ((s.start o).noteCopy o)))) s (fun s => s.tokenBusy 15 11)

/-- A control form: the token is bits 2:0 of the trigger (R289). -/
def cpControl (m : Mv) (f : Nat → Word → State → Eff) (s : State) : Out :=
  trigW 15 m (fun x s => f (wbits x 2 0) x s) s

/-- cp.cancel (R289): the token changes state at the end of the bundle (R302). -/
def execCpCancel (m : Mv) (s : State) : Out := cpControl m (fun n _ s => .done (s.atEnd (512 + n) 0)) s
/-- cp.resume (R289). -/
def execCpResume (m : Mv) (s : State) : Out := cpControl m (fun n _ s => .done (s.atEnd (544 + n) 0)) s

/-- The status word that cp.status returns for a token (R229, R290). -/
def Tok.word (k : Tok) : Word :=
  if k.unit = 15 ∨ k.st = .faulted then k.status ||| wd (k.st.code * 2 ^ 56) else k.status

/-- cp.status (R289): a completed token counts as observed (R290). -/
def execCpStatus (m : Mv) (s : State) : Out :=
  cpControl m (fun n x s =>
    let sel := wbits x 10 8
    let k := s.t.tok n
    if sel = 7 then .illPort s
    else
      let v := if sel = 0 then k.word else if sel = 1 then k.handle else wd (k.coord.getD (sel - 2) 0)
      let t := if sel = 0 then s.t.observe (2 ^ n) else s.t
      .done (s.setT (t.result 15 false 1 (.w v) 0))) s

/-- What cp.cancel does at the end of its bundle (R289). -/
def State.cancelToken (s : State) (n : Nat) : State :=
  let k := s.t.tok n
  match s.findOp s.cur n with
  | none => s
  | some o =>
    if k.st = .faulted then
      let o' := o.fail 12 (wbits k.status 47 16)
      let s := s.endToken { o' with flags := o.flags } (if o.unit = 15 then copyStatus o' 0 o'.detail else statusOf o')
      (s.dropNumber o).dropOp o.core o
    else if k.st = .pending ∧ (k.unit = 14 ∨ k.unit = 15) then s.putOp o.core { o with cancel := true }
    else s

/-- What cp.resume does at the end of its bundle (R289): the operation restarts at the sector reached. -/
def State.resumeToken (s : State) (n : Nat) : State :=
  let k := s.t.tok n
  if k.st = .faulted then
    match s.findOp s.cur n with
    | none => s
    | some o =>
      let s := s.setT (s.t.setTok n { k with st := .pending, status := if k.unit = 15 then copyStatus o 0 o.sectors else 0 })
      s.putOp o.core { o with fault := none }
  else s

/-- Performs at the end of a bundle what a form asked of it: cp.cancel and cp.resume from 512, otherwise a register's write. -/
def State.endWrite (s : State) (key : Nat) (x : Word) : State :=
  if 512 ≤ key ∧ key < 544 then s.cancelToken (key - 512)
  else if 544 ≤ key ∧ key < 576 then s.resumeToken (key - 544)
  else s.setT (s.t.endWrite key x)

end Sys2Proof.Machine
end

