-- ==== Sys2Proof/Machine/Anchor.lean ====
section
/-! DEFINITION. The anchor (spec/08_matrix_anchor_transform.md R243-R248, R259): its forms, its rows, and its words. -/

namespace Sys2Proof.Machine

open Host Arith

/-! ### Operations. Registers: 10 the entry word, 11 the first row, 12 the row after the last, 13 the address of the tile read and
14 its class, 9 its tag's index plus 1; 16, 17, 18 the address plus 1, the class and the tag's index plus 1 of the tile that
`dest` names; 0 and 1 the refusals and number of a refused push; 19 set in a replay (R367). -/

/-- The parameter word of an operation, as copied at its trigger (R243). -/
def EngOp.param (o : EngOp) (p : BitVec 4) : Word := o.aparam.get p.toNat 0

/-- Names the tile that `dest`<7:0> gives (R226, R245). -/
def nameDest (s : State) (o : EngOp) : EngOp :=
  let code := wbits (o.pw 8) 7 0
  match s.t.tilePa code with
  | some pa =>
    let o := (o.setReg 16 (pa + 1)).setReg 17 (code / 32)
    if code / 32 = 6 then o.setReg 18 (s.t.tmap.get code 0 + 1) else o
  | none => o

/-- What a word does: the row after it with the distance to the next word and flags, or the row's error. -/
inductive AnRes where
  | ok (r : ARow) (fl : Flags) (adv : Int)
  | fail (err detail : Nat)
deriving Repr

/-- The mask of all lanes. -/
def allLanes : Nat := 2 ^ 32 - 1

/-- The element type of the T and TY codes (R244). -/
def anType (t : Nat) : ElemType :=
  match t with
  | 0 => .f32 | 1 => .f16 | 2 => .bf16 | 3 => .f8a | 4 => .f8b | _ => .s8

/-- A row of X replaced lane by lane, with flags. -/
def anMap (r : ARow) (f : Nat → Nat → Nat × Flags) : AnRes :=
  let y := r.x.zipIdx.map (fun (x, j) => f j x)
  .ok { r with x := y.map (·.1) } (y.foldl (fun a b => a ||| b.2) 0) 1

/-- A row of X and its mask M replaced lane by lane. -/
def anMask (r : ARow) (f : Nat → Nat → (Nat × Flags) × Bool) : AnRes :=
  let y := r.x.zipIdx.map (fun (x, j) => f j x)
  .ok { r with x := y.map (·.1.1), m := (y.zipIdx.map (fun (b, j) => if b.2 then 2 ^ j else 0)).sum }
    (y.foldl (fun a b => a ||| b.1.2) 0) 1

/-- n bytes of local store at an offset aligned to z, or the error (R245, R229). -/
def anRead (s : State) (o : EngOp) (off n z : Nat) (ok : List Byte → AnRes) : AnRes :=
  if off % z ≠ 0 ∨ 0x80000 < off + n then .fail 7 off
  else if s.bad (coreWin o.core off) n then .fail 11 0
  else ok (s.lsBytes o.core off n)

/-- Adds a pending write of the row to local store (R245); a replay suppresses it (R367). -/
def anWrite (o : EngOp) (r : ARow) (off : Nat) (bs : List Byte) (z : Nat) (fl : Flags) : AnRes :=
  if o.reg 19 = 1 then .ok r 0 1
  else if off % z ≠ 0 ∨ 0x80000 < off + bs.length then .fail 7 off
  else .ok { r with pend := r.pend ++ [(coreWin o.core off, bs)] } fl 1

/-- Row r of a base-and-pitch row address (R245). -/
def anRow (p : Word) (r : Nat) : Nat := wbits p 18 0 + r * wbits p 37 24

/-- X in type T, as bytes: as f32 its bits unchanged (R53). How an X that T does not represent is written, after an arithmetic word that
follows a cvt, the spec does not say: the model rounds it to T by RNE with F8SAT off, and raises no flag (R64, R245,
notes/assumptions/24.md). -/
def ARow.bytes (r : ARow) : List Byte :=
  let ty := anType r.ty
  elemBytes ty.bytes (if ty = .f32 then r.x else r.x.map (fun x => (convert .f32 ty false ⟨.rne, false, 0⟩ x).bits))

/-- Converts an f32 to a type and back (R245, R64, R65). -/
def anConvert (ty : ElemType) (v : Env) (x : Nat) : Nat × Flags :=
  let y := convert .f32 ty false v x
  ((convert ty .f32 false ⟨.rne, false, 0⟩ y.bits).bits, y.flags)

/-- The keyed bits of a lane (R247). -/
def anKey (o : EngOp) (r : ARow) (e0 : Nat) (imm : BitVec 8) (j : Nat) : BitVec 32 :=
  (keyHash o.key o.coord (wd (e0 + 32 * r.row + j)) imm.toNat 0).setWidth 32

/-- x × y with a vector operand from bytes of a type. -/
def anLane (ty : ElemType) (bs : List Byte) (j : Nat) : Nat := (convert ty .f32 false ⟨.rne, false, 0⟩ (leAt bs (j * ty.bytes) ty.bytes)).bits

/-- Whether x > 0 (R245). -/
def anPos (x : Nat) : Bool := cmpEx (f32 x) (exactI 0) == .gt && !isNaN (f32 x)

/-- The canonical NaN that an arithmetic word makes of a NaN, with NV for a signalling one (R53). -/
def anNaN (x : Nat) : Nat × Flags := (canonNaN .f32, if isSig (f32 x) then NV else 0)

/-- A word's effect on its row (R245-R248). -/
def anWord (i : Instr) (s : State) (o : EngOp) (r : ARow) : AnRes :=
  match i with
  | .anchorNop => .ok r 0 1
  | .anchorScale pa => anRead s o (wbits (o.param pa) 18 0) 128 4 (fun bs => anMap r (fun j x => mul32 x (leAt bs (4 * j) 4)))
  | .anchorSscale pa => anMap r (fun _ x => mul32 x (wbits (o.param pa) 31 0))
  | .anchorBias pa => anRead s o (wbits (o.param pa) 18 0) 128 4 (fun bs => anMap r (fun j x => add32 x (leAt bs (4 * j) 4)))
  | .anchorAddres pa ty =>
    if 2 < ty.toNat then .fail 6 (r.row * 1024 + r.word)
    else
      let t := anType ty.toNat
      anRead s o (anRow (o.param pa) r.row) (32 * t.bytes) t.bytes (fun bs =>
        anMap r (fun j x =>
          let y := exactF t (leAt bs (j * t.bytes) t.bytes)
          let z := addRound .f32 ⟨.rne, false, 0⟩ [f32 x, y]
          (z.bits, z.flags)))
  | .anchorMulres pa ty =>
    if 2 < ty.toNat then .fail 6 (r.row * 1024 + r.word)
    else
      let t := anType ty.toNat
      anRead s o (anRow (o.param pa) r.row) (32 * t.bytes) t.bytes (fun bs =>
        anMap r (fun j x =>
          let z := mulRound .f32 ⟨.rne, false, 0⟩ (f32 x) (exactF t (leAt bs (j * t.bytes) t.bytes))
          (z.bits, z.flags)))
  | .anchorRelu => anMask r (fun _ x =>
      if isNaN (f32 x) then (anNaN x, false) else if anPos x then ((x, 0), true) else ((0, 0), false))
  | .anchorGelu => anMap r (fun _ x => gelu x)
  | .anchorClamp pa =>
    let lo := wbits (o.param pa) 31 0
    let hi := wbits (o.param pa) 63 32
    anMask r (fun _ x =>
      let a := fmaxmin .f32 true x lo
      let b := fmaxmin .f32 false a.1 hi
      let inside := !isNaN (f32 x) && !isNaN (f32 lo) && !isNaN (f32 hi) && cmpEx (f32 lo) (f32 x) != .gt && cmpEx (f32 x) (f32 hi) != .gt
      ((b.1, a.2 ||| b.2), inside))
  | .anchorLeaky pa => anMask r (fun _ x => if anPos x then ((x, 0), true) else (mul32 x (wbits (o.param pa) 31 0), false))
  | .anchorSigmoid => anMap r (fun _ x => sigmoid x)
  | .anchorDrop pa pb i =>
    let p := o.param pa
    anMask r (fun j x =>
      if wbits p 63 32 ≤ (anKey o r (wbits p 31 0) i j).toNat then (mul32 x (wbits (o.param pb) 31 0), true) else ((0, 0), false))
  | .anchorCvt ty rm =>
    if 5 < ty.toNat then .fail 6 (r.row * 1024 + r.word)
    else
      match anMap r (fun _ x => anConvert (anType ty.toNat) ⟨RMode.ofCode rm.toNat, nbit o.fmt 2, 0⟩ x) with
      | .ok r f a => .ok { r with ty := ty.toNat } f a
      | e => e
  | .anchorCvtsr pa ty i =>
    if 5 < ty.toNat then .fail 6 (r.row * 1024 + r.word)
    else
      match anMap r (fun j x =>
        anConvert (anType ty.toNat) ⟨.sr, nbit o.fmt 2, anKey o r (wbits (o.param pa) 31 0) i j⟩ x) with
      | .ok r f a => .ok { r with ty := ty.toNat } f a
      | e => e
  | .anchorRecm pa => anWrite o r (wbits (o.param pa) 18 0 + 4 * r.row) (toBytes 4 r.m) 4 0
  | .anchorRecs pa pb =>
    if r.row ≠ 0 then .ok r 0 1
    else anWrite o r (wbits (o.param pa) 18 0) (toBytes 8 o.key.toNat ++ toBytes 8 (o.param pb).toNat) 8 0
  | .anchorWrt =>
    let rb := if o.reg 17 = 5 then 64 else 128
    let bs := r.bytes
    if o.reg 16 = 0 ∨ rb < bs.length then .fail 3 (wbits (o.pw 8) 7 0)
    else
      let tag := if o.reg 18 = 0 then [] else [(2 ^ 61 + o.reg 18, [])]
      .ok { r with pend := r.pend ++ [(o.reg 16 - 1 + r.row * rb, bs)] ++ tag } 0 1
  | .anchorWrl => anWrite o r (anRow (o.pw 8) r.row) r.bytes (anType r.ty).bytes 0
  | .anchorWrq =>
    let q := wbits (o.pw 8) 3 0
    if o.reg 19 = 1 then .ok r 0 1
    else if (s.queue o.core q).entry ≠ r.bytes.length then .fail 10 q
    else .ok { r with pend := r.pend ++ [(2 ^ 60 + q, r.bytes)] } 0 1
  | .anchorRmax pa =>
    let m := (treeFold (opNode .f32 2) 5 (r.x.map (fun x => (x, 0)))).headD (0, 0)
    anWrite o r (wbits (o.param pa) 18 0 + 4 * r.row) (toBytes 4 m.1) 4 m.2
  | .anchorLoop c d =>
    if c = 0 ∨ d = 0 then .fail 6 (r.row * 1024 + r.word)
    else
      let n := if r.lcnt = 0 then c.toNat else r.lcnt
      if 1 < n then .ok { r with lcnt := n - 1 } 0 (-(d.toNat : Int)) else .ok { r with lcnt := 0 } 0 1
  | _ => .ok r 0 0

/-- What a word of a recorded drain records of its row (R259, R362): its type and the row's share, the row before the word and after
it given. -/
def anRecord (i : Instr) (s : State) (o : EngOp) (r r' : ARow) : Option (Nat × List Byte) :=
  match i with
  | .anchorRelu => some (8, toBytes 4 r'.m)
  | .anchorClamp _ => some (8, toBytes 4 r'.m)
  | .anchorLeaky _ => some (8, toBytes 4 r'.m)
  | .anchorMulres pa ty =>
    let t := anType ty.toNat
    let bs := s.lsBytes o.core (anRow (o.param pa) r.row) (32 * t.bytes)
    some (9, elemBytes 4 ((List.range 32).map (anLane t bs)))
  | .anchorGelu => some (9, elemBytes 4 r.x)
  | .anchorSigmoid => some (9, elemBytes 4 r'.x)
  | .anchorDrop pa _ _ => some (10, toBytes 8 o.key.toNat ++ toBytes 8 (o.param pa).toNat)
  | _ => none

/-! ### Rows -/

/-- The anchor's operation and row on a core. -/
def State.anHead (s : State) (core : Nat) : Option EngOp := (s.coreAt core).anq.head?

/-- Replaces the row that a core's anchor executes. -/
def State.setRow (s : State) (core : Nat) (r : Option ARow) : State :=
  let c := s.coreAt core
  s.setCore core { c with row := r }

/-- Starts a row (R243): X is the tile's row, an s32-tagged one converted under R227. Past the last row the operation has no row
left. -/
def State.startRow (s : State) (o : EngOp) (row : Nat) : State :=
  if o.reg 12 ≤ row then (s.putOp o.core { o with done := 1 }).setRow o.core none
  else
    let pa := o.reg 13 + row * 128
    if s.bad pa 128 then (s.putOp o.core (o.fail 11 0)).setRow o.core none
    else
      let raw := elemsOf 4 (s.see pa 128)
      let conv := o.reg 9 ≠ 0 ∧ s.tag o.core (o.reg 9 - 1) = 2
      let rs := raw.map (fun x => if conv then roundRNE .f32 (exact .s32 x) else ⟨x, 0, false⟩)
      let s := s.putOp o.core { o with flags := rs.foldl (fun f x => f ||| x.flags) o.flags }
      s.setRow o.core (some ⟨row, rs.map (·.bits), 0, allLanes, 0, o.reg 10, 0, [], 0⟩)

/-- Fails the row in progress (R248): it performs no pending write, and no later row runs. -/
def State.rowFail (s : State) (o : EngOp) (err detail : Nat) : State := (s.putOp o.core (o.fail err detail)).setRow o.core none

/-- Adds what a word records to a drain's marks: row 0 opens the record, later rows extend it (R362). -/
def addMark (l : List (Nat × List Byte)) (row k : Nat) (x : Nat × List Byte) : List (Nat × List Byte) :=
  if row = 0 then l ++ [x]
  else if x.1 = 10 then l
  else l.zipIdx.map (fun (y, i) => if i = k then (y.1, y.2 ++ x.2) else y)

/-- Executes a word of the row in progress on a core (R243, R248). -/
def State.anExec (s : State) (core : Nat) (i : Instr) : State :=
  match s.anHead core, (s.coreAt core).row with
  | some o, some r =>
    if 1024 ≤ r.count then s.rowFail o 6 (r.row * 1024 + r.word)
    else match anWord i s o r with
      | .fail e d => s.rowFail o e d
      | .ok r' fl adv =>
        let next := (r.word : Int) + adv
        if next < 0 ∨ 1023 < next then s.rowFail o 6 (r.row * 1024 + r.word)
        else
          let mark := if o.drains then anRecord i s o r r' else none
          let marks := match mark with | some x => addMark o.marks r.row r.recd x | none => o.marks
          let s := s.putOp core { o with flags := o.flags ||| fl, marks := marks }
          s.setRow core (some { r' with
            word := next.toNat, count := r.count + 1, recd := r.recd + (if mark.isSome then 1 else 0) })
  | _, _ => s

/-- Performs a row's pending writes in program order until a push is refused (R243, R245). -/
def State.flushRow (s : State) (o : EngOp) : List (Nat × List Byte) → State × EngOp × List (Nat × List Byte)
  | [] => (s, o, [])
  | (a, bs) :: rest =>
    if 2 ^ 61 ≤ a then (s.setTag o.core (a - 2 ^ 61 - 1) 10).flushRow o rest
    else if 2 ^ 60 ≤ a then
      match s.offerPush o.core o.core (a - 2 ^ 60) bs (o.reg 0) (if o.reg 1 = 0 then none else some (o.reg 1 - 1)) with
      | .refused s k n => (s, (o.setReg 0 k).setReg 1 (match n with | some n => n + 1 | none => 0), (a, bs) :: rest)
      | .ok s => s.flushRow ((o.setReg 0 0).setReg 1 0) rest
      | .discard s => s.flushRow ((o.setReg 0 0).setReg 1 0) rest
    else (s.wr a bs).flushRow o rest

/-- end (R245): the row's pending writes are performed, then the next row begins; a full queue holds the row at its `end`. -/
def State.anEnd (s : State) (core : Nat) : State :=
  match s.anHead core, (s.coreAt core).row with
  | some o, some r =>
    if 1024 ≤ r.count then s.rowFail o 6 (r.row * 1024 + r.word)
    else
      let (s, o, rest) := s.flushRow o r.pend
      let s := s.putOp core o
      if rest.isEmpty then s.startRow o (r.row + 1) else s.setRow core (some { r with pend := rest })
  | _, _ => s

/-- The word that a core's anchor executes next. -/
def State.anFetch (s : State) (core : Nat) : BitVec 32 :=
  match (s.coreAt core).row with
  | some r => BitVec.ofNat 32 ((s.coreAt core).prog.get r.word 0)
  | none => 0

/-- A word that is no form fails its row (R244). -/
def State.anBad (s : State) (core : Nat) : State :=
  match s.anHead core, (s.coreAt core).row with
  | some o, some r => s.rowFail o 6 (r.row * 1024 + r.word)
  | _, _ => s

/-- A word's step on the current core. -/
def anForm (i : Instr) (s : State) : Out := .next { s.anExec s.core i with turn := none }

/-- ANCHOR_NOP (R245). -/
def execAnchorNop (s : State) : Out := anForm .anchorNop s
/-- ANCHOR_SCALE (R245). -/
def execAnchorScale (pa : BitVec 4) (s : State) : Out := anForm (.anchorScale pa) s
/-- ANCHOR_SSCALE (R245). -/
def execAnchorSscale (pa : BitVec 4) (s : State) : Out := anForm (.anchorSscale pa) s
/-- ANCHOR_BIAS (R245). -/
def execAnchorBias (pa : BitVec 4) (s : State) : Out := anForm (.anchorBias pa) s
/-- ANCHOR_ADDRES (R245). -/
def execAnchorAddres (pa : BitVec 4) (ty : BitVec 3) (s : State) : Out := anForm (.anchorAddres pa ty) s
/-- ANCHOR_MULRES (R245). -/
def execAnchorMulres (pa : BitVec 4) (ty : BitVec 3) (s : State) : Out := anForm (.anchorMulres pa ty) s
/-- ANCHOR_RELU (R245). -/
def execAnchorRelu (s : State) : Out := anForm .anchorRelu s
/-- ANCHOR_GELU (R246). -/
def execAnchorGelu (s : State) : Out := anForm .anchorGelu s
/-- ANCHOR_CLAMP (R245). -/
def execAnchorClamp (pa : BitVec 4) (s : State) : Out := anForm (.anchorClamp pa) s
/-- ANCHOR_LEAKY (R245). -/
def execAnchorLeaky (pa : BitVec 4) (s : State) : Out := anForm (.anchorLeaky pa) s
/-- ANCHOR_SIGMOID (R246). -/
def execAnchorSigmoid (s : State) : Out := anForm .anchorSigmoid s
/-- ANCHOR_DROP (R247). -/
def execAnchorDrop (pa pb : BitVec 4) (i : BitVec 8) (s : State) : Out := anForm (.anchorDrop pa pb i) s
/-- ANCHOR_CVT (R245). -/
def execAnchorCvt (ty : BitVec 3) (rm : BitVec 2) (s : State) : Out := anForm (.anchorCvt ty rm) s
/-- ANCHOR_CVTSR (R247). -/
def execAnchorCvtsr (pa : BitVec 4) (ty : BitVec 3) (i : BitVec 8) (s : State) : Out := anForm (.anchorCvtsr pa ty i) s
/-- ANCHOR_RECM (R245). -/
def execAnchorRecm (pa : BitVec 4) (s : State) : Out := anForm (.anchorRecm pa) s
/-- ANCHOR_RECS (R245). -/
def execAnchorRecs (pa pb : BitVec 4) (s : State) : Out := anForm (.anchorRecs pa pb) s
/-- ANCHOR_WRT (R245). -/
def execAnchorWrt (s : State) : Out := anForm .anchorWrt s
/-- ANCHOR_WRL (R245). -/
def execAnchorWrl (s : State) : Out := anForm .anchorWrl s
/-- ANCHOR_WRQ (R245). -/
def execAnchorWrq (s : State) : Out := anForm .anchorWrq s
/-- ANCHOR_RMAX (R245). -/
def execAnchorRmax (pa : BitVec 4) (s : State) : Out := anForm (.anchorRmax pa) s
/-- ANCHOR_LOOP (R248). -/
def execAnchorLoop (c d : BitVec 7) (s : State) : Out := anForm (.anchorLoop c d) s
/-- ANCHOR_END (R245). -/
def execAnchorEnd (s : State) : Out := .next { s.anEnd s.core with turn := none }

/-! ### Runs -/

/-- The DETAIL of an anchor error outside a row (R229). -/
def anDetail (x : Nat) : Nat := 2 ^ 31 + x % 2 ^ 31

/-- The program words that an.load copies, or its error, in the order of R243's checks. -/
def State.anLoadRun (s : State) (o : EngOp) : State × EngOp :=
  let n := o.trig.toNat
  let dest := (o.pw 8).toNat
  let prog := (o.pw 6).toNat
  if n % 4 ≠ 0 then (s, o.fail 6 (anDetail n))
  else if dest % 4 ≠ 0 then (s, o.fail 6 (anDetail dest))
  else if 4096 < dest + n then (s, o.fail 6 (anDetail dest))
  else if 0x80000 < prog + n then (s, o.fail 7 prog)
  else if s.bad (coreWin o.core prog) n then (s, o.fail 11 0)
  else
    let c := s.coreAt o.core
    let ws := elemsOf 4 (s.lsBytes o.core prog n)
    (s.setCore o.core { c with prog := ws.zipIdx.foldl (fun p (w, i) => p.set (dest / 4 + i) w) c.prog }, o)

/-- Starts the anchor's next operation (R243): a run checks its count and entry. -/
def State.startAn (s : State) (o : EngOp) : State :=
  let o := { o with run := true }
  if o.err ≠ 0 then s.putOp o.core o
  else if o.form = 17 then
    let (s, o) := s.anLoadRun o
    s.putOp o.core { o with done := 1 }
  else if 1023 < o.reg 10 then s.putOp o.core (o.fail 6 (anDetail (o.reg 10)))
  else (s.putOp o.core o).startRow o (o.reg 11)

/-- Whether the anchor's head operation is over. -/
def EngOp.anOver (o : EngOp) : Bool := o.run && (o.err != 0 || o.done == 1)

/-- Runs a started anchor operation to its end, by fuel: a replay's drains (R367). -/
def State.anRunAll (s : State) (core : Nat) : Nat → State
  | 0 => s
  | fuel + 1 =>
    match (s.coreAt core).row with
    | none => s
    | some _ =>
      match decodeAnchor (s.anFetch core) with
      | some .anchorEnd => (s.anEnd core).anRunAll core fuel
      | some i => (s.anExec core i).anRunAll core fuel
      | none => (s.anBad core).anRunAll core fuel

/-- Runs an anchor operation at once, ahead of the anchor's order, and answers it as it ends (R367). -/
def State.anNow (s : State) (o : EngOp) : State × EngOp :=
  let core := o.core
  let row := (s.coreAt core).row
  let q := s.ops core 13
  let s := (s.setRow core none).setOps core 13 (o :: q)
  let s := (s.startAn o).anRunAll core (32 * 1026)
  let o' := (s.anHead core).getD o
  ((s.setOps core 13 q).setRow core row, o')

/-! ### Forms -/

/-- an.run (R243): the tile is one of the task's a or d tiles. -/
def execAnRun (m : Mv) (s : State) : Out :=
  trigW 13 m (fun x s => withToken s 13 5 (fun tok s =>
    match s.t.tileAt 13 7 [6, 7] with
    | none => .illSlot s
    | some pa =>
      let code := (s.t.port 13 7).word.toNat
      let o := nameDest s (s.newOp 13 16 0 x tok)
      let o := ((((o.setReg 10 (o.pw 6).toNat).setReg 12 x.toNat).setReg 13 pa).setReg 14 (code / 32)).setReg 9
        (if code / 32 = 6 then s.t.tmap.get code 0 + 1 else 0)
      .done (s.start (if 32 < x.toNat then o.fail 1 x.toNat else o)))) s (fun s => s.tokenBusy 13 5)

/-- an.load (R243). -/
def execAnLoad (m : Mv) (s : State) : Out :=
  trigW 13 m (fun x s => withToken s 13 5 (fun tok s => .done (s.start (s.newOp 13 17 0 x tok)))) s (fun s => s.tokenBusy 13 5)

/-- an.param (R243): the parameter word is written at the end of the bundle; an open block notes its source (R487). -/
def execAnParam (p : BitVec 4) (m : Mv) (s : State) : Out :=
  trigW 13 m (fun x s =>
    .done (s.atEnd ((if s.t.constSrc m.src then 1536 else 1024) + p.toNat) x)) s

end Sys2Proof.Machine
end

