-- ==== Sys2Proof/Machine/Matrix.lean ====
section
/-! DEFINITION. The matrix unit (spec/08_matrix_anchor_transform.md R225-R242): tile operands, scratchpad and GQ operands, products,
transfers, broadcasts and drains, with what an open block records of them (R258, R487). -/

namespace Sys2Proof.Machine

open Host Arith

/-! ### Operations. Registers: 5, 6, 7 the physical addresses of acc, ta and tb; 8 the class of acc and 9 its tag's index, plus 1;
2, 3 the next group of an mgrp and its first row, 4 set while it waits for the anchor, 24 set once it has read its table, 27 the rows
that it has computed for the anchor; 20 set once the result is computed, 22 the tag it leaves, plus 1; of a broadcast 1 set once it has
agreed, 21 set where the bus brought an error, 23 the core, plus 1, of a member that has gone, and 26 its group, plus 1. -/

/-- A's type and B's type (R232). -/
def EngOp.aTy (o : EngOp) : ElemType := (ElemType.ofCode o.sub).getD .s8
/-- B's type (R232). -/
def EngOp.bTy (o : EngOp) : ElemType := (ElemType.ofCode (o.pw 13).toNat).getD .s8

/-- The group size G of the settings at the trigger (R57). -/
def EngOp.gs (o : EngOp) : Nat := match o.fmt % 4 with | 0 => 32 | 1 => 64 | _ => 128

/-- Whether a type is group-quantised. -/
def isGQ (t : ElemType) : Bool := t == .gq4 || t == .gq8

/-- Whether a pair of types is an integer pair (R232). -/
def intPair (a b : ElemType) : Bool := (a == .s8 || a == .n8) && (b == .s8 || b == .n8)

/-- The pairs of types that R232 allows. -/
def pairOk (a b : ElemType) : Bool :=
  let h (t : ElemType) : Bool := t == .f16 || t == .bf16
  let q (t : ElemType) : Bool := t == .f8a || t == .f8b
  (h a && h b) || (q a && q b) || intPair a b || (h a && isGQ b) || (isGQ a && h b)

/-- A scratchpad descriptor (R179, R234). -/
structure Desc where
  ovr   : Bool
  rowp  : Nat
  base  : Nat
  rot   : Nat
  tilep : Nat
deriving DecidableEq, Repr

/-- A descriptor from its two words. -/
def descOf (w0 w1 : Word) : Desc := ⟨wbit w0 63, wbits w0 43 22, wbits w0 21 0, wbits w1 31 22, wbits w1 21 0⟩

/-- The scratchpad offset of a row (R234). -/
def Desc.row (d : Desc) (q : Nat) : Nat :=
  d.base + q * d.rowp + (q * (d.rot % 32)) % (if d.rot / 256 = 0 then 16 else 32) * 64

/-- Whether a descriptor's fields stand, and n bytes of each of its first rows lie in the scratchpad (R234). -/
def Desc.ok (d : Desc) (rows n : Nat) : Bool :=
  !d.ovr && decide (d.rot / 256 < 2) && (n == 0 || (List.range rows).all (fun q => decide (d.row q + n ≤ 0x400000)))

/-- Where an operand lies: a tile by its physical address, or a descriptor. -/
inductive Place2 where
  | tile (pa : Nat)
  | pad (d : Desc)
deriving DecidableEq, Repr

/-- The physical address of a stored row of an operand. -/
def Place2.row (p : Place2) (cluster q : Nat) : Nat :=
  match p with
  | .tile pa => pa + q * 64
  | .pad d => padWin cluster (d.row q)

/-- The bytes of one stored row: n elements, or a GQ row's codes, scales and zero points (R235). -/
def rowBytes (ty : ElemType) (n g : Nat) : Nat :=
  let nc := ceilDiv (n * ty.bits) 8
  if isGQ ty then
    let cb := ceilDiv nc 2 * 2
    let ng := ceilDiv n g
    cb + 2 * ng + ceilDiv (ng * ty.bits) 8
  else nc

/-- The n elements of a stored row of bytes. -/
def rowElems (ty : ElemType) (n : Nat) (bs : List Byte) : List Nat :=
  let x := ofBytes (bs.take (ceilDiv (n * ty.bits) 8))
  (List.range n).map (fun i => x / 2 ^ (i * ty.bits) % 2 ^ ty.bits)

/-- A stored row as it is used: plain elements, or GQ codes with the scale and zero point of each group (R235). -/
structure GQRow where
  els    : List Nat
  scales : List Nat
  zeros  : List Nat
deriving DecidableEq, Repr

/-- A stored row from its bytes. -/
def gqRow (ty : ElemType) (n g : Nat) (bs : List Byte) : GQRow :=
  if isGQ ty then
    let cb := ceilDiv (ceilDiv (n * ty.bits) 8) 2 * 2
    let ng := ceilDiv n g
    ⟨rowElems ty n bs, (List.range ng).map (fun i => leAt bs (cb + 2 * i) 2), rowElems ty ng (bs.drop (cb + 2 * ng))⟩
  else ⟨rowElems ty n bs, [], []⟩

/-- The transpose of rows of elements, n of them. -/
def transpose (n : Nat) (rows : List (List Nat)) : List (List Nat) := (List.range n).map (fun i => rows.map (fun r => r.getD i 0))

/-- An operand of a product: its type, its place, whether its rows run along k, and its first stored row. -/
structure Operand where
  ty    : ElemType
  loc   : Place2
  along : Bool
  first : Nat
deriving DecidableEq, Repr

/-- The largest K of an operand (R233, R234). -/
def Operand.maxK (x : Operand) : Nat :=
  match x.loc with
  | .pad _ => 4096
  | .tile _ => if x.along then 512 / x.ty.bits else 32

/-- Whether an operand is a GQ operand that R235 does not allow. -/
def Operand.gqBad (x : Operand) : Bool :=
  isGQ x.ty && (match x.loc with | .tile _ => true | .pad _ => !x.along)

/-- The stored rows and the elements of each that a product of `lines` rows or columns with K reads. -/
def Operand.rows (x : Operand) (lines k : Nat) : Nat × Nat := if x.along then (lines, k) else (k, 32)

/-- Whether a scratchpad operand's descriptor stands (R234, R235). -/
def Operand.descOk (x : Operand) (lines k g : Nat) : Bool :=
  match x.loc with
  | .tile _ => true
  | .pad d =>
    let (r, n) := x.rows lines k
    let b := rowBytes x.ty n g
    d.ok r b && (!isGQ x.ty || decide (b ≤ d.rowp))

/-- Whether an operand's bytes carry an uncorrectable error. -/
def State.operandBad (s : State) (x : Operand) (cluster lines k g : Nat) : Bool :=
  let (r, n) := x.rows lines k
  (List.range r).any (fun q => s.bad (x.loc.row cluster (x.first + q)) (rowBytes x.ty n g))

/-- The bytes of the stored rows of an operand, one after another. -/
def State.operandBytes (s : State) (x : Operand) (cluster lines k g : Nat) : List Byte :=
  let (r, n) := x.rows lines k
  (List.range r).flatMap (fun q => s.see (x.loc.row cluster (x.first + q)) (rowBytes x.ty n g))

/-- The lines of an operand from the bytes of its stored rows, each with its K elements: rows of A by m, columns of B by n. -/
def Operand.lines (x : Operand) (bs : List Byte) (lines k g : Nat) : List GQRow :=
  let (r, n) := x.rows lines k
  let b := rowBytes x.ty n g
  let rows := (List.range r).map (fun q => gqRow x.ty n g (sliceBytes bs (q * b) b))
  if x.along then rows
  else (transpose lines (rows.map (·.els))).map (fun l => ⟨l, [], []⟩)

/-- GQAcc (R236): one quantisation group after another. -/
def gqAcc (g : Nat) (acc : Nat) (q : GQRow) (other : List Ex) : Nat × Flags :=
  ((List.range q.scales.length).foldl (fun (st : Nat × Flags) i =>
    let aw := ((other.zip q.els).drop (g * i)).take g
    let (a, f) := dotGroup st.1 (q.scales.getD i 0) (q.zeros.getD i 0) aw
    (a, st.2 ||| f)) (acc, 0))

/-- One element of a product (R236). -/
def mxElem (a b : ElemType) (g : Nat) (sat zero : Bool) (k acc : Nat) (x y : GQRow) : Nat × Flags :=
  if intPair a b then
    dotInt sat (if zero then 0 else acc) ((x.els.map (intOf a)).zip (y.els.map (intOf b)))
  else if k = 0 then (if zero then 0 else acc, 0)
  else
    let init := if zero then 0x80000000 else acc
    if isGQ b then gqAcc g init y (x.els.map (exactF a))
    else if isGQ a then gqAcc g init x (y.els.map (exactF b))
    else dotAcc init ((x.els.map (exactF a)).zip (y.els.map (exactF b)))

/-- A row of a product: its elements as f32 or s32 and the flags. -/
def mxRow (o : EngOp) (zero : Bool) (k : Nat) (acc : List Nat) (x : GQRow) (cols : List GQRow) : List Nat × Flags :=
  let r := (acc.zip cols).map (fun (c, y) => mxElem o.aTy o.bTy o.gs (o.flag 5) zero k c x y)
  (r.map (·.1), r.foldl (fun f e => f ||| e.2) 0)

/-- The A and B operands of an operation; A's rows begin at `first` and B lies at its descriptor, moved by a number of bytes. -/
def EngOp.operands (o : EngOp) (first move : Nat) : Operand × Operand :=
  let da := descOf (o.pw 8) (o.pw 9)
  let db := descOf (o.pw 10) (o.pw 11)
  (⟨o.aTy, if o.flag 2 then .pad da else .tile (o.reg 6), !o.flag 0, if o.flag 0 then 0 else first⟩,
    ⟨o.bTy, if o.flag 3 ∨ o.flag 4 then .pad { db with base := db.base + move } else .tile (o.reg 7), o.flag 1, 0⟩)

/-! ### Commits (R230): sector by sector, in ascending order of addresses. -/

/-- What writes, in their order, make of a sector byte by byte; none where they write nothing. -/
def sectorImage (k : Nat) (ws : List (Nat × List Byte)) : List (Option Byte) :=
  (List.range 128).map (fun i => ws.foldl (fun b w =>
    if w.1 ≤ 128 * k + i ∧ 128 * k + i < w.1 + w.2.length then some (w.2.getD (128 * k + i - w.1) 0) else b) none)

/-- Commits the part of writes that lies in a sector. -/
def State.commitSector (s : State) (k : Nat) (ws : List (Nat × List Byte)) : State :=
  let img := sectorImage k ws
  if img.all Option.isSome then s.wr (128 * k) (img.map (·.getD 0))
  else img.zipIdx.foldl (fun s (b, i) => match b with | some b => s.wr (128 * k + i) [b] | none => s) s

/-- The sectors that writes touch, ascending. -/
def writeSectors (ws : List (Nat × List Byte)) : List Nat :=
  (ws.flatMap (fun w => sectorsOf w.1 w.2.length)).foldl (fun l k => insertNat k l) []

/-- Sets the type tag that a committed result leaves (R227). -/
def State.leaveTag (s : State) (o : EngOp) : State :=
  if o.reg 9 = 0 ∨ o.reg 22 = 0 then s else s.setTag o.core (o.reg 9 - 1) (o.reg 22 - 1)

/-- Commits the lowest sector of what an operation has computed; with the last, its tag. -/
def State.commitNext (s : State) (o : EngOp) : State × EngOp :=
  match writeSectors o.out with
  | [] => (s, o)
  | k :: _ =>
    let s := s.commitSector k o.out
    let rest := o.out.filterMap (fun w =>
      if w.1 + w.2.length ≤ 128 * k + 128 then none else some (max w.1 (128 * k + 128), w.2.drop (128 * k + 128 - w.1)))
    let o := { o with out := rest }
    (if rest = [] then s.leaveTag o else s, o)

/-- Commits all that an operation has computed. -/
def State.commitAll (s : State) (o : EngOp) : State × EngOp :=
  (((writeSectors o.out).foldl (fun s k => s.commitSector k o.out) s).leaveTag o, { o with out := [] })

/-! ### What the forms compute -/

/-- Rows first to first + n - 1 of a product, or the error that stops them (R230, R236): with K = 0, mma changes nothing and ends normally. The
B operand of a broadcast is what the bus brought (R240). -/
def State.product (s : State) (o : EngOp) (zero : Bool) (k first n move : Nat) : EngOp :=
  let (a, b) := o.operands first move
  let cl := o.core / 8
  let o := o.setReg 22 ((if intPair o.aTy o.bTy then 2 else 10) + 1)
  if k = 0 && !zero then o
  else if min a.maxK b.maxK < k then o.fail 1 k
  else if a.gqBad then o.fail 1 o.sub
  else if b.gqBad then o.fail 1 (o.pw 13).toNat
  else if !a.descOk (first + n) k o.gs then o.fail 2 0
  else if !b.descOk 32 k o.gs then o.fail 2 1
  else if s.operandBad a cl n k o.gs || (if o.reg 1 = 1 then o.reg 21 == 1 else s.operandBad b cl 32 k o.gs) then o.fail 11 0
  else if !zero && s.bad (o.reg 5 + first * 128) (n * 128) then o.fail 11 0
  else
    let m := if o.flag 0 then first + n else n
    let xs := (a.lines (s.operandBytes a cl m k o.gs) m k o.gs).drop (if o.flag 0 then first else 0)
    let ys := b.lines (if o.reg 1 = 1 then o.bus else s.operandBytes b cl 32 k o.gs) 32 k o.gs
    let rows := xs.zipIdx.map (fun (x, i) =>
      mxRow o zero k (elemsOf 4 (s.see (o.reg 5 + (first + i) * 128) 128)) x ys)
    { o with
      out := [(o.reg 5 + first * 128, elemBytes 4 (rows.flatMap (·.1)))]
      flags := rows.foldl (fun f r => f ||| r.2) o.flags }

/-- mma and mmz (R236). -/
def State.runProduct (s : State) (o : EngOp) : EngOp := s.product o (o.form == 17) o.trig.toNat 0 32 0

/-- The counts of an mgrp's groups, or its error (R237). -/
def State.mgrpCounts (s : State) (o : EngOp) : Except (Nat × Nat) (List Nat) :=
  let n := o.trig.toNat
  let gtab := wbits (o.pw 15) 26 8
  if gtab % 2 = 1 ∨ 0x80000 < gtab + 2 * n then .error (7, gtab)
  else if s.bad (coreWin o.core gtab) (2 * n) then .error (11, 0)
  else
    let cnt := elemsOf 2 (s.lsBytes o.core gtab (2 * n))
    if 32 < n ∨ wbits (o.pw 15) 5 0 < cnt.sum ∨ 32 < cnt.sum ∨ 4096 < wbits (o.pw 15) 44 32 ∨ !o.flag 3 ∨ o.flag 4 then
      .error (1, cnt.sum)
    else .ok cnt

/-- Reads the group table of an mgrp, once (R237). -/
def State.mgrpTable (s : State) (o : EngOp) : EngOp :=
  match s.mgrpCounts o with
  | .error (e, d) => o.fail e d
  | .ok cnt => { o.setReg 24 1 with record := elemBytes 2 cnt }

/-- The next group of an mgrp (R237), its table read: its rows are computed; register 27 keeps them for the anchor, 3 is the next group's
first row. -/
def State.mgrpGroup (s : State) (o : EngOp) : EngOp :=
  let g := o.reg 2
  let n := leAt o.record (2 * g) 2
  if n = 0 then o.setReg 2 (g + 1)
  else
    let d := descOf (o.pw 10) (o.pw 11)
    let first := o.reg 3
    let o := s.product o (o.flag 6) (wbits (o.pw 15) 44 32) first n (g * d.tilep)
    if o.err ≠ 0 then o
    else ((o.setReg 2 (g + 1)).setReg 3 (first + n)).setReg 27 (if o.flag 7 then first + n * 2 ^ 16 + 2 ^ 32 else 0)

/-- Whether an mgrp has failed, or has read its table and has no group left. -/
def EngOp.mgrpOver (o : EngOp) : Bool := o.err != 0 || (o.reg 24 == 1 && decide (o.trig.toNat ≤ o.reg 2))

/-- An anchor operation over rows of a tile that an mgrp asks for (R237). -/
def EngOp.mgrpAnchor (o : EngOp) (first n : Nat) : EngOp :=
  let a := { o with
    unit := 13, form := 30, run := false, done := 0, recs := [], ports := o.anports
    regs := [(15, o.core), (16, o.reg 16), (17, o.reg 17), (18, o.reg 18), (19, o.reg 19)] }
  (((((a.setReg 10 (wbits (o.pw 15) 57 48)).setReg 11 first).setReg 12 (first + n)).setReg 13 (o.reg 5)).setReg 14 (o.reg 8)).setReg
    9 (o.reg 9)

/-- The first row and the number of rows that register 27 keeps for the anchor. -/
def EngOp.anchorRows (o : EngOp) : Nat × Nat := (o.reg 27 % 2 ^ 16, o.reg 27 / 2 ^ 16 % 2 ^ 16)

/-- Runs every group of an mgrp at once, its anchor rows included, by fuel: a replay (R367). -/
def State.mgrpAll (s : State) (o : EngOp) : Nat → State × EngOp
  | 0 => (s, o)
  | fuel + 1 =>
    if o.mgrpOver then (s, o)
    else
      let (s, o) := s.commitAll (s.mgrpGroup (o.setReg 27 0))
      if o.err = 0 ∧ o.reg 27 ≠ 0 then
        let (s, a) := s.anNow (o.mgrpAnchor o.anchorRows.1 o.anchorRows.2)
        s.mgrpAll { o with err := a.err, detail := a.detail, flags := o.flags ||| a.flags } fuel
      else s.mgrpAll o fuel

/-- The anchor's part of a drain (R241): rows 0 to 31 of its tile at its entry. -/
def EngOp.drainAnchor (o : EngOp) : EngOp :=
  let a := (o.mgrpAnchor 0 32).setReg 10 o.trig.toNat
  { a with form := 24, err := o.err, detail := o.detail }

/-- The row size of the tile in `ta`, by its code. -/
def EngOp.rb (o : EngOp) : Nat := if (o.pw 6).toNat / 32 = 5 then 64 else 128

/-- tld and tst (R238): rows are copied, or transposed element by element; a count of 0 ends normally. -/
def State.transfer (s : State) (o : EngOp) : EngOp :=
  let n := o.trig.toNat
  let d := descOf (o.pw 8) (o.pw 9)
  let z := ((ElemType.ofCode o.sub).getD .s8).bits / 8
  let rb := o.rb
  let len := if o.flag 0 then 32 * z else rb
  let load := o.form == 19
  let pa := o.reg 6
  let pad (q : Nat) : Nat := padWin (o.core / 8) (d.row q)
  let moves : List (Nat × Nat × Nat) := (List.range n).flatMap (fun q =>
    if o.flag 0 then (List.range 32).map (fun i => (pa + i * rb + q * z, pad q + i * z, z)) else [(pa + q * rb, pad q, rb)])
  if 32 < n then o.fail 1 n
  else if n = 0 then o
  else if !d.ok n len then o.fail 2 2
  else if moves.any (fun (t, p, k) => s.bad (if load then p else t) k) then o.fail 11 0
  else
    let o := if load then o.setReg 22 ((if o.sub = 2 ∨ o.sub = 6 then 2 else 10) + 1) else o
    { o with out := moves.map (fun (t, p, k) => if load then (t, s.see p k) else (p, s.see t k)) }

/-- zero (R239). -/
def EngOp.zeroTile (o : EngOp) : EngOp := { o.setReg 22 11 with out := [(o.reg 5, List.replicate (tileSize (o.reg 8)) 0)] }

/-- The rounding of an engine's conversions: its rmode with SR performed as RNE (R239, R254). -/
def EngOp.env (o : EngOp) : Env := ⟨if o.rmode = 4 then .rne else RMode.ofCode o.rmode, nbit o.fmt 2, 0⟩

/-- cvt (R239): the accumulator's type is its tag's. -/
def State.cvtTile (s : State) (o : EngOp) : EngOp :=
  if s.bad (o.reg 5) 4096 then o.fail 11 0
  else
    let src := if s.tag o.core (o.reg 9 - 1) = 2 then ElemType.s32 else .f32
    let dst := (ElemType.ofCode o.sub).getD .f16
    let z := dst.bytes
    let r := (elemsOf 4 (s.see (o.reg 5) 4096)).map (fun x => convert src dst (o.flag 5) o.env x)
    { o with
      out := (List.range 32).map (fun m => (o.reg 6 + 64 * m, elemBytes z (((r.drop (32 * m)).take 32).map (·.bits))))
      flags := r.foldl (fun f x => f ||| x.flags) o.flags }

/-- A core's membership of a broadcast group: the group, the mask and the joining task (R240). A cluster's joins hold under i the broadcasts
of core i since it joined, and under 8 + g the mask of the cores whose tasks ended as members of group g. -/
def groupWord (g mask task : Nat) : Nat := g + 8 * mask + 2 ^ 11 * task

/-- bjoin (R240). -/
def State.joinGroup (s : State) (o : EngOp) : State × EngOp :=
  let g := wbits o.trig 2 0
  let mask := wbits o.trig 15 8
  let c := s.coreAt o.core
  let k := s.cluster (o.core / 8)
  let i := o.core % 8
  if wbit o.trig 16 then (s.setCore o.core { c with bgroup := none }, o)
  else if !nbit mask i then (s, o.fail 1 mask)
  else
    let s := s.setCore o.core { c with bgroup := some (groupWord g mask o.task) }
    (s.setCluster (o.core / 8) { k with
      joins := Tab.set (Tab.set k.joins i 0) (8 + g) (without (Tab.get k.joins (8 + g) 0) (2 ^ i)) }, o)

/-- What an operation of the matrix unit computes, when it has not failed already; an mgrp computes group by group. -/
def State.stageMx (s : State) (o : EngOp) : State × EngOp :=
  if o.err ≠ 0 then (s, o)
  else match o.form with
    | 16 => (s, s.runProduct o)
    | 17 => (s, s.runProduct o)
    | 19 => (s, s.transfer o)
    | 20 => (s, s.transfer o)
    | 21 => (s, o.zeroTile)
    | 22 => (s, s.cvtTile o)
    | 23 => s.joinGroup o
    | _ => (s, o)

/-- Runs an operation of the matrix unit whole (R367). -/
def State.runMx (s : State) (o : EngOp) : State × EngOp :=
  if o.form = 18 then s.mgrpAll (if o.err = 0 then s.mgrpTable o else o) 64
  else
    let (s, o) := s.stageMx o
    s.commitAll o

/-- Fills the residual records of an operation's tile operands (R362): each is a payload offset × 4, plus 0 for ta, 1 for tb, 2 for
an mgrp's counts. The Boolean says that every record is filled; those left are tried again. -/
def State.fillRecords (s : State) (o : EngOp) : State × Bool :=
  o.recs.foldl (fun (acc : State × Bool) r =>
    let s := acc.1
    let n := min o.trig.toNat 32
    let (s, ok) := s.residFill (r / 4) (match r % 4 with
      | 0 => s.see (o.reg 6) 2048
      | 1 => s.see (o.reg 7) 2048
      | _ => toBytes 2 n ++ s.lsBytes o.core (wbits (o.pw 15) 26 8) (2 * n))
    (s, acc.2 && ok)) (s, true)

/-! ### Triggers -/

/-- Names the tile of a port in a register of the operation; the illegal-slot trap when it may not be named (R226). -/
def mxTile (s : State) (o : EngOp) (need : Bool) (port reg : Nat) (classes : List Nat) (ok : EngOp → Eff) : Eff :=
  if !need then ok o
  else match s.t.tileAt 12 port classes with
    | some pa => ok (o.setReg reg pa)
    | none => .illSlot s

/-- Notes the class of acc, and the index of its tag when it is an a tile; for a transfer, those of ta. -/
def mxTag (s : State) (o : EngOp) (port : Nat) : EngOp :=
  let code := (o.pw port).toNat
  let o := o.setReg 8 (code / 32)
  if code / 32 = 6 then o.setReg 9 (s.t.tmap.get code 0 + 1) else o

/-- The code records of an mx trigger (R487): its ports, then its trigger value. -/
def mxCodes (s : State) (m : Mv) (x : Word) (ports : List Nat) : List (Nat × List Byte) :=
  s.t.codeRecs 12 ports ++ (if s.t.constSrc m.src then [] else [(1, toBytes 8 x.toNat)])

/-- Starts an mx operation: it joins the order, or in a replay runs at once without its token (R228, R367). -/
def mxStart (s : State) (o : EngOp) : Eff :=
  if s.t.replaying then
    let o := o.setReg 19 1
    let early := o.form = 16 ∨ o.form = 17 ∨ o.form = 18
    let s := if early then (s.fillRecords o).1 else s
    let (s, o) := s.runMx o
    let s := if early then s else (s.fillRecords o).1
    .done (s.setT (s.t.orFlags o.flags))
  else
    let s := s.start o
    .done (if o.form = 18 ∧ o.flag 7 then s.setOps o.core 13 (s.ops o.core 13 ++ [o.mgrpAnchor 0 0]) else s)

/-- A trigger of the matrix unit: its token is checked but in a replay (R132, R367). -/
def mxForm (form sub : Nat) (m : Mv) (f : Word → EngOp → State → Eff) (s : State) : Out :=
  trigW 12 m (fun x s =>
    if s.t.replaying then f x (s.newOp 12 form sub x 8) s
    else withToken s 12 14 (fun tok s => f x (s.newOp 12 form sub x tok) s)) s
    (fun s => if s.t.replaying then s.unitUsed 12 else s.tokenBusy 12 14)

/-- The two type checks of a product (R232). -/
def mxTypes (s : State) (o : EngOp) (ok : Eff) : Eff :=
  if !([0, 4, 8, 9, 12, 13, 14, 15].contains (s.t.pw 12 13).toNat) then .illPort s
  else if !pairOk o.aTy o.bTy then .illType s
  else ok

/-- The mx ports that a product reads, in port order (R487). -/
def mxPorts (o : EngOp) (bound : Bool) : List Nat :=
  let a := o.flag 2
  let b := o.flag 3 || o.flag 4 || bound
  [5] ++ (if a then [] else [6]) ++ (if b then [] else [7]) ++ (if a then [8, 9] else []) ++ (if b then [10, 11] else []) ++ [12, 13] ++
    (if bound then [15] else [])

/-- The residual of an operand: its tile, to be filled, or its descriptor (R362); the tag names the tile. -/
def mxOperandItem (pad : Bool) (w0 w1 : Word) : Nat × List Byte :=
  if pad then (6, toBytes 8 w0.toNat ++ toBytes 8 w1.toNat) else (5, List.replicate 2048 0)

/-- A product's trigger with what it records (R258, R357, R362). The DETAIL of an operand that record mode forbids is K, or the code of a
d-class accumulator (notes/assumptions/32.md). -/
def mxProduct (m : Mv) (x : Word) (o : EngOp) (k : Nat) (grp : Bool) (s : State) : Eff :=
  let padA := o.flag 2
  let padB := o.flag 3 || o.flag 4 || grp
  let wide := ((o.aTy.bits == 8 && !padA && !o.flag 0) || (o.bTy.bits == 8 && !padB && o.flag 1)) && decide (32 < k)
  let open_ := s.t.ctl.dbmode == 1 && (match s.t.block with | some b => s.t.inBody b | none => false)
  if open_ ∧ wide then mxStart s (o.fail 1 k)
  else if open_ ∧ o.reg 8 = 7 ∧ (!padA ∨ !padB) then mxStart s (o.fail 1 (o.pw 5).toNat)
  else
    let codes := mxCodes s m x (mxPorts o grp)
    let items := codes ++ [mxOperandItem padA (o.pw 8) (o.pw 9), mxOperandItem padB (o.pw 10) (o.pw 11)] ++
      (if grp then [(7, List.replicate (2 + 2 * min x.toNat 32) 0)] else [])
    s.recorded items (fun offs s =>
      let n := codes.length
      let recs := match offs with
        | [] => []
        | _ => (if padA then [] else [4 * offs.getD n 0]) ++ (if padB then [] else [4 * offs.getD (n + 1) 0 + 1]) ++
            (if grp then [4 * offs.getD (n + 2) 0 + 2] else [])
      mxStart s { o with recs := recs })

/-- mma and mmz (R226, R236). -/
def mxMm (form : Nat) (ty : ElemType) (m : Mv) (s : State) : Out :=
  mxForm form ty.code m (fun x o s => mxTypes s o (
    let accs := if form = 16 ∧ !intPair o.aTy o.bTy then [6, 7] else [6]
    mxTile s o true 5 5 accs (fun o =>
      mxTile s o (!o.flag 2) 6 6 [5] (fun o =>
        mxTile s o (!o.flag 3 && !o.flag 4) 7 7 [5] (fun o => mxProduct m x (mxTag s o 5) x.toNat false s))))) s

/-- mx.mma (R236). -/
def execMxMma (ty : ElemType) (m : Mv) (s : State) : Out := mxMm 16 ty m s
/-- mx.mmz (R236). -/
def execMxMmz (ty : ElemType) (m : Mv) (s : State) : Out := mxMm 17 ty m s

/-- mx.mgrp (R237). -/
def execMxMgrp (ty : ElemType) (m : Mv) (s : State) : Out :=
  mxForm 18 ty.code m (fun x o s => mxTypes s o (
    mxTile s o true 5 5 [6] (fun o =>
      mxTile s o (!o.flag 2) 6 6 [5] (fun o =>
        let named := nameDest s { o with ports := o.anports }
        let o := ((o.setReg 16 (named.reg 16)).setReg 17 (named.reg 17)).setReg 18 (named.reg 18)
        mxProduct m x (mxTag s o 5) (wbits (o.pw 15) 44 32) true s)))) s

/-- tld and tst (R238); a tld into t0-t7 is an import of a recompute block (R367). -/
def mxTransfer (form : Nat) (ty : ElemType) (m : Mv) (s : State) : Out :=
  mxForm form ty.code m (fun _ o s =>
    mxTile s o true 6 6 [5, 6, 7] (fun o =>
      if o.flag 0 ∧ (ty = .gq4 ∨ o.rb < 32 * (ty.bits / 8)) then .illType s
      else
        let o := mxTag s o 6
        let imp := form = 19 ∧ (o.pw 6).toNat / 32 = 5 ∧ (o.pw 6).toNat % 32 < 8
        if imp then s.recordImport [List.replicate 2048 0] (fun offs s =>
          mxStart s { o with recs := offs.map (fun x => 4 * x) })
        else mxStart s o)) s

/-- mx.tld (R238). -/
def execMxTld (ty : ElemType) (m : Mv) (s : State) : Out := mxTransfer 19 ty m s
/-- mx.tst (R238). -/
def execMxTst (ty : ElemType) (m : Mv) (s : State) : Out := mxTransfer 20 ty m s

/-- mx.zero (R239). -/
def execMxZero (m : Mv) (s : State) : Out :=
  mxForm 21 0 m (fun _ o s => mxTile s o true 5 5 [5, 6] (fun o => mxStart s (mxTag s o 5))) s

/-- mx.cvt (R239). -/
def execMxCvt (ty : ElemType) (m : Mv) (s : State) : Out :=
  mxForm 22 ty.code m (fun _ o s =>
    mxTile s o true 5 5 [6] (fun o => mxTile s o true 6 6 [5] (fun o =>
      s.recorded (s.t.codeRecs 12 [5, 6, 12]) (fun _ s => mxStart s (mxTag s o 5))))) s

/-- mx.bjoin (R240). -/
def execMxBjoin (m : Mv) (s : State) : Out := mxForm 23 0 m (fun _ o s => mxStart s o) s

/-- What a drain's trigger reads (R487): its mx port and trigger value, then the an ports and the parameter words. -/
def drainCodes (s : State) (m : Mv) (x : Word) : List Word :=
  let t := s.t
  let par := (List.range 16).filter (fun n => t.dynamic (1024 + n))
  ((mxCodes s m x [5] ++ t.codeRecs 13 [6, 7, 8]).map (fun r => wd (ofBytes r.2))) ++ par.map (fun n => t.aparam.get n 0)

/-- mx.drain (R241): it takes its place in the orders of the matrix unit and of the anchor; an open block keeps its records back
until it ends (R362, R365). A replay runs it at once. -/
def execMxDrain (m : Mv) (s : State) : Out :=
  mxForm 24 0 m (fun x o s => mxTile s o true 5 5 [6, 7] (fun o =>
    let o := mxTag s o 5
    let named := nameDest s { o with ports := o.anports }
    let o := ((o.setReg 16 (named.reg 16)).setReg 17 (named.reg 17)).setReg 18 (named.reg 18)
    let o := if 1023 < x.toNat then o.fail 6 (anDetail x.toNat) else o
    let go (s : State) : Eff :=
      let rec_ := s.t.recording
      let o := { o with drains := rec_ }
      let drain (d : Option (List (Nat × List Byte))) : Drain := ⟨s.t.bodyPos.1, s.t.bodyPos.2, drainCodes s m x, d⟩
      if s.t.replaying then
        let (s, a) := s.anNow (o.setReg 19 1).drainAnchor
        let s := if rec_ then s.setT { s.t with drain := some (drain (some a.marks)) } else s
        .done (s.setT (s.t.orFlags a.flags))
      else
        let s := s.start o
        let s := if rec_ then s.setT { s.t with drain := some (drain none) } else s
        .done (s.setOps o.core 13 (s.ops o.core 13 ++ [o.drainAnchor]))
    if s.t.recording then s.settleDrain go else go s)) s

/-! ### Order, broadcasts and completion (R228, R230, R240, R241) -/

/-- Whether two members of a broadcast agree (R240). -/
def EngOp.agrees (a b : EngOp) : Bool :=
  a.pw 13 == b.pw 13 && a.flag 1 == b.flag 1 && a.pw 10 == b.pw 10 && a.pw 11 == b.pw 11 && a.trig == b.trig

/-- The members of a broadcast group of a cluster: core within the cluster, its word, and the broadcast at the head of its
order, if one is. -/
def State.members (s : State) (cl g : Nat) : List (Nat × Nat × Option EngOp) :=
  (List.range 8).filterMap (fun i =>
    match (s.coreAt (cl * 8 + i)).bgroup with
    | some w =>
      if w % 8 = g then
        some (i, w, (s.coreAt (cl * 8 + i)).mxq.head?.bind (fun o => if o.isBroadcast ∧ !o.run then some o else none))
      else none
    | none => none)

/-- The B operand that a broadcast brings over the bus, read once as it starts (R240): its bytes, and whether they carry an error. -/
def State.busRead (s : State) (o : EngOp) : List Byte × Bool :=
  let b := (o.operands 0 0).2
  let k := o.trig.toNat
  let cl := o.core / 8
  if b.maxK < k ∨ b.gqBad ∨ !b.descOk 32 k o.gs then ([], false)
  else (s.operandBytes b cl 32 k o.gs, s.operandBad b cl 32 k o.gs)

/-- The members of a broadcast that have gone (R240): a core in a mask that is no member now and whose task ended as one, or one whose task
ended while the operation of a member waited. -/
def State.goneMember (s : State) (cluster group : Nat) (ms : List (Nat × Nat × Option EngOp)) : Option Nat :=
  match ms.findSome? (fun x => x.2.2.bind (fun o => if o.reg 23 = 0 then none else some (o.reg 23 - 1))) with
  | some i => some i
  | none => (List.range 8).find? (fun i => ms.any (fun x => nbit (x.2.1 / 8) i) && !(ms.any (fun x => x.1 == i)) &&
      nbit (Tab.get (s.cluster cluster).joins (8 + group) 0) i)

/-- Starts a broadcast at the head of a member's order with what the bus brought, or with its error (R240). -/
def State.beginMember (s : State) (cluster group err detail : Nat) (bus : List Byte × Bool) (x : Nat × Nat × Option EngOp) : State :=
  match x.2.2 with
  | none => s
  | some o =>
    let o := if err = 0 then { ((o.setReg 1 1).setReg 21 (if bus.2 then 1 else 0)).setReg 26 (group + 1) with bus := bus.1 } else o.fail err detail
    let s := s.putOp (cluster * 8 + x.1) { o with run := true }
    let k := s.cluster cluster
    s.setCluster cluster { k with joins := Tab.set k.joins x.1 (Tab.get k.joins x.1 0 + 1) }

/-- BROADCAST_START (R240): a broadcast at the head of every member's order starts, with BMIS where the members disagree; one that
waits for a member whose task has ended has BGONE in the others. A frozen member stalls it (R129). Where the masks of the members differ the
spec does not say which cores are waited for: the model waits for the cores of any member's mask (notes/assumptions/24.md). -/
def execBroadcastStart (cluster group : Nat) (s : State) : Out :=
  let ms := s.members cluster group
  let k := s.cluster cluster
  let begin_ (err detail : Nat) (bus : List Byte × Bool) : State := ms.foldl (fun s x => s.beginMember cluster group err detail bus x) s
  if ms.any (fun x => (s.coreAt (cluster * 8 + x.1)).freeze.isSome) then .next s
  else match s.goneMember cluster group ms with
  | some i => .next (begin_ 5 i ([], false))
  | none =>
    let need := (List.range 8).filter (fun i => ms.any (fun x => nbit (x.2.1 / 8) i))
    if ms.isEmpty ∨ !need.all (fun i => ms.any (fun x => x.1 == i && x.2.2.isSome)) then .next s
    else
      let count (x : Nat × Nat × Option EngOp) : Nat := Tab.get k.joins x.1 0
      let first := ms.headD (0, 0, none)
      if ms.any (fun x => count x != count first) then .next s
      else
        let same := ms.all (fun x => x.2.1 / 8 % 256 == first.2.1 / 8 % 256 &&
          (match x.2.2, first.2.2 with | some a, some b => a.agrees b | _, _ => true))
        .next (if same then begin_ 0 0 (match first.2.2 with | some o => s.busRead o | none => ([], false)) else begin_ 4 group ([], false))

/-- Whether a mx operation at the head of its order can start by itself: a broadcast waits for its members, unless its core is
in no group; a drain starts in the anchor's order (R241). -/
def State.mxReady (s : State) (core : Nat) (o : EngOp) : Bool :=
  !o.run && o.form != 24 && (!o.isBroadcast || (s.coreAt core).bgroup.isNone)

/-- Starts the matrix unit's next operation (R228); a broadcast of a core in no group fails with SHAPE (R240), whose DETAIL, an offending value
that the spec does not name there, is K (notes/assumptions/24.md). -/
def State.startMx (s : State) (core : Nat) : State :=
  match (s.coreAt core).mxq with
  | o :: _ =>
    if s.mxReady core o then s.putOp core { (if o.isBroadcast then o.fail 1 (wbits o.trig 31 0) else o) with run := true } else s
  | [] => s

/-- Whether the matrix unit of a core stands still: its core is frozen (R129), or that of another member of the broadcast it runs, which
goes in lockstep (R240). -/
def State.mxHeld (s : State) (core : Nat) : Bool :=
  (s.coreAt core).freeze.isSome || (match (s.coreAt core).mxq with
    | o :: _ => o.reg 26 != 0 && (List.range 8).any (fun i =>
        let c := s.coreAt (core / 8 * 8 + i)
        c.freeze.isSome && (match c.mxq with | p :: _ => p.run && p.reg 26 == o.reg 26 | [] => false))
    | [] => false)

/-- The place of an mgrp's rows in the anchor's order, with the rows that it hands over; register 25 lets them start. -/
def EngOp.handRows (g a : EngOp) : EngOp :=
  if a.form = 30 ∧ a.task = g.task ∧ a.tok = g.tok then
    (g.mgrpAnchor g.anchorRows.1 g.anchorRows.2).setReg 25 1
  else a

/-- The end of the matrix unit's head operation (R228, R230): it has committed; its records are filled, and it leaves its token. -/
def State.mxEnd (s : State) (core : Nat) (o : EngOp) : State :=
  let (s, ok) := if [16, 17, 18].contains o.form then (s, true) else s.fillRecords o
  if !ok then s
  else
    let s := s.setOps core 13 ((s.ops core 13).filter (fun a => !(a.form == 30 && a.task == o.task && a.tok == o.tok)))
    (s.endToken o (statusOf o)).dropOp core o

/-- Whether the head operation of the matrix unit has nothing left to compute or commit. -/
def EngOp.mxOver (o : EngOp) : Bool :=
  o.run && o.form != 24 && o.out.isEmpty && (if o.form = 18 then o.reg 4 == 0 && o.reg 27 == 0 && o.mgrpOver else o.reg 20 == 1)

/-- The next act of the matrix unit on its head operation (R228, R230, R237): it commits a sector, hands rows to the anchor, or computes, its
operands' records filled as it reads them (R362). -/
def State.mxAdvance (s : State) (core : Nat) : State :=
  match (s.coreAt core).mxq with
  | [] => s
  | o :: _ =>
    let s := { s with cur := o.task }
    if !o.run ∨ o.form = 24 ∨ o.reg 4 = 1 ∨ o.mxOver then s
    else if !o.out.isEmpty then
      let (s, o) := s.commitNext o
      s.putOp core o
    else if o.form = 18 ∧ o.err = 0 ∧ o.reg 27 ≠ 0 then
      let s := s.setOps core 13 ((s.ops core 13).map o.handRows)
      s.putOp core ((o.setReg 4 1).setReg 27 0)
    else
      let early := o.form = 16 ∨ o.form = 17 ∨ (o.form = 18 ∧ o.reg 24 = 0)
      let (s, ok) := if early then s.fillRecords o else (s, true)
      if !ok then s
      else if o.form = 18 then
        s.putOp core (if o.reg 24 = 0 ∧ o.err = 0 then s.mgrpTable o else { s.mgrpGroup o with recs := [] })
      else
        let (s, o) := s.stageMx o
        s.putOp core ({ o with recs := if early then [] else o.recs }.setReg 20 1)

/-- Starts the anchor's next operation when its turn has come (R241, R243): a drain only once it heads the matrix unit's order, the rows
of an mgrp once they have been handed over, at the place in the order that its trigger took (R228, notes/assumptions/24.md). -/
def State.startAnchor (s : State) (core : Nat) : State :=
  match s.anHead core with
  | some o =>
    if o.run then s
    else if o.form = 24 then
      match (s.coreAt core).mxq with
      | d :: _ => if d.form = 24 ∧ d.task = o.task ∧ d.tok = o.tok then s.startAn o else s
      | [] => s
    else if o.form = 30 ∧ o.reg 25 = 0 then s
    else s.startAn o
  | none => s

/-- The end of the anchor's head operation (R241, R243, R237): a run or load leaves its token, a drain the token of its mx
operation with its records, and an mgrp's rows go back to the matrix unit. -/
def State.anEndOp (s : State) (core : Nat) (o : EngOp) : State :=
  let s := (if o.form = 30 then s.putOp core { o.setReg 25 0 with run := false, done := 0 } else s.dropOp core o).setRow core none
  if o.form = 24 then
    let d := { o with unit := 12, ports := o.anports }
    let s := if o.drains then
        let t := s.task o.task
        match t.drain with
        | some x => s.setTask o.task { t with drain := some { x with done := some o.marks } }
        | none => s
      else s
    (s.endToken d (statusOf d)).dropOp core d
  else if o.form = 30 then
    match (s.coreAt core).mxq with
    | g :: _ => s.putOp core { g.setReg 4 0 with err := o.err, detail := o.detail, flags := g.flags ||| o.flags }
    | [] => s
  else s.endToken o (statusOf o)

end Sys2Proof.Machine
end

