-- ==== Sys2Proof/Machine/Block.lean ====
section
/-! DEFINITION. Differentiable blocks in forward execution (spec/12_reverse_mode.md R345-R350, R360, R361, R367; 09 R300-R302): the
forms of db, the block descriptor and the frame. -/

namespace Sys2Proof.Machine

open Host Arith

/-- A block descriptor's fields (R346). -/
structure BlockDesc where
  entry  : Word
  nb     : Nat
  bid    : Nat
  gmask  : Nat
  rh     : Word
  vin    : Nat
  tin    : Nat
  ain    : Nat
  recomp : Bool
deriving DecidableEq, Repr

/-- The fields of a descriptor's 64 bytes. -/
def blockDesc (b : List Byte) : BlockDesc :=
  ⟨wd (leAt b 0 8), leAt b 8 4, leAt b 12 4, leAt b 16 8, wd (leAt b 24 8), leAt b 32 2, leAt b 34 1, leAt b 35 1, nbit (leAt b 36 1) 0⟩

/-- Whether a descriptor's fields stand (R346, R347). -/
def blockDescOk (b : List Byte) : Bool :=
  leAt b 37 1 == 1 && decide (1 ≤ leAt b 8 4 ∧ leAt b 8 4 ≤ 16384) && !nbit (leAt b 16 8) 0 && decide (leAt b 36 1 < 2) &&
    (b.drop 38).all (· == 0)

/-- Reads a block descriptor (R347): a misaligned or malformed one is cause DESC. -/
def State.readDesc (s : State) (x : Word) (ok : List Byte → State → Eff) : Eff :=
  if x.toNat % 64 ≠ 0 then revTrap s 1
  else match s.reach s.t.core (s.asidOf s.t) (s.accOf s.t) .read x 64 with
    | (s, .bad code va) => .trap s 4 code va
    | (s, .ok ps) =>
      if s.badAll ps then .trap s 4 5 x
      else
        let b := s.loadAll ps
        if blockDescOk b then ok b s else revTrap s 1

/-- The set bits of a mask below n, ascending. -/
def maskBits (n x : Nat) : List Nat := (List.range n).filter (nbit x)

/-- The code ports that a frame holds, by unit and port, in the order of its bytes from 48 (R361). -/
def framePorts : List (Nat × Nat) :=
  [(8, 5), (8, 6), (8, 7), (8, 8), (8, 9), (9, 5), (9, 6), (9, 7), (9, 8), (9, 9), (10, 5), (10, 7), (10, 8), (10, 9),
    (12, 12), (12, 13), (12, 8), (12, 9), (12, 10), (12, 11), (12, 15), (12, 5), (12, 6), (12, 7), (13, 6), (13, 7), (13, 8)]

/-- The frame's payload (R361). -/
def framePayload (t : Task) (desc : Word) (gmask : Nat) : List Byte :=
  wordsBytes ([desc, wd t.top, t.ctl.fmt, t.ctl.rmode, t.ctl.key, wd gmask] ++ framePorts.map (fun (u, p) => t.pw u p) ++
    (List.range 16).map (fun n => t.aparam.get n 0) ++ (maskBits 64 gmask).map t.gr)

/-- A word of a frame's payload. -/
def frameWord (f : List Byte) (i : Nat) : Word := wd (leAt f (8 * i) 8)

/-- A code port's value in a frame, if the frame holds it. -/
def framePort (f : List Byte) (unit port : Nat) : Option Word :=
  let i := framePorts.idxOf (unit, port)
  if i < framePorts.length then some (frameWord f (6 + i)) else none

/-- A parameter word in a frame. -/
def frameParam (f : List Byte) (n : Nat) : Word := frameWord f (33 + n)

/-- A block-constant register in a frame, if its GMASK bit is set (R349). -/
def frameG (f : List Byte) (n : Nat) : Option Word :=
  let gm := (frameWord f 5).toNat
  if n < 64 ∧ nbit gm n then some (frameWord f (49 + (maskBits n gm).length)) else none

/-- A tile of the task by its name's code: its bytes. -/
def State.tileBytes (s : State) (code : Nat) : List Byte :=
  match s.t.tilePa code with
  | some pa => s.see pa (tileSize (code / 32))
  | none => List.replicate (tileSize (code / 32)) 0

/-- The input values of a recompute block at its begin slot (R367): v, then t, then a. -/
def State.blockInputs (s : State) (d : BlockDesc) : List (List Byte) :=
  (maskBits 16 d.vin).map (fun n => lanes4 (s.t.vr n)) ++ (maskBits 8 d.tin).map (fun n => s.tileBytes (160 + n)) ++
    (maskBits 8 d.ain).map (fun n => s.tileBytes (192 + n))

/-- db.begin (R300, R301, R347): checks, then in record mode the frame and, of a recompute block, its inputs. -/
def execDbBegin (m : Mv) (s : State) : Out :=
  trigW 18 m (fun x s =>
    if s.t.block.isSome then revTrap s 2
    else s.readDesc x (fun b s =>
      let d := blockDesc b
      if d.entry ≠ s.t.pc + 32 then revTrap s 1
      else
        let open_ (s : State) : Eff :=
          .done (s.setT { s.t with block := some ⟨x, d.entry, d.nb, d.bid, d.gmask, d.recomp, []⟩ })
        if s.t.ctl.dbmode ≠ 1 then open_ s
        else
          let ins := if d.recomp then (s.blockInputs d).map (recordBytes 4 11 0 0 d.bid) else []
          s.pushBytes (recordBytes 2 0 0 0 d.bid (framePayload s.t x d.gmask) :: ins) (fun _ s => open_ s))) s

/-- db.end (R300, R301, R347): the records of a drain are placed first (R365). -/
def execDbEnd (m : Mv) (s : State) : Out :=
  trigW 18 m (fun x s =>
    match s.t.block with
    | none => revTrap s 2
    | some b =>
      if b.desc ≠ x ∨ s.t.pc ≠ b.entry + wd (32 * b.nb) then revTrap s 2
      else s.settleDrain (fun s => .done (s.setT { s.t with block := none }))) s

/-- db.rev (R300, R301, R368): it waits until every token of the strand has completed; the walk runs after its bundle. -/
def execDbRev (m : Mv) (s : State) : Out :=
  trigW 18 m (fun x s =>
    if s.t.block.isSome then revTrap s 2
    else if s.t.waitMask 255 ≠ 0 then .block s (.tokens 255)
    else .done ((s.setT (s.t.observe 255)).setCur (fun c => { c with rev := some x }))) s

/-- Clears the d tiles of a mask's low half and v16-v31 by its high half (R300). -/
def State.zeroPartners (s : State) (x : Word) : State :=
  let s := (maskBits 16 (wbits x 15 0)).foldl (fun s n =>
    match s.t.tilePa (224 + n) with
    | some pa => s.wr pa (List.replicate 4096 0)
    | none => s) s
  s.setT { s.t with v := (maskBits 16 (wbits x 31 16)).foldl (fun v n => v.set (16 + n) zeroLanes) s.t.v }

/-- db.zero (R300, R301): a d tile outside the budget is cause NEST. -/
def execDbZero (m : Mv) (s : State) : Out :=
  trigW 18 m (fun x s =>
    if (maskBits 16 (wbits x 15 0)).any (fun n => !s.t.hasTile (224 + n)) then revTrap s 2
    else .done (s.zeroPartners x)) s

/-- db.push (R300, R360): a scalar record or a marker; the records of a drain are placed first (R365). -/
def execDbPush (m : Mv) (s : State) : Out :=
  trigW 18 m (fun x s =>
    let blk := s.t.pw 18 5
    let bid := match s.t.block with | some b => b.bid | none => 0
    if 1 < x.toNat then .illPort s
    else s.settleDrain (fun s =>
      s.pushBytes [if x = 0 then recordBytes 0 0 0 0 bid (toBytes 8 blk.toNat) else recordBytes 1 0 0 0 (wbits blk 31 0) []]
        (fun _ s => .done s))) s

/-- Goes on with bytes of the stack, or raises the fault of a fill, or cause POISON (R364, R372). -/
def withSeen (s : State) (off n : Nat) (ok : List Byte → Eff) : Eff :=
  match s.residSee off n with
  | .error (code, va) => .trap s 4 code va
  | .ok (bs, bad) => if bad then revTrap s 8 else ok bs

/-- db.pop (R300, R301, R360): the top record, which must be of the kind. -/
def execDbPop (m : Mv) (s : State) : Out :=
  trigW 18 m (fun x s =>
    let top := s.t.top
    if 1 < x.toNat then .illPort s
    else if top < 16 then revTrap s 2
    else withSeen s (top - 16) 16 (fun tr =>
      let r := trailerOf tr
      if r.kind ≠ x.toNat ∨ top < r.size then revTrap s 2
      else withSeen s (top - r.size) r.plen (fun p =>
        s.popTo (top - r.size) (fun s =>
          .done (s.setT (s.t.result 18 false 1 (.w (if x = 0 then wd (leAt p 0 8) else wd r.bid)) 0)))))) s

/-- db.sp (R300): `rsp` changes at the end of the bundle (R302). -/
def execDbSp (m : Mv) (s : State) : Out :=
  trigW 18 m (fun x s =>
    if x.toNat % 16 ≠ 0 then .trap s 4 4 x
    else .done ((s.setT (s.t.result 18 false 1 (.w s.t.ctl.rsp) 0)).atEnd 11 x)) s

/-- db.mode (R300, R301): `dbmode` changes at the end of the bundle (R302). -/
def execDbMode (m : Mv) (s : State) : Out :=
  trigW 18 m (fun x s =>
    if s.t.block.isSome then revTrap s 2
    else if 1 < x.toNat then .illPort s
    else .done (s.atEnd 14 x)) s

end Sys2Proof.Machine
end

