-- ==== Sys2Proof/Machine/Reverse.lean ====
section
/-! DEFINITION. The reverse walk (spec/12_reverse_mode.md R350-R359, R367-R371; 07 R222-R224; 08 R258-R260): reading the body, the
records of a slot, gradients, the adjoints, and the replay of a recompute block. -/

namespace Sys2Proof.Machine

open Host Arith

/-! ### The body's text -/

/-- What a slot of a body does: a trigger of a unit, port and sub-field, or a plain move. -/
inductive Act where
  | trig (unit port sub : Nat) (m : Mv)
  | mv (m : Mv) (d : Dst)
deriving DecidableEq, Repr

/-- The act of a decoded slot. -/
def actOf (i : Instr) : Option Act :=
  match slotForm i with
  | some (u, p, sub, m) => some (.trig u p sub m)
  | none => match i with
    | .move m d => some (.mv m d)
    | _ => none

/-- The source of an act, with its guard. -/
def Act.mv? : Act → Mv
  | .trig _ _ _ m => m
  | .mv m _ => m

/-- A bundle of a body: whether all of it decodes, and its acts by slot. -/
structure BodyBundle where
  ok   : Bool
  acts : List (Option Act)
deriving DecidableEq, Repr

/-- A bundle of a body from its word. -/
def bodyBundle (w : BitVec 256) : BodyBundle :=
  match decodeBundle w with
  | none => ⟨false, []⟩
  | some b =>
    let ds := (List.range 5).map (fun j => if b.isLit j then none else some (b.decode j))
    ⟨ds.all (fun d => match d with | some (.error _) => false | _ => true),
      ds.map (fun d => match d with | some (.ok i) => actOf i | _ => none)⟩

/-- A body's bundles from their bytes, n of them. -/
def bodyOf (n : Nat) (bs : List Byte) : List BodyBundle :=
  (List.range n).map (fun j => bodyBundle (BitVec.ofNat 256 (leAt bs (32 * j) 32)))

/-- Why a walk cannot go on: a cause of R372, or a fault of an access. -/
inductive WalkErr where
  | rev (cause : Nat)
  | mem (code : Nat) (va : Word)
deriving DecidableEq, Repr

/-- The trap of a walk's error at its position. -/
def WalkErr.trap (e : WalkErr) (s : State) : Eff :=
  match e with
  | .rev c => revTrap s c
  | .mem code va => .trap s 4 code va

/-- Goes on with a result, or traps. -/
def withOk {α : Type} (s : State) (r : Except WalkErr α) (ok : α → Eff) : Eff :=
  match r with
  | .error e => e.trap s
  | .ok x => ok x

/-- The first n bundles of a body. -/
def State.bodyText (s : State) (d : BlockDesc) (n : Nat) : Except WalkErr (List BodyBundle) :=
  match s.reach s.t.core (s.asidOf s.t) (s.accOf s.t) .fetch d.entry (32 * n) with
  | (_, .bad code va) => .error (.mem code va)
  | (s, .ok ps) => .ok (bodyOf n (s.loadAll ps))

/-- What an adjoint reads besides gradients: the body up to its own bundle, the frame's payload, and the position. -/
structure Ctx where
  body  : List BodyBundle
  frame : List Byte
  j     : Nat
  slot  : Nat
deriving DecidableEq, Repr

/-- The acts before a position, last first. -/
def Ctx.before (c : Ctx) : List (Nat × Nat × Act) :=
  (((c.body.take (c.j + 1)).zipIdx.flatMap (fun (b, i) =>
    (b.acts.zipIdx.filterMap (fun (a, sl) => a.map (fun a => (i, sl, a)))))).filter (fun (i, sl, _) =>
      decide (i < c.j ∨ sl < c.slot))).reverse

/-- The value of a constant source of R487. -/
def constValue (frame : List Byte) (src : Src) : Option Word :=
  match src with
  | .imm x => some (x.signExtend 64)
  | .lit x => some x
  | .reg c i _ =>
    match c.toNat with
    | 0 => frameG frame i.toNat
    | 5 => some (wd (160 + i.toNat))
    | 6 => some (wd (192 + i.toNat))
    | 7 => if i.toNat < 32 then some (wd (224 + i.toNat)) else none
    | _ => none
  | _ => none

/-- A code port's value at the position by the first two sources of R487; `none` is the third, a code record. -/
def Ctx.code (c : Ctx) (unit port : Nat) : Option Word :=
  match c.before.find? (fun (_, _, a) => match a with
    | .mv _ (.port u p _) => decide (u.toNat = unit ∧ p.toNat = port)
    | _ => false) with
  | some (_, _, .mv m _) => constValue c.frame m.src
  | _ => framePort c.frame unit port

/-- A parameter word's value at the position by the first two sources of R487; a word written in the position's own bundle takes
effect after it (R243). -/
def Ctx.param (c : Ctx) (n : Nat) : Option Word :=
  match c.before.find? (fun (i, _, a) => match a with
    | .trig 13 18 p _ => decide (p = n ∧ i < c.j)
    | _ => false) with
  | some (_, _, a) => constValue c.frame a.mv?.src
  | none => some (frameParam c.frame n)

/-! ### Triggers and latches (R352) -/

/-- The element type of a typed trigger. -/
def subTy (sub : Nat) : ElemType := (ElemType.ofCode sub).getD .s32

/-- Whether a va or vb port is cmp (R210). -/
def isCmp (u p : Nat) : Bool := (u == 8 || u == 9) && p == 31

/-- The latency of a trigger of va, vb or vx (R201, R213-R220); a cvt whose `from` is known to no text counts as float. -/
def Ctx.latency (c : Ctx) (u p sub : Nat) : Nat :=
  if u = 10 then (if p = 19 ∨ p = 20 ∨ p = 24 then 12 else if 21 ≤ p ∧ p ≤ 23 then 8 else 6)
  else if p = 32 then
    vaLat ((subTy sub).isFloat || (match c.code u 6 with | some f => (subTy f.toNat).isFloat | none => true))
  else vaLat (subTy sub).isFloat

/-- The trigger that a read of a unit's latch .o in the position's bundle refers to (R352): by its due clock, bundle and slot. -/
def Ctx.refers (c : Ctx) (unit : Nat) : Option (Nat × Nat × Nat) :=
  let trigs := c.before.filterMap (fun (i, sl, a) => match a with
    | .trig u p sub _ =>
      if u = unit ∧ !isCmp u p then
        let due := i + Ctx.latency { c with j := i, slot := sl } u p sub
        if due ≤ c.j then some (due, i, sl) else none
      else none
    | _ => none)
  (trigs.foldl (fun (m : Option (Nat × Nat × Nat)) x =>
    match m with
    | none => some x
    | some y => if y.1 < x.1 then some x else some y) none)

/-! ### Gradients (R350, R351) -/

/-- Where a gradient is kept: nowhere, in a partner register or pair, or hidden by its key. -/
inductive GKey where
  | nowhere
  | vec (n : Nat) (pair : Bool)
  | hid (k : Nat)
deriving DecidableEq, Repr

/-- The key of the hidden gradient of a vector operand port. -/
def portKey (unit port : Nat) : GKey := .hid (unit * 16 + port)

/-- The key of the hidden gradient of a trigger's result: its due clock comes first, since a saved context lists them by it (R410). -/
def trigKey (due j slot : Nat) : GKey := .hid (4096 + 2 ^ 20 * due + 8 * j + slot)

/-- The gradient of a source (R351): a forward register read whole, or the result that a latch holds; scalars carry none (R349). -/
def Ctx.srcKey (c : Ctx) (src : Src) : GKey :=
  match src with
  | .reg cl i p => if cl = 1 ∧ i.toNat < 16 ∧ p.toNat < 2 then .vec i.toNat (p == 1) else .nowhere
  | .latch u h _ =>
    if !h ∧ 8 ≤ u.toNat ∧ u.toNat ≤ 10 then
      match c.refers u.toNat with
      | some (due, i, sl) => trigKey due i sl
      | none => .nowhere
    else .nowhere
  | _ => .nowhere

/-- Reads a gradient's lanes. -/
def State.grad (s : State) (k : GKey) : Lanes :=
  match k with
  | .nowhere => zeroLanes
  | .vec n false => lanesV (s.t.vr (n + 16))
  | .vec n true => pairLanes (s.t.vr (n + 16)) (s.t.vr (n + 17))
  | .hid k => match s.t.walk with | some w => w.grads.get k zeroLanes | none => zeroLanes

/-- Writes a gradient's lanes. -/
def State.setGrad (s : State) (k : GKey) (l : Lanes) : State :=
  let t := s.t
  match k with
  | .nowhere => s
  | .vec n false => s.setT { t with v := t.v.set (n + 16) (lanesV l) }
  | .vec n true => s.setT { t with v := (t.v.set (n + 16) (lanesV l)).set (n + 17) (l.map (fun (x : Word) => x >>> 32)) }
  | .hid k => match t.walk with
    | some w => s.setT { t with walk := some { w with grads := w.grads.set k l } }
    | none => s

/-- Sets a gradient to +0. -/
def State.zeroGrad (s : State) (k : GKey) : State := s.setGrad k zeroLanes

/-- ORs flags into fflags as a walk's arithmetic raises them (R355). -/
def State.raiseFlags (s : State) (f : Flags) : State := s.setT (s.t.orFlags f)

/-- u := RoundRNE(SumExact(u, e)) (R355). -/
def gradAdd (ty : ElemType) (u : Nat) (e : Ex × Flags) : Nat × Flags :=
  let (x, f) := sumExact [exactF ty u, e.1]
  let r := roundRNE ty x
  (r.bits, e.2 ||| f ||| r.flags)

/-- Adds contributions to a gradient lane by lane (R355). -/
def State.addGrad (s : State) (k : GKey) (ty : ElemType) (e : Nat → Option (Ex × Flags)) : State :=
  if k = .nowhere then s
  else
    let r := (s.grad k).zipIdx.map (fun (x, i) =>
      match e i with
      | some c => let (b, f) := gradAdd ty (laneVal ty x) c; (wd b, f)
      | none => (x, 0))
    (s.setGrad k (r.map (·.1))).raiseFlags (r.foldl (fun f x => f ||| x.2) 0)

/-! ### Arithmetic of contributions (R355) -/

/-- A rounded product of exact values with flags so far. -/
def rmul (ty : ElemType) (a : Ex × Flags) (b : Ex) : Ex × Flags :=
  let (p, f) := mul a.1 b
  let r := roundRNE ty p
  (exactF ty r.bits, a.2 ||| f ||| r.flags)

/-- An exact product with flags so far: a contribution's last operation. -/
def emul (a : Ex × Flags) (b : Ex) : Ex × Flags :=
  let (p, f) := mul a.1 b
  (p, a.2 ||| f)

/-- A rounded quotient (R355). -/
def rdiv (ty : ElemType) (a b : Ex × Flags) : Ex × Flags :=
  let fl := a.2 ||| b.2
  let nan (f : Flags) : Ex × Flags := (.nan false, fl ||| f)
  match a.1, b.1 with
  | .nan x, .nan y => nan (if x || y then NV else 0)
  | .nan x, _ => nan (if x then NV else 0)
  | _, .nan x => nan (if x then NV else 0)
  | .inf _, .inf _ => nan NV
  | .inf x, .fin y _ _ => (.inf (xor x y), fl)
  | .fin x _ _, .inf y => (.fin (xor x y) 0 0, fl)
  | .fin x m e, .fin y n g =>
    if n = 0 then (if m = 0 then nan NV else (.inf (xor x y), fl ||| DZ))
    else
      let d := e - g
      let r := roundRat ty .rne false (xor x y) (m * 2 ^ d.toNat) (n * 2 ^ (-d).toNat) 0
      (exactF ty r.bits, fl ||| r.flags)

/-- 0.5 and 2. -/
def exHalf : Ex := .fin false 1 (-1)
def exTwo : Ex := .fin false 1 1

/-- ln 2 in a gradient type (R355). -/
def exLn2 (ty : ElemType) : Ex := exactF ty (if ty = .f64 then 0x3FE62E42FEFA39EF else 0x3F317218)

/-- A lane's exact value that raises nothing. -/
def quiet (x : Ex) : Ex × Flags := (x, 0)

/-! ### Records of a slot (R362, R368) -/

/-- n bytes of the stack as they stand in whichever tier holds them, with their poison (R363, R368). -/
def State.stackSee (s : State) (off n : Nat) : Except WalkErr (List Byte × Bool) :=
  match s.residSee off n with
  | .error (code, va) => .error (.mem code va)
  | .ok x => .ok x

/-- The record below an offset of the stack: its trailer, or none where there is no room for one. -/
def State.recBelow (s : State) (top : Nat) : Except WalkErr (Option Trailer) :=
  if top < 16 then .ok none
  else match s.stackSee (top - 16) 16 with
    | .error e => .error e
    | .ok (bs, bad) =>
      if bad then .error (.rev 8)
      else
        let r := trailerOf bs
        .ok (if top < r.size then none else some r)

/-- The payload of a record below an offset. -/
def State.payload (s : State) (top : Nat) (r : Trailer) : Except WalkErr (List Byte) :=
  match s.stackSee (top - r.size) r.plen with
  | .error e => .error e
  | .ok (bs, bad) => if bad then .error (.rev 8) else .ok bs

/-- The records of a slot that a walk has taken, in push order, and the top of what is left. -/
structure Taken where
  recs : List (Nat × List Byte)
  top  : Nat
deriving DecidableEq, Repr

/-- Whether a record is one of the position's own: kind, slot, bundle and identity (R368). -/
def Trailer.mine (r : Trailer) (c : Ctx) (bid : Nat) : Bool :=
  r.kind == 3 && r.slot == c.slot && r.bundle == c.j && r.bid == bid

/-- Takes one record of one of some types from the top; a record that is not of the position or the types is refused. -/
def State.takeOne (s : State) (c : Ctx) (bid : Nat) (tys : List Nat) (x : Taken) : Except WalkErr (Option Taken) :=
  match s.recBelow x.top with
  | .error e => .error e
  | .ok none => .ok none
  | .ok (some r) =>
    if r.mine c bid && tys.contains r.rtype then
      match s.payload x.top r with
      | .error e => .error e
      | .ok p => .ok (some ⟨(r.rtype, p) :: x.recs, x.top - r.size⟩)
    else .ok none

/-- Takes the records of a list of types, the topmost first; a missing one is cause STACK. -/
def State.takeAll (s : State) (c : Ctx) (bid : Nat) : List (List Nat) → Taken → Except WalkErr Taken
  | [], x => .ok x
  | tys :: rest, x =>
    match s.takeOne c bid tys x with
    | .error e => .error e
    | .ok none => .error (.rev 4)
    | .ok (some x) => s.takeAll c bid rest x

/-- Takes one record if the position has it there. -/
def State.takeIf (s : State) (c : Ctx) (bid : Nat) (tys : List Nat) (x : Taken) : Except WalkErr Taken :=
  match s.takeOne c bid tys x with
  | .error e => .error e
  | .ok none => .ok x
  | .ok (some x) => .ok x

/-- Takes records of some types as long as the position has them there, by fuel. -/
def State.takeWhile (s : State) (c : Ctx) (bid : Nat) (tys : List Nat) : Nat → Taken → Except WalkErr Taken
  | 0, x => .ok x
  | n + 1, x =>
    match s.takeOne c bid tys x with
    | .error e => .error e
    | .ok none => .ok x
    | .ok (some x) => s.takeWhile c bid tys n x

/-- Takes the code records of ports that the text leaves open, top down, and answers every port's value in order (R487). -/
def State.takeCodes (s : State) (c : Ctx) (bid : Nat) (vals : List (Option Word)) (x : Taken) : Except WalkErr (List Word × Taken) :=
  let n := (vals.filter Option.isNone).length
  match s.takeAll c bid (List.replicate n [1]) ⟨[], x.top⟩ with
  | .error e => .error e
  | .ok y =>
    let out := vals.foldl (fun (acc : List Word × List (Nat × List Byte)) v =>
      match v, acc.2 with
      | some v, r => (acc.1 ++ [v], r)
      | none, (_, p) :: r => (acc.1 ++ [wd (leAt p 0 8)], r)
      | none, [] => (acc.1 ++ [0], [])) ([], y.recs)
    .ok (out.1, ⟨x.recs, y.top⟩)

/-! ### Adjoints of va, vb and vx (R222, R354) -/

/-- Whether a va, vb or vx trigger of a type is inert, apart from what its ports decide (R223). A cvt between f8a or f8b and another float type,
which neither R222 nor R223 names, has the float-to-float row, with f32 gradients (DESIGN CHOICE, notes/assumptions/32.md). -/
def vecInert (u p sub : Nat) : Bool :=
  let ty := subTy sub
  if u = 10 then !ty.isFloat || decide (23 ≤ p ∧ p ≤ 25)
  else if p = 32 then !ty.isFloat
  else !gradType ty || !(decide (p ≤ 30) || p == 41)

/-- The code ports of a va, vb or vx form that its adjoint reads. -/
def vecCodes (u p : Nat) : List Nat :=
  if u = 10 then (if p = 19 ∨ p = 20 then [5] else if p = 26 then [5, 7] else [])
  else if p = 32 then [6] else []

/-- The residuals of a va, vb or vx form, apart from its masks of ports that the text leaves open. -/
def vecResiduals (u p sub : Nat) : List Nat :=
  let v := if (subTy sub).is64 then 4 else 3
  if u = 10 then (if p ≤ 18 then [v] else [])
  else match p with
    | 18 | 19 | 20 | 21 => [v, v]
    | 22 | 23 | 24 => [2]
    | 26 | 27 | 28 | 29 | 30 => [v]
    | 41 => [2]
    | _ => []

/-- What a vector adjoint works with: its type, its gradient type, ḡ, its active lanes, its codes and residuals. -/
structure VAdj where
  ty    : ElemType
  gt    : ElemType
  g     : Lanes
  act   : Nat
  codes : List Word
  res   : List (Nat × List Byte)
deriving DecidableEq, Repr

/-- ḡ in a lane. -/
def VAdj.gr (v : VAdj) (i : Nat) : Ex := exactF v.gt (laneVal v.gt (v.g.getD i 0))

/-- A lane of a residual operand or output, as its type. -/
def VAdj.x (v : VAdj) (n i : Nat) : Ex :=
  let w := if v.ty.is64 then 8 else 4
  exactF v.ty (leAt (v.res.getD n (0, [])).2 (w * i) w % 2 ^ v.ty.bits)

/-- A lane's bit of a residual mask. -/
def VAdj.bit (v : VAdj) (n i : Nat) : Bool := nbit (leAt (v.res.getD n (0, [])).2 0 8) i

/-- A contribution in the active lanes. -/
def VAdj.each (v : VAdj) (f : Nat → Ex × Flags) (i : Nat) : Option (Ex × Flags) := if nbit v.act i then some (f i) else none

/-- Which operand a contribution goes to: a, b (the trigger's source) or c. -/
inductive Arg where
  | opA | opB | opC
deriving DecidableEq, Repr

/-- A contribution: its operand, its gradient type, and its value by lane. -/
abbrev Contrib := Arg × ElemType × (Nat → Option (Ex × Flags))

/-- The contributions of a va or vb form, in the order of its row (R222). -/
def vaAdjoint (p : Nat) (v : VAdj) : List Contrib :=
  let g (i : Nat) : Ex × Flags := quiet (v.gr i)
  let ng (i : Nat) : Ex × Flags := quiet (neg (v.gr i))
  let one (a : Arg) (f : Nat → Ex × Flags) : Contrib := (a, v.gt, v.each f)
  match p with
  | 16 => [one .opA g, one .opB g]
  | 17 => [one .opA g, one .opB ng]
  | 18 => [one .opA (fun i => emul (g i) (v.x 1 i)), one .opB (fun i => emul (g i) (v.x 0 i))]
  | 19 => [one .opA (fun i => emul (g i) (v.x 1 i)), one .opB (fun i => emul (g i) (v.x 0 i)), one .opC g]
  | 20 => [one .opA (fun i => emul (g i) (v.x 1 i)), one .opB (fun i => emul (g i) (v.x 0 i)), one .opC ng]
  | 21 => [one .opA (fun i => emul (ng i) (v.x 1 i)), one .opB (fun i => emul (ng i) (v.x 0 i)), one .opC g]
  | 22 | 23 =>
    [(.opA, v.gt, fun i => if nbit v.act i && v.bit 0 i then some (g i) else none),
      (.opB, v.gt, fun i => if nbit v.act i && !v.bit 0 i then some (g i) else none)]
  | 24 => [one .opB (fun i => if v.bit 0 i then ng i else g i)]
  | 25 => [one .opB ng]
  | 26 => [one .opB (fun i => emul (rmul v.gt (ng i) (v.x 0 i)) (v.x 0 i))]
  | 27 => [one .opB (fun i =>
      emul (rmul v.gt (rmul v.gt (rmul v.gt (quiet (neg exHalf)) (v.gr i)) (v.x 0 i)) (v.x 0 i)) (v.x 0 i))]
  | 28 => [one .opB (fun i => rdiv v.gt (g i) (rmul v.gt (quiet exTwo) (v.x 0 i)))]
  | 29 => [one .opB (fun i => emul (rmul v.gt (g i) (v.x 0 i)) (exLn2 v.gt))]
  | 30 => [one .opB (fun i => rdiv v.gt (g i) (rmul v.gt (quiet (v.x 0 i)) (exLn2 v.gt)))]
  | 32 =>
    match ElemType.ofCode (v.codes.getD 0 0).toNat with
    | some f => if f.isFloat then [(.opA, if f.is64 then .f64 else .f32, v.each g)] else []
    | none => []
  | 41 =>
    [(.opA, v.gt, fun i => if v.bit 0 i then some (g i) else none), (.opB, v.gt, fun i => if v.bit 0 i then none else some (g i))]
  | _ => []

/-- The lanes of a word's mask, ascending. -/
def VAdj.lanes (v : VAdj) : List Nat := maskBits 64 v.act

/-- The contributions of a vx form (R222, R354). -/
def vxAdjoint (p : Nat) (v : VAdj) : List Contrib :=
  let g (i : Nat) : Ex × Flags := quiet (v.gr i)
  let at_ (a : Arg) (f : Nat → Option Nat) : Contrib := (a, v.gt, fun i => (f i).map g)
  let idx (i : Nat) : Nat := leAt (v.res.getD 0 (0, [])).2 ((if v.ty.is64 then 8 else 4) * i) 4 % 64
  match p with
  | 16 => v.lanes.map (fun i => at_ .opA (fun k => if k = idx i then some i else none))
  | 17 => v.lanes.map (fun i => at_ .opA (fun k => if k = idx 0 then some i else none))
  | 18 => v.lanes.map (fun i => at_ .opA (fun k => if k = (i + idx 0) % 64 then some i else none))
  | 19 =>
    if v.codes.getD 0 0 = 0 then [(.opB, v.gt, v.each (fun _ => g 0))]
    else [(.opB, v.gt, fun i => if v.bit 0 i then some (g 0) else none)]
  | 20 =>
    if v.codes.getD 0 0 ≠ 0 then []
    else
      let l := (List.range 64).map (fun i => (if nbit v.act (63 - i) then laneVal v.gt (v.g.getD (63 - i) 0) else signBit v.gt, (0 : Flags)))
      let y := scanFold (opNode v.gt 0) l
      [(.opB, v.gt, v.each (fun i => let r := y.getD (63 - i) (0, 0); (exactF v.gt r.1, r.2)))]
  | 21 => [at_ .opB (fun i => if nbit v.act i then some (v.lanes.idxOf i) else none)]
  | 22 => [at_ .opB (fun i => v.lanes[i]?)]
  | 26 =>
    let st := (v.codes.getD 0 0).toNat
    let d := 2 ^ st
    let on (i : Nat) : Option Nat := if i < 64 ∧ nbit v.act i then some i else none
    if v.codes.getD 1 0 = 0 then
      [at_ .opA (fun k => if nbit k st then none else on k), at_ .opB (fun k => if nbit k st then none else on (k + d))]
    else
      [at_ .opA (fun k => if nbit k st ∧ d ≤ k then on (k - d) else none), at_ .opB (fun k => if nbit k st then on k else none)]
  | _ => []

/-- The records of a va, vb or vx trigger: its active lanes, codes and residuals (R222, R487); `none` when it turns out inert. -/
def State.vecTake (s : State) (c : Ctx) (bid u p sub : Nat) (top : Nat) : Except WalkErr (Option (Nat × List Word × Taken)) := do
  let vals := (vecCodes u p).map (c.code u)
  let x : Taken := ⟨[], top⟩
  let x ← s.takeAll c bid ((vecResiduals u p sub).reverse.map (fun t => [t])) x
  let known := vals.getD 0 (some 0)
  let x ← if u = 10 ∧ p = 19 then
      match known with
      | some op => if op = 0 then .ok x else s.takeAll c bid [[2]] x
      | none => s.takeIf c bid [2] x
    else .ok x
  let peek ← s.takeOne c bid [1] x
  let gone : Bool :=
    if u = 10 ∧ p = 20 then (match known with | some op => op != 0 | none => peek.isNone)
    else if u ≠ 10 ∧ p = 32 then (match known with | some f => !(subTy f.toNat).isFloat | none => peek.isNone)
    else false
  if gone then return none
  let (codes, x) ← s.takeCodes c bid vals x
  let men := c.code u (if u = 10 then 9 else 8)
  let y ← match men with
    | some m => if u ≠ 10 ∧ p = 41 then .ok x else if wbit m 0 then s.takeAll c bid [[2]] ⟨[], x.top⟩ else .ok ⟨[], x.top⟩
    | none => if u ≠ 10 ∧ p = 41 then .ok x else s.takeIf c bid [2] ⟨[], x.top⟩
  let act := if u ≠ 10 ∧ p = 41 then 2 ^ 64 - 1 else match y.recs with | (_, m) :: _ => leAt m 0 8 | [] => 2 ^ 64 - 1
  return some (act, codes, ⟨x.recs, y.top⟩)

/-- The adjoint of a va, vb or vx trigger. -/
def State.vecAdjoint (s : State) (c : Ctx) (bid u p sub : Nat) (m : Mv) : Eff :=
  let key := trigKey (c.j + c.latency u p sub) c.j c.slot
  if vecInert u p sub then .done (s.zeroGrad key)
  else withOk s (s.vecTake c bid u p sub s.t.ctl.rsp.toNat) (fun r =>
    match r with
    | none => .done (s.zeroGrad key)
    | some (act, codes, x) => s.popTo x.top (fun s =>
      let ty := subTy sub
      let v : VAdj := ⟨ty, if ty = .f64 then .f64 else .f32, s.grad key, act, codes, x.recs⟩
      let cs := if u = 10 then vxAdjoint p v else vaAdjoint p v
      let s := cs.foldl (fun s (a, gt, f) =>
        s.addGrad (match a with | .opA => portKey u 2 | .opB => c.srcKey m.src | .opC => portKey u 4) gt f) s
      .done (s.zeroGrad key)))

/-! ### Matrix adjoints (R258, R357) -/

/-- The gradient tile of a tile name's code (R350): t0-t7 and a0-a7 have one, when the task holds it. -/
def State.partner (s : State) (code : Nat) : Option Nat :=
  if code / 32 = 5 ∧ code % 32 < 8 then s.t.tilePa (224 + code % 32)
  else if code / 32 = 6 ∧ code % 32 < 8 then s.t.tilePa (232 + code % 32)
  else none

/-- Sets the gradient tile of a tile to +0 (R353). -/
def State.zeroPartner (s : State) (code : Nat) : State :=
  match s.partner code with
  | some pa => s.wr pa (List.replicate 4096 0)
  | none => s

/-- A gradient element's physical address in its tile. -/
def gradAt (pa q e : Nat) : Nat := pa + q * 128 + e * 4

/-- Reads a gradient element. -/
def State.gradEl (s : State) (pa q e : Nat) : Nat := s.rdN (gradAt pa q e) 4

/-- The exact elements of a line of an operand; a GQ element is its scale times its code less the zero point. -/
def lineEx (ty : ElemType) (g : Nat) (r : GQRow) : List Ex :=
  if isGQ ty then
    r.els.zipIdx.map (fun (x, i) => (mul (exactF .f16 (r.scales.getD (i / g) 0)) (exactI ((x : Int) - r.zeros.getD (i / g) 0))).1)
  else r.els.map (exact ty)

/-- Adds DotAcc contributions to gradient elements (R357): each by its row and element and its pairs. -/
def State.dotGrad (s : State) (pa : Nat) (els : List (Nat × Nat × List (Ex × Ex))) : State :=
  els.foldl (fun s (q, e, ab) =>
    let (x, f) := dotAcc (s.gradEl pa q e) ab
    (s.wrN (gradAt pa q e) 4 x).raiseFlags f) s

/-- Elements in ascending row order, then ascending element order (R357). -/
def sortEls (l : List (Nat × Nat × List (Ex × Ex))) : List (Nat × Nat × List (Ex × Ex)) :=
  l.mergeSort (fun a b => decide (a.1 < b.1 ∨ (a.1 = b.1 ∧ a.2.1 ≤ b.2.1)))

/-- The lines of an operand as its rows stand when the walk reads them (R357). -/
def State.operandLines (s : State) (x : Operand) (cluster lines k g : Nat) : List GQRow :=
  x.lines (s.operandBytes x cluster lines k g) lines k g

/-- The adjoint of rows first to first + n - 1 of a product over K (R357): Ā, then B̄; an operand in a scratchpad is inert. -/
def State.productGrad (s : State) (o : EngOp) (gacc : Option Nat) (k first n move : Nat) : State :=
  let (a, b) := o.operands first move
  let cl := o.core / 8
  if min a.maxK b.maxK < k ∨ a.gqBad ∨ b.gqBad ∨ !a.descOk (first + n) k o.gs ∨ !b.descOk 32 k o.gs then s
  else match gacc with
    | none => s
    | some gp =>
      let xs := ((s.operandLines a cl (if o.flag 0 then first + n else n) k o.gs).drop (if o.flag 0 then first else 0)).map (lineEx a.ty o.gs)
      let ys := (s.operandLines b cl 32 k o.gs).map (lineEx b.ty o.gs)
      let G := (List.range n).map (fun m => (List.range 32).map (fun c => exactF .f32 (s.gradEl gp (first + m) c)))
      let el (l : List (List Ex)) (i j : Nat) : Ex := (l.getD i []).getD j (.fin false 0 0)
      let s := match a.loc, s.partner (o.pw 6).toNat with
        | .tile _, some pa => s.dotGrad pa (sortEls ((List.range n).flatMap (fun m => (List.range k).map (fun kk =>
            let (q, e) := if a.along then (first + m, kk) else (kk, first + m)
            (q, e, (List.range 32).map (fun c => (el G m c, el ys c kk)))))))
        | _, _ => s
      match b.loc, s.partner (o.pw 7).toNat with
      | .tile _, some pa => s.dotGrad pa (sortEls ((List.range k).flatMap (fun kk => (List.range 32).map (fun c =>
          let (q, e) := if b.along then (c, kk) else (kk, c)
          (q, e, (List.range n).map (fun m => (el xs m kk, el G m c)))))))
      | _, _ => s

/-- t8-t15 after a matrix adjoint: unspecified (R357, R9). -/
def State.scrapTiles (s : State) : State :=
  (List.range 8).foldl (fun s n =>
    match s.t.tilePa (168 + n) with
    | some pa => let (bs, s) := s.freeBytes 2048; s.wr pa bs
    | none => s) s

/-- A product as its adjoint reads it: its code values by port, its trigger value, the frame's settings (R57), and t8 and t9
for the recorded tiles. -/
def State.walkOp (s : State) (c : Ctx) (sub : Nat) (codes : List (Nat × Word)) (trig : Word) : EngOp :=
  let t := s.t
  let o : EngOp := { (default : EngOp) with
    task := s.cur
    tok := 8
    unit := 12
    form := 16
    sub := sub
    trig := trig
    ports := codes.map (fun (p, x) => (p, .w x))
    fmt := (frameWord c.frame 2).toNat
    regs := [(15, t.core)] }
  (o.setReg 6 ((t.tilePa 168).getD 0)).setReg 7 ((t.tilePa 169).getD 0)

/-- The adjoint of mma, mmz or mgrp (R258, R357). -/
def State.matrixAdjoint (s : State) (c : Ctx) (bid p sub : Nat) (m : Mv) : Eff :=
  let grp := p == 18
  let k0 := constValue c.frame m.src
  let top := s.t.ctl.rsp.toNat
  let wide : Bool := match c.code 12 12, c.code 12 13, (if grp then (c.code 12 15).map (fun b => wd (wbits b 44 32)) else k0) with
    | some fl, some bt, some k =>
      (((subTy sub).bits == 8 && !wbit fl 2 && !wbit fl 0) || ((subTy bt.toNat).bits == 8 && !wbit fl 3 && !wbit fl 4 && !grp && wbit fl 1)) &&
        decide (32 < k.toNat)
    | _, _, _ => true
  withOk s (do
    let any ← s.takeOne c bid [5, 6, 7] ⟨[], top⟩
    if any.isNone && wide then return none
    let x ← if grp then s.takeAll c bid [[7]] ⟨[], top⟩ else .ok ⟨[], top⟩
    let x ← s.takeAll c bid [[5, 6], [5, 6]] x
    let a := (x.recs.getD 0 (0, [])).1 == 6
    let b := (x.recs.getD 1 (0, [])).1 == 6
    let ports := [5] ++ (if a then [] else [6]) ++ (if b then [] else [7]) ++ (if a then [8, 9] else []) ++ (if b then [10, 11] else []) ++
      [12, 13] ++ (if grp then [15] else [])
    let (codes, x) ← s.takeCodes c bid (ports.map (c.code 12) ++ [k0]) x
    return some (ports, codes, x)) (fun r =>
    match r with
    | none => .done s
    | some (ports, codes, x) => s.popTo x.top (fun s =>
      let trig := codes.getLastD 0
      let o := s.walkOp c sub (ports.zip codes) trig
      let put (s : State) (i reg : Nat) (o : EngOp) : State × EngOp :=
        let (rt, bs) := x.recs.getD i (0, [])
        if rt = 5 then (s.wr (o.reg reg) bs, o)
        else
          let o := { o with ports := (o.ports.set (2 * reg - 4) (.w (wd (leAt bs 0 8)))).set (2 * reg - 3) (.w (wd (leAt bs 8 8))) }
          (s, o)
      let (s, o) := put s 0 6 o
      let (s, o) := put s 1 7 o
      let acc := (o.pw 5).toNat
      let gp := s.partner acc
      let s :=
        if !grp then s.productGrad o gp trig.toNat 0 32 0
        else
          let cnts := (List.range (leAt (x.recs.getD 2 (0, [])).2 0 2)).map (fun i => leAt (x.recs.getD 2 (0, [])).2 (2 + 2 * i) 2)
          (cnts.zipIdx.foldl (fun (st : State × Nat) (n, g) =>
            if n = 0 then st
            else (st.1.productGrad o gp (wbits (o.pw 15) 44 32) st.2 n (g * (descOf (o.pw 10) (o.pw 11)).tilep), st.2 + n)) (s, 0)).1
      let s := if p = 17 ∨ (grp ∧ o.flag 6) then s.zeroPartner acc else s
      .done s.scrapTiles))

/-- The adjoint of cvt (R258): the accumulator's gradient takes the t tile's, which becomes +0 (R353). -/
def State.cvtAdjoint (s : State) (c : Ctx) (bid : Nat) : Eff :=
  withOk s (s.takeCodes c bid ([5, 6, 12].map (c.code 12)) ⟨[], s.t.ctl.rsp.toNat⟩) (fun (codes, x) => s.popTo x.top (fun s =>
    let acc := (codes.getD 0 0).toNat
    let ta := (codes.getD 1 0).toNat
    let s := match s.partner acc, s.partner ta with
      | some d, some g => (List.range 1024).foldl (fun (s : State) i =>
          let (x, f) := gradAdd .f32 (s.rdN (d + 4 * i) 4) (quiet (exactF .f32 (s.rdN (g + 4 * i) 4)))
          (s.wrN (d + 4 * i) 4 x).raiseFlags f) s
      | _, _ => s
    .done (s.zeroPartner ta)))

/-! ### Drains (R259, R356, R358) -/

/-- The words that row 0 of an anchor program executes, as they stand in the program store: by fuel, from a word with LCNT. -/
def anTrace (prog : Tab Nat) : Nat → Nat → Nat → List Instr
  | 0, _, _ => []
  | fuel + 1, word, lcnt =>
    if 1023 < word then []
    else match decodeAnchor (BitVec.ofNat 32 (prog.get word 0)) with
      | none => []
      | some .anchorEnd => []
      | some (.anchorLoop n d) =>
        if n = 0 ∨ d = 0 then []
        else
          let k := if lcnt = 0 then n.toNat else lcnt
          if 1 < k then (if word < d.toNat then [] else anTrace prog fuel (word - d.toNat) (k - 1))
          else anTrace prog fuel (word + 1) 0
      | some i => i :: anTrace prog fuel (word + 1) lcnt

/-- The record type of a word that has a residual (R259, R362). -/
def anRecType (i : Instr) : Option Nat :=
  match i with
  | .anchorRelu => some 8
  | .anchorClamp _ => some 8
  | .anchorLeaky _ => some 8
  | .anchorMulres _ _ => some 9
  | .anchorGelu => some 9
  | .anchorSigmoid => some 9
  | .anchorDrop _ _ _ => some 10
  | _ => none

/-- Gelu′ (R356). -/
def geluD (x : Nat) : Nat × Flags :=
  let K1 := 0x3F4C4231; let K3 := 0xBDE91FB3; let K5 := 0x3C3295EA; let K7 := 0xBA08509C
  let q (n : Int) (k : Nat) : Nat := (roundRNE .f32 (mul (exactI n) (f32 k)).1).bits
  let e := f32 x
  if isNaN e then (canonNaN .f32, if isSig e then NV else 0)
  else if cmpEx e (exactI 3) != .lt then (0x3F800000, 0)
  else if cmpEx e (exactI (-3)) != .gt then (0, 0)
  else
    let u := mul32 x x
    let step (p : Nat × Flags) (k : Nat) : Nat × Flags := acc2 (acc2 p (mul32 · u.1)) (add32 · k)
    let p := step (step (step (K7, u.2) K5) K3) K1
    let t0 := acc2 p (fun p => mul32 x p)
    let t := acc2 (acc2 t0 (fun y => fmaxmin .f32 true y 0xBF800000)) (fun y => fmaxmin .f32 false y 0x3F800000)
    let h := acc2 (acc2 t (fun y => mul32 0x3F000000 y)) (fun y => add32 0x3F000000 y)
    if cmpEx (f32 t0.1) (exactI 1) != .lt ∨ cmpEx (f32 t0.1) (exactI (-1)) != .gt then h
    else
      let qq := step (step (step (q 7 K7, h.2) (q 5 K5)) (q 3 K3)) (q 1 K1)
      let sq := acc2 (t.1, qq.2) (fun y => mul32 y y)
      let one := acc2 sq (fun y => add32 0x3F800000 (if nbit y 31 then y - 2 ^ 31 else y + 2 ^ 31))
      let r := acc2 (acc2 one (fun y => mul32 x y)) (fun y => mul32 y qq.1)
      acc2 (acc2 r (fun y => mul32 0x3F000000 y)) (fun y => add32 h.1 y)

/-- What the words of a drain read in reverse: parameter words, the destination's partner, the task's core and coordinates. -/
structure DrainEnv where
  params : List Word
  dest   : Option Nat
  core   : Nat
  coord  : List Nat
deriving DecidableEq, Repr

/-- A parameter word of a drain. -/
def DrainEnv.p (d : DrainEnv) (n : BitVec 4) : Word := d.params.getD n.toNat 0

/-- x̄ := +0 + e, lane by lane (R355). -/
def anBack (x : List Nat) (f : Nat → Ex → Option (Ex × Flags)) : List Nat × Flags :=
  let y := x.zipIdx.map (fun (x, j) => match f j (f32 x) with | some e => gradAdd .f32 0 e | none => (0, 0))
  (y.map (·.1), y.foldl (fun a b => a ||| b.2) 0)

/-- A word's adjoint on row r's x̄, with its record (R259, R358); `none` is x̄ before any write word, which starts at +0. -/
def anReverse (s : State) (d : DrainEnv) (r : Nat) (i : Instr) (rec_ : List Byte) (x : Option (List Nat)) : State × Option (List Nat) :=
  let x0 := x.getD (List.replicate 32 0)
  let put (y : List Nat × Flags) : State × Option (List Nat) := (s.raiseFlags y.2, some y.1)
  let row (j : Nat) : Nat := leAt rec_ (128 * r + 4 * j) 4
  let bit (j : Nat) : Bool := nbit (leAt rec_ (4 * r) 4) j
  match i with
  | .anchorScale pa =>
    let bs := s.lsBytes d.core (wbits (d.p pa) 18 0) 128
    put (anBack x0 (fun j g => some (emul (quiet g) (f32 (leAt bs (4 * j) 4)))))
  | .anchorSscale pa => put (anBack x0 (fun _ g => some (emul (quiet g) (f32 (wbits (d.p pa) 31 0)))))
  | .anchorBias _ => put (anBack x0 (fun _ g => some (quiet g)))
  | .anchorAddres _ _ => put (anBack x0 (fun _ g => some (quiet g)))
  | .anchorCvt _ _ => put (anBack x0 (fun _ g => some (quiet g)))
  | .anchorCvtsr _ _ _ => put (anBack x0 (fun _ g => some (quiet g)))
  | .anchorMulres _ _ => put (anBack x0 (fun j g => some (emul (quiet g) (f32 (row j)))))
  | .anchorRelu => put (anBack x0 (fun j g => if bit j then some (quiet g) else none))
  | .anchorClamp _ => put (anBack x0 (fun j g => if bit j then some (quiet g) else none))
  | .anchorLeaky pa => put (anBack x0 (fun j g => some (if bit j then quiet g else emul (quiet g) (f32 (wbits (d.p pa) 31 0)))))
  | .anchorGelu => put (anBack x0 (fun j g =>
      let (e, f) := geluD (row j)
      some (emul (g, f) (f32 e))))
  | .anchorSigmoid => put (anBack x0 (fun j g =>
      let y := f32 (row j)
      let (z, f) := sumExact [exactI 1, neg y]
      let w := roundRNE .f32 z
      let (e, f') := emul (rmul .f32 (quiet g) y) (f32 w.bits)
      some (e, f ||| w.flags ||| f')))
  | .anchorDrop _ pb imm =>
    let key := wd (leAt rec_ 0 8)
    let p := wd (leAt rec_ 8 8)
    put (anBack x0 (fun j g =>
      let h := (keyHash key d.coord (wd (wbits p 31 0 + 32 * r + j)) imm.toNat 0).setWidth 32
      if wbits p 63 32 ≤ (h : BitVec 32).toNat then some (emul (quiet g) (f32 (wbits (d.p pb) 31 0))) else none))
  | .anchorWrt =>
    match d.dest with
    | some pa =>
      let g := (List.range 32).map (fun j => s.gradEl pa r j)
      let s' := s.wr (gradAt pa r 0) (List.replicate 128 0)
      (match x with
       | none => (s', some g)
       | some x =>
         let y := (x.zip g).map (fun (a, b) => gradAdd .f32 a (quiet (f32 b)))
         (s'.raiseFlags (y.foldl (fun f z => f ||| z.2) 0), some (y.map (·.1))))
    | none => (s, some x0)
  | .anchorWrl => (s, some x0)
  | .anchorWrq => (s, some x0)
  | _ => (s, x)

/-- The words of a drain with the record of each, in order; `none` when the records differ from the words'. -/
def pairWords : List Instr → List (Nat × List Byte) → Option (List (Instr × List Byte))
  | [], [] => some []
  | [], _ :: _ => none
  | i :: is, rs =>
    match anRecType i, rs with
    | none, rs => (pairWords is rs).map (fun l => (i, []) :: l)
    | some t, (u, p) :: rs => if t = u then (pairWords is rs).map (fun l => (i, p) :: l) else none
    | some _, [] => none

/-- The adjoint of a drain (R358): rows ascending, each from its last word back to its first. -/
def State.drainAdjoint (s : State) (c : Ctx) (bid : Nat) (m : Mv) : Eff :=
  withOk s (do
    let x ← s.takeWhile c bid [8, 9, 10] 1024 ⟨[], s.t.ctl.rsp.toNat⟩
    let (codes, x) ← s.takeCodes c bid ([c.code 12 5, constValue c.frame m.src] ++ [6, 7, 8].map (c.code 13) ++
      (List.range 16).map c.param) x
    let words := anTrace (s.coreAt s.t.core).prog 1024 (codes.getD 1 0).toNat 0
    match pairWords words x.recs with
    | none => .error (.rev 4)
    | some l => return (codes, l, x)) (fun (codes, words, x) => s.popTo x.top (fun s =>
    let acc := (codes.getD 0 0).toNat
    let d : DrainEnv := ⟨codes.drop 5, s.partner (wbits (codes.getD 4 0) 7 0), s.t.core, s.t.coord⟩
    .done ((List.range 32).foldl (fun s r =>
      let (s, x) := words.reverse.foldl (fun (st : State × Option (List Nat)) (i, p) => anReverse st.1 d r i p st.2) (s, none)
      let x := x.getD (List.replicate 32 0)
      match s.partner acc with
      | some pa =>
        let y := x.zipIdx.map (fun (v, j) => gradAdd .f32 (s.gradEl pa r j) (quiet (f32 v)))
        (s.wr (gradAt pa r 0) (elemBytes 4 (y.map (·.1)))).raiseFlags (y.foldl (fun f z => f ||| z.2) 0)
      | none => s) s)))

/-! ### What a body may hold (R348) -/

/-- Whether a trigger may stand in a body. -/
def trigAllowed (u p : Nat) : Bool :=
  match u with
  | 1 | 2 | 3 | 4 | 8 | 9 | 10 => true
  | 6 => [16, 18, 20, 22, 24, 26, 28].contains p
  | 7 => [16, 17, 18].contains p
  | 12 => [16, 17, 18, 19, 21, 22, 24].contains p
  | 13 => p == 18
  | 16 => p == 36
  | 19 => [16, 17, 20].contains p
  | _ => false

/-- Whether a register operand names v16-v31, t8-t15 or a d tile. -/
def badName (cls idx part : Nat) : Bool :=
  (cls == 1 && decide (16 ≤ idx ∨ (part = 1 ∧ 15 ≤ idx))) || (cls == 5 && decide (8 ≤ idx)) || (cls == 7 && decide (idx < 32))

/-- Whether a source may stand in a body. -/
def srcAllowed (x : Src) : Bool :=
  match x with
  | .reg c i p => !badName c.toNat i.toNat p.toNat
  | _ => true

/-- Whether a destination may stand in a body. -/
def dstAllowed (x : Dst) : Bool :=
  match x with
  | .reg c i p => !badName c.toNat i.toNat p.toNat
  | _ => true

/-- Whether a value given to sy.qadv names its pop (R278, R348), so far as it is known. -/
def Ctx.pops (c : Ctx) (src : Src) : Bool :=
  match constValue c.frame src with
  | some x => wbits x 63 62 == 0
  | none => true

/-- Whether an act may stand at its position. -/
def Ctx.allowed (c : Ctx) (a : Act) : Bool :=
  a.mv?.guard.isNone && srcAllowed a.mv?.src &&
    (match a with
     | .mv _ d => dstAllowed d
     | .trig u p _ m =>
       trigAllowed u p && (u != 16 || c.pops m.src) &&
         !(u == 12 && (p == 16 || p == 24) && (match c.code 12 5 with | some a => a.toNat / 32 == 7 | none => false)))

/-- Whether a bundle holds only what R348 permits. -/
def Ctx.bundleOk (c : Ctx) : Bool :=
  match c.body[c.j]? with
  | none => false
  | some b => b.ok && b.acts.zipIdx.all (fun (a, i) => match a with | some a => Ctx.allowed { c with slot := i } a | none => true)

/-- Whether a bundle holds a form of mx that has an adjoint (R258), which needs the whole t budget (R357). -/
def BodyBundle.hasAdjoint (b : BodyBundle) : Bool :=
  b.acts.any (fun a => match a with | some (.trig 12 p _ _) => [16, 17, 18, 22, 24].contains p | _ => false)

/-! ### The reverse of a slot (R351-R353, R359) -/

/-- Whether a move is a relay receive of a block (R359). -/
def isRelay (rh : Word) (src : Src) (d : Dst) : Bool :=
  match src, d with
  | .queue q _, .reg c i p => rh != 0 && q.toNat == wbits rh 12 9 && c == 1 && decide (i.toNat < 16) && p == 0
  | _, _ => false

/-- The adjoint of a relay receive (R359): the partner goes to the peer's RQ, waiting until the push is accepted (R94). -/
def State.relayAdjoint (s : State) (rh : Word) (n : Nat) : Eff :=
  let core := wbits rh 2 0 * 64 + wbits rh 5 3 * 8 + wbits rh 8 6
  let q := wbits rh 16 13
  match s.t.walk with
  | none => .done s
  | some w =>
    if s.partOf (dieOf core) ≠ s.partOfTask s.t ∨ (s.queue core q).entry ≠ 256 ∨ (s.queue core q).cfg.isNone then revTrap s 7
    else
      let count (s : State) (tries : Nat) (num : Option Nat) : State :=
        s.setT { s.t with walk := some { w with tries := tries, num := num } }
      match s.offerPush s.t.core core q (lanes4 (s.t.vr (n + 16))) w.tries w.num with
      | .refused s k num => .stay (count s k num)
      | .ok s => .done ((count s 0 none).zeroGrad (.vec n false))
      | .discard s => .done ((count s 0 none).zeroGrad (.vec n false))

/-- The reverse of a plain move (R351, R353). -/
def State.moveAdjoint (s : State) (c : Ctx) (rh : Word) (m : Mv) (d : Dst) : Eff :=
  let shift (k : GKey) (ty : ElemType) : Eff :=
    let g := s.grad k
    let s := s.addGrad (c.srcKey m.src) ty (fun i => some (quiet (exactF ty (laneVal ty (g.getD i 0)))))
    .done (s.zeroGrad k)
  match d with
  | .reg cl i p =>
    if cl ≠ 1 ∨ 16 ≤ i.toNat then .done s
    else if isRelay rh m.src d then s.relayAdjoint rh i.toNat
    else if p.toNat < 2 then shift (.vec i.toNat (p == 1)) (if p = 1 then .f64 else .f32)
    else
      let pair := decide (128 ≤ p.toNat)
      let k := GKey.vec i.toNat pair
      .done (s.setGrad k ((s.grad k).set ((p.toNat - 64) % 64) 0))
  | .port u p pair =>
    if 8 ≤ u.toNat ∧ u.toNat ≤ 10 ∧ (p = 2 ∨ p = 4 ∨ (u = 10 ∧ p = 6)) then
      shift (portKey u.toNat p.toNat) (if pair then .f64 else .f32)
    else .done s
  | _ => .done s

/-- The reverse effect of a slot (R351-R359). -/
def State.slotAdjoint (s : State) (c : Ctx) (d : BlockDesc) (a : Act) : Eff :=
  match a with
  | .mv m dst => s.moveAdjoint c d.rh m dst
  | .trig u p sub m =>
    if u = 8 ∨ u = 9 ∨ u = 10 then s.vecAdjoint c d.bid u p sub m
    else if u = 12 then
      match p with
      | 16 | 17 | 18 => s.matrixAdjoint c d.bid p sub m
      | 19 => .done (match c.code 12 6 with | some x => s.zeroPartner x.toNat | none => s)
      | 21 => .done (match c.code 12 5 with | some x => s.zeroPartner x.toNat | none => s)
      | 22 => s.cvtAdjoint c d.bid
      | 24 => s.drainAdjoint c d.bid m
      | _ => .done s
    else if u = 7 ∧ p = 18 then .done (s.zeroPartner ((c.code 7 7).getD (s.t.pw 7 7)).toNat)
    else .done s

/-! ### The walk (R367-R371) -/

/-- Starts a walk after its bundle (R368); the bundle after it is kept. -/
def State.startWalk (s : State) (desc next : Word) : State :=
  let t := s.t
  s.setT { t with
    slot := 0
    cur := default
    walk := some { desc := desc, phase := 1, bundle := 0, slot := 0, replay := false, grads := []
                   dbytes := [], frame := [], imports := [], tries := 0, num := none, next := next
                   bank := t.bank, g := t.g, m := t.m, k := t.k, gens := t.gens, ctl := t.ctl
                   aparam := t.aparam, clock := t.now } }

/-- Replaces the walk. -/
def State.setWalk (s : State) (w : Walk) : State := s.setT { s.t with walk := some w }

/-- Phase 1 (R368): the descriptor, and the topmost record's identity. -/
def State.walkPhase1 (s : State) (w : Walk) : Eff :=
  s.readDesc w.desc (fun b s =>
    withOk s (s.recBelow s.t.ctl.rsp.toNat) (fun r =>
      match r with
      | some r => if r.bid = (blockDesc b).bid then .done (s.setWalk { w with phase := 2, dbytes := b }) else revTrap s 2
      | none => revTrap s 2))

/-- The offset of the frame's payload under the records below an offset, by fuel (R368). -/
def State.findFrame (s : State) : Nat → Nat → Except WalkErr (Option (Nat × Trailer))
  | 0, _ => .ok none
  | fuel + 1, top =>
    match s.recBelow top with
    | .error e => .error e
    | .ok none => .ok none
    | .ok (some r) => if r.kind = 2 then .ok (some (top - r.size, r)) else s.findFrame fuel (top - r.size)

/-- The shadow ports of a bank with the values of a frame (R367, R368). -/
def frameShadow (f : List Byte) (sh : Tab Val) : Tab Val :=
  framePorts.foldl (fun sh (u, p) =>
    let x := (framePort f u p).getD 0
    let v : Val := if (u = 12 ∧ 5 ≤ p ∧ p ≤ 7) ∨ (u = 13 ∧ p = 7) then .tile (x.toNat / 32) (x.toNat % 32) else .w x
    sh.set (u * 16 + p) v) sh

/-- Restores the input storage of a recompute block from its records (R367); `none` when they do not suffice. -/
def State.restoreInputs (s : State) (d : BlockDesc) (ins : List (List Byte)) : Option (State × List (List Byte)) :=
  let nv := maskBits 16 d.vin
  let nt := (maskBits 8 d.tin).map (160 + ·) ++ (maskBits 8 d.ain).map (192 + ·)
  if ins.length < nv.length + nt.length then none
  else
    let s := s.setT { s.t with v := (nv.zip ins).foldl (fun v (n, b) => v.set n ((elemsOf 4 b).map wd)) s.t.v }
    let s := (nt.zip (ins.drop nv.length)).foldl (fun s (code, b) =>
      match s.t.tilePa code with
      | some pa => s.wr pa b
      | none => s) s
    some (s, ins.drop (nv.length + nt.length))

/-- Starts the replay of a recompute block (R367): under the frame's settings and shadow values, recording as record mode does. -/
def State.startReplay (s : State) (w : Walk) (f : List Byte) (imports : List (List Byte)) : State :=
  let t := s.t
  let d := blockDesc w.dbytes
  s.setT { t with
    walk := some { w with
      frame := f
      imports := imports
      replay := true
      bundle := 0
      slot := 0
      bank := t.bank
      g := t.g
      m := t.m
      k := t.k
      gens := t.gens
      ctl := t.ctl
      aparam := t.aparam
      clock := t.now }
    bank := { t.bank with flight := [], shadow := frameShadow f t.bank.shadow }
    g := (maskBits 64 d.gmask).foldl (fun g n => g.set n ((frameG f n).getD 0)) t.g
    aparam := (List.range 16).map (fun n => (n, frameParam f n))
    ctl := { t.ctl with fmt := frameWord f 2, rmode := frameWord f 3, key := frameWord f 4, dbmode := 1 }
    block := some ⟨w.desc, d.entry, d.nb, d.bid, d.gmask, false, []⟩
    slot := 0
    cur := default }

/-- The frame at an offset: its payload when it is one of the walk's block, with what goes on. -/
def State.useFrame (s : State) (w : Walk) (off : Nat) (r : Trailer) (ok : List Byte → Eff) : Eff :=
  withOk s (s.stackSee off r.plen) (fun (f, bad) =>
    if bad then revTrap s 8
    else if r.kind ≠ 2 ∨ f.length < 392 ∨ frameWord f 0 ≠ w.desc then revTrap s 2
    else ok f)

/-- Phase 2 before the replay (R368): the frame beneath the block's records is located and checked, with nothing popped before (R301);
a recompute block's input records are popped one by one, then the frame is loaded. -/
def State.walkPhase2 (s : State) (w : Walk) : Eff :=
  let d := blockDesc w.dbytes
  let rsp := s.t.ctl.rsp.toNat
  withOk s (s.findFrame (rsp / 16 + 1) rsp) (fun r =>
    match r with
    | none => revTrap s 2
    | some (off, fr) => s.useFrame w off fr (fun f =>
      if !d.recomp then .done (s.setWalk { w with frame := f, phase := 3, bundle := d.nb - 1, slot := 4 })
      else withOk s (s.recBelow rsp) (fun r =>
        match r with
        | none => revTrap s 2
        | some r =>
          if r.kind = 2 then
            match s.restoreInputs d w.imports with
            | none => revTrap s 4
            | some (s, rest) => .done (s.startReplay w f rest)
          else if r.kind ≠ 4 ∨ r.rtype ≠ 11 ∨ r.bid ≠ d.bid then revTrap s 4
          else withOk s (s.payload rsp r) (fun p =>
            s.popTo (rsp - r.size) (fun s => .done (s.setWalk { w with imports := p :: w.imports }))))))

/-- The walk's next position after a slot of phase 3. -/
def Walk.down (w : Walk) : Walk :=
  if 0 < w.slot then { w with slot := w.slot - 1 }
  else if 0 < w.bundle then { w with bundle := w.bundle - 1, slot := 4 }
  else { w with phase := 4, slot := 0 }

/-- Phase 3 (R368): the reverse of one slot; the checks of a bundle come before its first. -/
def State.walkPhase3 (s : State) (w : Walk) : Eff :=
  let d := blockDesc w.dbytes
  withOk s (s.bodyText d (w.bundle + 1)) (fun body =>
    let c : Ctx := ⟨body, w.frame, w.bundle, w.slot⟩
    let b := body.getD w.bundle ⟨false, []⟩
    let next (s : State) : Eff := .done (match s.t.walk with | some w => s.setWalk w.down | none => s)
    if w.slot = 4 ∧ !c.bundleOk then revTrap s 3
    else if w.slot = 4 ∧ b.hasAdjoint ∧ (List.range 16).any (fun n => !s.t.hasTile (160 + n)) then revTrap s 6
    else match (b.acts.getD w.slot none) with
      | none => next s
      | some a => (s.slotAdjoint c d a).andThen next)

/-- Phase 4 (R368): the frame is popped and the walk ends. -/
def State.walkPhase4 (s : State) (w : Walk) : Eff :=
  let rsp := s.t.ctl.rsp.toNat
  withOk s (s.recBelow rsp) (fun r =>
    match r with
    | none => revTrap s 4
    | some r =>
      if r.kind ≠ 2 ∨ r.bid ≠ (blockDesc w.dbytes).bid then revTrap s 4
      else
        let s := s.setT (s.t.setTop (frameWord w.frame 1).toNat)
        .done (s.setT { s.t with walk := none, pc := w.next, slot := 0, cur := default }))

/-- One step of a walk outside its replay. -/
def State.walkStep (s : State) (w : Walk) : Eff :=
  match w.phase with
  | 1 => s.walkPhase1 w
  | 2 => s.walkPhase2 w
  | 3 => s.walkPhase3 w
  | _ => s.walkPhase4 w

/-! ### The replay (R367, R369) -/

/-- Ends a replay: its drain's records are placed, its flags gathered, and what R369 does not list is as it was. -/
def State.endReplay (s : State) (w : Walk) : Eff :=
  s.settleDrain (fun s =>
    let t := s.t.bank.flight.foldl (fun t f => t.orFlags f.flags) s.t
    let d := blockDesc w.dbytes
    .done (s.setT (Task.setNow { t with
      bank := w.bank
      g := w.g
      m := w.m
      k := w.k
      gens := w.gens
      aparam := w.aparam
      ctl := { w.ctl with fflags := t.ctl.fflags, rsp := t.ctl.rsp }
      block := none
      slot := 0
      cur := default
      walk := some { w with replay := false, phase := 3, bundle := d.nb - 1, slot := 4 } } w.clock)))

/-- The next recorded import of a replay; too few is cause STACK. -/
def State.nextImports (s : State) (n : Nat) (ok : List (List Byte) → State → Eff) : Eff :=
  match s.t.walk with
  | none => .done s
  | some w => if w.imports.length < n then revTrap s 4 else ok (w.imports.take n) (s.setWalk { w with imports := w.imports.drop n })

/-- What a replay does in place of a slot's own effect (R367): an import takes its recorded value, and loads and sy.qadv are not
performed; `none` leaves the slot to its own meaning. -/
def State.replaySlot (s : State) (i : Instr) : Option Out :=
  match actOf i with
  | some (.mv m (.reg c n p)) =>
    if isImport m.src (.reg c n p) then
      let rs := pairRegs n.toNat p.toNat
      some (s.nextImports rs.length (fun vals s =>
        .done (s.setT { s.t with v := (rs.zip vals).foldl (fun v (r, b) => v.set r ((elemsOf 4 b).map wd)) s.t.v }))).out
    else none
  | some (.trig u p _ _) =>
    if u = 6 ∨ u = 7 ∨ (u = 16 ∧ p = 36) then some (.next (s.useUnit u).commit)
    else if u = 12 ∧ p = 19 ∧ (s.t.pw 12 6).toNat / 32 = 5 ∧ (s.t.pw 12 6).toNat % 32 < 8 then
      some (s.nextImports 1 (fun vals s =>
        match s.t.tilePa (s.t.pw 12 6).toNat with
        | some pa => .done ((s.wr pa (vals.headD [])).useUnit 12)
        | none => .illSlot s)).out
    else none
  | _ => none

end Sys2Proof.Machine
end

