-- ==== Sys2Proof/Machine/Complete.lean ====
section
/-! DEFINITION. Completion (spec/01_work_model.md R43-R45; 17 R430, R431), and the digest table (11 R341, R342). -/

namespace Sys2Proof.Machine

open Host Arith

/-- The package record, event and interrupt of a group that has completed (R22, R45, R430, R431). -/
def State.firePackage (s : State) (gid ref : Nat) : State :=
  let g := s.group gid
  let s := if g.at_ 88 8 = 0 then s
    else
      let s := s.writeRecord g 0 ref
      if g.even 4 then s.addEvent g 0 else s
  if g.even 6 then s.interrupt (s.vectorOf g) else s

/-! ### Digests (11 R341, R342) -/

/-- Folds the digests of a child into a lane (R341). -/
def foldChild (h d n0 n1 : Word) : Word := foldWord (foldWord d h n0) h n1

/-- The node digest of a task, by generations (R341). -/
def State.nodeDigest (s : State) : Nat → Nat → Word × Word
  | 0, id => ((s.task id).digest, (s.task id).digest1)
  | n + 1, id =>
    let t := s.task id
    let (a, b) := t.kids.foldl (fun (x : Word × Word) c =>
      let (n0, n1) := s.nodeDigest n c
      (foldChild digH0 x.1 n0 n1, foldChild digH1 x.2 n0 n1)) (t.digest, t.digest1)
    (foldWord a digH0 (wd t.kids.length), foldWord b digH1 (wd t.kids.length))

/-- The node digest of a task (R341). -/
def State.digestOf (s : State) (id : Nat) : Word × Word := s.nodeDigest 256 id

/-- The coordinate hash of a task (R319). -/
def Task.coordHash (t : Task) : Word := keyHash 0 t.coord 0 0 0

/-- The subtrees of tasks in pre-order, by generations, each task with the size of its subtree (R342). -/
def State.preorder (s : State) : Nat → List Nat → List (Nat × Nat)
  | 0, ids => ids.map (fun i => (i, 1))
  | n + 1, ids => ids.flatMap (fun i =>
      let sub := s.preorder n (s.task i).kids
      (i, sub.length + 1) :: sub)

/-- A task's entry of the digest table (R342). -/
def State.digestEntry (s : State) (id nsub : Nat) : List Byte :=
  let (n0, n1) := s.digestOf id
  let t := s.task id
  toBytes 8 t.coordHash.toNat ++ toBytes 8 n0.toNat ++ toBytes 8 n1.toNat ++ toBytes 4 t.kids.length ++ toBytes 4 nsub

/-- The group digest (R341). -/
def State.groupDigest (s : State) (g : Group) : Word × Word :=
  let (a, b) := g.kids.foldl (fun (x : Word × Word) c =>
    let (n0, n1) := s.digestOf c
    (foldChild digH0 x.1 n0 n1, foldChild digH1 x.2 n0 n1)) (1, 1)
  (foldWord a digH0 (wd g.kids.length), foldWord b digH1 (wd g.kids.length))

/-- Reports an event of a task that no strand takes to the fault endpoint of its die (R401, R412). -/
def State.report (s : State) (id cls code : Nat) (info : Word) : State :=
  let t := s.task id
  s.send (dieOf t.core) 2 1 0 (faultRecord t t.stateCode (wd (cls * 2 ^ 56 + code * 2 ^ 48)) info)

/-- Writes the digest table of a recording run (R342); a table beyond its capacity raises the digest-table fault and stops there. -/
def State.writeDigests (s : State) (gid : Nat) : State :=
  let g := s.group gid
  let nodes := s.preorder 256 g.kids
  let cap := g.at_ 168 4
  let (g0, g1) := s.groupDigest g
  let body := (nodes.take cap).flatMap (fun (i, n) => s.digestEntry i n)
  let out := s.groupWrite g (g.at_ 160 8)
    (toBytes 8 (min cap nodes.length) ++ toBytes 8 g0.toNat ++ toBytes 8 g1.toNat ++ toBytes 8 0 ++ body)
  match nodes[cap]? with
  | some (i, _) => out.report i 6 6 (s.task i).coordHash
  | none => out

/-- The NSUB of an entry of a group's digest table. -/
def State.tableSub (s : State) (g : Group) (pos : Nat) : Nat :=
  match s.groupRead g .read (wd (g.at_ 160 8 + 32 + 32 * pos + 28)) 4 with
  | (s, .ok ps) => ofBytes (s.loadAll ps)
  | _ => 1

/-- The position of a task's entry, from its parent's and its earlier siblings' NSUB (R342). -/
def State.tablePos (s : State) (g : Group) : Nat → Nat → Nat
  | 0, _ => 0
  | n + 1, id =>
    let t := s.task id
    let (start, sibs) := match t.parent with
      | some p => (s.tablePos g n p + 1, (s.task p).kids)
      | none => (0, g.kids)
    (sibs.takeWhile (· != id)).foldl (fun pos _ => pos + s.tableSub g pos) start

/-- Whether a task's node agrees with the digest table: its N, CH and NCHILD (R342). -/
def State.digestAgrees (s : State) (id : Nat) : Bool :=
  let t := s.task id
  let g := s.group t.group
  match s.groupRead g .read (wd (g.at_ 160 8 + 32 + 32 * s.tablePos g 257 id)) 28 with
  | (s', .ok ps) => s'.loadAll ps == (s.digestEntry id 0).take 28
  | _ => false

/-! ### The end of a group, and of a task's count (R43, R44) -/

/-- A group whose package counter is zero has completed (R44). -/
def State.completeGroup (s : State) (gid : Nat) : State :=
  let s := if (s.group gid).flag 3 then s.writeDigests gid else s
  let s := s.firePackage gid 0
  s.setGroup gid { s.group gid with stage := 2 }

/-- Takes a task out of one counter, whose event fires at zero (R43, R431). -/
def State.leaveNode (s : State) (gid node : Nat) : State :=
  let s := s.leaveBelow gid node
  if node = 0 ∧ (s.group gid).counts.get 0 0 = 0 then s.completeGroup gid else s

/-- Takes a task out of counters in ascending level order (R43). -/
def State.leaveNodes (s : State) (gid : Nat) (ks : List Nat) : State := ks.foldl (fun s k => s.leaveNode gid k) s

end Sys2Proof.Machine
end

