-- ==== Sys2Proof/Machine/Tasks.lean ====
section
/-! DEFINITION. The task forms (spec/09_memory_sync_tasks.md R292-R297; 11 R320-R324; 10 R304). -/

namespace Sys2Proof.Machine

open Host Arith

/-- The trigger of a tk form: the trigger value is a word. -/
def tkForm (m : Mv) (f : Word → State → Eff) (s : State) : Out := trigW 17 m f s

/-! ### Placement (R24) -/

/-- The cores that a placement limit relative to a core permits: 0 that core, 1 its cluster, 2 its die, 3 the partition (R24). -/
def State.coresNear (s : State) (limit near : Nat) : List Nat :=
  let all := match limit with
    | 0 => [near]
    | 1 => (List.range 8).map (fun i => near / 8 * 8 + i)
    | 2 => (List.range 64).map (fun i => near / 64 * 64 + i)
    | _ => (s.diesOf (s.partOf (dieOf near))).flatMap (fun d => (List.range 64).map (fun i => d * 64 + i))
  all.filter (fun c => !Config.fusedOff c)

/-- Whether a task's placement limit permits a core (R24). -/
def State.permitsCore (s : State) (t : Task) (core : Nat) : Bool :=
  !Config.fusedOff core &&
    (match t.limit with
     | 0 => core == t.near
     | 1 => core / 8 == t.near / 8
     | 2 => core / 64 == t.near / 64
     | _ => s.partOf (dieOf core) == (s.group t.group).part)

/-! ### Helpers of a record (R304, R419): words helper × 8 + k of a setup hold IMG, LEN, HENTRY, HARG, HSTAT and HFL, k from 0. -/

/-- The helper words of a record's block, RETR or SETR. -/
def Group.helperWords (g : Group) (h : Nat) : Tab Word :=
  let b := 176 + 32 * h
  [(h * 8, wd (g.at_ b 8)), (h * 8 + 1, wd (g.at_ (b + 8) 4)), (h * 8 + 2, wd (g.at_ (b + 12) 4)), (h * 8 + 3, wd (g.at_ (b + 16) 8)),
    (h * 8 + 4, wd (g.at_ (b + 24) 4)), (h * 8 + 5, wd (g.at_ (b + 28) 1))]

/-- The helper words that children of a group inherit: those of the blocks whose CHILD bit is 1 (R304). -/
def Group.childHelpers (g : Group) : Tab Word :=
  [0, 1].flatMap (fun h => if nbit (g.at_ (176 + 32 * h + 28) 1) 0 then g.helperWords h else [])

/-- A task and its ancestors, by generations. -/
def State.lineage (s : State) : Nat → Nat → List Nat
  | 0, id => [id]
  | n + 1, id => match (s.task id).parent with
    | some p => id :: s.lineage n p
    | none => [id]

/-- Whether every core that a spawn may place its children on holds a helper that the children claim, claimed by the spawning task
or an ancestor (R304). -/
def State.helpersStuck (s : State) (limit : Nat) : Bool :=
  let t := s.t
  let kin := s.lineage 256 s.cur
  let words := (s.group t.group).childHelpers
  [0, 1].any (fun h => words.get (h * 8 + 1) 0 != 0 &&
    (s.coresNear limit t.core).all (fun c => match (s.coreAt c).claims.find? h with
      | some o => kin.contains o
      | none => false))

/-! ### Spawn (R292, R293) -/

/-- The base priority that a spawn's `prio` names, or none for a code out of range (R25, R292). -/
def spawnPrio (own : Nat) (p : Word) : Option Nat :=
  if !wbit p 63 then some own
  else if 47 < wbits p 5 0 then none
  else some (min own (wbits p 5 0))

/-- The case of class TASK that stops a spawn of at least one child (R26, R292, R304, R330), as its code. -/
def State.spawnFault (s : State) (n : Word) : Option Nat :=
  let t := s.t
  let b := t.pw 17 10
  let ts := (t.pw 17 9).toNat
  if 65536 < n.toNat ∨ 16 < wbits b 4 0 ∨ 8 < wbits b 11 8 ∨ 16 < wbits b 20 16 then some 2
  else if t.ord ∧ 2 ^ 64 ≤ ts + n.toNat - 1 then some 2
  else if 255 ≤ t.depth then some 1
  else if t.ord ∧ ts ≤ t.stamp then some 4
  else if s.helpersStuck (t.pw 17 7).toNat then some 2
  else none

/-- The copies that a child receives: one for each view its parent has declared (R320). A copy's place is fixed at its
admission. -/
def Task.childViews (t : Task) : Tab View :=
  (t.views.filter (fun v => decide (v.1 < 16) && v.2.st != 0)).map (fun v =>
    (v.1 + 16, { v.2 with loc := declLoc v.2.loc, st := 1, mview := 0, melem := 0 }))

/-- Child j of a spawn (R292). -/
def State.child (s : State) (prio j : Nat) : Task :=
  let t := s.t
  let b := t.pw 17 10
  let idx := t.nkids + j
  { (default : Task) with
    stage := .waiting, group := t.group, parent := some s.cur, depth := t.depth + 1, idx := idx, coord := t.coord ++ [idx]
    limit := (t.pw 17 7).toNat, near := t.core, bprio := prio, inset := t.sibset, redo := t.redo
    stamp := ((t.pw 17 9).toNat + j) % 2 ^ 64
    views := t.childViews
    ctl := { (default : Ctl) with taskid := taskIdOf (s.group t.group).serial (t.depth + 1) idx }
    setup :=
      { entry := t.pw 17 5, arg := t.pw 17 6, tvec := t.ctl.tvec, seed := t.ctl.seed, key := t.ctl.key
        mode := t.ctl.mode &&& 7, rgm := t.ctl.rgm.toNat, bt := wbits b 4 0, ba := wbits b 11 8, bd := wbits b 20 16
        ranges := [], helper := (s.group t.group).childHelpers, resid := []
        pre := [(0, t.ctl.fmt), (1, t.ctl.rmode), (2, wd j), (3, t.ctl.taskid),
          (4, t.pw 17 9 + wd j)] } }

/-- Puts tasks at the tail of the dispatch queue of their effective priority (R426). -/
def State.enqueue (s : State) (ids : List Nat) : State :=
  { s with waitq := s.waitq ++ ids.map (fun i => (i, s.effPrio i)) }

/-- The task with a child's coordinates that an abort (R337) or a re-execution (R343) took out, which that child runs again. -/
def State.former (s : State) (t : Task) : Option Nat :=
  (List.find? (fun x => x.2.stage == .retired && x.2.commit == 3 && x.2.group == t.group && x.2.coord == t.coord) s.tasks).map (·.1)

/-- A child that runs a task again keeps its owner tag (R486), and is counted in its place under the status of its own run (R42). -/
def State.takeOver (s : State) (id : Nat) : State :=
  let t := s.task id
  match s.former t with
  | none => s
  | some o =>
    let x := s.task o
    let s := (s.countStatus x.group x.path x.status false).setTask o { x with commit := 4 }
    s.setTask id { t with tagged := x.tagged, ctl := { t.ctl with otag := x.ctl.otag } }

/-- Creates the children of a spawn: they are counted at the package (R43) and wait for admission. -/
def State.spawnTasks (s : State) (prio n : Nat) : State :=
  let ids := (List.range n).map (s.ntasks + ·)
  let kids := (List.range n).map (fun j => (s.ntasks + j, s.child prio j))
  let g := s.t.group
  let t := { s.t with nkids := s.t.nkids + n, kids := s.t.kids ++ ids }
  let s := { s.setT t with ntasks := s.ntasks + n }
  let s := kids.foldl (fun s k => ((s.setTask k.1 k.2).takeOver k.1).countAt g [0] true) s
  (s.enqueue ids).passBaton g

/-- Whether the copies of a task have all been merged. -/
def Task.mergedOut (t : Task) : Bool := t.copies.all (fun n => (t.views.get n default).st == 4)

/-- Whether a task has left the merges of its parent: it has retired, or it has ended and its copies are merged. -/
def Task.settled (t : Task) : Bool :=
  t.stage == .retired || (t.stage == .ended && t.mergedOut && (!t.ord || t.commit == 2))

/-- Whether a child of the task that holds view i has not ended (R294): it runs, or waits for its merges. -/
def State.viewHeld (s : State) (t : Task) (i : Nat) : Bool :=
  t.kids.any (fun k => !(s.task k).settled && ((s.task k).views.get (16 + i) default).st != 0)

/-- Holds the declared storage of the views that children have received (R321). -/
def State.holdViews (s : State) : State :=
  let t := s.t
  let new := (List.range 16).filter (fun i => (t.views.get i default).st != 0 && !s.held.any (fun h => h.task == s.cur && h.view == i) &&
    t.kids.any (fun k => !(s.task k).settled && ((s.task k).views.get (16 + i) default).st != 0))
  { s with held := s.held ++ new.map (fun i => ⟨s.cur, i, s.viewAt t i, (t.views.get i default).elem.bytes, []⟩) }

/-- Spawns n children of the current task (R292), which then hold its declared storage (R321). -/
def State.spawn (s : State) (prio n : Nat) : State := (s.spawnTasks prio n).holdViews

/-- spawn (R292): a release (R293), refused while the spawn queue has no room (R93). -/
def execTkSpawn (m : Mv) (s : State) : Out :=
  tkForm m (fun n s =>
    let t := s.t
    match spawnPrio t.bprio (t.pw 17 8) with
    | none => .illPort s
    | some prio =>
      let first := wd t.nkids
      if 3 < (t.pw 17 7).toNat then .illPort s
      else if n = 0 then .done (s.setT (t.result 17 false 1 (.w first) 0))
      else withTarget s (t.pw 17 5) (fun s =>
        match s.spawnFault n with
        | some code => .trap s 6 code n
        | none =>
          let perform (s : State) : Eff :=
            let s := s.spawn prio n.toNat
            .done (s.setT (s.t.result 17 false 1 (.w first) 0))
          s.requesting 16 (fun s => s.drained (fun s =>
            let (s, a) := s.submit s.t.core ⟨16, s.t.slot, 0, [0, 0, 0, 0, 0], none⟩
            if a.value.isSome then perform s else .block (s.setT { s.t with await := some a }) .response))
            (fun _ s => perform s))) s

/-! ### Views (R294, R320, R323) -/

/-- Whether an operator and type may stand in `vop` (R294). -/
def viewOpOk (op ty : Nat) : Bool :=
  (ty == 2 || ty == 3 || ty == 10 || ty == 11) &&
    (if op ≤ 2 then true else if op ≤ 4 then ty == 2 || ty == 3 else op == 5 && ty == 10)

/-- Whether a declaration keeps the rules of R294: its storage and length. -/
def Task.declOk (t : Task) (b : Word) (len z : Nat) : Bool :=
  decide (len % z = 0) && decide (len ≤ 2 ^ 24) &&
    (if wbit b 63 then t.hasTile (wbits b 7 0) && len == tileSize (wbits b 7 0 / 32)
     else decide (b.toNat % 256 = 0) && canonical b)

/-- vdecl (R294). -/
def execTkVdecl (m : Mv) (s : State) : Out :=
  tkForm m (fun x s =>
    let t := s.t
    let op := wbits (t.pw 17 11) 3 0
    let ty := wbits (t.pw 17 11) 12 8
    let b := t.pw 17 12
    let len := (t.pw 17 13).toNat
    let z := ((ElemType.ofCode ty).getD .f32).bytes
    if 15 < x.toNat ∨ !viewOpOk op ty then .illPort s
    else if !t.declOk b len z ∨ s.viewHeld t x.toNat then .trap s 6 3 x
    else .done (s.setT { t with views := t.views.set x.toNat ⟨b, len, op, ty, 1, 0, 0⟩ })) s

/-- vaddr (R294, R323). -/
def execTkVaddr (m : Mv) (s : State) : Out :=
  tkForm m (fun x s =>
    let t := s.t
    let v := t.views.get (16 + x.toNat) default
    if 15 < x.toNat then .illPort s
    else if v.st = 0 then .trap s 6 3 x
    else .done (s.setT (t.result 17 false 1 (.w v.loc) 0))) s

/-! ### Ends, joins and stamps (R295-R297) -/

/-- Whether every child of a task has ended and merged (R295, R326). -/
def State.kidsSettled (s : State) (t : Task) : Bool := t.kids.all (fun k => (s.task k).settled)

/-- finish (R295). -/
def execTkFinish (m : Mv) (s : State) : Out :=
  tkForm m (fun _ s => .done (s.setCur (fun c => { c with fin := some (s.t.slot, 0) }))) s

/-- abort (R297): the end status is aborted, its detail bits 31:0 of the trigger value. -/
def execTkAbort (m : Mv) (s : State) : Out :=
  tkForm m (fun x s => .done (s.setCur (fun c => { c with fin := some (s.t.slot, 1 + 16 * wbits x 31 0) }))) s

/-- join (R31, R295, R325, R338): the set closes, and the task waits until its tokens have completed and every child has ended and
merged. A task that is executed again makes no children wait (R343). -/
def execTkJoin (m : Mv) (s : State) : Out :=
  tkForm m (fun x s =>
    let t := s.t
    if t.ord then .trap s 6 5 x
    else
      let s := s.setT { t with sibset := t.sibset + 1 }
      if t.waitMask 255 = 0 ∧ (t.redo ≠ 0 ∨ s.kidsSettled t) then .done (s.setT (s.t.observe 255)) else .block s .join) s

/-- stamp (R296): a task whose key rises past an earlier writer of a sector it has read is aborted (R331, R333). -/
def execTkStamp (m : Mv) (s : State) : Out :=
  tkForm m (fun x s =>
    let t := s.t
    if !t.ord then .done s
    else if x.toNat < t.stamp ∨ t.stored then .trap s 6 4 x
    else
      let t := { t with stamp := x.toNat }
      let s := s.setT t
      match (s.pending t.group).find? (fun y => y.1 != s.cur && keyLt y.2 t &&
          t.ordered.any (fun o => o.read && (y.2.sectorOf o.sector).wrote)) with
      | some y => .stay (s.abortTask s.cur y.1)
      | none => .done (s.passBaton t.group)) s

end Sys2Proof.Machine
end

