-- ==== Sys2Proof/Machine/Merge.lean ====
section
/-! DEFINITION. Merges (spec/11_views_determinism.md R325-R329), the end of a task's count with its digest check (R341-R343; 01
R42, R43; 10 R306), and the commits and reruns of ordered mode (R330-R337). -/

namespace Sys2Proof.Machine

open Host Arith

/-! ### Storage in place: a tile by its name's code, local-store range k as 256 + k, the copy in the view pool of table entry n
as 512 + n. A task's saved list holds the code of storage that is in its save area, plus 1024 × the tag of an a tile. -/

/-- Whether a copy's location is in local store (R323). -/
def View.inPool (v : View) : Bool := wbits v.loc 63 62 == 1

/-- Whether a copy's location is a tile. -/
def View.inTile (v : View) : Bool := wbits v.loc 63 62 == 2

/-- The local store that a task holds: codes, offsets and sizes. -/
def Task.localStore (t : Task) : List (Nat × Nat × Nat) :=
  t.setup.ranges.zipIdx.map (fun (r, k) => (256 + k, r.1, r.2)) ++
    (t.copies.filter (fun n => (t.views.get n default).inPool)).map (fun n =>
      (512 + n, wbits (t.views.get n default).loc 18 0, (t.views.get n default).len))

/-- Whether a piece of storage is in its save area. -/
def Task.isSaved (t : Task) (code : Nat) : Bool := t.saved.any (fun x => x % 1024 == code)

/-! ### The storage that merges need (R327) -/

/-- Whether a view entry's storage lies in a piece of the task's storage. -/
def State.viewIn (s : State) (t : Task) (n code : Nat) : Bool :=
  let v := t.views.get n default
  match wbits v.place 63 62 with
  | 2 => wbits v.place 7 0 == code
  | 1 => 512 + n == code
  | _ => decide (256 ≤ code ∧ code < 512) && t.localStore.any (fun r => r.1 == code &&
      (match (s.viewPieces t v.place v.len .read).2 with
       | .ok ps => ps.any (fun p => overlap p.1 p.2 (coreWin t.core r.2.1) r.2.2)
       | .bad _ _ => false))

/-- Whether storage of a view entry is scanned out, so that a merge of it waits for its return (R327). -/
def State.viewAway (s : State) (t : Task) (n : Nat) : Bool := t.saved.any (fun x => s.viewIn t n (x % 1024))

/-- The view entries of an ended task that merges may still read or write: its copies that have not merged, and its declarations
until the children that hold them have. -/
def State.mergesOf (s : State) (t : Task) : List Nat :=
  (t.views.filter (fun v => v.2.st != 0 && v.2.st != 4 && (decide (16 ≤ v.1) || s.viewHeld t v.1))).map (·.1)

/-- Whether an ended task waits for storage that is scanned out (R327). -/
def State.wantsBack (s : State) (t : Task) : Bool := t.stage == .ended && (s.mergesOf t).any (fun n => s.viewAway t n)

/-- The physical address of the byte at an offset in pieces of storage. -/
def byteAt : List (Nat × Nat) → Nat → Option Nat
  | [], _ => none
  | (p, n) :: r, o => if o < n then some (p + o) else byteAt r (o - n)

/-- The end of a hold (R321): when the merges of the view are complete, every element that something other than a merge has written is a
free value. -/
def State.endHold (s : State) (h : Hold) : State :=
  let t := s.task h.task
  if s.viewHeld t h.view || s.viewAway t h.view then s
  else h.hit.foldl (fun s e =>
    let (x, s) := s.freeWord
    (toBytes h.z x.toNat).zipIdx.foldl (fun s (b, k) => match byteAt h.pas (e * h.z + k) with
      | some a => s.store a [b]
      | none => s) s) { s with held := s.held.erase h }

/-- Ends the holds of declared storage whose merges are complete (R321). -/
def State.endHolds (s : State) : State := s.held.foldl State.endHold s

/-- Where held storage lies, after it has left a core or come back to one. -/
def State.moveHolds (s : State) (id : Nat) : State :=
  let t := s.task id
  { s with held := s.held.map (fun h => if h.task = id then { h with pas := if s.viewAway t h.view then [] else s.viewAt t h.view } else h) }

/-! ### Whose copy merges into whose (R325, R326) -/

/-- Whether a copy has no storage, since its task ended before its first bundle (R322): it is the identity of its operator, which
leaves what it is combined with, so that its chain passes over it (notes/assumptions/30.md). -/
def View.nowhere (v : View) : Bool := wbits v.loc 63 62 == 3

/-- The children of a task that hold view i in one of its sets, in IDX order (R325). -/
def State.holders (s : State) (parent set i : Nat) : List Nat :=
  (s.task parent).kids.filter (fun k => (s.task k).inset == set &&
    (let v := (s.task k).views.get (16 + i) default; v.st != 0 && !v.nowhere))

/-- Whether a task's digest check is done, or none is made of it: its group does not check, or it is below the root of a serial
re-execution (R342, R343). -/
def State.checked (s : State) (t : Task) : Bool :=
  !(s.group t.group).flag 2 || t.redo == 2 ||
    (t.redo == 1 && (match t.parent with | some p => (s.task p).redo == 1 | none => false))

/-- Whether a task has finished, so that its copies take part in merges (R326, R338): its execution has ended, its own sets have
merged, in ordered mode it has committed, and its digest is checked. -/
def State.finished (s : State) (t : Task) : Bool :=
  t.stage == .ended && s.kidsSettled t && (!t.ord || t.commit == 2) && s.checked t && t.susp.isNone

/-- Whether a parent waits for merges: it has ended, or it waits in join in task mode (R295, R327). -/
def State.awaitsMerge (s : State) (t : Task) : Bool :=
  t.susp.isNone && (t.stage == .ended || (t.head == .join && !t.sys)) && s.checked t

/-- The task and view entry that the copy of view i of a finished child merges into, when its successor has merged, the target
is ready (R326) and neither is scanned out (R327). -/
def State.mergeTarget (s : State) (id i : Nat) : Option (Nat × Nat) :=
  let t := s.task id
  match t.parent with
  | none => none
  | some p =>
    let chain := s.holders p t.inset i
    let closed := decide (t.inset < (s.task p).sibset)
    let succ := match (chain.dropWhile (· != id)).drop 1 with
      | k :: _ => ((s.task k).views.get (16 + i) default).st == 4
      | [] => closed
    let earlier := t.copies.all (fun n => decide (16 + i ≤ n) || (t.views.get n default).st == 4)
    let there (q n : Nat) : Bool := !s.viewAway (s.task q) n
    if !(s.finished t && succ && earlier && there id (16 + i)) then none
    else match (chain.takeWhile (· != id)).getLast? with
      | some q => if s.finished (s.task q) && there q (16 + i) then some (q, 16 + i) else none
      | none => if closed && s.awaitsMerge (s.task p) && there p i then some (p, i) else none

/-! ### Faults inside merges (R328, R329) -/

/-- Delivers a merge's own-route fault to its target (R328, R403): at once when the target is resident, otherwise at its restore;
without a handler it goes to the Handler (R404), and in system mode as NESTED (R407). -/
def State.mergeTrap (s : State) (id code : Nat) (info : Word) : State :=
  let t := s.task id
  if t.sys ∨ t.ctl.tvec = 0 then
    let (cls, code, info) := if t.sys then (15, 1, wd (9 * 256 + code)) else (9, code, info)
    let s := s.setTask id { t with susp := some ⟨cls, code, info, true⟩ }
    s.send (dieOf t.core) 2 1 0 (faultRecord (s.task id) 2 (statusWord t cls code) info)
  else if t.stage = .resident then s.setTask id { t.enterTrap 9 code info with notBefore := (s.coreAt t.core).cycles + 4 }
  else
    let s := s.setTask id { t with stage := .preempted, head := .ready, susp := some ⟨9, code, info, true⟩ }
    if t.stage = .preempted then s else s.enqueue [id]

/-- A translation or access fault of a merge: it goes to the Handler with the merge suspended (R328). The target's context holds `xinfo`,
the view and the element; the record's detail is the address (notes/assumptions/30.md). -/
def State.mergeSuspend (s : State) (id code : Nat) (va info : Word) : State :=
  let t := s.task id
  let s := s.setTask id { t with susp := some ⟨4, code % 256, info, true⟩, ctl := { t.ctl with xinfo := info } }
  s.send (dieOf t.core) 2 1 (code / 256) (faultRecord (s.task id) 2 (statusWord t 4 (code % 256)) va)

/-- A node of a merge (R326): the product rounds once, the other operators are those of R215. -/
def mergeNode (op : Nat) (ty : ElemType) (u v : Nat) : Nat × Flags :=
  match op with
  | 5 => mul32 u v
  | 3 => opNode ty 4 (u, 0) (v, 0)
  | 4 => opNode ty 3 (u, 0) (v, 0)
  | op => opNode ty op (u, 0) (v, 0)

/-- What stopped a merge at an element. -/
inductive MergeEnd where
  | done
  | wait (e : Nat)
  | memory (e code : Nat) (va : Word)
  | trap (e code : Nat)
deriving DecidableEq, Repr

/-- Merges the elements of a source copy into a target from element e, n of them (R326), until one faults (R328) or waits for the
target's die to own its line (R451). -/
def State.mergeFrom (s : State) (dst src : Nat) (T S : View) : Nat → Nat → State × MergeEnd
  | 0, _ => (s, .done)
  | n + 1, e =>
    let z := T.elem.bytes
    let at_ (v : View) : Word := match wbits v.place 63 62 with | 0 => v.place + wd (e * z) | _ => v.place
    let part (v : View) (ps : List (Nat × Nat)) : List (Nat × Nat) :=
      match wbits v.place 63 62 with | 0 => ps | _ => ps.map (fun p => (p.1 + e * z, z))
    match s.viewPieces (s.task src) (at_ S) z .read with
    | (s, .bad code va) => (s, .memory e code va)
    | (s, .ok sp) =>
      match s.viewPieces (s.task dst) (at_ T) z .write with
      | (s, .bad code va) => (s, .memory e code va)
      | (s, .ok tp) =>
        let sp := part S sp
        let tp := part T tp
        if s.badAll sp || s.badAll tp then (s, .trap e 2)
        else
          let (x, f) := mergeNode T.op T.elem (ofBytes ({ s with held := [] }.loadAll tp)) (ofBytes (s.loadAll sp))
          let s' := s.setTask dst ((s.task dst).orFlags f)
          if f &&& (s'.task dst).enables != 0 then (s', .trap e 3)
          else match s.putAll (s.task dst).core tp (toBytes z x) with
            | (s', true) => ({ s' with held := s.held }.setTask dst ((s'.task dst).orFlags f)).mergeFrom dst src T S n (e + 1)
            | (s, false) => (s, .wait e)

/-- Writes the state of a view entry of a task. -/
def State.setView (s : State) (id n : Nat) (f : View → View) : State :=
  let t := s.task id
  s.setTask id { t with views := t.views.set n (f (t.views.get n default)) }

/-- A view's copy in a task that ended other than normally is the identity before it takes part in its chain (R329). -/
def State.blankEnded (s : State) (id n : Nat) : State :=
  if 16 ≤ n ∧ (s.task id).stage = .ended ∧ (s.task id).status ≠ 0 then s.blankView id n else s

/-- MERGE (R326, R328, R329): the copy of view i of a finished child is folded into its target, element by element from MELEM. -/
def execMerge (task view : Nat) (s : State) : Out :=
  match s.mergeTarget task view with
  | none => .next s
  | some (dst, n) =>
    let t := s.task task
    let T := (s.task dst).views.get n default
    let S := t.views.get (16 + view) default
    let out (s : State) : State := (s.setView dst n (fun v => { v with st := 1, mview := 0, melem := 0 })).setView task (16 + view)
      (fun v => { v with st := 4 })
    if T.st = 3 ∧ (s.task dst).status ≠ 0 then .next (out s)
    else
      let e := if T.st = 3 ∨ T.st = 2 then T.melem else 0
      let last := (((s.holders (t.parent.getD 0) t.inset view).dropWhile (· != task)).drop 1).isEmpty
      let s := if e = 0 ∧ last then s.blankEnded task (16 + view) else s
      let s := if e = 0 then s.blankEnded dst n else s
      let z := T.elem.bytes
      match s.mergeFrom dst task T S (S.len / z - e) e with
      | (s, .done) => .next (out s)
      | (s, .wait e) => .next (s.setView dst n (fun v => { v with st := 2, mview := view, melem := e }))
      | (s, .memory e code va) =>
        .next ((s.setView dst n (fun v => { v with st := 3, mview := view, melem := e })).mergeSuspend dst code va
          (wd (view * 2 ^ 32 + e)))
      | (s, .trap e code) =>
        .next ((s.setView dst n (fun v => { v with st := 3, mview := view, melem := e })).mergeTrap dst code
          (wd (view * 2 ^ 32 + e)))

/-! ### The end of a task's count -/

/-- Starts the serial re-execution of a task's subtree (R343); each descendant keeps its count until a child runs it again (R42). -/
def State.reexecute (s : State) (id : Nat) : State :=
  let s := s.blankCopies id
  let s := (s.descendants 256 [id]).foldl (fun s k => s.setTask k { s.task k with commit := 3 }) s
  let s := ((s.stopHelpers id).leaveGroups id).releaseClaims id
  let t := s.task id
  let s := s.setTask id { t.begun with stage := .waiting, tmap := [], saved := [], commit := 0, redo := 1 }
  (s.enqueue [id]).passBaton t.group

/-- The digest check of a task whose descendants have all retired (R342, R343). -/
def State.checkTask (s : State) (id : Nat) : State :=
  let t := s.task id
  if s.digestAgrees id then s.setTask id { t with redo := 2 }
  else
    let s := (s.tally (dieOf t.core) 0x44).report id 6 7 t.coordHash
    if t.redo = 1 then s.setTask id { t with redo := 2, status := 2 } else s.reexecute id

/-- Whether the tokens of an ended task have completed (R31): an operation that a fault has stopped writes no more, and ends with its
task (notes/assumptions/29.md). -/
def Task.tokensDone (t : Task) : Bool := t.toks.all (fun x => x.2.st != .pending)

/-- Whether an ended task can be counted out (R27, R31, R43, R338): its tokens and helpers are done, no merge needs its storage any more,
and in ordered mode it has committed. Its children may live on (R184). -/
def State.canRetire (s : State) (id : Nat) : Bool :=
  let t := s.task id
  t.stage == .ended && (s.mergesOf t).isEmpty && (!t.ord || t.commit == 2) && t.susp.isNone && t.tokensDone && !s.helperBusy id

/-- Discards what is left of an ended task's engine operations, whose refused pushes give up their numbers (R94). -/
def State.discardOps (s : State) (id : Nat) : State :=
  let s := ((s.cluster (clusterOf (s.task id).core)).cpq.filter (fun o => o.task == id)).foldl State.dropNumber s
  s.dropOps id

/-- Counts a task out (R43): its status at every level of its path, then its counters in ascending level order; its claims, its
slot and its broadcast membership end. -/
def State.retire (s : State) (id : Nat) : State :=
  let s := (((s.discardOps id).stopHelpers id).leaveGroups id).releaseClaims id
  let t := s.task id
  let s := s.setTask id { t with stage := .retired, rslot := 0, stores := [], ordered := [] }
  (s.countStatus t.group t.path t.status true).leaveNodes t.group t.path

/-- TASK_END (R42, R43): an ended task's accesses are performed, its digest is checked, then it is counted out. -/
def execTaskEnd (task : Nat) (s : State) : Out :=
  let t := s.task task
  if t.stage != .ended then .next s
  else
    let s := { s with cur := task }.settleAll task
    let t := s.task task
    if !t.memIdle then .next s
    else if !s.checked t then
      .next (if (s.descendants 256 [task]).all (fun k => (s.task k).stage == .retired) && t.susp.isNone && t.tokensDone && !s.helperBusy task &&
          (!t.ord || t.commit == 2) then s.checkTask task
        else s)
    else .next (if s.canRetire task then s.retire task else s)

/-! ### Ordered mode (R330, R332, R337) -/

/-- The task of a group that commits next: it has ended, its tokens with it (R31), and every other uncommitted task has a larger key
(R330). -/
def State.committer (s : State) (g : Nat) : Option Nat :=
  ((s.pending g).find? (fun x => x.2.stage == .ended && x.2.tokensDone && s.hasBaton x.1)).map (·.1)

/-- ORDERED_COMMIT (R330, R332): the baton's holder commits its bytes, and the baton moves on. -/
def execOrderedCommit (group : Nat) (s : State) : Out :=
  match s.committer group with
  | none => .next s
  | some id =>
    let s := { s with cur := id }.settleAll id
    if !(s.task id).memIdle then .next s
    else match s.commitBytes id with
      | (s, false) => .next s
      | (s, true) =>
        let t := s.task id
        let s := s.setTask id { t with commit := 2, ordered := [] }
        .next ((s.tally (dieOf t.core) 0x40).passBaton group)

end Sys2Proof.Machine
end

