-- ==== Sys2Proof/Machine/Helper.lean ====
section
/-! DEFINITION. The helper cores (spec/10_helper_cores.md R304-R317): the base instructions of RV64IMAC, the stream forms, the
queue and bulk forms, exceptions and stalls. -/

namespace Sys2Proof.Machine

open Host Arith

/-- The helper that a step of a helper names: 0 the Retriever, 1 the Setter. -/
def State.hsel (s : State) : Nat := if s.setter then 1 else 0

/-- The current helper. -/
def State.h (s : State) : Helper := s.helper s.core s.hsel

/-- Replaces the current helper. -/
def State.setH (s : State) (x : Helper) : State := s.setHelper s.core s.hsel x

/-- A helper's register; x0 reads zero. -/
def Helper.r (h : Helper) (n : BitVec 5) : Word := if n = 0 then 0 else h.x.get n.toNat 0

/-- Writes a helper's register; x0 ignores writes. -/
def Helper.w (h : Helper) (n : BitVec 5) (x : Word) : Helper := if n = 0 then h else { h with x := h.x.set n.toNat x }

/-- The current helper's owner in the table of reservations. -/
def State.hid (s : State) : Nat := s.core * 2 + s.hsel

/-- The end of a helper's instruction: the helper as it leaves it, with the pc after it. -/
def State.helperNext (s : State) (h : Helper) (pc : Word) : Out := .next { s.setH { h with pc := pc } with turn := none }

/-- A stall (R312, R313): the instruction is performed again when the stall ends. -/
def State.helperStall (s : State) : Out := .next { s.setH { s.h with st := 2 } with turn := none }

/-- Performs the stores of the current helper to its core's local store. -/
def State.settleH (s : State) : State := s.settleHelper s.core s.hsel

/-- Performs those stores when one of them touches bytes that the helper accesses next (R97 item 1). -/
def State.settleOver (s : State) (pa n : Nat) : State := if s.h.wr.any (fun w => overlap w.pa w.bytes.length pa n) then s.settleH else s

/-- Runs what comes after the helper's earlier accesses (R308): it stalls while one is still to be performed. -/
def State.helperDrained (s : State) (f : State → Out) : Out :=
  let s := s.settleH
  if s.h.busy then s.helperStall else f s

/-- An exception (R309): the helper halts, its status word says why, and a record goes to the Handler. The write of the status word is a
release (R306), before which the helper's accesses are performed. -/
def State.helperTrap (s : State) (cause : Nat) : Out :=
  s.helperDrained (fun s =>
    let h := s.h
    let s := s.helperStatus s.core h 2 cause h.pc.toNat
    let s := s.setH { h with st := 3 }
    .next { s.report h.task 14 1 (wd (2 * 2 ^ 56 + cause * 2 ^ 48 + h.pc.toNat % 2 ^ 32)) with turn := none })

/-! ### Loads, stores and atomics (R307, R308) -/

/-- What n bytes from a helper address lie in: the private store or local store, with their offset there (R307). -/
def helperAddr (a : Word) (n : Nat) : Option (Bool × Nat) :=
  let x := a.toNat
  if x + n ≤ 0x8000 then some (true, x)
  else if 0x100000 ≤ x ∧ x + n ≤ 0x180000 then some (false, x - 0x100000)
  else none

/-- The helper's earlier stores to bytes at one of its addresses are performed before it reads them (R97 item 1). -/
def State.helperSees (s : State) (a : Word) (n : Nat) : State :=
  match helperAddr a n with
  | some (false, off) => s.settleOver (coreWin s.core off) n
  | _ => s

/-- Reads n bytes at a helper address; none is an access fault, which poisoned bytes raise too. -/
def State.helperLoad (s : State) (a : Word) (n : Nat) : Option Nat :=
  match helperAddr a n with
  | some (true, off) => some (ofBytes (Memory.read s.h.store off n))
  | some (false, off) => if s.bad (coreWin s.core off) n then none else some (s.seeN (coreWin s.core off) n)
  | none => none

/-- The aligned pieces of a run of bytes (R88, R308), each as large as its place allows. -/
def alignedParts : Nat → Nat → List Byte → List (Nat × List Byte)
  | 0, _, _ => []
  | fuel + 1, a, bs =>
    if bs.isEmpty then []
    else
      let k := (([8, 4, 2].find? (fun k => decide (a % k = 0 ∧ k ≤ bs.length))).getD 1)
      (a, bs.take k) :: alignedParts fuel (a + k) (bs.drop k)

/-- Issues stores of the current helper (R308, R316), each to be performed in its turn. -/
def State.helperIssue (s : State) (parts : List (Nat × List Byte)) (attr : Nat) : State :=
  let h := s.h
  s.setH { h with wr := h.wr ++ parts.map (fun p => ⟨p.1, p.2, attr, h.out.length, none, 0, none, .none⟩) }

/-- A plain store of n bytes at a helper address (R308): to local store it is issued and performed later; none is an access fault. -/
def State.helperPlain (s : State) (a : Word) (n : Nat) (x : Word) : Option State :=
  match helperAddr a n with
  | some (true, off) => some (s.setH { s.h with store := Memory.write s.h.store off (toBytes n x.toNat) })
  | some (false, off) => some (s.helperIssue (alignedParts 8 (coreWin s.core off) (toBytes n x.toNat)) 0)
  | none => none

/-- Writes n bytes at a helper address in one step; none is an access fault. -/
def State.helperStore (s : State) (a : Word) (n : Nat) (x : Word) : Option State :=
  match helperAddr a n with
  | some (true, off) => some (s.setH { s.h with store := Memory.write s.h.store off (toBytes n x.toNat) })
  | some (false, off) => some (s.wrN (coreWin s.core off) n x.toNat)
  | none => none

/-- The key of a helper address in the table of reservations: local store by its physical address. -/
def State.resvKey (s : State) (a : Word) : Nat :=
  match helperAddr a 1 with
  | some (false, off) => coreWin s.core off
  | _ => 2 ^ 60 + s.hid * 2 ^ 20 + a.toNat % 2 ^ 20

/-- Whether the current helper holds a reservation of n bytes at an address. -/
def State.reserved? (s : State) (a : Word) (n : Nat) : Bool := s.lrs.contains (s.resvKey a, n, s.hid)

/-- Ends the current helper's reservation. -/
def State.unreserve (s : State) : State := { s with lrs := s.lrs.filter (fun r => r.2.2 != s.hid) }

/-- The value of a RISC-V operation on 64-bit operands. -/
def rvAlu (op : RvAlu) (a b : Word) : Word :=
  match op with
  | .add => a + b
  | .sub => a - b
  | .sll => a <<< (b.toNat % 64)
  | .slt => wbool (a.slt b)
  | .sltu => wbool (decide (a < b))
  | .xor => a ^^^ b
  | .srl => a >>> (b.toNat % 64)
  | .sra => a.sshiftRight (b.toNat % 64)
  | .or => a ||| b
  | .and => a &&& b
  | .mul => a * b
  | .mulh => BitVec.ofInt 64 (a.toInt * b.toInt / 2 ^ 64)
  | .mulhsu => BitVec.ofInt 64 (a.toInt * b.toNat / 2 ^ 64)
  | .mulhu => wd (a.toNat * b.toNat / 2 ^ 64)
  | .div => if b = 0 then BitVec.allOnes 64 else BitVec.ofInt 64 (Int.tdiv a.toInt b.toInt)
  | .divu => if b = 0 then BitVec.allOnes 64 else a / b
  | .rem => if b = 0 then a else BitVec.ofInt 64 (Int.tmod a.toInt b.toInt)
  | .remu => if b = 0 then a else a % b

/-- The value of a RISC-V W operation: on the low 32 bits, sign-extended. -/
def rvAluW (op : RvAlu) (a b : Word) : Word :=
  let x : BitVec 32 := a.setWidth 32
  let y : BitVec 32 := b.setWidth 32
  let r : BitVec 32 := match op with
    | .add => x + y
    | .sub => x - y
    | .sll => x <<< (y.toNat % 32)
    | .srl => x >>> (y.toNat % 32)
    | .sra => x.sshiftRight (y.toNat % 32)
    | .mul => x * y
    | .div => if y = 0 then BitVec.allOnes 32 else BitVec.ofInt 32 (Int.tdiv x.toInt y.toInt)
    | .divu => if y = 0 then BitVec.allOnes 32 else x / y
    | .rem => if y = 0 then x else BitVec.ofInt 32 (Int.tmod x.toInt y.toInt)
    | .remu => if y = 0 then x else x % y
    | _ => x
  r.signExtend 64

/-- Whether a RISC-V branch is taken. -/
def rvTaken (c : RvCond) (a b : Word) : Bool :=
  match c with
  | .eq => a == b
  | .ne => a != b
  | .lt => a.slt b
  | .ge => !a.slt b
  | .ltu => decide (a < b)
  | .geu => decide (b ≤ a)

/-- A loaded value of n bytes as a register's. -/
def rvExt (unsign : Bool) (n x : Nat) : Word := if unsign then wd x else BitVec.ofInt 64 (sint (8 * n) x)

/-- The new value of a RISC-V AMO, at 64 bits or, sign-extended, at 32. -/
def rvAmoNew (op : RvAmo) (dbl : Bool) (w a : Word) : Word :=
  let x : Word := if dbl then w else (w.setWidth 32).signExtend 64
  let y : Word := if dbl then a else (a.setWidth 32).signExtend 64
  let u : Word := if dbl then w else w &&& 0xFFFFFFFF
  let v : Word := if dbl then a else a &&& 0xFFFFFFFF
  match op with
  | .swap => a
  | .add => w + a
  | .xor => w ^^^ a
  | .and => w &&& a
  | .or => w ||| a
  | .min => if x.slt y then w else a
  | .max => if x.slt y then a else w
  | .minu => if u < v then w else a
  | .maxu => if u < v then a else w
  | _ => w

/-- An atomic of a helper (R308), performed in one step at its bank: LR and SC keep and test a reservation, an AMO reads and writes.
Being performed at once it comes before every later access, as its aq bit asks. -/
def State.helperAmo (s : State) (op : RvAmo) (dbl : Bool) (rd rs1 rs2 : BitVec 5) (next : Word) : Out :=
  let n := if dbl then 8 else 4
  let a := s.h.r rs1
  let isLr := op == .lr
  let s := s.helperSees a n
  if a.toNat % n ≠ 0 then s.helperTrap (if isLr then 4 else 6)
  else match s.helperLoad a n with
    | none => s.helperTrap (if isLr then 5 else 7)
    | some x =>
      let old := rvExt false n x
      match op with
      | .lr =>
        let s := s.unreserve
        let s := { s with lrs := (s.resvKey a, n, s.hid) :: s.lrs }
        s.helperNext (s.h.w rd old) next
      | .sc =>
        let hit := s.reserved? a n
        let data := s.h.r rs2
        let s := s.unreserve
        if hit then
          let s := (s.helperStore a n data).getD s
          s.helperNext (s.h.w rd 0) next
        else s.helperNext (s.h.w rd 1) next
      | op =>
        let s := (s.helperStore a n (rvAmoNew op dbl (wd x) (s.h.r rs2))).getD s
        s.helperNext (s.h.w rd old) next

/-- A base instruction of RV64IMAC (R304, R308); c says that its encoding has 16 bits. -/
def execHelperBaseInstruction (c : Bool) (op : Rv) (s : State) : Out :=
  let h := s.h
  let next := h.pc + (if c then 2 else 4)
  match op with
  | .lui rd imm => s.helperNext (h.w rd imm) next
  | .auipc rd imm => s.helperNext (h.w rd (h.pc + imm)) next
  | .jal rd imm => s.helperNext (h.w rd next) (h.pc + imm)
  | .jalr rd rs1 imm => s.helperNext (h.w rd next) ((h.r rs1 + imm) &&& ~~~1)
  | .branch c rs1 rs2 imm => s.helperNext h (if rvTaken c (h.r rs1) (h.r rs2) then h.pc + imm else next)
  | .load n u rd rs1 imm =>
    let s := s.helperSees (h.r rs1 + imm) n
    match s.helperLoad (h.r rs1 + imm) n with
    | some x => s.helperNext (s.h.w rd (rvExt u n x)) next
    | none => s.helperTrap 5
  | .store n rs1 rs2 imm =>
    match s.helperPlain (h.r rs1 + imm) n (h.r rs2) with
    | some s => s.helperNext s.h next
    | none => s.helperTrap 7
  | .opImm op w rd rs1 imm => s.helperNext (h.w rd (if w then rvAluW op (h.r rs1) imm else rvAlu op (h.r rs1) imm)) next
  | .op op w rd rs1 rs2 =>
    s.helperNext (h.w rd (if w then rvAluW op (h.r rs1) (h.r rs2) else rvAlu op (h.r rs1) (h.r rs2))) next
  | .amo op dbl _ rl rd rs1 rs2 =>
    if rl then s.helperDrained (fun s => s.helperAmo op dbl rd rs1 rs2 next) else s.helperAmo op dbl rd rs1 rs2 next
  | .ecall => s.helperTrap 11
  | .ebreak => s.helperTrap 3

/-- fence (R308): as sy.fence.core, after the helper's earlier accesses. -/
def execHelperFence (_rest : BitVec 22) (s : State) : Out := s.helperDrained (fun s => s.helperNext s.h (s.h.pc + 4))

/-! ### Stream descriptors (R311) -/

/-- A stream descriptor. -/
def Helper.stream (h : Helper) (n : Nat) : Stream := h.desc.get n ⟨0, 0, 0, 0⟩

/-- The rows and the sectors per row of a stream's SHAPE, and the row and sector of its CUR. -/
def Stream.rows (d : Stream) : Nat := wbits d.shape 31 0
/-- The sectors per row of a stream. -/
def Stream.perRow (d : Stream) : Nat := wbits d.shape 47 32
/-- The row that CUR has reached. -/
def Stream.row (d : Stream) : Nat := wbits d.cur 31 0
/-- The sector of its row that CUR has reached. -/
def Stream.sector (d : Stream) : Nat := wbits d.cur 47 32

/-- The sectors left in a stream (R311, R313). -/
def Stream.left (d : Stream) : Nat :=
  if d.rows ≤ d.row ∨ d.perRow = 0 then 0 else (d.rows - d.row) * d.perRow - d.sector

/-- CUR after n sectors (R311). -/
def Stream.after (d : Stream) (n : Nat) : Word :=
  let k := d.row * d.perRow + d.sector + n
  wd (k / d.perRow % 2 ^ 32 + k % d.perRow * 2 ^ 32)

/-- The address of the sector n sectors after CUR (R311). -/
def Stream.addr (d : Stream) (n : Nat) : Word :=
  let k := d.row * d.perRow + d.sector + n
  d.base + wd (k / d.perRow) * d.pitch + wd (k % d.perRow * 128)

/-- hx.sset (R311). -/
def execHxSset (f : BitVec 2) (st : BitVec 3) (rs1 : BitVec 5) (s : State) : Out :=
  let h := s.h
  let d := h.stream st.toNat
  let x := h.r rs1
  let d := match f.toNat with
    | 0 => { d with base := x }
    | 1 => { d with pitch := x }
    | 2 => { d with shape := x }
    | _ => { d with cur := x }
  s.helperNext { h with desc := h.desc.set st.toNat d } (h.pc + 4)

/-- hx.sget (R311). -/
def execHxSget (st : BitVec 3) (rd : BitVec 5) (s : State) : Out := s.helperNext (s.h.w rd (s.h.stream st.toNat).cur) (s.h.pc + 4)

/-! ### Queues (R312) -/

/-- The physical runs of n bytes at an offset from a queue's counter, wrapped within its buffer (R136, R277). -/
def State.queueRuns (s : State) (x : Queue) (ctr : BitVec 32) (off n : Nat) : List (Nat × Nat) :=
  let p := x.pos ctr off
  let (base, size) := match x.cfg with | some (b, e, k) => (b, 2 ^ (e + k)) | none => (0, 0)
  let first := min n (base + size - p)
  [(coreWin s.core p, first), (coreWin s.core base, n - first)].filter (fun r => r.2 != 0)

/-- Runs a queue form on a configured queue; an unconfigured one gives cause 24. The helper's earlier stores to the queue's buffer
come first (R97 item 1, R278). -/
def State.helperQueue (s : State) (q : BitVec 4) (f : Queue → State → Out) : Out :=
  let x := s.queue s.core q.toNat
  match x.cfg with
  | none => s.helperTrap 24
  | some (b, e, n) => f x (s.settleOver (coreWin s.core b) (2 ^ (e + n)))

/-- hx.qwr (R312). -/
def execHxQwr (q : BitVec 4) (rs1 rs2 : BitVec 5) (s : State) : Out :=
  s.helperQueue q (fun x s =>
    let off := (s.h.r rs1).toNat
    if off % 8 ≠ 0 then s.helperTrap 24
    else
      let s := s.queueWrite s.core x x.tail off (toBytes 8 (s.h.r rs2).toNat)
      s.helperNext s.h (s.h.pc + 4))

/-- hx.qrd (R312). -/
def execHxQrd (q : BitVec 4) (rd rs1 : BitVec 5) (s : State) : Out :=
  s.helperQueue q (fun x s =>
    let off := (s.h.r rs1).toNat
    if off % 8 ≠ 0 ∨ s.badAll (s.queueRuns x x.head off 8) then s.helperTrap 24
    else s.helperNext (s.h.w rd (wd (ofBytes (s.queueRead s.core x x.head off 8)))) (s.h.pc + 4))

/-- hx.qpub (R312, R277); with sectors outstanding on the queue it is refused and retried (R313). -/
def execHxQpub (q : BitVec 4) (rd rs1 : BitVec 5) (s : State) : Out :=
  s.helperQueue q (fun x s =>
    if s.outstanding s.core q.toNat then s.helperStall
    else match s.publish s.core q.toNat (wbits (s.h.r rs1) 31 0) with
      | none => s.helperTrap 24
      | some s => s.helperNext (s.h.w rd ((x.tail + BitVec.ofNat 32 (wbits (s.h.r rs1) 31 0)).setWidth 64)) (s.h.pc + 4))

/-- hx.qpop (R312, R277). -/
def execHxQpop (q : BitVec 4) (rd rs1 : BitVec 5) (s : State) : Out :=
  s.helperQueue q (fun x s =>
    let n := wbits (s.h.r rs1) 31 0
    if x.count < n then s.helperTrap 24
    else
      let head := x.head + BitVec.ofNat 32 n
      let s := s.setQueue s.core q.toNat { x with head := head }
      s.helperNext (s.h.w rd (head.setWidth 64)) (s.h.pc + 4))

/-- hx.qwd (R312). -/
def execHxQwd (q : BitVec 4) (rd rs1 : BitVec 5) (s : State) : Out :=
  s.helperQueue q (fun x s =>
    let n := wbits (s.h.r rs1) 31 0
    if x.cap < n then s.helperTrap 24
    else if x.count < n then s.helperStall
    else s.helperNext (s.h.w rd (wd x.count)) (s.h.pc + 4))

/-- hx.qws (R312). -/
def execHxQws (q : BitVec 4) (rd rs1 : BitVec 5) (s : State) : Out :=
  s.helperQueue q (fun x s =>
    let n := wbits (s.h.r rs1) 31 0
    if x.cap < n then s.helperTrap 24
    else if x.cap - x.count < n then s.helperStall
    else s.helperNext (s.h.w rd (wd (x.cap - x.count))) (s.h.pc + 4))

/-! ### Bulk transfers (R313) -/

/-- The checks of a bulk form: its descriptor (cause 25), then its queue (cause 24); the continuation takes the queue and the number
of sectors still to be moved. -/
def State.bulk (s : State) (q : BitVec 4) (rs1 rs2 : BitVec 5) (f : Queue → Stream → Nat → State → Out) : Out :=
  let d := s.h.stream (wbits (s.h.r rs1) 2 0)
  if d.base.toNat % 128 ≠ 0 ∨ d.pitch.toNat % 128 ≠ 0 then s.helperTrap 25
  else
    let left := min ((s.h.r rs2).toNat - s.h.moved) d.left
    let n := s.h.moved + left
    s.helperQueue q (fun x s =>
      if ¬ (128 % x.entry = 0 ∨ 128 * n % x.entry = 0) ∨ x.cap * x.entry < 128 * n then s.helperTrap 24
      else f x d left s)

/-- Replaces the CUR of a helper's stream. -/
def Helper.setCur (h : Helper) (n : Nat) (x : Word) : Helper := { h with desc := h.desc.set n { h.stream n with cur := x } }

/-- The sectors of the current helper still outstanding on a queue. -/
def Helper.outOn (h : Helper) (q : Nat) : Nat := (h.out.filter (fun o => o.1 == q)).length

/-- hx.sld (R313): the reads are issued, at most 64 of them outstanding at a time, and the form retires; the sectors are published as they
arrive. It stalls while the core's other helper has sectors outstanding on the queue. -/
def execHxSld (q : BitVec 4) (rd rs1 rs2 : BitVec 5) (s : State) : Out :=
  s.bulk q rs1 rs2 (fun x d n s =>
    let h := s.h
    let free := (x.cap - x.count) * x.entry
    let k := min n (64 - h.out.length)
    if (s.helper s.core (1 - s.hsel)).outOn q.toNat ≠ 0 ∨ free < ceilDiv (128 * h.outOn q.toNat) x.entry * x.entry + 128 * n ∨ (k = 0 ∧ n ≠ 0) then
      s.helperStall
    else
      let st := wbits (h.r rs1) 2 0
      let secs := (List.range k).map (fun i => (q.toNat, (d.addr i).toNat, st * 2 ^ 48 + (d.after i).toNat, h.pc.toNat))
      let h := { h with out := h.out ++ secs }
      let h := if k = 0 then h else h.setCur st (d.after k)
      if k < n then (s.setH { h with moved := h.moved + k }).helperStall
      else s.helperNext ({ h with moved := 0 }.w rd (wd (h.moved + n))) (h.pc + 4))

/-- Reaches a sector of a helper's stream in its task's address space. -/
def State.sectorReach (s : State) (task : Nat) (p : Perm) (va : Word) : State × Reach :=
  let t := s.task task
  s.reach s.core (s.asidOf t) { s.accOf t with sys := false } p va 128

/-- SLD_SECTOR_PUBLISH (R313): the oldest outstanding sector's bytes are written to the queue and published; a translation error
waits for the Handler or, unresolved, stops the transfer there (R309), as an access error does, and the helper halts at the form that
issued it (R306). An ordered task's sectors take note of the read (R332, R333). -/
def execSldSectorPublish (core : Nat) (setter : Bool) (s : State) : Out :=
  let s := { s with core := core, setter := setter }
  let h := s.h
  match h.out with
  | [] => .next s
  | (q, va, mark, pc) :: rest =>
    let stop (s : State) (cause : Nat) : Out :=
      if (s.h.wr.any (fun w => !ownWindow core w.pa)) then .next s
      else
        let s := s.setH { (s.h.setCur (mark / 2 ^ 48) (wd (mark % 2 ^ 48))) with out := [], pc := wd pc, moved := 0 }
        s.helperTrap cause
    match s.sectorReach h.task .read (wd va) with
    | (s, .bad code _) =>
      if code % 256 = 1 then
        let (k, s) := s.choose 2
        if k = 0 then .next s else stop s 26
      else stop s 25
    | (s, .ok ps) =>
      if h.wr.any (fun w => w.seq == 0 && ps.any (fun p => overlap w.pa w.bytes.length p.1 p.2)) then .next s
      else match { s with cur := h.task }.engineLoad ps with
      | (s, .ok bs bad) =>
        let x := s.queue core q
        let e := x.entry
        let left := 128 * h.outOn q
        let off := (e - left % e) % e
        let runs := s.queueRuns x x.tail off 128
        let s := s.queueWrite core x x.tail off bs
        let s := if bad then s.markPieces runs else s
        let n := if e ≤ 128 then 128 / e else if off + 128 = e then 1 else 0
        let s := s.setQueue core q { x with tail := x.tail + BitVec.ofNat 32 n }
        .next (s.setH { s.h with out := rest, wr := s.h.wr.map (fun w => { w with seq := w.seq - 1 }) })
      | (s, _) => .next s

/-- The physical pieces of the sectors of a bulk store, up to the first that is not reached, with the error met there. -/
def State.bulkPieces (s : State) (task : Nat) (d : Stream) : Nat → Nat → State × List (List (Nat × Nat)) × Option Nat
  | 0, _ => (s, [], none)
  | n + 1, i =>
    match s.sectorReach task .write (d.addr i) with
    | (s, .bad code _) => (s, [], some (code % 256))
    | (s, .ok ps) =>
      let (s, r, e) := s.bulkPieces task d n (i + 1)
      (s, ps :: r, e)

/-- hx.sst (R313): the bytes at the head are read, their entries popped, and the sectors issued as stores; a poisoned sector is stored with
its mark. A translation error waits for the Handler or, unresolved, stops the transfer at its sector, as an access error
does. A speculative task serialises (R334). -/
def execHxSst (q : BitVec 4) (rd rs1 rs2 : BitVec 5) (s : State) : Out :=
  s.bulk q rs1 rs2 (fun x d n s =>
    if x.count * x.entry < 128 * n then s.helperStall
    else
      let h := s.h
      let (s, pieces, err) := s.bulkPieces h.task d n 0
      let (k, s) := s.choose 2
      if err = some 1 ∧ k = 0 then s.helperStall
      else match { s with cur := h.task }.engineSerial with
        | (s, false) => s.helperStall
        | (s, true) =>
          let s := pieces.zipIdx.foldl (fun s (ps, i) =>
            let bad := s.badAll (s.queueRuns x x.head (128 * i) 128)
            let bs := s.queueRead s.core x x.head (128 * i) 128
            (s.noteAll ps).helperIssue [((ps.headD (0, 0)).1, bs)] ((s.pageAttr (d.addr i)) + (if bad then 4 else 0))) s
          let done := pieces.length
          let s := s.setQueue s.core q.toNat { x with head := x.head + BitVec.ofNat 32 (128 * done / x.entry) }
          let st := wbits (h.r rs1) 2 0
          let s := s.setH (if done = 0 then s.h else s.h.setCur st (d.after done))
          match err with
          | some 1 => s.helperTrap 26
          | some _ => s.helperTrap 25
          | none => s.helperNext (s.h.w rd (wd n)) (s.h.pc + 4))

/-- Performs the k-th store that a helper of a core has issued, once its earlier accesses to those bytes are performed (R97 item 1): one to global
memory waits until the core's die owns its line (R451). -/
def State.performHelper (s : State) (core h k : Nat) : State :=
  let x := s.helper core h
  match x.wr[k]? with
  | none => s
  | some w =>
    let n := w.bytes.length
    let drop (s : State) : State :=
      let s := if 4 ≤ w.attr then s.markPieces [(w.pa, n)] else s
      s.setHelper core h { s.helper core h with wr := (s.helper core h).wr.eraseIdx k }
    if (x.wr.take k).any (fun y => overlap y.pa y.bytes.length w.pa n) then s
    else if ownWindow core w.pa then drop (s.store w.pa w.bytes)
    else if w.seq ≠ 0 then s
    else match w.push with
    | some (c, q) =>
      match s.offerPush core c q w.bytes w.tries w.num with
      | .ok s => drop s
      | .discard s => drop s
      | .refused s i num =>
        let x := s.helper core h
        s.setHelper core h { x with wr := x.wr.set k { w with tries := i, num := num } }
    | none =>
    if w.attr % 4 = 2 then
      match s.homeClear w.pa n with
      | (s, true) => drop (s.homeStore w.pa w.bytes)
      | (s, false) => s
    else match s.put core w.pa w.bytes with
      | (s, true) => drop s
      | (s, false) => s

/-- hx.bsx (R314). -/
def execHxBsx (q : BitVec 4) (rd rs1 rs2 : BitVec 5) (s : State) : Out :=
  let pos := (s.h.r rs1).toNat
  let w := wbits (s.h.r rs2) 6 0
  if w = 0 then s.helperNext (s.h.w rd 0) (s.h.pc + 4)
  else if 64 < w then s.helperTrap 2
  else s.helperQueue q (fun x s =>
    if x.cap * x.entry * 8 < pos + w then s.helperTrap 24
    else if x.count * x.entry * 8 < pos + w then s.helperStall
    else
      let first := pos / 8
      let n := (pos + w - 1) / 8 - first + 1
      if s.badAll (s.queueRuns x x.head first n) then s.helperTrap 24
      else
        let v := ofBytes (s.queueRead s.core x x.head first n) / 2 ^ (pos % 8) % 2 ^ w
        s.helperNext (s.h.w rd (wd v)) (s.h.pc + 4))

/-- hx.lhint (R315): it changes priority only. -/
def execHxLhint (st : BitVec 3) (rs1 : BitVec 5) (s : State) : Out :=
  let h := s.h
  s.helperNext { h with hint := h.hint.set st.toNat (h.r rs1) } (h.pc + 4)

/-- hx.fence (R315): every earlier access, the bulk ones included, is performed first; scopes 6 and 7 are illegal (R310). -/
def execHxFence (scope : BitVec 3) (s : State) : Out :=
  if 6 ≤ scope.toNat then s.helperTrap 2
  else s.helperDrained (fun s => s.helperNext s.h (s.h.pc + 4))

/-- hx.stop (R315): a bulk transfer in flight finishes first. -/
def execHxStop (rs1 : BitVec 5) (s : State) : Out :=
  s.helperDrained (fun s =>
    let h := s.h
    let s := s.helperStatus s.core h 1 0 (h.r rs1).toNat
    .next { s.setH { h with st := 0 } with turn := none })

/-- HELPER_STALL_END (R312, R313): a stalled helper performs its instruction again. -/
def execHelperStallEnd (core : Nat) (setter : Bool) (s : State) : Out :=
  let s := { s with core := core, setter := setter }
  if s.h.st = 2 then .next (s.setH { s.h with st := 1 }) else .next s

/-! ### Fetch and start (R305, R307) -/

/-- The instruction at a helper's pc in its private store: an access fault, an illegal instruction, or its meaning. -/
inductive HFetch where
  | access
  | illegal
  | op (i : Instr)
deriving Repr

/-- Two bytes at a helper address, as a fetch reads them (R307): none is an access fault. -/
def State.helperParcel (s : State) (a : Word) : Option Nat :=
  match helperAddr a 2 with
  | some (true, off) => some (ofBytes (Memory.read s.h.store off 2))
  | some (false, off) => if s.bad (coreWin s.core off) 2 then none else some (s.rdN (coreWin s.core off) 2)
  | none => none

/-- Fetches and decodes the current helper's next instruction (R307). -/
def State.helperFetch (s : State) : HFetch :=
  match s.helperParcel s.h.pc with
  | none => .access
  | some lo =>
    if lo % 4 ≠ 3 then (match decodeRv16 (BitVec.ofNat 16 lo) with | some i => .op i | none => .illegal)
    else match s.helperParcel (s.h.pc + 2) with
      | none => .access
      | some hi => match decodeHelper (BitVec.ofNat 32 (lo + hi * 65536)) with
        | some i => .op i
        | none => .illegal

/-- A helper at its start (R305): its image in the private store, and its registers. -/
def Helper.begun (id : Nat) (t : Task) (h : Nat) (image : List Byte) : Helper :=
  { (default : Helper) with
    st := 1, task := id, pc := wd (t.helperWord h 2), store := Memory.cells 0 image, stat := t.helperWord h 4
    x := [(2, 0x8000), (10, wd (t.helperWord h 3)), (11, t.ctl.taskid), (12, wd (t.helperWord h 4))] }

/-- Starts the helpers that a task claims (R305): a helper image that cannot be read is reported by none. -/
def State.startHelpers (s : State) (id : Nat) : Option State :=
  [0, 1].foldl (fun s h =>
    s.bind (fun s =>
      let t := s.task id
      if !t.claims h then some s
      else
        let g := s.group t.group
        match s.groupRead g .read (wd (t.helperWord h 0)) (t.helperWord h 1) with
        | (_, .bad _ _) => none
        | (s, .ok ps) =>
          let x := Helper.begun id t h (s.loadAll ps)
          let s := s.wr (coreWin t.core x.stat) (toBytes 8 0)
          some (s.setHelper t.core h x))) (some s)

end Sys2Proof.Machine
end

