-- ==== Sys2Proof/Machine/Storage.lean ====
section
/-! DEFINITION. The storage a task holds on a core: its tiles, its local-store ranges and its view copies; the save areas and the
context image; scan-out, and claims (spec/16_traps_preemption.md R409-R414; 11 R322, R327; 17 R422, R425). -/

namespace Sys2Proof.Machine

open Host Arith

/-! ### Save areas -/

/-- The Handler data of a die's reserved range (R480). -/
def handlerArea (die : Nat) : Nat := (die + 1) * stackSize - 64 * 2 ^ 20

/-- The addresses and sizes of a task's context image and save areas. -/
def Task.areas (t : Task) : List (Nat × Nat) :=
  [(t.image, 0x20000), (t.tsave, 0x20000), (t.lsave, 0x80000)].filter (fun r => r.1 != 0)

/-- The lowest free room in a die's Handler data, at a multiple of 128 KiB. -/
def State.alloc (s : State) (die size : Nat) : Option Nat :=
  ((List.range 64).map (fun i => handlerArea die + 0x20000 * i)).find? (fun a =>
    decide (a + size ≤ handlerArea die + 0x800000) &&
      s.tasks.all (fun x => x.2.stage == .retired || x.2.areas.all (fun r => !overlap a size r.1 r.2)))

/-- Writes a task's context image (R410); none when there is no room for it. -/
def State.writeImage (s : State) (id state : Nat) (status info : Word) : Option State :=
  let t := s.task id
  (if t.image = 0 then s.alloc (dieOf t.core) 0x20000 else some t.image).map (fun a =>
    let s := s.setTask id { t with image := a }
    s.wr a (Parts.slice (imageParts (s.task id) state (s.ndie t) (s.ldie t) status info) 0 0x20000))

/-! ### Storage in place -/

/-- Whether a task has storage on its core. -/
def Task.placed (t : Task) : Bool := t.stage == .resident || t.stage == .preempted || t.stage == .ended

/-- The codes of the storage that a task has in place. -/
def Task.inPlace (t : Task) : List Nat :=
  (t.tmap.map (·.1) ++ t.localStore.map (·.1)).filter (fun c => !t.isSaved c)

/-- The local store held on a core: task, code, offset and size. -/
def State.heldOn (s : State) (core : Nat) : List (Nat × Nat × Nat × Nat) :=
  (s.tasks.filter (fun x => x.2.placed && x.2.core == core)).flatMap (fun x =>
    (x.2.localStore.filter (fun r => !x.2.isSaved r.1)).map (fun r => (x.1, r)))

/-- Whether an operation of a task has still to complete (R228, R412), one that a fault has stopped included. -/
def State.working (s : State) (id : Nat) : Bool :=
  (s.cores.flatMap (fun c => c.2.mxq ++ c.2.anq ++ c.2.xfq) ++ s.clusters.flatMap (fun x => x.2.cpq)).any (fun o => o.task == id)

/-- Where a piece of storage lies in the save areas: whether it is a tile, and its offset there (R412). -/
def saveOff (t : Task) (code : Nat) : Nat :=
  if code < 192 then (code - 160) * 0x800
  else if code < 224 then 0x8000 + (code - 192) * 0x1000
  else if code < 256 then 0x10000 + (code - 224) * 0x1000
  else match t.localStore.find? (fun r => r.1 == code) with | some r => r.2.1 | none => 0

/-- The window offset and size of a piece of storage in place. -/
def Task.piece (t : Task) (code : Nat) : Nat × Nat :=
  if code < 256 then (tileOff (code / 32) (t.tmap.get code 0), tileSize (code / 32))
  else match t.localStore.find? (fun r => r.1 == code) with | some r => r.2 | none => (0, 0)

/-- Gives a task the save areas that pieces of its storage need. -/
def State.roomFor (s : State) (id : Nat) (codes : List Nat) : Option State := do
  let t := s.task id
  let s ← if t.tsave = 0 ∧ codes.any (· < 256) then
      (s.alloc (dieOf t.core) 0x20000).map (fun a => s.setTask id { t with tsave := a }) else some s
  let t := s.task id
  if t.lsave = 0 ∧ codes.any (256 ≤ ·) then
    (s.alloc (dieOf t.core) 0x80000).map (fun a => s.setTask id { t with lsave := a }) else some s

/-- Saves one piece of a task's storage and releases it. -/
def State.savePiece (s : State) (id code : Nat) : State :=
  let t := s.task id
  let (off, n) := t.piece code
  let c := s.coreAt t.core
  let k := t.tmap.get code 0
  let tag := if code / 32 = 6 then s.tag t.core k else 0
  let s := s.wr ((if code < 256 then t.tsave else t.lsave) + saveOff t code) (s.rd (coreWin t.core off) n)
  let s := if code < 256 then s.setCore t.core { c with owner := c.owner.del (code / 32 * 32 + k) } else s
  (s.setTask id { t with saved := t.saved ++ [code + 1024 * tag] }).moveHolds id

/-- Scans out pieces of a task's storage (R412): none while an operation works on them, or when the save areas have no room. -/
def State.scanOut (s : State) (id : Nat) (codes : List Nat) : Option State :=
  if codes.isEmpty then some s
  else if s.working id then none
  else (s.roomFor id codes).map (fun s => codes.foldl (fun s c => s.savePiece id c) s)

/-! ### Claims -/

/-- Whether a finished task waits for another before its merge (R326, R327): its child or a later sibling, or a descendant of
one. -/
def State.waitsOn (s : State) (a w : Nat) : Bool :=
  let x := s.task a
  (s.lineage 256 w).any (fun u =>
    let t := s.task u
    t.parent == some a || (u != a && t.parent == x.parent && t.parent.isSome && t.inset == x.inset && decide (x.idx < t.idx)))

/-- Whether a piece of a task's storage may be claimed for another (R412, R327). Storage of an ended task that no merge needs may
also go to an ended task whose own storage returns. -/
def State.mayTake (s : State) (id o code : Nat) : Bool :=
  let x := s.task o
  x.stage == .preempted || (x.stage == .ended && (s.waitsOn o id ||
    ((s.task id).stage == .ended && (s.mergesOf x).all (fun n => !s.viewIn x n code))))

/-- The name by which a task holds a physical tile, by its class and number. -/
def Task.nameOf (t : Task) (code : Nat) : Option Nat :=
  (List.find? (fun x => x.1 / 32 == code / 32 && x.2 == code % 32) t.tmap).map (·.1)

/-- Claims a physical tile of a core, scanning out the task that may lose it. -/
def State.takeTile (s : State) (id core code : Nat) : Option State :=
  let claim (s : State) : State :=
    let c := s.coreAt core
    s.setCore core { c with owner := c.owner.set code id }
  match (s.coreAt core).owner.find? code with
  | none => some (claim s)
  | some o =>
    if o = id then some s
    else match (s.task o).nameOf code with
      | some x => if s.mayTake id o x then (s.scanOut o [x]).map claim else none
      | none => none

/-- The tiles of a class that a core has (R121). -/
def tileCount (cls : Nat) : Nat := if cls = 6 then 8 else 16

/-- The physical tile that a name is mapped to (R226, R425): its own number, or the lowest unclaimed tile, or the lowest that may be
claimed. -/
def State.pickTile (s : State) (id core name : Nat) (fixed : Bool) : Option Nat :=
  let cls := name / 32
  let own := (s.coreAt core).owner
  let ks := if fixed then [name % 32] else List.range (tileCount cls)
  match ks.find? (fun k => (own.find? (cls * 32 + k)).isNone) with
  | some k => some k
  | none => ks.find? (fun k => match own.find? (cls * 32 + k) with
    | some o => (match (s.task o).nameOf (cls * 32 + k) with | some x => s.mayTake id o x | none => false)
    | none => false)

/-- Maps a tile name of a task onto a physical tile of a core. -/
def State.mapTile (s : State) (id core : Nat) (fixed : Bool) (name : Nat) : Option State := do
  let k ← s.pickTile id core name fixed
  let s ← s.takeTile id core (name / 32 * 32 + k)
  let t := s.task id
  some (s.setTask id { t with tmap := t.tmap.set name k })

/-- Runs an operation that may fail over a list. -/
def foldOpt {α : Type} (f : State → α → Option State) (s : State) : List α → Option State
  | [] => some s
  | x :: r => (f s x).bind (fun s => foldOpt f s r)

/-- Claims a range of local store of a core, scanning out the tasks that may lose theirs. -/
def State.takeRange (s : State) (id core : Nat) (r : Nat × Nat) : Option State :=
  let hit := (s.heldOn core).filter (fun h => h.1 != id && overlap h.2.2.1 h.2.2.2 r.1 r.2)
  if hit.all (fun h => s.mayTake id h.1 h.2.1) then foldOpt (fun s h => s.scanOut h.1 [h.2.1]) s hit else none

/-- Claims a helper of a core (R304, R317): a pre-empted task's helper is saved when another task claims it. -/
def State.takeHelper (s : State) (id core h : Nat) : Option State :=
  let claim (s : State) : State :=
    let c := s.coreAt core
    s.setCore core { c with claims := c.claims.set h id }
  match (s.coreAt core).claims.find? h with
  | none => some (claim s)
  | some o =>
    if o = id then some s
    else if (s.task o).stage = .preempted then
      let x := s.task o
      some (claim ((s.setTask o { x with hsave := x.hsave.set h (s.helper core h) }).setHelper core h default))
    else none

/-- The helpers that a task names. -/
def Task.helperList (t : Task) : List Nat := [0, 1].filter (fun h => t.claims h)

/-! ### A task's first placement (R322, R422) -/

/-- The effective root count of a group over every die (R21, R422). -/
def State.rootCount (s : State) (g : Group) : Nat := g.eff * (if g.span = 3 then (s.diesOf g.part).length else 1)

/-- The chunks of local store of a group's tasks (R419). -/
def Group.c1 (g : Group) : Nat := if g.at_ 116 1 = 0 then 16 else g.at_ 116 1

/-- The local-store ranges of a group's task on a strand (R422): the residual segment, then the private range. -/
def Group.rangesAt (g : Group) (strand : Nat) : List (Nat × Nat) :=
  [(g.at_ 112 4 + strand * 4096 * g.c1, 4096 * g.c1), (g.at_ 132 4 + strand * g.at_ 136 4, g.at_ 136 4)].filter (fun r => r.2 != 0)

/-- Whether ranges lie within local store and apart from each other (R422). -/
def rangesOk (rs : List (Nat × Nat)) : Bool :=
  rs.all (fun r => decide (r.1 + r.2 ≤ 0x80000)) &&
    (match rs with | [a, b] => !overlap a.1 a.2 b.1 b.2 | _ => true)

/-- Gives a task its residual slot (R422), if its group's tasks use slots. -/
def State.takeSlotNo (s : State) (id : Nat) : Option State :=
  let t := s.task id
  let g := s.group t.group
  if t.rslot ≠ 0 ∨ (g.at_ 104 4 = 0 ∧ g.at_ 128 4 = 0) then some s
  else
    let give (k : Nat) : State := s.setTask id { t with rslot := k + 1 }
    if t.parent.isNone then some (give t.idx)
    else
      let used := (s.tasks.filter (fun x => x.2.group == t.group && x.2.stage != .retired)).map (fun x => x.2.rslot)
      ((List.range (s.tasks.length + 1)).map (s.rootCount g + ·)).find? (fun k => !used.contains (k + 1)) |>.bind
        (fun k => if k < g.at_ 108 4 then some (give k) else none)

/-- The residual segments of a task on a strand (R363, R422). -/
def Group.residOf (g : Group) (strand slot : Nat) : List Word :=
  let c2 := g.at_ 104 4
  let c3 := g.at_ 128 4
  [wd g.c1, wd (g.at_ 112 4 + strand * 4096 * g.c1), wd c2, wd (g.at_ 96 8 + slot * 4096 * c2), wd c3,
    wd (g.at_ 120 8 + slot * (ceilDiv (16 * c3) 4096 * 4096 + 4096 * c3))]

/-- The first free 256-byte-aligned place for n bytes in a run of len bytes, beside ranges that are taken. -/
def freePlace (base len n : Nat) (taken : List (Nat × Nat)) : Option Nat :=
  ((List.range (len / 256)).map (fun i => base + 256 * i)).find? (fun a =>
    decide (a + n ≤ base + len) && taken.all (fun r => !overlap a n r.1 r.2))

/-- The view segments' ranges that live copies of a group hold. -/
def State.segTaken (s : State) (group : Nat) : List (Nat × Nat) :=
  (s.tasks.filter (fun x => x.2.group == group && x.2.stage != .retired && x.2.started)).flatMap (fun x =>
    x.2.copies.filterMap (fun n =>
      let v := x.2.views.get n default
      if wbits v.loc 63 62 = 0 then some (v.loc.toNat, v.len) else none))

/-- Places a copy of a task at its first admission (R322): a free tile, the view pool, or the view segment. -/
def State.placeCopy (s : State) (id core n : Nat) : Option State :=
  let t := s.task id
  let g := s.group t.group
  let v := t.views.get n default
  let put (s : State) (loc : Word) : State :=
    let t := s.task id
    s.setTask id { t with views := t.views.set n { v with loc := loc } }
  let decl := wbits v.loc 7 0
  let cls := decl / 32
  let name := cls * 32 + (t.tmap.filter (fun x => x.1 / 32 == cls)).length
  let tile : Option State :=
    if v.inTile && decide (name % 32 < tileCount cls) && decide (name / 32 = cls) then
      match (if g.flag 5 then [name % 32] else List.range (tileCount cls)).find? (fun k =>
          ((s.coreAt core).owner.find? (cls * 32 + k)).isNone) with
      | some k => (s.takeTile id core (cls * 32 + k)).map (fun s =>
          let t := s.task id
          put (s.setTask id { t with tmap := t.tmap.set name k }) (wd (2 ^ 63 + name)))
      | none => none
    else none
  match tile with
  | some s => some s
  | none =>
    match freePlace (g.at_ 140 4) (g.at_ 144 4) v.len ((s.heldOn core).map (fun h => h.2.2)) with
    | some off => some (put s (wd (2 ^ 62 + off)))
    | none =>
      (freePlace (g.at_ 148 8) (g.at_ 156 4) v.len (s.segTaken t.group)).map (fun a => put s (wd a))

end Sys2Proof.Machine
end

