-- ==== Sys2Proof/Machine/Sched.lean ====
section
/-! DEFINITION. The scheduler (spec/17_scheduler.md R421-R429; 01 R27, R28, R36-R38, R43; 16 R409, R412, R414): admission, pre-emption and
restore. -/

namespace Sys2Proof.Machine

open Host Arith

/-! ### Admission (R27, R322, R421, R422, R425) -/

/-- Moves a task's counts from one strand's path to another's (R43). -/
def State.moveCounts (s : State) (gid : Nat) (old new : List Nat) : State :=
  (s.countAt gid (new.filter (fun k => !old.contains k)) true).leaveNodes gid (old.filter (fun k => !new.contains k))

/-- The tile names of a task's budget (R226). -/
def Task.budgetNames (t : Task) : List Nat :=
  (List.range t.setup.bt).map (160 + ·) ++ (List.range t.setup.ba).map (192 + ·) ++ (List.range t.setup.bd).map (224 + ·)

/-- The tile names of a task's view copies. -/
def Task.copyTiles (t : Task) : List Nat :=
  (t.copies.filter (fun n => (t.views.get n default).inTile)).map (fun n => wbits (t.views.get n default).loc 7 0)

/-- The pool ranges of a task's copies. -/
def Task.poolRanges (t : Task) : List (Nat × Nat) := (t.localStore.filter (fun r => decide (512 ≤ r.1))).map (fun r => r.2)

/-- Takes a task out of its dispatch queue. -/
def State.dequeue (s : State) (id : Nat) : State := { s with waitq := s.waitq.filter (fun w => w.1 != id) }

/-- Makes a task resident on a strand of a core. -/
def State.seat (s : State) (id core strand : Nat) : State :=
  let t := s.task id
  let s := s.setTask id { t with stage := .resident, core := core, strand := strand, since := s.admits }
  let c := s.coreAt core
  { (s.setCore core { c with res := c.res.set strand id }) with admits := s.admits + 1 }

/-- Gives a task its otag, once (R486): the value that an unowned object holds is never one. -/
def State.giveTag (s : State) (id : Nat) : State :=
  let t := s.task id
  if t.tagged then s
  else
    let n := if wd s.otags = BitVec.allOnes 64 then s.otags + 1 else s.otags
    { (s.setTask id { t with tagged := true, ctl := { t.ctl with otag := wd n } }) with otags := n + 1 }

/-- Admits a waiting task on a strand of a core, claiming all it needs; none when something is missing. Its tiles' tags are f32
(R227). -/
def State.admitAt (s : State) (id core strand : Nat) : Option State := do
  let t := s.task id
  let g := s.group t.group
  let first := !t.started
  let rs := if first then g.rangesAt strand else t.setup.ranges
  if !rangesOk rs then none
  else
    let s ← foldOpt (fun s r => s.takeRange id core r) s (rs ++ (if first then [] else t.poolRanges))
    let s ← s.takeSlotNo id
    let s ← foldOpt (fun s h => s.takeHelper id core h) s t.helperList
    let slot := (s.task id).rslot - 1
    let s := s.setTask id { s.task id with
      tmap := [], core := core, strand := strand, started := true
      setup := { t.setup with ranges := rs, resid := if first then g.residOf strand slot else t.setup.resid }
      ctl := t.ctl }
    let s := s.giveTag id
    let s ← foldOpt (fun s n => s.mapTile id core (g.flag 5) n) s t.budgetNames
    let s := (s.seat id core strand).dequeue id
    let s ← if first then foldOpt (fun s n => s.placeCopy id core n) s t.copies
      else foldOpt (fun s n => s.mapTile id core (g.flag 5) n) s t.copyTiles
    let c := s.coreAt core
    let tags := ((s.task id).tmap.filter (fun x => x.1 / 32 == 6)).foldl (fun tg x => Tab.set tg x.2 10) c.tags
    let s := s.setCore core { c with tags := tags }
    some (if first then s.countAt t.group ((pathOf core strand).filter (· != 0)) true
      else s.moveCounts t.group (pathOf t.core t.strand) (pathOf core strand))

/-- The free strands of a core. -/
def State.freeStrands (s : State) (core : Nat) : List Nat := (List.range 4).filter (fun r => ((s.coreAt core).res.find? r).isNone)

/-! ### Restore (R414, R322, R327) -/

/-- Brings back pieces of storage from the save areas, in place on the task's core. -/
def State.fillPiece (s : State) (id code : Nat) : State :=
  let t := s.task id
  let (off, n) := t.piece code
  let s := s.wr (coreWin t.core off) (s.rd ((if code < 256 then t.tsave else t.lsave) + saveOff t code) n)
  if code / 32 = 6 then
    let c := s.coreAt t.core
    let tag := match t.saved.find? (fun x => x % 1024 == code) with | some x => x / 1024 | none => 10
    s.setCore t.core { c with tags := c.tags.set (t.tmap.get code 0) tag }
  else s

/-- Takes the helpers of a pre-empted task off the core it leaves (R317). -/
def State.packHelpers (s : State) (id : Nat) : State :=
  (s.helpersOf id).foldl (fun s h =>
    let t := s.task id
    let s := (s.setTask id { t with hsave := t.hsave.set h (s.helper t.core h) }).setHelper t.core h default
    let c := s.coreAt t.core
    s.setCore t.core { c with claims := c.claims.del h }) s

/-- Returns a task's storage to a core (R414 steps 1 and 2, R327): names to physical tiles, ranges and pool copies to their
offsets, from the save areas; what is still in place on the same core stays. -/
def State.bringBack (s : State) (id core : Nat) : Option State := do
  let t := s.task id
  let s ← if t.core = core then some s else s.scanOut id t.inPlace
  let s := if t.core = core then s else s.packHelpers id
  let t := s.task id
  let codes := t.saved.map (· % 1024)
  let s := s.setTask id { t with core := core, tmap := t.tmap.filter (fun x => !codes.contains x.1) }
  let s ← foldOpt (fun s r => if codes.contains r.1 then s.takeRange id core r.2 else some s) s t.localStore
  let s ← foldOpt (fun s n => s.mapTile id core ((s.group t.group).flag 5) n) s (codes.filter (· < 256))
  let s := codes.foldl (fun s c => s.fillPiece id c) s
  some ((s.setTask id { s.task id with saved := [], tsave := 0, lsave := 0 }).moveHolds id)

/-- Restores a task's helpers (R414 step 4). -/
def State.bringHelpers (s : State) (id core : Nat) : Option State :=
  foldOpt (fun s h => (s.takeHelper id core h).map (fun s =>
    match (s.task id).hsave.find? h with
    | some x => (s.setHelper core h x).setTask id { s.task id with hsave := (s.task id).hsave.del h }
    | none => s)) s (s.task id).helperList

/-- Restores a pre-empted task on a strand of a core (R414): its storage returns, its image is loaded, and it re-enters at its saved point, or
takes the merge trap that made it resident (R328, R403). -/
def State.restoreAt (s : State) (id core strand : Nat) : Option State := do
  let t := s.task id
  let s ← s.bringBack id core
  let s ← s.bringHelpers id core
  let s := (s.seat id core strand).dequeue id
  let t' := s.task id
  let t' := if t'.image = 0 then t' else t'.fromImage (fun o n => s.rd (t'.image + o) n)
  let t' := { t' with image := 0 }
  let t' := match t'.susp with
    | some x => if x.cls = 9 ∧ !t'.sys ∧ t'.ctl.tvec ≠ 0 then
        { t'.enterTrap 9 x.code x.info with notBefore := (s.coreAt core).cycles + 4 } else t'
    | none => t'
  some ((s.setTask id t').moveCounts t.group (pathOf t.core t.strand) (pathOf core strand))

/-- Whether a core may take tasks: it is not fused off, its island is awake (R480), and the task's limit permits it (R24). -/
def State.takes (s : State) (id core : Nat) : Bool :=
  decide (core < 512) && s.permitsCore (s.task id) core && (s.coreAt core).power == 0

/-- Whether a suspended task may take a strand: only to run a merge trap's handler (R328). -/
def Task.startable (t : Task) : Bool := match t.susp with | none => true | some x => x.cls == 9 && !t.sys && t.ctl.tvec != 0

/-- Whether a task of a serial re-execution may start (R343): no other task of its group's re-executions runs or comes before it in
pre-order. -/
def State.serialTurn (s : State) (id : Nat) : Bool :=
  let t := s.task id
  t.redo != 1 || s.tasks.all (fun x => x.1 == id || x.2.group != t.group || x.2.redo != 1 ||
    !(x.2.stage == .resident || x.2.stage == .preempted || (x.2.stage == .waiting && coordLt x.2.coord t.coord)))

/-- Whether a strand may run a task of a re-execution (R343): its root runs on its own die, its descendants on the root's strand. -/
def State.serialStrand (s : State) (id core strand : Nat) : Bool :=
  let t := s.task id
  if t.redo != 1 then true
  else match t.parent with
    | some p =>
      if (s.task p).redo = 1 then (s.task p).core == core && (s.task p).strand == strand else dieOf core == dieOf t.core
    | none => dieOf core == dieOf t.core

/-- Seats a waiting or pre-empted task on the lowest-numbered strand of a core that serves (R424); none when none does. -/
def State.seatAt (s : State) (id core : Nat) : Option State :=
  let t := s.task id
  if !s.takes id core || !t.startable || t.commit == 1 || !s.serialTurn id then none
  else
    let strands := (s.freeStrands core).filter (fun r => s.serialStrand id core r)
    match t.stage with
    | .waiting => strands.findSome? (fun r => s.admitAt id core r)
    | .preempted => strands.findSome? (fun r => s.restoreAt id core r)
    | _ => none

/-! ### Selection (R426) -/

/-- Brings the dispatch queues up to date with effective priorities (R36, R426, R428): a task whose level has changed moves to the
tail of its new level, a pre-empted owner that has risen to the head. -/
def State.requeue (s : State) : State :=
  { s with waitq := s.waitq.foldl (fun q w =>
      let p := s.effPrio w.1
      if p = w.2 then q
      else
        let rest := q.filter (fun x => x.1 != w.1)
        if w.2 < p ∧ (s.task w.1).stage = .preempted then (w.1, p) :: rest else rest ++ [(w.1, p)]) s.waitq }

/-- The task that a core takes next: the first that it can take at the highest level, or the one of that task's ordered group and
level whose key is smallest (R426). -/
def State.firstFor (s : State) (core : Nat) : Option Nat :=
  let can (id : Nat) : Bool := (s.seatAt id core).isSome
  let q := s.waitq.mergeSort (fun a b => decide (b.2 ≤ a.2))
  match q.find? (fun w => can w.1) with
  | none => none
  | some w =>
    let t := s.task w.1
    if !t.ord then some w.1
    else
      some ((q.filter (fun x => x.2 == w.2 && (s.task x.1).ord && (s.task x.1).group == t.group && can x.1)).foldl
        (fun b x => if keyLt (s.task x.1) (s.task b) then x.1 else b) w.1)

/-- Ends a task before its first bundle (R322): its copies have no storage, and contribute the identity (R329). -/
def State.endUnstarted (s : State) (id status : Nat) : State :=
  let t := s.task id
  (s.setTask id { t with
    stage := .ended, status := status, head := .finish, susp := none, sibset := t.sibset + 1
    views := t.views.map (fun v => if 16 ≤ v.1 ∧ v.2.st ≠ 0 then (v.1, { v.2 with loc := BitVec.allOnes 64, st := 4 }) else v) }).dequeue id

/-- The fault that filling a task's copies in the view segment meets, if any (R322). -/
def State.fillFault (s : State) (id : Nat) : Option (Nat × Word) :=
  (s.task id).copies.findSome? (fun n =>
    let v := (s.task id).views.get n default
    if wbits v.loc 63 62 = 0 then
      match s.viewPieces (s.task id) v.loc v.len .write with
      | (_, .bad code va) => some (code, va)
      | _ => none
    else none)

/-- TASK_ADMIT (R27, R28, R421, R424, R426): the next task for a core takes a strand there, its copies are blank, and its helpers
start. -/
def execTaskAdmit (task core : Nat) (s : State) : Out :=
  let s := s.requeue
  if (s.task task).stage ≠ .waiting ∨ s.firstFor core ≠ some task then .next s
  else match s.seatAt task core with
    | none => .next s
    | some s' =>
      match s'.fillFault task with
      | some (code, va) =>
        if code % 256 = 1 then
          let s := s.giveTag task
          let s := s.setTask task { s.task task with susp := some ⟨4, 1, va, false⟩, core := core }
          .next (s.send (dieOf core) 2 1 (code / 256) (faultRecord (s.task task) 0 (wd (4 * 2 ^ 56 + 2 ^ 48)) va))
        else .next (s.endUnstarted task 2)
      | none =>
        let t := s'.task task
        let s' := if (s.task task).started then s' else (s'.setTask task t.begun).passBaton t.group
        let s' := s'.blankCopies task
        let s' := if t.ord then s'.reserveWays (dieOf core) else s'
        match s'.startHelpers task with
        | some s' => .next s'
        | none => .next (s'.endTask task 4 0)

/-! ### Reruns -/

/-- ORDERED_RERUN (R333, R337, R426): an aborted task runs again once the task it conflicted with has committed; on its strand its
helpers start again. -/
def execOrderedRerun (task : Nat) (s : State) : Out :=
  let t := s.task task
  let b := s.task t.after
  if t.commit = 1 ∧ (b.commit = 2 ∨ b.stage = .retired) then
    let s := s.setTask task { t with commit := 0, head := .ready }
    if t.stage = .waiting then
      .next { s with waitq := (task, s.effPrio task) :: s.waitq.filter (fun w => w.1 != task) }
    else match s.startHelpers task with
      | some s => .next s
      | none => .next (s.endTask task 4 0)
  else .next s

/-! ### Pre-emption (R409, R427-R429, R37) -/

/-- Whether a task's strand may stop now (R409 step 1): it is switched out or suspended, or at a bundle boundary, or at a slot
boundary of a walk, where it may wait for a chunk (R371). -/
def State.atBoundary (s : State) (id : Nat) : Bool :=
  let t := s.task id
  let c := s.coreAt t.core
  let still := match c.freeze with | some f => f.kind == 4 | none => true
  c.issuing != some t.strand || (still && (t.slot == 0 || t.inWalk.isSome))

/-- Takes a resident task off its strand (R409): its accesses are performed and its landing loads taken in, the context image is
written, and the strand is free. Its storage stays. None when it cannot stop now. -/
def State.vacate (s : State) (id : Nat) : Option State :=
  let s := { s with cur := id }.settleAll id
  let t := s.task id
  if t.stage ≠ .resident ∨ !s.atBoundary id ∨ !t.memIdle ∨ s.helperBusy id then none
  else
    let s := t.waitingLoads.foldl (fun s x => s.arriveLoad id x.1) s
    let s := s.setTask id (s.task id).flushTop
    let t := s.task id
    (s.writeImage id (if t.susp.isSome then 2 else 1) t.stopWord t.stopInfo).map (fun s =>
      let c := s.coreAt t.core
      let s := if c.issuing = some t.strand then s.setCore t.core { c with gap := 2, switches := c.switches + 1 } else s
      let s := s.releaseStrand id
      (s.setTask id { s.task id with stage := .preempted }).enqueue [id])

/-- The resident tasks of a core. -/
def State.residents (s : State) (core : Nat) : List Nat := (s.coreAt core).res.map (·.2)

/-- Whether a task's removal lets another take a strand of its core. -/
def State.removalAdmits (s : State) (victim w : Nat) : Bool :=
  match s.vacate victim with
  | some s' => (s'.seatAt w (s.task victim).core).isSome
  | none => false

/-- The task of a core that is pre-empted for a waiting task (R427): of those less urgent whose removal admits it, the least
urgent, the latest admitted among equals. -/
def State.victimFor (s : State) (w core : Nat) : Option Nat :=
  let p := s.effPrio w
  if !s.takes w core || !(s.task w).startable || (s.seatAt w core).isSome then none
  else
    (s.residents core).foldl (fun b o =>
      if p ≤ s.effPrio o ∨ !s.removalAdmits o w then b
      else match b with
        | none => some o
        | some x =>
          if s.effPrio o < s.effPrio x ∨ (s.effPrio o = s.effPrio x ∧ (s.task x).since < (s.task o).since) then some o else b) none

/-- Whether no core lets a task take a strand. -/
def State.stranded (s : State) (w : Nat) : Bool :=
  (s.coresNear (s.task w).limit (s.task w).near).all (fun c => (s.seatAt w c).isNone)

/-- The pre-emption of an ordered group (R429): the uncommitted task of smallest key waits and cannot be placed; the speculative
task of largest key whose removal admits it. -/
def State.orderedVictim (s : State) (w : Nat) : Option Nat :=
  let t := s.task w
  if !t.ord ∨ !s.hasBaton w ∨ !s.stranded w then none
  else
    ((s.pending t.group).filter (fun x => x.2.stage == .resident && x.2.spec && s.takes w x.2.core && s.removalAdmits x.1 w)).foldl
      (fun b x => match b with
        | none => some x.1
        | some y => if keyLt (s.task y) x.2 then some x.1 else b) none

/-- Whether a task gives its strand to a pre-empted owner that it waits for (R37, R428). -/
def State.yieldsTo (s : State) (id w : Nat) : Bool :=
  (s.task w).stage == .preempted && (s.task id).head == .response && (s.waitersOn w).contains id && s.stranded w &&
    s.removalAdmits id w

/-- Whether a pre-emption request names a task. -/
def State.wanted (s : State) (id : Nat) : Bool :=
  (s.waitq.map (·.1)).any (fun w =>
    s.victimFor w (s.task id).core == some id || s.orderedVictim w == some id || s.yieldsTo id w)

/-- PREEMPTION (R409, R427). -/
def execPreemption (task : Nat) (s : State) : Out :=
  let s := s.requeue
  if (s.task task).stage ≠ .resident ∨ !s.wanted task then .next s
  else .next ((s.vacate task).getD s)

/-- Whether the image of a pre-empted task fits a core (R414): the code of class CTX when it does not, and its LANES and VER. -/
def State.shapeFault (s : State) (id : Nat) : Option (Nat × Word) :=
  let t := s.task id
  if t.stage ≠ .preempted ∨ t.image = 0 then none
  else
    let ver := s.rdN t.image 2
    let lanes := s.rdN (t.image + 2) 2
    let info := wd (lanes * 2 ^ 16 + ver)
    if lanes ≠ 64 then some (1, info) else if ver ≠ 1 then some (2, info) else none

/-- RESTORE (R414, R327): a pre-empted task takes a strand again; an ended task's storage returns for its merges. -/
def execRestore (task core : Nat) (s : State) : Out :=
  let s := s.requeue
  let t := s.task task
  if s.wantsBack t ∧ s.takes task core then
    .next (match s.bringBack task core with
      | some s => s.moveCounts t.group (pathOf t.core t.strand) (pathOf core t.strand)
      | none => s)
  else if t.stage ≠ .preempted ∨ s.firstFor core ≠ some task then .next s
  else match s.shapeFault task with
    | some (code, info) => .next ((s.report task 12 code info).dequeue task)
    | none => .next ((s.seatAt task core).getD s)

end Sys2Proof.Machine
end

