-- ==== Sys2Proof/Machine/Bundle.lean ====
section
/-! DEFINITION. A core's cycles (spec/04_core_encoding.md R126-R141; 01 R29-R35): choosing a strand, issuing a bundle, the end of a
bundle, freezes and their ends, and the double fault (16 R406). -/

namespace Sys2Proof.Machine

open Host Arith

/-! ### Choosing a strand (R33, R35) -/

/-- Whether the condition that a strand waits for holds (R35). -/
def State.condition (s : State) (id : Nat) : Bool :=
  let t := s.task id
  match t.head with
  | .ready => true
  | .tokens m => t.waitMask m == 0
  | .response => (match t.await with | some a => a.value.isSome | none => true)
  | .fence => t.memIdle
  | .qwait q n => let y := s.queue t.core q; y.cfg.isNone || decide (y.cap < n) || decide (n ≤ y.count)
  | .qspace q n => let y := s.queue t.core q; y.cfg.isNone || decide (y.cap < n) || decide (n ≤ y.cap - y.count)
  | .barrier level i phase => s.phase t.group level t.core i != phase
  | .join => t.waitMask 255 == 0 && (t.redo != 0 || s.kidsSettled t)
  | .finish => false
  | .residual => (match t.drain with | some d => d.done.isSome | none => true)
  | .baton => s.hasBaton id
  | .rerun => false
  | .suspended => t.susp.isNone

/-- Whether a strand's head condition holds (R35): a suspended strand's stays false (R408), and a pending COPY trap makes it true
(R288). -/
def State.headHolds (s : State) (id : Nat) : Bool :=
  let t := s.task id
  t.susp.isNone && ((!t.sys && !t.copyTr.isEmpty) || s.condition id)

/-- The strand that a core chooses among those ready (R35): the most urgent level, and within it the first after the strand last
chosen there. The spec does not say which comes first at a level where none has been chosen yet: here it is the lowest (DESIGN
CHOICE, notes/assumptions/2.md). A strand whose trap or return still takes its four cycles is not ready (R403, R405). -/
def State.nextStrand (s : State) (core : Nat) : Option (Nat × Nat × Nat) :=
  let c := s.coreAt core
  let ready := (c.res.filter (fun r => s.headHolds r.2 && decide ((s.task r.2).notBefore ≤ c.cycles))).map (fun r => (r.1, r.2, s.effPrio r.2))
  let top := ready.foldl (fun p r => max p r.2.2) 0
  let level := ready.filter (fun r => r.2.2 == top)
  ((List.range 4).map (fun i => (c.last.get top 3 + 1 + i) % 4)).findSome? (fun n => level.find? (fun r => r.1 == n))

/-- STRAND_SELECT (R33, R35): after the switch gap the core issues from the strand chosen. -/
def execStrandSelect (core : Nat) (s : State) : Out :=
  let c := s.coreAt core
  if c.issuing.isSome ∨ c.gap ≠ 0 then .next s
  else match s.nextStrand core with
    | none => .next s
    | some (strand, id, p) =>
      let s := s.setCore core { c with issuing := some strand, last := c.last.set p strand }
      .next (s.setTask id { s.task id with head := .ready })

/-! ### The end of a bundle (R139, R181-R186, R195) -/

/-- The loop step of a bundle that completes with no branch taken (R182, R183): the bank after it and the next bundle. -/
def Bank.loopStep (b : Bank) (pc : Word) : Bank × Word :=
  match (List.range 4).find? (fun n => b.lc.get n 0 != 0 && b.le.get n 0 == pc) with
  | none => (b, pc + 32)
  | some n =>
    let k := b.lc.get n 0
    if 1 < k.toNat then ({ b with lc := b.lc.set n (k - 1) }, b.b.get n 0) else ({ b with lc := b.lc.set n 0 }, pc + 32)

/-- The bank after a loop start of br.loop (R182). -/
def Bank.loopStart (b : Bank) (pc : Word) (l : Option (Nat × Word × Word)) : Bank :=
  match l with
  | some (n, le, cnt) => { b with b := b.b.set n (pc + 32), le := b.le.set n le, lc := b.lc.set n cnt }
  | none => b

/-- The bank and next bundle that a complete bundle leaves (R181-R183). -/
def Task.following (t : Task) : Bank × Word :=
  let b := t.bank.loopStart t.pc t.cur.loop
  match t.cur.target, t.cur.goB with
  | some x, _ => (b, x)
  | none, some n => (b, b.b.get n 0)
  | none, none => if t.cur.ret ∨ t.cur.fin.isSome then (b, t.pc + 32) else b.loopStep t.pc

/-- The writes that take effect at a bundle's end, in slot order (R195). -/
def State.endWrites (s : State) : State := s.t.cur.ends.foldl (fun s x => s.endWrite x.1 x.2) s

/-- The end of a replay's bundle (R367): the body runs through in order. -/
def State.endReplayBundle (s : State) (w : Walk) : State :=
  let s := s.endWrites
  let t := s.t
  { s.setT (Task.setNow { t with
      slot := 0, cur := default
      walk := some { w with bundle := w.bundle + 1, slot := 0 } } (t.now + 1)) with turn := none }

/-- What a bundle's slots have left for its end takes effect, once (R302): the top of the residual stack, then the writes in slot
order. -/
def State.bundleWrites (s : State) : State := (s.setT s.t.flushTop).endWrites.setCur (fun c => { c with ends := [] })

/-- The status of a task that an instruction ends: one that its handler ends takes status fault (R42, R329), unless it aborts. -/
def Task.endStatus (t : Task) (k : Nat) : Nat := if t.sys ∧ k = 0 then 2 else k

/-- The end of a bundle: its writes, its loop, its clock and the next bundle; then a return, an end, a yield or a walk. An end waits
for pending tokens (R31). The ls stores whose clock comes are performed (R193), and a handler's before its return. -/
def State.endBundle (s : State) : State :=
  match s.t.inWalk with
  | some w => s.endReplayBundle w
  | none =>
    let s := s.bundleWrites
    if s.t.cur.fin.isSome ∧ s.t.waitMask 255 ≠ 0 then s.endBlock (.tokens 255)
    else
      let t := s.t
      let e := t.cur
      let (bank, next) := t.following
      let looped := next ≠ t.pc + 32 ∧ e.target.isNone ∧ e.goB.isNone
      let s := if looped then s.trace 1 4 0 next else s
      let tick := if e.still then 0 else 1
      let s := s.setT (Task.setNow { t with bank := bank, slot := 0 } (t.now + tick))
      let s := if e.ret then s.performWhere s.cur (ownWindow s.t.core) else s.performDue
      let t := s.t
      if e.ret then (s.setT { t with cur := default }).trapReturn
      else match e.fin with
        | some (_, k) => s.endCurrent (t.endStatus (k % 16)) (wd (k / 16))
        | none =>
          match e.rev with
          | some desc => { s.startWalk desc next with turn := none }
          | none =>
            let s := s.setT { t with pc := next, cur := default }
            if e.yield then s.endBlock .ready else { s with turn := none }

/-! ### Fetch (R126, R406, R435) -/

/-- The double-fault halted state (R406): the image is written with STATE 3, a record is sent, and the task ends with status
double fault once its tokens have completed. Until the image has room the strand meets the fault again. -/
def State.doubleFault (s : State) : State :=
  let t := s.t
  let h := handlerAddr t.ctl.tvec
  let status := statusWord t 13 1
  match s.writeImage s.cur 3 status h with
  | none => { s with turn := none }
  | some s =>
    let s := s.send (dieOf t.core) 2 1 0 (faultRecord { s.t with stage := .preempted } 3 status h)
    (s.setT { s.t with slot := 5, entering := false, cur := { (default : Cur) with fin := some (0, 3) } }).endBlock (.tokens 255)

/-- A fault of a class on a fetch (R406): on that of a handler's first bundle it is a double fault, otherwise it suspends the
strand. -/
def State.fetchFault (s : State) (cls code : Nat) (info : Word) : State :=
  if s.t.sys ∧ s.t.entering then s.doubleFault else s.raise cls code info

/-- What a fetch gives. -/
inductive FetchEnd where
  | word (s : State) (w : BitVec 256)
  | wait (s : State)
  | fault (s : State) (code : Nat) (va : Word)

/-- Freezes the current core at the start of an issue cycle, which is the first of its cycles (R129, R130). -/
def State.freezeCore (s : State) (kind arg : Nat) : State :=
  { s.setC { s.c with freeze := some ⟨kind, arg, 1⟩, frozen := s.c.frozen + 1 } with turn := none }

/-- Fetches the bundle at an address: a translation miss and a bundle that has not arrived freeze the core. Whether it has arrived
is open. -/
def State.fetch (s : State) (pc : Word) : FetchEnd :=
  let t := s.t
  if !canonical pc then .fault s 3 pc
  else if (s.cached t.core (s.partOfTask t) (s.asidOf t) (va57 pc)).isNone then
    .wait (s.freezeCore 2 (va57 pc + 2 * 2 ^ 57))
  else
    let (n, s) := if s.c.fetched = some (va57 pc) then (1, s) else s.choose 2
    if n = 0 then .wait (s.freezeCore 1 (va57 pc))
    else match s.reach t.core (s.asidOf t) (s.accOf t) .fetch pc 32 with
      | (s, .bad code va) => .fault s code va
      | (s, .ok ps) =>
        if s.badAll ps then .fault s 5 pc else .word s (BitVec.ofNat 256 (ofBytes (s.loadAll ps)))

/-! ### The issue cycle -/

/-- The first landing entry that is due and whose data has not arrived (R129). -/
def Task.lateEntry (t : Task) : Option Nat :=
  (List.find? (fun (x : Nat × Land) => match x.2.pend with
    | some p => decide (p.due ≤ t.now) && p.got.isNone
    | none => false) t.bank.land).map (·.1)

/-- Counts an issued bundle and starts its slots. -/
def State.startSlots (s : State) (w : BitVec 256) : State :=
  let s := s.setC { s.c with issued := s.c.issued + 1 }
  { s.setT { s.t with cur := { s.t.cur with word := some w } } with turn := some (.slot s.cur) }

/-- Issues a fetched bundle (R30, R129, R140): its TW mask, which a replay does not test, the landing check, then the bundle-level
checks. -/
def State.issueWord (s : State) (w : BitVec 256) : State :=
  let tw := (w.extractLsb 255 248).toNat
  if s.t.slot = 0 ∧ s.t.inWalk.isNone ∧ s.t.waitMask tw ≠ 0 then s.endBlock (.tokens tw)
  else
    let s := if s.t.slot = 0 then s.setT (s.t.observe tw) else s
    match s.t.lateEntry with
    | some n => s.freezeCore 0 n
    | none =>
      if (decodeBundle w).isNone then s.raise 1 1 0 else s.startSlots w

/-- Issues the bundle at an address: results and landing data that are due land first (R127, R128, R131). -/
def State.issueAt (s : State) (pc : Word) : State :=
  if s.t.cur.word.isSome then { s with turn := some (.slot s.cur) }
  else
    let s := s.setT (if s.t.inWalk.isSome then s.t.landDue else s.t.landDue.expireFmt).landEntries
    match s.fetch pc with
    | .wait s => s
    | .fault s code va => s.fetchFault 4 code va
    | .word s w => (s.setT { s.t with entering := false }).issueWord w

/-- The pending COPY trap of lowest token (R402, R288). -/
def State.copyTrap (s : State) : State :=
  let n := (s.t.copyTr.foldl (fun b n => min b n) 7)
  (s.setT { s.t with copyTr := s.t.copyTr.filter (· != n) }).raise 8 1 (wd n)

/-- Whether the strand takes a COPY trap now: in task mode, outside a walk, between bundles or as it re-enters one. -/
def Task.copyTrapDue (t : Task) : Bool := !t.copyTr.isEmpty && !t.sys && t.walk.isNone && t.cur.word.isNone

/-- A step of a walk as the next state; a wait inside a walk is an interlock (R371). -/
def State.walkOut (e : Eff) : State :=
  match e with
  | .done s => { s with turn := none }
  | .trap s cls code info => s.raise cls code info
  | .block s _ => { s with turn := none }
  | .stay s => { s with turn := none }

/-- One cycle of the issuing strand. -/
def State.issueStrand (s : State) : State :=
  if s.t.copyTrapDue then s.copyTrap
  else match s.t.inWalk with
    | none => s.issueAt s.t.pc
    | some w =>
      if !w.replay then State.walkOut (s.walkStep w)
      else
        let d := blockDesc w.dbytes
        if d.nb ≤ w.bundle then State.walkOut (s.endReplay w)
        else s.issueAt (d.entry + wd (32 * w.bundle))

/-- BUNDLE_ISSUE (R126, R129): one cycle of a core. A bundle that a trap left complete ends first, in no cycle of its own. -/
def execBundleIssue (core : Nat) (s : State) : Out :=
  let s := { s with core := core }
  let c := s.c
  let tick (c : Core) : Core := { c with cycles := c.cycles + 1 }
  if c.gap ≠ 0 then .next (s.setC { tick c with gap := c.gap - 1 })
  else match c.issuing.bind (fun r => c.res.find? r) with
    | none => .next (s.setC (tick { c with issuing := none }))
    | some id =>
      let s := { s with cur := id }
      match c.freeze with
      | some f =>
        .next (s.setC (if f.kind = 4 then tick c
          else { tick c with frozen := c.frozen + 1, freeze := some { f with count := f.count + 1 } }))
      | none =>
        if decide (5 ≤ s.t.slot) && (match s.t.inWalk with | some w => w.replay | none => true) then .next s.endBundle
        else .next (s.setC (tick c)).issueStrand

/-- What the current strand's next slot does. -/
inductive SlotMove where
  | finish
  | skip
  | bad (code : Nat)
  | run (i : Instr)
deriving Repr

/-- The next slot of the bundle that the current strand executes (R139, R140). -/
def State.nextSlot (s : State) : SlotMove :=
  let t := s.t
  if 5 ≤ t.slot then .finish
  else match t.cur.word.bind decodeBundle with
    | none => .finish
    | some b =>
      if b.isLit t.slot then .skip
      else match b.decode t.slot with
        | .ok i => .run i
        | .error .slot => .bad 2
        | .error .port => .bad 3
        | .error .type => .bad 4

/-- Keeps the walk's position at the slot of its replay (R370). -/
def State.syncWalk (s : State) : State :=
  match s.t.inWalk with
  | some w => s.setWalk { w with slot := s.t.slot }
  | none => s

/-! ### Arrivals and expiries -/

/-- The task that a core is issuing, made current. -/
def State.issuer (s : State) (core : Nat) : Option State :=
  ((s.coreAt core).issuing.bind (fun r => (s.coreAt core).res.find? r)).map (fun id => { s with core := core, cur := id })

/-- Ends the freeze of the current core. -/
def State.unfreeze (s : State) : State := s.setC { s.c with freeze := none }

/-- LANDING_ARRIVAL (R128, R129): a load is performed, and its data ends a freeze that waits for it. -/
def execLandingArrival (task entry : Nat) (s : State) : Out :=
  let s := { s with cur := task, core := (s.task task).core }.performLoad task entry
  let here := match ((s.task task).landAt entry).pend with | some p => p.got.isSome | none => true
  match s.c.freeze, s.issuer s.core with
  | some f, some s' => .next (if here ∧ f.kind = 0 ∧ f.arg = entry ∧ s'.cur = task then s.unfreeze else s)
  | _, _ => .next s

/-- FETCH_ARRIVAL (R126, R129). -/
def execFetchArrival (core : Nat) (s : State) : Out :=
  match (s.coreAt core).freeze with
  | some f =>
    if f.kind = 1 then .next (s.setCore core { s.coreAt core with freeze := none, fetched := some f.arg }) else .next s
  | none => .next s

/-- The late-landing trap of a freeze that reaches the limit (R130, R401): its code and `xinfo`. A fetch reports its address, whether its bytes
or its translation are late, and a landing its entry. Of any other freeze the spec gives no entry number: it is a free value
(notes/assumptions/22.md). -/
def State.lateTrap (s : State) (f : Freeze) : State :=
  let va := (BitVec.ofNat 57 f.arg).signExtend 64
  if f.kind = 1 ∨ (f.kind = 2 ∧ f.arg / 2 ^ 57 = 2) then { s.fetchFault 11 2 va with turn := none }
  else if f.kind = 0 then s.suspend 11 1 (wd f.arg)
  else let (x, s) := s.freeWord; s.suspend 11 1 x

/-- FREEZE_WATCHDOG_EXPIRY (R130): at the limit the strand takes the late-landing trap to the Handler and the core goes on. -/
def execFreezeWatchdogExpiry (core : Nat) (s : State) : Out :=
  match (s.coreAt core).freeze, s.issuer core with
  | some f, some s' =>
    if f.kind ≤ 3 ∧ 2 ^ (s.coreAt core).watch ≤ f.count then .next (s'.unfreeze.lateTrap f) else .next s
  | _, _ => .next s

/-- RESULT_LATCH_LANDING (R127): what is due in a strand's latches lands. -/
def execResultLatchLanding (task : Nat) (s : State) : Out :=
  .next (if (s.task task).stage = .resident then s.setTask task (s.task task).landDue else s)

/-- FMT_SHADOW_EXPIRY (R131). -/
def execFmtShadowExpiry (task : Nat) (s : State) : Out :=
  .next (if (s.task task).stage = .resident ∧ (s.task task).inWalk.isNone then s.setTask task (s.task task).expireFmt else s)

/-- The access of a code of R444. -/
def permOf (n : Nat) : Perm := match n with | 0 => .read | 1 => .write | 2 => .fetch | _ => .atomic

/-- TRANSLATION_WALK_COMPLETE (R436, R439): the core goes on with the leaf cached, or the strand takes the walk's fault. -/
def execTranslationWalkComplete (core : Nat) (s : State) : Out :=
  match (s.coreAt core).freeze, s.issuer core with
  | some f, some s =>
    if f.kind = 2 then
      let s := s.unfreeze
      let t := s.t
      let p := permOf (f.arg / 2 ^ 57)
      match s.walkCache core (s.partOfTask t) (s.asidOf t) (f.arg % 2 ^ 57) p with
      | (s, .ok _) => .next s
      | (s, .bad reason level) =>
        let va := (BitVec.ofNat 57 f.arg).signExtend 64
        .next { (if p = .fetch then s.fetchFault 4 (trCode p reason level) va else s.raise 4 (trCode p reason level) va) with turn := none }
    else .next s
  | _, _ => .next s

/-- COPY_TRAP (R288, R402): a pending COPY trap is taken at the strand's bundle boundary. -/
def execCopyTrap (task : Nat) (s : State) : Out :=
  match s.issuer (s.task task).core with
  | some s' =>
    if s'.cur = task ∧ s'.c.gap = 0 ∧ s'.c.freeze.isNone ∧ s'.t.copyTrapDue then .next s'.copyTrap else .next s
  | none => .next s

end Sys2Proof.Machine
end

