-- ==== Sys2Proof/Machine/Launch.lean ====
section
/-! DEFINITION. The host command queues and launches (spec/17_scheduler.md R416-R423; 01 R19-R23): notifies, record fetches, refusals,
dependences and dispatch. -/

namespace Sys2Proof.Machine

open Host Arith

/-- A host command queue of a partition (R416). -/
def State.hq (s : State) (part q : Nat) : HQueue := s.hqs.get (part * 64 + q) default

/-- Replaces a host command queue. -/
def State.setHq (s : State) (part q : Nat) (x : HQueue) : State := { s with hqs := s.hqs.set (part * 64 + q) x }

/-- The REFUSE message of a queue (R445): its number, the record's SEQ and the LSTAT code. -/
def State.refuseMsg (s : State) (part q seq code : Nat) : State :=
  s.send (s.leader part) 0 3 0 (toBytes 4 q ++ toBytes 4 seq ++ toBytes 4 code)

/-- A write of a notify register (R417, R463): TAIL is stored; on a running queue an overrun sets STATE 3 and stops it. -/
def State.notify (s : State) (l q : Nat) (v : BitVec 32) : State :=
  let part := s.partOf l
  if !s.running ∨ 7 < l ∨ 63 < q ∨ s.leader part ≠ l then s
  else
    let x := s.hq part q
    let x' := { x with tail := v }
    s.setHq part q (if x.st = 1 ∧ 2 ^ x.log2n < (v - x.head).toNat then { x' with st := 3, lstat := 11 } else x')

/-- NOTIFY_WRITE (R417, R463). -/
def execNotifyWrite (l q : Nat) (v : BitVec 32) (s : State) : Out := .next (s.notify l q v)

/-! ### The record's checks (R419, R420) -/

/-- A helper block's fields outside their ranges. -/
def helperBad (r : List Byte) (b : Nat) : Bool :=
  decide (0x8000 < leAt r (b + 8) 4) || decide (leAt r (b + 24) 4 % 64 ≠ 0) || decide (0x80000 < leAt r (b + 24) 4 + 64) ||
    decide (2 ≤ leAt r (b + 28) 1) || decide (leAt r (b + 29) 3 ≠ 0)

/-- A dependence word's fields outside their ranges (R419, R423). -/
def depBad (w : Nat) : Bool := decide (nbits w 29 16 ≠ 0) || (nbit w 31 && decide (nbits w 15 0 = 0))

/-- Whether a record has a field outside its range, a nonzero zero field or an unaligned address (R420, code 6). -/
def recordBad (r : List Byte) : Bool :=
  let u (off n : Nat) : Nat := leAt r off n
  decide (u 4 1 ≠ 0) || decide (nbits (u 5 1) 6 2 ≠ 0) || decide (47 < u 6 1) || decide (64 ≤ u 7 1) || decide (128 ≤ u 10 2) ||
    decide (u 32 8 % 32 ≠ 0) || (List.range 4).any (fun i => depBad (u (72 + 4 * i) 4)) || decide (u 88 8 % 128 ≠ 0) ||
    decide (u 96 8 % 4096 ≠ 0) || decide (u 112 4 % 4096 ≠ 0) || decide (64 < u 116 1) || decide (u 117 3 ≠ 0) ||
    decide (u 120 8 % 4096 ≠ 0) || (decide (u 128 4 = 0) && decide (u 120 8 ≠ 0)) || decide (u 136 4 % 4096 ≠ 0) ||
    decide (u 144 4 % 256 ≠ 0) || decide (0x80000 < u 140 4 + u 144 4) || decide (u 148 8 % 256 ≠ 0) || decide (u 156 4 % 256 ≠ 0) ||
    decide (u 160 8 % 32 ≠ 0) || decide (u 172 4 ≠ 0) || helperBad r 176 || helperBad r 208 || decide (u 240 16 ≠ 0) ||
    (decide (nbits (u 10 2) 4 0 ≠ 0) && decide (u 88 8 = 0))

/-- Whether the unit that a record names lies outside the partition or is fused off (R420, code 4). -/
def State.unitBad (s : State) (part : Nat) (r : List Byte) : Bool :=
  let n := leAt r 8 2
  if !nbit (leAt r 5 1) 7 then false
  else match leAt r 5 1 % 4 with
    | 0 => decide (512 ≤ n) || s.partOf (n / 64) != part || Config.fusedOff n
    | 1 => decide (64 ≤ n) || s.partOf (n / 8) != part || (List.range 8).all (fun i => Config.fusedOff (n * 8 + i))
    | 2 => decide (8 ≤ n) || s.partOf n != part
    | _ => false

/-- The refusal code of a record's own fields (R420), 0 when it has none; the first that applies in the order of the codes, with
code 2 and those that dispatch finds apart. -/
def State.recordCode (s : State) (part : Nat) (r : List Byte) : Nat :=
  let g : Group := { (default : Group) with record := r }
  let b := leAt r 12 4
  if nbit (leAt r 7 1) 0 ∧ leAt r 24 8 % 4 ≠ 0 then 1
  else if 16 < nbits b 4 0 ∨ 8 < nbits b 11 8 ∨ 16 < nbits b 20 16 then 3
  else if s.unitBad part r then 4
  else if nbit (leAt r 7 1) 2 ∧ nbit (leAt r 7 1) 3 then 5
  else if recordBad r then 6
  else if !rangesOk (g.rangesAt 0) then 9
  else 0

/-- Refuses an accepted record (R420, R430): it runs no task, its code goes to LSTAT and to the launch endpoint, and it completes as
refused. -/
def State.refuseGroup (s : State) (gid code : Nat) : State :=
  let g := s.group gid
  let x := s.hq g.part g.queue
  let s := s.setHq g.part g.queue { x with lstat := code }
  let s := s.setGroup gid { g with stage := 3 }
  (s.refuseMsg g.part g.queue g.seq code).firePackage gid code

/-! ### Fetching (R417, R418) -/

/-- A queue fault (R418): STATE 2 with its code; the Handler's launch endpoint and the host hear of it. -/
def State.queueFault (s : State) (part q code : Nat) : State :=
  let x := s.hq part q
  let s := s.setHq part q { x with st := 2, lstat := code, retries := 0 }
  (s.refuseMsg part q x.nseq.toNat code).interrupt x.vector

/-- Whether a queue's last record waits for its dependences (R417). -/
def State.queueHeld (s : State) (part q : Nat) : Bool := s.groups.any (fun g => g.2.part == part && g.2.queue == q && g.2.stage == 0)

/-- Whether a queue has a record to fetch. -/
def State.canFetch (s : State) (part q : Nat) : Bool :=
  let x := s.hq part q
  x.st == 1 && x.head != x.tail && !s.queueHeld part q

/-- A queue that was asked to stop stops after its current record (R445). -/
def State.stopQueue (s : State) (part q : Nat) : State :=
  let x := s.hq part q
  if x.stopReq then s.setHq part q { x with st := 0, stopReq := false } else s

/-- Accepts a record (R418): NSEQ and HEAD move on, and it is checked; a stopping queue stops. -/
def State.acceptRecord (s : State) (part q : Nat) (r : List Byte) : State :=
  let x := s.hq part q
  let gid := s.groups.length
  let s := s.setHq part q { x with nseq := x.nseq + 1, head := x.head + 1, retries := 0 }
  let s := s.setGroup gid { (default : Group) with
    part := part, queue := q, seq := leAt r 0 4, asid := x.asid, record := r }
  let code := s.recordCode part r
  if code = 0 then s else (s.refuseGroup gid code).stopQueue part q

/-- Fetches the record at HEAD (R418): a translation fault that the Handler does not resolve, an access fault or poison is a queue
fault; a SEQ that is not NSEQ is fetched again, nine times at most. -/
def State.fetchRecord (s : State) (part q : Nat) : State :=
  let x := s.hq part q
  let va := x.ring + wd (x.head.toNat % 2 ^ x.log2n * 256)
  match s.reach (s.leader part * 64) x.asid ⟨part, false, false, false⟩ .read va 256 with
  | (s, .bad code _) =>
    if code % 256 = 1 then
      let (n, s) := s.choose 2
      if n = 0 then s.queueFault part q 12 else s
    else s.queueFault part q 12
  | (s, .ok ps) =>
    if s.badAll ps then s.queueFault part q 12
    else
      let r := s.loadAll ps
      if leAt r 0 4 = x.nseq.toNat then s.acceptRecord part q r
      else if x.retries = 8 then s.queueFault part q 10
      else s.setHq part q { x with retries := x.retries + 1 }

/-- RECORD_FETCH (R417, R418): the first fetch of the record at HEAD. -/
def execRecordFetch (part q : Nat) (s : State) : Out :=
  .next (if s.canFetch part q ∧ (s.hq part q).retries = 0 then s.fetchRecord part q else s)

/-- RECORD_REFETCH (R418): a fetch after a mismatch. -/
def execRecordRefetch (part q : Nat) (s : State) : Out :=
  .next (if s.canFetch part q ∧ (s.hq part q).retries ≠ 0 then s.fetchRecord part q else s)

/-! ### Dispatch (R20-R23, R423) -/

/-- The group that a dependence of a group names: the latest record of its queue with that SEQ, unless it lies more than 65,535 records back
(R423). -/
def State.depGroup (s : State) (gid dist : Nat) : Option Nat :=
  let g := s.group gid
  let queue := s.groups.filter (fun x => x.2.part == g.part && x.2.queue == g.queue)
  let latest := (queue.filter (fun x => x.2.seq == (g.seq + 2 ^ 32 - dist) % 2 ^ 32)).foldl (fun b x => match b with
      | some y => some (max y x.1)
      | none => some x.1) none
  latest.filter (fun d => decide ((queue.filter (fun x => decide (d < x.1 ∧ x.1 ≤ gid))).length ≤ 65535))

/-- Whether every strand of a group has executed sy.trig or retired (R423, R109). -/
def State.groupTrigged (s : State) (gid : Nat) : Bool :=
  decide (1 ≤ (s.group gid).stage) &&
    (s.tasks.filter (fun t => t.2.group == gid)).all (fun t => t.2.trigged || t.2.stage == .retired)

/-- What the dependences of a group come to. -/
inductive Deps where
  | hold | wait | refused
deriving DecidableEq, Repr

/-- The state of a group's dependences (R423). -/
def State.deps (s : State) (gid : Nat) : Deps :=
  let g := s.group gid
  let each (i : Nat) : Deps :=
    let w := g.at_ (72 + 4 * i) 4
    if !nbit w 31 then .hold
    else match s.depGroup gid (nbits w 15 0) with
      | none => .hold
      | some d =>
        let st := (s.group d).stage
        if st = 3 then .refused
        else if st = 2 ∨ (nbit w 30 ∧ s.groupTrigged d) then .hold else .wait
  let all := (List.range 4).map each
  if all.contains .refused then .refused else if all.contains .wait then .wait else .hold

/-- The count of a record (R20): immediate, or read at its address; none when the read faults. -/
def State.countOf (s : State) (g : Group) : State × Option Nat :=
  if !g.flag 0 then (s, some (g.at_ 20 4))
  else match s.groupRead g .read (wd (g.at_ 24 8)) 4 with
    | (s, .ok ps) => (s, if s.badAll ps then none else some (ofBytes (s.loadAll ps)))
    | (s, .bad _ _) => (s, none)

/-- Whether a helper image of a group can be read (R305, R420 code 7). -/
def State.imageReads (s : State) (g : Group) : Bool :=
  [176, 208].all (fun b => g.at_ (b + 8) 4 == 0 ||
    (match s.groupRead g .read (wd (g.at_ b 8)) (g.at_ (b + 8) 4) with
     | (s, .ok ps) => !s.badAll ps
     | _ => false))

/-- The units of a group's span that the scheduler may choose (R424). -/
def State.unitsOf (s : State) (g : Group) : List Nat :=
  let dies := s.diesOf g.part
  match g.span with
  | 0 => (dies.flatMap (fun d => (List.range 64).map (d * 64 + ·))).filter (fun c => !Config.fusedOff c)
  | 1 => (dies.flatMap (fun d => (List.range 8).map (d * 8 + ·))).filter (fun c =>
      (List.range 8).any (fun i => !Config.fusedOff (c * 8 + i)))
  | _ => dies

/-- The unit of a group (R424): the one its record names, or the scheduler's choice. -/
def State.unitOf (s : State) (g : Group) : Nat × State :=
  if nbit (g.at_ 5 1) 7 then (g.at_ 8 2, s)
  else
    let us := s.unitsOf g
    let (n, s) := s.choose (max 1 us.length)
    (us.getD n 0, s)

/-- A root task of a group (R421): its placement limit and the core that it is relative to. -/
def Group.root (g : Group) (idx limit near : Nat) : Task :=
  let f := g.at_ 7 1
  let keyed := if nbit f 4 then 1 else 0
  let b := g.at_ 12 4
  { (default : Task) with
    stage := .waiting, idx := idx, coord := [idx], limit := limit, near := near, core := near, bprio := g.at_ 6 1, stamp := idx
    ctl := { (default : Ctl) with taskid := taskIdOf g.serial 0 idx }
    setup :=
      { entry := wd (g.at_ 32 8), arg := wd (g.at_ 40 8), tvec := wd (g.at_ 48 8) &&& 0x01FFFFFFFFFFFFE0
        seed := wd (g.at_ 64 8), key := wd (g.at_ 56 8), mode := wd (nbits f 3 1)
        rgm := keyed + (if nbit f 4 ∨ nbit f 1 then 2 else 0)
        bt := nbits b 4 0, ba := nbits b 11 8, bd := nbits b 20 16, ranges := []
        helper := g.helperWords 0 ++ g.helperWords 1, resid := []
        pre := [(2, wd idx), (4, wd idx)] } }

/-- The limits of a group's roots by index (R19, R21). -/
def State.rootsOf (s : State) (g : Group) : List (Nat × Nat × Nat) :=
  match g.span with
  | 0 => (List.range g.eff).map (fun i => (i, 0, g.unit))
  | 1 => (List.range g.eff).map (fun i => (i, 1, g.unit * 8))
  | 2 => (List.range g.eff).map (fun i => (i, 2, g.unit * 64))
  | _ => (s.diesOf g.part).zipIdx.flatMap (fun (d, l) => (List.range g.eff).map (fun j => (l * g.eff + j, 2, d * 64)))

/-- Creates a group's root tasks, counted at the package (R43), and queues them (R426). -/
def State.createRoots (s : State) (gid : Nat) : State :=
  let roots := s.rootsOf (s.group gid)
  let first := s.ntasks
  let s := { s with ntasks := s.ntasks + roots.length }
  let s := roots.zipIdx.foldl (fun s ((i, lim, near), k) =>
    let g := s.group gid
    let s := s.setGroup gid { g with kids := g.kids ++ [first + k] }
    (s.setTask (first + k) { g.root i lim near with group := gid }).countAt gid [0] true) s
  (s.enqueue ((List.range roots.length).map (first + ·))).passBaton gid

/-- Dispatches a group whose dependences hold (R20-R23). -/
def State.dispatch (s : State) (gid : Nat) : State :=
  let g := s.group gid
  match s.countOf g with
  | (s, none) => s.refuseGroup gid 2
  | (s, some n) =>
    let most := if g.span = 3 then min (g.at_ 16 4) (2 ^ 29) else g.at_ 16 4
    let eff := min n most
    let dies := if g.span = 3 then (s.diesOf g.part).length else 1
    let g := { g with serial := s.serial, eff := eff, discarded := dies * (n - eff) }
    if (g.at_ 104 4 ≠ 0 ∨ g.at_ 128 4 ≠ 0) ∧ g.at_ 108 4 < s.rootCount g then s.refuseGroup gid 6
    else if !s.imageReads g then s.refuseGroup gid 7
    else
      let (u, s) := s.unitOf g
      let s := { s.setGroup gid { g with unit := u, stage := 1 } with serial := s.serial + 1 }
      if eff = 0 then (s.firePackage gid 0).setGroup gid { s.group gid with stage := 2 } else s.createRoots gid

/-- GROUP_DISPATCH (R423). -/
def execGroupDispatch (group : Nat) (s : State) : Out :=
  let g := s.group group
  if g.stage ≠ 0 ∨ (s.groups.find? group).isNone then .next s
  else match s.deps group with
    | .wait => .next s
    | .refused => .next ((s.refuseGroup group 8).stopQueue g.part g.queue)
    | .hold => .next ((s.dispatch group).stopQueue g.part g.queue)

end Sys2Proof.Machine
end

