-- ==== Sys2Proof/Machine/Endpoints.lean ====
section
/-! DEFINITION. The Handler's endpoints and the messages of the launch, memory and fault endpoints (spec/18_translation_partitions.md
R444, R445; 17 R416; 16 R408, R415; 19 R455). The fields of a payload stand in the order of R445's table, 8 bytes each where the
spec gives no size (notes/assumptions/20.md). -/

namespace Sys2Proof.Machine

open Host Arith

/-! ### Answers (R444) -/

/-- Answers a message of an endpoint with a status and a payload, under the same SEQ (R444). -/
def State.respond (s : State) (die ep ty seq stat : Nat) (data : List Byte) : State :=
  s.outward die ep (msgBytes (ty + 0x8000) ep die seq 0 stat data)

/-- Whether a die leads its partition (R432). -/
def State.leads (s : State) (die : Nat) : Bool := s.leader (s.partOf die) == die

/-- What a message does: its new state, the status and the payload of its answer; none while an answer is still to come. -/
abbrev Reply := State × Option (Nat × List Byte)

/-- A message that has succeeded. -/
def accepted (s : State) : Reply := (s, some (0, []))
/-- A message that is answered with a status and has no effect: 1 BUSY, 2 BADARG, 3 NOTLEADER, 4 NOTYPE. -/
def declined (s : State) (stat : Nat) : Reply := (s, some (stat, []))

/-- Handles one message (R445, R477): before the boot has ended only endpoint 4 of die 0 answers, with NOTYPE; a leader's message
that reaches another die is answered with NOTLEADER. -/
def State.message (s : State) (die ep ty seq : Nat) (leader : Bool) (f : State → Reply) : State :=
  let (s, r) :=
    if !s.running then (if die = 0 ∧ ep = 4 then declined s 4 else (s, none))
    else if leader && !s.leads die then declined s 3
    else f s
  match r with
  | some (stat, data) => s.respond die ep ty seq stat data
  | none => s

/-! ### The launch endpoint -/

/-- The host command queue that a control block configures (R416), if the block is valid. -/
def queueOf (b : List Byte) : Option HQueue :=
  let ring := wd (leAt b 0 8)
  let lg := leAt b 8 1
  if lg < 4 ∨ 16 < lg ∨ ring.toNat % 256 ≠ 0 ∨ !canonical ring ∨ leAt b 11 1 / 4 ≠ 0 ∨ leAt b 28 36 ≠ 0 then none
  else some { (default : HQueue) with
    ring := ring, log2n := lg, asid := leAt b 9 1, vector := leAt b 10 1, st := 1, nseq := BitVec.ofNat 32 (leAt b 20 4) }

/-- QCFG (R416, R445). -/
def State.qcfgMsg (s : State) (die q : Nat) (block : List Byte) : Reply :=
  match queueOf block with
  | none => declined s 2
  | some x => if 63 < q then declined s 2 else accepted (s.setHq (s.partOf die) q x)

/-- QSTOP (R445): the queue stops after its current record. -/
def State.stopMsg (s : State) (die q : Nat) : Reply :=
  let part := s.partOf die
  let x := s.hq part q
  if 63 < q then declined s 2
  else if x.st ≠ 1 then accepted s
  else if s.queueHeld part q then accepted (s.setHq part q { x with stopReq := true })
  else accepted (s.setHq part q { x with st := 0 })

/-! ### The memory endpoint -/

/-- ASSET (R432, R445). -/
def State.setRoot (s : State) (die asid en root : Nat) : Reply :=
  let key := s.partOf die * 256 + asid
  if 255 < asid ∨ root % 4096 ≠ 0 then declined s 2
  else accepted { s with asids := if en % 2 = 1 then s.asids.set key root else s.asids.del key }

/-- INVAL (R441): it is answered once it completes. -/
def State.startInval (s : State) (die seq asid base len : Nat) : Reply :=
  if 255 < asid then declined s 2 else ({ s with invals := s.invals ++ [(die, seq, asid, base, len)] }, none)

/-- A translation cache without what an invalidation names: the tag of an address space, and a range or, at length 0, all of it. -/
def Tlb.drop (l : List Tlb) (tag base len : Nat) : List Tlb :=
  l.filter (fun e => !(e.asid == tag && (len == 0 || decide (e.base < base + len ∧ base < e.base + 2 ^ e.lg))))

/-- Drops translations from the caches of a partition's cores and dies. -/
def State.dropTlbs (s : State) (dies : List Nat) (f : List Tlb → List Tlb) : State :=
  { s with
    cores := s.cores.mapVals (fun n c => if dies.contains (dieOf n) then { c with tlb := f c.tlb } else c)
    dies := s.dies.mapVals (fun n d => if dies.contains n then { d with tlb := f d.tlb } else d) }

/-- The tasks of an address space of a partition. -/
def State.inSpace (s : State) (part asid : Nat) : List Nat :=
  (s.tasks.filter (fun x => (s.group x.2.group).part == part && (s.group x.2.group).asid == asid)).map (·.1)

/-- INVAL_COMPLETE (R441): every access that used a translation is performed, no cache keeps an entry of the range, and INVAL is
answered. A refused push of a strand, an engine or a helper and a request that its site has not taken hold it back. -/
def execInvalComplete (n : Nat) (s : State) : Out :=
  match s.invals[n]? with
  | none => .next s
  | some (die, seq, asid, base, len) =>
    let part := s.partOf die
    let ids := s.inSpace part asid
    let s' := ids.foldl (fun s id => { s with cur := id }.settleAll id) s
    let waits (id : Nat) : Bool := !(s'.task id).memIdle ||
      [(s'.task id).await, (s'.task id).hawait].any (fun a => match a with
        | some a => a.value.isNone && a.arg 0 != 2
        | none => false)
    let push := (s'.cores.flatMap (fun x => x.2.mxq ++ x.2.anq ++ x.2.xfq) ++ s'.clusters.flatMap (fun x => x.2.cpq)).any (fun o =>
      ids.contains o.task && !o.out.isEmpty)
    let helper := s'.cores.any (fun x => [x.2.ret, x.2.set].any (fun h => ids.contains h.task && !h.wr.isEmpty))
    if ids.any waits || push || helper then .next s'
    else
      let s := { s' with invals := s'.invals.eraseIdx n }
      let s := s.dropTlbs (s.diesOf part) (fun l => Tlb.drop l (part * 256 + asid) (va57 (wd base)) len)
      .next (s.respond die 1 2 seq 0 [])

/-- Whether a set of dies is one of the rectangles of R443: die d stands at row d / 4, column d mod 4. -/
def rectangle (l : List Nat) : Bool :=
  match l with
  | [_] => true
  | [a, b] => (b == a + 1 && a / 4 == b / 4) || b == a + 4
  | [a, b, c, d] => (a % 4 == 0 && b == a + 1 && c == a + 2 && d == a + 3) || (b == a + 1 && a / 4 == b / 4 && c == a + 4 && d == a + 5)
  | [_, _, _, _, _, _, _, _] => true
  | _ => false

/-- Whether a die's partition has all its host queues stopped, and the die no resident, pre-empted or suspended task (R443). -/
def State.quiet (s : State) (die : Nat) : Bool :=
  s.hqs.all (fun x => x.1 / 64 != s.partOf die || x.2.st != 1) &&
    s.tasks.all (fun x => dieOf x.2.core != die || !(x.2.stage == .resident || x.2.stage == .preempted || x.2.susp.isSome))

/-- The CXL ports' assignment by a PARTSET's port bytes (R443): port 0 to the partition of die 0, port 1 to that of die 7. -/
def portsOf (parts : Tab Nat) (ports : List Byte) : Tab Nat :=
  [(0, 0), (1, 7)].filterMap (fun (p, d) => if leAt ports p 1 = 0 then some (p, Tab.get parts d 0) else none)

/-- PARTSET (R443, R445, R471). -/
def State.partition (s : State) (parts ports : List Byte) : Reply :=
  let new : Tab Nat := (List.range 8).map (fun d => (d, leAt parts d 1))
  let setOf (t : Tab Nat) (d : Nat) : List Nat := (List.range 8).filter (fun e => Tab.get t e 0 == Tab.get t d 0)
  let old : Tab Nat := (List.range 8).map (fun d => (d, s.partOf d))
  let changed := (List.range 8).filter (fun d => setOf old d != setOf new d || Tab.get old d 0 != Tab.get new d 0)
  if 1 < leAt ports 0 1 ∨ 1 < leAt ports 1 1 ∨ !((List.range 8).all (fun d => rectangle (setOf new d))) then declined s 2
  else if !(changed.all s.quiet) then declined s 1
  else
    let nums := changed.map (fun d => Tab.get old d 0) ++ changed.map (fun d => Tab.get new d 0)
    accepted ({ s with
      parts := new
      portOwn := portsOf new ports
      asids := s.asids.filter (fun x => !nums.contains (x.1 / 256))
      hqs := s.hqs.filter (fun x => !nums.contains (x.1 / 64)) }.dropTlbs changed (fun _ => []))

/-- WDOG (R415): the exponent of the cores of a mask. -/
def State.setWatch (s : State) (die : Nat) (mask : Word) (w : Nat) : Reply :=
  if w < 12 ∨ 24 < w then declined s 2
  else accepted (((List.range 64).filter (fun i => wbit mask i)).foldl (fun s i =>
    s.setCore (die * 64 + i) { s.coreAt (die * 64 + i) with watch := w }) s)

/-! ### REPLCFG (R455) -/

/-- Applies one pin entry: the status of a failure, or the new state. -/
def State.pinEntry (s : State) (part : Nat) (e : List Byte) : Except Nat State :=
  let base := leAt e 0 8
  let deg := leAt e 8 1
  let pin := leAt e 9 1
  let set := leAt e 10 1
  let home := homeOf (base / 256)
  let key := base / 2 ^ 21
  let members := diesIn set
  if base % 2 ^ 21 ≠ 0 ∨ 8 * stackSize ≤ base ∨ s.partOf home ≠ part ∨ !([0, 1, 2, 4, 7].contains deg) ∨ 1 < pin ∨ leAt e 11 5 ≠ 0 ∨
      (set ≠ 0 ∧ (members.length ≠ deg ∨ members.contains home ∨ members.any (fun d => s.partOf d != part))) then .error 2
  else
    let d := s.die home
    if pin = 0 then
      match d.regions.find? key with
      | some r => .ok (s.setDie home { d with regions := d.regions.set key { r with pin := false } })
      | none => .ok s
    else
      match (if (d.regions.find? key).isSome then some d else d.newRegion key) with
      | none => .error 1
      | some d =>
        match d.regions.find? key with
        | none => .error 1
        | some r =>
          let s := s.setDie home { d with regions := d.regions.set key { r with pin := true } }
          let old := if set = 0 then r.set else r.set.filter (fun m => members.contains m)
          let new := if set = 0 then s.joiners home r else members.filter (fun m => !r.set.contains m)
          let s := s.setDegree home key deg ((old ++ new).take deg)
          .ok (if r.deg < deg then s.tally home 0x56 else if deg < r.deg then s.tally home 0x57 else s)

/-- Applies pin entries in order until one fails. -/
def State.pinAll (s : State) (part : Nat) (p : List Byte) : List Nat → Reply
  | [] => accepted s
  | i :: r =>
    let e := sliceBytes p (16 + 16 * i) 16
    if e.all (· == 0) then s.pinAll part p r
    else match s.pinEntry part e with
      | .ok s => s.pinAll part p r
      | .error st => declined s st

/-- REPLCFG (R455). -/
def State.replicate (s : State) (die : Nat) (p : List Byte) : Reply :=
  let rt := leAt p 0 4
  let ct := leAt p 4 4
  let part := s.partOf die
  if 65535 < rt ∨ 65535 < ct ∨ leAt p 8 8 ≠ 0 then declined s 2
  else
    let s := (s.diesOf part).foldl (fun s n =>
      let d := s.die n
      s.setDie n { d with rt := if rt = 0 then d.rt else rt, ct := if ct = 0 then d.ct else ct }) s
    s.pinAll part p (List.range 14)

/-! ### The fault endpoint (R408, R328, R42) -/

/-- The task of an otag that has not retired (R486). -/
def State.tagged (s : State) (otag : Word) : Option Nat :=
  (List.find? (fun (x : Nat × Task) => x.2.ctl.otag == otag && x.2.tagged && x.2.stage != .retired) s.tasks).map (·.1)

/-- The task that a FACT names, when it is suspended on the Handler (R445); a merge trap on its way to the task's own handler is
not. -/
def State.factTask (s : State) (otag : Word) : Option Nat :=
  (s.tagged otag).bind (fun id =>
    let t := s.task id
    match t.susp with
    | some x => if x.cls = 9 ∧ !t.sys ∧ t.ctl.tvec ≠ 0 then none else some id
    | none => none)

/-- End (R408): a task that a strand or an image holds ends with status fault once its tokens have completed; the rest of a
suspended merge is not merged (R329); one that has not started, or that an image holds, ends at once and retires once they have. -/
def State.factEndTask (s : State) (id : Nat) : State :=
  let t := s.task id
  if t.stage = .waiting then s.endUnstarted id 2
  else if t.stage = .ended then s.setTask id { t with susp := none, status := 2 }
  else if t.stage = .preempted then (s.endTask id 2 0).dequeue id
  else s.setTask id { t with
    susp := none, status := 2, walk := none, slot := 5, cur := { (default : Cur) with fin := some (t.slot, 2) }, head := .tokens 255 }

/-- Performs a FACT on the task it names. -/
def State.fact (s : State) (otag : Word) (f : Nat → Task → Susp → Reply) : Reply :=
  match s.factTask otag with
  | none => declined s 2
  | some id => match (s.task id).susp with
    | some x => f id (s.task id) x
    | none => declined s 2

/-- Resume (R408): the strand re-enters at its saved slot, or the merge goes on (R328). -/
def State.resume (s : State) (otag : Word) : Reply :=
  s.fact otag (fun id t x => accepted (s.setTask id { t with susp := none, head := if x.merge then t.head else .ready }))

/-- A task's own-route trap outside its turn (R403, R408): a strand that holds it issues nothing for four core cycles; of one that is out, the
trap is taken in its image. -/
def State.trapOut (s : State) (id cls code : Nat) (info : Word) : State :=
  let t := s.task id
  if t.stage = .preempted ∧ t.image ≠ 0 then
    let s := s.setTask id ((t.fromImage (fun o n => s.rd (t.image + o) n)).enterTrap cls code info)
    (s.writeImage id 1 (s.task id).stopWord (s.task id).stopInfo).getD s
  else s.setTask id { t.enterTrap cls code info with notBefore := (s.coreAt t.core).cycles + 4 }

/-- Reflect (R408): the fault goes to the task's own handler; without one above it the task ends. -/
def State.reflect (s : State) (otag : Word) : Reply :=
  s.fact otag (fun id t x =>
    if t.sys ∨ t.ctl.tvec = 0 ∨ t.stage = .waiting then accepted (s.factEndTask id)
    else if x.merge then accepted ((s.setTask id { t with susp := none }).mergeTrap id 1 x.info)
    else
      let s := { s with cur := id }.trapOut id x.cls x.code x.info
      accepted (s.trace 5 t.slot 0 (handlerAddr t.ctl.tvec)))

/-- Evict (R408): the image is written and the strand freed; a merge's target is no candidate (R328). -/
def State.evictTask (s : State) (otag : Word) : Reply :=
  s.fact otag (fun id t x =>
    if x.merge ∨ t.stage ≠ .resident then declined s 2
    else match s.vacate id with
      | some s => accepted s
      | none => declined s 1)

/-- TCANCEL (R445): a pre-empted task whose restore was refused ends with status refused. -/
def State.cancelTask (s : State) (otag : Word) : Reply :=
  match s.tagged otag with
  | none => declined s 2
  | some id =>
    let t := s.task id
    if t.stage = .preempted ∧ t.susp.isNone ∧ !(s.waitq.any (fun w => w.1 == id)) then accepted (s.endTask id 4 0)
    else declined s 2

end Sys2Proof.Machine
end

