-- ==== Sys2Proof/Machine/Xform.lean ====
section
/-! DEFINITION. The transform engine (spec/08_matrix_anchor_transform.md R249-R256): the line code, codebooks, transposes and
packings, group quantisation and statistics. -/

namespace Sys2Proof.Machine

open Host Arith

/-- A location of an xf operand (R249): local store, virtual memory, a queue, or a tile by its address, row size and element
size. -/
inductive XLoc where
  | ls (off : Nat)
  | va (base : Word)
  | queue (q off : Nat) (tail : Bool)
  | tile (pa rb : Nat)
deriving DecidableEq, Repr

/-- What an access of xf gives: a value, the operation's error, a copy fault with the first address that was not reached, the operation
with which its unit is tried again, or the abort of its task. -/
inductive XRes (α : Type) where
  | ok (x : α)
  | err (e d : Nat)
  | fault (cause : Nat) (va : Word)
  | again (o : EngOp)
  | gone
deriving Repr

/-- Continues after an access. -/
def xThen {α β : Type} (r : State × XRes α) (f : State → α → State × XRes β) : State × XRes β :=
  match r with
  | (s, .ok x) => f s x
  | (s, .err e d) => (s, .err e d)
  | (s, .fault c v) => (s, .fault c v)
  | (s, .again o) => (s, .again o)
  | (s, .gone) => (s, .gone)

/-- The offset of the first byte in a poisoned sector among physical pieces. -/
def State.firstBad (s : State) : Nat → List (Nat × Nat) → Nat
  | off, [] => off
  | off, (pa, n) :: r =>
    match (sectorsOf (s.key pa) n).find? s.poison.contains with
    | some k => off + (k * 128 - s.key pa)
    | none => s.firstBad (off + n) r

/-- Reads n bytes at an offset of a location, aligned to z in local store (R249, R256). -/
def State.xRead (s : State) (o : EngOp) (l : XLoc) (off n z : Nat) : State × XRes (List Byte) :=
  match l with
  | .ls b =>
    if (b + off) % z ≠ 0 ∨ 0x80000 < b + off + n then (s, .err 7 (b + off))
    else if s.bad (coreWin o.core (b + off)) n then (s, .err 11 0)
    else (s, .ok (s.lsBytes o.core (b + off) n))
  | .va b =>
    match s.engineReach .read (b + wd off) n with
    | (s, .bad code va) => (s, .fault (copyCause code) va)
    | (s, .ok ps) =>
      match s.engineLoad ps with
      | (s, .ok bs bad) => if bad then (s, .fault 2 (b + wd (off + s.firstBad 0 ps))) else (s, .ok bs)
      | (s, .fault code va) => (s, .fault (copyCause code) va)
      | (s, .gone) => (s, .gone)
  | .queue q p tail =>
    let x := s.queue o.core q
    let ctr := if tail then x.tail else x.head
    if x.cfg.isNone then (s, .err 10 q)
    else if (p + off) % z ≠ 0 then (s, .err 7 (p + off))
    else if (List.range n).any (fun i => s.bad (coreWin o.core (x.pos ctr (p + off + i))) 1) then (s, .err 11 0)
    else (s, .ok (s.queueRead o.core x ctr (p + off) n))
  | .tile pa _ => if s.bad (pa + off) n then (s, .err 11 0) else (s, .ok (s.see (pa + off) n))

/-- Offers the push that is write i of a unit; a refused one keeps its bytes and its number (R86, R94), and one that is taken is not made
again. -/
def State.xPush (s : State) (o : EngOp) (i core q : Nat) (bs : List Byte) : State × XRes EngOp :=
  match s.offerPush o.core core q bs (o.reg 0) (if o.reg 1 = 0 then none else some (o.reg 1 - 1)) with
  | .refused s k n =>
    (s, .again { ((o.setReg 0 k).setReg 1 (match n with | some n => n + 1 | none => 0)).setReg 9 (core * 16 + q) with out := [(i, bs)] })
  | .ok s => (s, .ok (o.noPush.setReg 5 (o.reg 5 + 2 ^ i)))
  | .discard s => (s, .ok (o.noPush.setReg 5 (o.reg 5 + 2 ^ i)))

/-- Write i of a unit: bytes at an offset of a location (R249, R256). -/
def State.xWrite (s : State) (o : EngOp) (i : Nat) (l : XLoc) (off : Nat) (bs : List Byte) (z : Nat) : State × XRes EngOp :=
  if nbit (o.reg 5) i then (s, .ok o)
  else match l with
  | .ls b =>
    if (b + off) % z ≠ 0 ∨ 0x80000 < b + off + bs.length then (s, .err 7 (b + off))
    else (s.wr (coreWin o.core (b + off)) bs, .ok o)
  | .va b =>
    match s.engineReach .write (b + wd off) bs.length with
    | (s, .bad code va) => (s, .fault (copyCause code) va)
    | (s, .ok ps) =>
      let near := ps.all (fun p => match place p.1 with | .core _ _ => true | .pad _ _ => true | _ => false)
      let (s, ready) := if near then (s, true) else s.engineSerial
      let push : Option (Nat × Nat) := match ps with | [(pa, _)] => (match place pa with | .push c q => some (c, q) | _ => none) | _ => none
      if !ready then (s, .again o)
      else match push, o.out.find? (fun x => x.1 == i) with
        | some (c, q), some (_, old) => s.xPush o i c q old
        | some (c, q), none =>
          if (s.queue c q).entry ≠ bs.length ∨ (b + wd off).toNat % bs.length ≠ 0 then (s, .fault 3 (b + wd off)) else s.xPush o i c q bs
        | none, _ =>
          match s.enginePut ps bs with
          | (s, true) => (s, .ok o)
          | (s, false) => (s, .again o)
  | .queue q p tail =>
    let x := s.queue o.core q
    let ctr := if tail then x.tail else x.head
    if x.cfg.isNone then (s, .err 10 q)
    else if (p + off) % z ≠ 0 then (s, .err 7 (p + off))
    else (s.queueWrite o.core x ctr (p + off) bs, .ok o)
  | .tile pa _ => (s.wr (pa + off) bs, .ok o)

/-- The `mode` port of an operation (R249). -/
def EngOp.xmode (o : EngOp) (hi lo : Nat) : Nat := wbits (o.pw 10) hi lo

/-- A location from its kind and port; a tile is the one that register 16 holds, or none (R226, R249). -/
def EngOp.loc (o : EngOp) (kind : Nat) (x : Word) (tail : Bool) : XLoc :=
  match kind with
  | 0 => .ls x.toNat
  | 1 => .va x
  | 2 => .queue (wbits x 3 0) (wbits x 20 8) tail
  | _ => .tile (o.reg 16 - 1) (if o.reg 17 = 5 then 64 else 128)

/-- The `from`, `to` and `tab` locations of an operation. -/
def EngOp.src (o : EngOp) : XLoc := o.loc (o.xmode 1 0) (o.pw 6) false
/-- The `to` location of an operation. -/
def EngOp.dst (o : EngOp) : XLoc := o.loc (o.xmode 3 2) (o.pw 7) true
/-- The `tab` location of an operation: read from the head of a queue never, since BK names no queue. -/
def EngOp.tabLoc (o : EngOp) : XLoc := o.loc (o.xmode 5 4) (o.pw 9) false

/-- The position of element j of z bytes: in a tile, element j mod 32 of row j / 32 (R252, R254). -/
def XLoc.elemAt (l : XLoc) (j z : Nat) : Nat :=
  match l with
  | .tile _ rb => j / 32 * rb + j % 32 * z
  | _ => j * z

/-- The element type that OT names (R249). -/
def EngOp.ot (o : EngOp) : ElemType := (ElemType.ofCode (o.xmode 11 8)).getD .f32

/-! ### Units. Registers: 0, 1 and 9 those of a refused push, whose bytes are kept beside them with their write's number; 2 the image bytes
so far of comp and decomp; 3 set when nothing is left; 4 the last zero point of gq; 5 the pushes of the unit that are done, by the number of
their writes; 16 and 17 the tile of `to`, its address plus 1 and class; 20-25 the statistics. -/

/-- The units of an operation (R290, R256), or its SHAPE value: lines, groups, elements, rows or 128-byte steps. -/
def EngOp.xUnits (o : EngOp) : Except Nat Nat :=
  let len := (o.pw 8).toNat
  let n := o.trig.toNat
  match o.form with
  | 16 => if len % 256 ≠ 0 ∨ 2 ^ 20 < len then .error len else .ok (len / 256)
  | 17 => if len % 256 ≠ 0 ∨ 2 ^ 20 < len then .error len else .ok (len / 256)
  | 18 => if 256 < n then .error n else .ok n
  | 19 => .ok 1
  | 20 =>
    let r := nbits len 15 0
    let c := nbits len 31 16
    if 4096 < r then .error r
    else if 4096 < c then .error c
    else if r = 0 ∨ c = 0 then .ok 0
    else .ok (if o.sub = 16 then r else c)
  | 21 => if 4096 < n then .error n else .ok (ceilDiv n o.gs)
  | 22 => if 4096 < n then .error n else .ok n
  | _ => if len % o.ot.bytes ≠ 0 then .error len else .ok (ceilDiv len 128 + 1)

/-- The amount completed, as the status word counts it (R290): lines, elements, rows or bytes. -/
def EngOp.xDone (o : EngOp) : Nat :=
  match o.form with
  | 21 => min (o.done * o.gs) o.trig.toNat
  | 23 => min (o.done * 128) (o.pw 8).toNat
  | _ => o.done

/-- The width of a GQ form's codes. -/
def EngOp.gw (o : EngOp) : Nat := if o.sub = 14 then 4 else 8

/-- The destination of a unit, where a poisoned source leaves its mark (R256, R288): of comp, whose image is not known then, the first
segment (notes/assumptions/25.md). -/
def EngOp.xTarget (o : EngOp) : Option (Nat × Nat) :=
  let len := (o.pw 8).toNat
  let r := nbits len 15 0
  let c := nbits len 31 16
  match o.form with
  | 16 => some (o.reg 2, 32)
  | 17 => some (256 * o.done, 256)
  | 18 => some (o.dst.elemAt o.done 2, 2)
  | 20 => some (o.done * nbits len 63 48,
      if o.sub = 16 then (if o.xmode 12 12 = 0 then c else ceilDiv (3 * c) 8) else if o.sub = 14 then ceilDiv r 2 else r)
  | 21 => some (o.done * o.gs * o.gw / 8, ceilDiv (min o.gs (o.trig.toNat - o.done * o.gs) * o.gw) 8)
  | 22 => some (o.dst.elemAt o.done o.ot.bytes, o.ot.bytes)
  | _ => none

/-- A line of comp (R251): the image at `to`, then its size byte at `tab`. -/
def State.xComp (s : State) (o : EngOp) : State × XRes EngOp :=
  xThen (s.xRead o o.src (256 * o.done) 256 1) (fun s line =>
    let img := LineCode.encode line
    xThen (s.xWrite o 0 o.dst (o.reg 2) img 1) (fun s o =>
      xThen (s.xWrite o 1 o.tabLoc o.done [BitVec.ofNat 8 (img.length / 32)] 1) (fun s o =>
        (s, .ok (o.setReg 2 (o.reg 2 + img.length))))))

/-- A line of decomp (R251): an invalid image is error CODE. -/
def State.xDecomp (s : State) (o : EngOp) : State × XRes EngOp :=
  xThen (s.xRead o o.tabLoc o.done 1 1) (fun s b =>
    let size := ofBytes b
    if size = 0 ∨ 8 < size then (s, .err 8 o.done)
    else xThen (s.xRead o o.src (o.reg 2) (32 * size) 1) (fun s img =>
      match LineCode.decode size img with
      | none => (s, .err 8 o.done)
      | some line => xThen (s.xWrite o 0 o.dst (256 * o.done) line 1) (fun s o =>
          (s, .ok (o.setReg 2 (o.reg 2 + 32 * size))))))

/-- The block of a c3 index (R252). -/
def EngOp.block (o : EngOp) (j : Nat) : Nat := (wbits (o.pw 9) 31 0 + j / 128) % 2 ^ 32

/-- The first block that cb3 needs and whose table is not held (R252). -/
def missingBlock (t : Task) (o : EngOp) : Option Nat :=
  ((List.range (ceilDiv o.trig.toNat 128)).map (fun i => o.block (128 * i))).find? (fun b =>
    match t.books.find? (b % 2) with | some k => k.tag != b | none => true)

/-- An index of cb3 (R252, R55). -/
def State.xCb3 (s : State) (o : EngOp) : State × XRes EngOp :=
  match (if o.done = 0 then missingBlock s.t o else none) with
  | some b => (s, .err 9 b)
  | none =>
    let j := o.done
    let first := 3 * j / 8
    let n := (3 * j + 2) / 8 - first + 1
    xThen (s.xRead o o.src first n 1) (fun s bs =>
      let i := ofBytes bs / 2 ^ (3 * j - 8 * first) % 8
      let x := ((s.t.books.get (o.block j % 2) ⟨[], 0⟩).table).getD i 0
      s.xWrite o 0 o.dst (o.dst.elemAt j 2) (toBytes 2 x) 2)

/-- cbtab (R252): the table of a block, in slot b mod 2. -/
def State.xCbtab (s : State) (o : EngOp) : State × XRes EngOp :=
  xThen (s.xRead o o.src 0 16 2) (fun s bs =>
    let b := o.trig.toNat
    (s.setOut s.cur { s.t with books := s.t.books.set (b % 2) ⟨elemsOf 2 bs, b⟩ }, .ok o))

/-- Byte or nibble c of row q of a repack's source, for q below R (R253). -/
def State.xColumn (s : State) (o : EngOp) (c : Nat) : Nat → Nat → State × XRes (List Nat)
  | 0, _ => (s, .ok [])
  | k + 1, q =>
    let sp := nbits (o.pw 8).toNat 47 32
    let nib := o.sub == 14
    xThen (s.xRead o o.src (q * sp + (if nib then c / 2 else c)) 1 1) (fun s b =>
      let x := if nib then ofBytes b / 16 ^ (c % 2) % 16 else ofBytes b
      xThen (s.xColumn o c k (q + 1)) (fun s r => (s, .ok (x :: r))))

/-- A row of repack (R253). -/
def State.xRepack (s : State) (o : EngOp) : State × XRes EngOp :=
  let len := (o.pw 8).toNat
  let r := nbits len 15 0
  let c := nbits len 31 16
  let sp := nbits len 47 32
  let dp := nbits len 63 48
  let i := o.done
  if o.sub = 16 then
    if o.xmode 12 12 = 0 then
      xThen (s.xRead o o.src (i * sp) (ceilDiv (3 * c) 8) 1) (fun s bs =>
        let x := ofBytes bs
        s.xWrite o 0 o.dst (i * dp) ((List.range c).map (fun j => BitVec.ofNat 8 (x / 8 ^ j % 8))) 1)
    else
      xThen (s.xRead o o.src (i * sp) c 1) (fun s bs =>
        let v := bs.map (fun b => min b.toNat 7)
        let x := v.foldr (fun b acc => b + 8 * acc) 0
        let fl := if bs.any (fun b => decide (7 < b.toNat)) then SAT else 0
        xThen (s.xWrite o 0 o.dst (i * dp) (toBytes (ceilDiv (3 * c) 8) x) 1) (fun s o =>
          (s, .ok { o with flags := o.flags ||| fl })))
  else
    xThen (s.xColumn o i r 0) (fun s v =>
      let bs := if o.sub = 14 then toBytes (ceilDiv r 2) (v.foldr (fun b acc => b + 16 * acc) 0) else v.map (BitVec.ofNat 8)
      s.xWrite o 0 o.dst (i * dp) bs 1)

/-- A group of gq (R254): codes, then scale, then zero point. -/
def State.xGq (s : State) (o : EngOp) : State × XRes EngOp :=
  let w := o.gw
  let g := o.gs
  let n := o.trig.toNat
  let ng := ceilDiv n g
  let k := min g (n - o.done * g)
  xThen (s.xRead o o.src (4 * o.done * g) (4 * k) 4) (fun s bs =>
    let xs := (elemsOf 4 bs).map (exactF .f32)
    let (sc, z, f) := gqParams w xs
    let qs := xs.map (fun x => quantGQ x sc z w o.env)
    let codes := toBytes (ceilDiv (k * w) 8) (qs.foldr (fun q acc => q.1 + acc * 2 ^ w) 0)
    let fl := qs.foldl (fun a q => a ||| q.2.1) (o.flags ||| f)
    xThen (s.xWrite o 0 o.dst (o.done * g * w / 8) codes 1) (fun s o =>
      xThen (s.xWrite o 1 o.tabLoc (2 * o.done) (toBytes 2 sc) 2) (fun s o =>
        let zb := if w = 8 then z else if o.done % 2 = 0 then z else o.reg 4 + 16 * z
        xThen (s.xWrite o 2 o.tabLoc (2 * ng + o.done * w / 8) (toBytes 1 zb) 1) (fun s o =>
          (s, .ok { o.setReg 4 z with flags := fl })))))

/-- An element of deq (R254). -/
def State.xDeq (s : State) (o : EngOp) : State × XRes EngOp :=
  let w := o.gw
  let g := o.gs
  let ng := ceilDiv o.trig.toNat g
  let j := o.done
  let code (b : List Byte) (i : Nat) : Nat := if w = 8 then ofBytes b else ofBytes b / 16 ^ (i % 2) % 16
  let z := o.ot.bytes
  let room : Bool := match o.dst with | .tile _ rb => decide (32 * z ≤ rb) && decide (j < 1024) | _ => true
  if !room then (s, .err 3 (wbits (o.pw 7) 7 0))
  else xThen (s.xRead o o.src (j * w / 8) 1 1) (fun s b =>
    xThen (s.xRead o o.tabLoc (2 * (j / g)) 2 2) (fun s sc =>
      xThen (s.xRead o o.tabLoc (2 * ng + j / g * w / 8) 1 1) (fun s zb =>
        let r := dequantGQ (code b j) (ofBytes sc) (code zb (j / g)) o.ot o.env
        xThen (s.xWrite o 0 o.dst (o.dst.elemAt j z) (toBytes z r.bits) z) (fun s o =>
          (s, .ok { o with flags := o.flags ||| r.flags })))))

/-- The statistics after one more element (R255): MIN, MAX, NANS, INFS, ZEROS, SUBN. -/
def statElem (ty : ElemType) (a : List Nat) (x : Nat) : List Nat :=
  let y := exactF ty x
  let v := (convert ty .f32 false ⟨.rne, false, 0⟩ x).bits
  let a := if isNaN y then a else (a.set 0 (fmaxmin .f32 false (a.getD 0 0) v).1).set 1 (fmaxmin .f32 true (a.getD 1 0) v).1
  let inc (i : Nat) (b : Bool) (a : List Nat) : List Nat := if b then a.set i ((a.getD i 0 + 1) % 2 ^ 32) else a
  let f := x % 2 ^ (ty.bits - 1)
  let sub := f != 0 && decide (f < 2 ^ ((Fmt.of ty).p - 1))
  inc 5 sub (inc 4 (f == 0) (inc 3 (match y with | .inf _ => true | _ => false) (inc 2 (isNaN y) a)))

/-- A step of stat (R255): 128 bytes are scanned, and at the end the record is written. -/
def State.xStat (s : State) (o : EngOp) : State × XRes EngOp :=
  let len := (o.pw 8).toNat
  let at_ := 128 * o.done
  let acc := if o.done = 0 then [0x7F800000, 0xFF800000, 0, 0, 0, 0] else (List.range 6).map (fun i => o.reg (20 + i))
  if len ≤ at_ then
    s.xWrite o 0 o.dst 0 (acc.flatMap (toBytes 4) ++ toBytes 8 0) 4
  else
    let n := min 128 (len - at_)
    xThen (s.xRead o o.src at_ n o.ot.bytes) (fun s bs =>
      let acc := (elemsOf o.ot.bytes bs).foldl (statElem o.ot) acc
      (s, .ok ((List.range 6).foldl (fun o i => o.setReg (20 + i) (acc.getD i 0)) o)))

/-- A unit of an xf operation. -/
def State.xUnit (s : State) (o : EngOp) : State × XRes EngOp :=
  match o.form with
  | 16 => s.xComp o
  | 17 => s.xDecomp o
  | 18 => s.xCb3 o
  | 19 => s.xCbtab o
  | 20 => s.xRepack o
  | 21 => s.xGq o
  | 22 => s.xDeq o
  | _ => s.xStat o

/-- Whether the form writes a tile whose code fails the check of R226. -/
def EngOp.badTile (o : EngOp) : Bool := (o.form == 18 || o.form == 22) && o.xmode 3 2 == 3 && o.reg 16 == 0

/-- Leaves unspecified poisoned bytes where a unit's poisoned source was to be written (R256, R288). The Boolean says that they are
written. -/
def State.xPoison (s : State) (o : EngOp) : State × Bool :=
  match o.xTarget with
  | none => (s, true)
  | some (off, n) =>
    let (bs, s) := s.freeBytes n
    match o.dst with
    | .va b =>
      match s.engineReach .write (b + wd off) n with
      | (s, .bad _ _) => (s, true)
      | (s, .ok ps) =>
        match ps.map (fun p => place p.1) with
        | [.push c q] => (if (s.queue c q).entry = n then s.badEntry c q n else s, true)
        | _ =>
          match s.enginePut ps bs with
          | (s, true) => (s.markPieces ps, true)
          | (s, false) => (s, false)
    | .ls b => (if b + off + n ≤ 0x80000 then (s.wr (coreWin o.core (b + off)) bs).markAll (coreWin o.core (b + off)) n else s, true)
    | .tile pa _ => ((s.wr (pa + off) bs).markAll (pa + off) n, true)
    | .queue q p t =>
      let x := s.queue o.core q
      let ctr := if t then x.tail else x.head
      let s := s.queueWrite o.core x ctr (p + off) bs
      ((List.range n).foldl (fun s i => s.mark (coreWin o.core (x.pos ctr (p + off + i)) / 128)) s, true)

/-- The transform engine advances its running operation by a unit (R256). -/
def State.xfAdvance (s : State) (core : Nat) : State :=
  match (s.coreAt core).xfq.find? (fun o => o.fault.isNone) with
  | some o =>
    if !o.run ∨ o.err ≠ 0 ∨ o.reg 3 = 1 ∨ o.cancel then s
    else
      let s := { s with cur := o.task }
      match o.xUnits with
      | .error x => s.putOp core (o.fail 1 x)
      | .ok n =>
        if n ≤ o.done then s.putOp core (o.setReg 3 1)
        else if o.badTile then s.putOp core (o.fail 3 (wbits (o.pw 7) 7 0))
        else match s.xUnit o with
          | (s, .ok o) =>
            let o := { o.setReg 5 0 with done := o.done + 1 }
            s.putOp core (if n ≤ o.done then o.setReg 3 1 else o)
          | (s, .again o) => s.putOp core o
          | (s, .gone) => s
          | (s, .err e d) => (s.dropNumber o).putOp core (o.noPush.fail e d)
          | (s, .fault cause va) =>
            let (s, told) := if cause = 2 then s.xPoison o else (s, true)
            if told then
              let s := (s.dropNumber o).faultToken o cause o.xDone va.toNat []
              s.putOp core { o.noPush with fault := some (cause, 0) }
            else s
  | none => s

/-- Whether the transform engine's running operation is over. -/
def EngOp.xOver (o : EngOp) : Bool := o.fault.isNone && o.run && (o.err != 0 || o.reg 3 == 1 || o.cancel)

/-- Starts the transform engine's next operation (R228): one runs at a time; a faulted one has left its place. -/
def State.startXf (s : State) (core : Nat) : State :=
  match (s.coreAt core).xfq.find? (fun o => o.fault.isNone) with
  | some o => if o.run then s else s.putOp core { o with run := true }
  | none => s

/-- The end of a transform operation: a cancelled one ends with CANCEL (R289). -/
def State.xfEnd (s : State) (core : Nat) (o : EngOp) : State :=
  let s := if o.cancel then s.dropNumber o else s
  let o := if o.cancel ∧ o.err = 0 ∧ o.reg 3 = 0 then o.fail 12 o.xDone else o
  (s.endToken o (statusOf o)).dropOp core o

/-! ### Forms -/

/-- The kinds that a form allows for `from` and `to`, whether it reads `tab` as a location, and whether it reads OT (R249-R255). -/
def xKinds (form : Nat) : List Nat × Option (List Nat) × Bool × Bool :=
  match form with
  | 16 => ([0, 1, 2], some [0, 1, 2], true, false)
  | 17 => ([0, 1, 2], some [0, 1, 2], true, false)
  | 18 => ([0, 1, 2], some [0, 1, 2, 3], false, false)
  | 19 => ([0, 1, 2], none, false, false)
  | 20 => ([0, 1], some [0, 1], false, false)
  | 21 => ([0, 1, 2], some [0, 1, 2], true, false)
  | 22 => ([0, 1, 2], some [0, 1, 2, 3], true, true)
  | _ => ([0, 1, 2], some [0, 1, 2], false, true)

/-- Whether the `mode` port names only what a form allows (R249). -/
def xModeOk (form : Nat) (mode : Word) : Bool :=
  let (f, t, tab, ot) := xKinds form
  f.contains (wbits mode 1 0) &&
    (match t with | some l => l.contains (wbits mode 3 2) | none => true) &&
    (!tab || decide (wbits mode 5 4 < 2)) &&
    (!ot || [8, 9, 10].contains (wbits mode 11 8))

/-- Whether a transform cannot be buffered (R334): it writes something outside the tiles, local stores and scratchpads, or reads through a host
or peer window. -/
def State.xfSerial (s : State) (o : EngOp) : Bool :=
  let far (k : Nat) (x : Word) : Bool := k == 1 && !s.nearVa .write x
  (match o.xUnits with | .ok n => decide (0 < n) | .error _ => false) &&
    ((o.form != 19 && far (o.xmode 3 2) (o.pw 7)) || ((o.form == 16 || o.form == 21) && far (o.xmode 5 4) (o.pw 9)) ||
      (o.xmode 1 0 == 1 && s.linkVa (o.pw 6)))

/-- A trigger of the transform engine (R249): one that cannot be buffered serialises a speculative task (R334). -/
def xfForm (form sub : Nat) (m : Mv) (s : State) : Out :=
  trigW 14 m (fun x s =>
    let mode := s.t.pw 14 10
    if !xModeOk form mode then .illPort s
    else withToken s 14 5 (fun tok s =>
      let o := s.newOp 14 form sub x tok
      let code := wbits (o.pw 7) 7 0
      let o := match s.t.tilePa code with
        | some pa => (o.setReg 16 (pa + 1)).setReg 17 (code / 32)
        | none => o
      let go (s : State) : Eff := .done (s.start o)
      if s.t.spec && s.xfSerial o then s.serialised go else go s)) s (fun s => s.tokenBusy 14 5)

/-- xf.comp (R251). -/
def execXfComp (m : Mv) (s : State) : Out := xfForm 16 0 m s
/-- xf.decomp (R251). -/
def execXfDecomp (m : Mv) (s : State) : Out := xfForm 17 0 m s
/-- xf.cb3 (R252). -/
def execXfCb3 (m : Mv) (s : State) : Out := xfForm 18 16 m s
/-- xf.cbtab (R252). -/
def execXfCbtab (m : Mv) (s : State) : Out := xfForm 19 9 m s
/-- xf.repack (R253). -/
def execXfRepack (ty : ElemType) (m : Mv) (s : State) : Out := xfForm 20 ty.code m s
/-- xf.gq (R254). -/
def execXfGq (ty : ElemType) (m : Mv) (s : State) : Out := xfForm 21 ty.code m s
/-- xf.deq (R254). -/
def execXfDeq (ty : ElemType) (m : Mv) (s : State) : Out := xfForm 22 ty.code m s
/-- xf.stat (R255). -/
def execXfStat (m : Mv) (s : State) : Out := xfForm 23 0 m s

end Sys2Proof.Machine
end

