-- ==== Sys2Proof/Machine/Finish.lean ====
section
/-! DEFINITION. The ends and the starts of engine operations (spec/08_matrix_anchor_transform.md R228, R229). -/

namespace Sys2Proof.Machine

/-- TOKEN_COMPLETE (R228): the operation of a unit (12 mx, 13 an, 14 xf, 15 cp) that is over leaves its token complete or complete
with error, and its flags in fflags; n numbers the copy engine's operations of the core. -/
def execTokenComplete (core unit n : Nat) (s : State) : Out :=
  match unit with
  | 12 => .next (match (s.coreAt core).mxq with
    | o :: _ => if o.mxOver then s.mxEnd core o else s
    | [] => s)
  | 13 => .next (match s.anHead core with
    | some o => if o.anOver then s.anEndOp core o else s
    | none => s)
  | 14 => .next (match (s.coreAt core).xfq.find? (fun o => o.fault.isNone) with
    | some o => if o.xOver then s.xfEnd core o else s
    | none => s)
  | _ => .next (match (s.ops core 15)[n]? with
    | some o => if o.copyOver then s.copyEnd core o else s
    | none => s)

/-- ENGINE_OP_START (R228): the next operation of a matrix, anchor or transform unit starts. -/
def execEngineOpStart (core unit : Nat) (s : State) : Out :=
  match unit with
  | 12 => .next (s.startMx core)
  | 13 => .next (s.startAnchor core)
  | _ => .next (s.startXf core)

end Sys2Proof.Machine
end

