-- ==== Sys2Proof/Machine/Power.lean ====
section
/-! DEFINITION. Resets and boot, identity, power, and the trace buffers (spec/21_bringup_power_security.md R476-R485), and the CXL
links (20 R471). -/

namespace Sys2Proof.Machine

open Host Arith

/-! ### Reset and boot (R476-R478) -/

/-- The boot region's first byte and size (R478). -/
def bootBase : Nat := 0xBFC800000
/-- The size of the boot region (R478). -/
def bootSize : Nat := 16 * 2 ^ 20

/-- The image in the boot region, when its header is valid: payload and signature (R476 step 2, R478). -/
def State.bootImage (s : State) : Option (List Byte) :=
  let plen := s.rdN bootBase 4
  if s.rdN (bootBase + 4) 2 ≠ 1 ∨ s.rdN (bootBase + 6) 10 ≠ 0 ∨ plen % 16 ≠ 0 ∨ plen < 16 ∨ bootSize - 80 < plen then none
  else some (s.rd (bootBase + 16) (plen + 64))

/-- The CXL ports' assignment at the end of a boot (R443): the ports whose links are up, to the one partition. -/
def State.bootPorts (s : State) : Tab Nat := [0, 1].filterMap (fun p => if s.linkUp.get p false then some (p, 0) else none)

/-- Boot steps 2 to 5 (R476): the image is checked and loaded, and the endpoints open; none when a check fails. -/
def State.boot (s : State) : Option State :=
  match s.bootImage with
  | none => none
  | some b =>
    if Config.imageValid b then
      some { s with running := true, measure := padTo 32 (Config.measure b), parts := [], portOwn := s.bootPorts }
    else none

/-- The part after a reset of everything but the memory that the predicate keeps, the CXL links and the boot ROM's count of boots; what
the caches had not written back is lost. -/
def State.reboot (s : State) (keeps : Nat → Bool) : State :=
  let r := { State.reset with
    free := s.free, mem := s.behind.filter (fun c => keeps c.1), poison := s.poison.filter (fun k => keeps (k * 128))
    romver := s.romver, boots := s.boots + 1, linkUp := s.linkUp, inputs := s.inputs, sent := s.sent }
  r.boot.getD r

/-- POWER_ON_RESET (R476, R478): the stacks lose their contents, and with them the image, so that the boot ends in recovery. -/
def execPowerOnReset (s : State) : Out := .next (s.reboot (fun a => decide (extBase ≤ a)))

/-- PERST (R476, R478): the stacks and the CXL devices keep their contents, and the image in the boot region is verified. -/
def execPerst (s : State) : Out :=
  .next (s.reboot (fun a => decide (a < 0x2000000000000) || decide (extBase ≤ a)))

/-- IMGLOAD (R477): in recovery its bytes go to the boot region, and one with none ends the load and checks the image; out of
recovery it is answered with NOTYPE. -/
def State.imageMsg (s : State) (die seq off : Nat) (data : List Byte) : State :=
  if s.running then s.respond die 4 3 seq 4 []
  else if die ≠ 0 then s
  else if data.length % 16 ≠ 0 ∨ bootSize < off + data.length then s.respond 0 4 3 seq 2 []
  else if data.isEmpty then
    match s.boot with
    | some s' => s'.respond 0 4 3 seq 0 []
    | none => s.respond 0 4 3 seq 2 []
  else (s.wr (bootBase + off) data).respond 0 4 3 seq 0 []

/-! ### Identity (R479) -/

/-- ATTEST (R479): the nonce, the measurement, the ROM's version, the boots and the signature, or for a zero nonce the public key. -/
def State.attestMsg (s : State) (nonce : List Byte) : Reply :=
  let n := padTo 32 nonce
  let b := n ++ padTo 32 s.measure ++ toBytes 8 s.romver ++ toBytes 8 s.boots
  (s, some (0, b ++ padTo 64 (if n.all (· == 0) then Config.identityKey else Config.sign b)))

/-! ### Power (R480-R482) -/

/-- WAKETOL (R481). -/
def State.wakeMsg (s : State) (die ns : Nat) : Reply :=
  accepted ((s.diesOf (s.partOf die)).foldl (fun s n => s.setDie n { s.die n with waketol := ns }) s)

/-- PCAP (R482). -/
def State.capMsg (s : State) (die watts : Nat) : Reply :=
  if watts < 600 ∨ 2400 < watts then declined s 2 else accepted { s with pcap := s.pcap.set (s.partOf die) watts }

/-- n bytes that the spec gives no value: sensor readings (R482). -/
def State.sensors (s : State) : Nat → State × List Byte
  | 0 => (s, [])
  | n + 1 =>
    let (x, s) := s.freeWord
    let (s, r) := s.sensors n
    (s, toBytes 4 x.toNat ++ r)

/-- TREQ (R482): per die of the partition, core-rail power, base-die power and the hottest sensor. -/
def State.telemetryMsg (s : State) (die : Nat) : Reply :=
  let (s, b) := s.sensors (3 * (s.diesOf (s.partOf die)).length)
  (s, some (0, b))

/-- Whether a core's island is idle (R480). -/
def State.idle (s : State) (core : Nat) : Bool :=
  let c := s.coreAt core
  c.res.isEmpty && c.mxq.isEmpty && c.anq.isEmpty && c.xfq.isEmpty &&
    (s.cluster (core / 8)).cpq.all (fun o => o.core != core) && c.ret.st == 0 && c.set.st == 0 &&
    s.tasks.all (fun x => x.2.core != core || x.2.stage != .preempted || x.2.inPlace.isEmpty)

/-- The deepest state whose typical exit fits a tolerance in nanoseconds (R480, R481): 1 clock-gated, 2 retention, 3 off. -/
def islandState (ns : Nat) : Nat := if 40000 ≤ ns then 3 else if 2000 ≤ ns then 2 else 1

/-- ISLAND_ENTRY (R480, R481): an idle island goes to the deepest state that the partition's tolerance allows. It keeps its local
store, queues and program store, and from retention on its L1 is written back. -/
def execIslandEntry (core : Nat) (s : State) : Out :=
  let p := islandState (s.die (dieOf core)).waketol
  let written := (s.coreAt core).l1.filter (fun x => nbit x.2 2)
  .next (if s.idle core ∧ (s.coreAt core).power < p then
      let s := s.setCore core { s.coreAt core with power := p, l1 := if p < 2 then (s.coreAt core).l1 else [] }
      if p < 2 then s else written.foldl (fun s x => s.storeImage (dieOf core) x.1) s
    else s)

/-- Whether an admission to a core waits for its island to wake (R481). -/
def State.wakes (s : State) (core : Nat) : Bool :=
  (s.coreAt core).power != 0 && ((s.setCore core { s.coreAt core with power := 0 }).firstFor core).isSome

/-- ISLAND_EXIT (R481): an admission wakes the island. -/
def execIslandExit (core : Nat) (s : State) : Out :=
  .next (if s.wakes core then s.setCore core { s.coreAt core with power := 0 } else s)

/-! ### Trace (R484, R485) -/

/-- TRIG (R485): one trigger for each core of the mask; it clears and unfreezes the buffers. -/
def State.trigMsg (s : State) (die : Nat) (mask : Word) (ty base len ttag n en : Nat) : Reply :=
  if 4095 < n ∨ (en ≠ 0 ∧ (ty = 0 ∨ 5 < ty)) ∨ 255 < ttag then declined s 2
  else accepted (((List.range 64).filter (fun i => wbit mask i)).foldl (fun s i =>
    s.setCore (die * 64 + i) { s.coreAt (die * 64 + i) with
      trace := ⟨[], 0, ty, base, len, ttag, n, en != 0, false, 0, false⟩ }) s)

/-- The records that a trace ring holds, from the oldest. -/
def Trace.records (x : Trace) : List (List Byte) :=
  (List.range (min x.idx 4096)).map (fun i => x.ring.get ((x.idx - min x.idx 4096 + i) % 4096) [])

/-- TREAD (R485): up to 15 records of a frozen buffer from an index. -/
def State.readTrace (s : State) (die core start : Nat) : Reply :=
  let x := (s.coreAt (die * 64 + core)).trace
  if 63 < core then declined s 2
  else if !x.frozen then declined s 1
  else (s, some (0, ((x.records.drop start).take 15).flatten))

/-- Whether a trigger's records have all been written, so that the buffer freezes. -/
def Trace.full (x : Trace) : Bool := x.en && x.hit && x.left == 0 && !x.frozen

/-- TRACE_FREEZE (R485): after the records that follow a match, the buffer freezes. -/
def execTraceFreeze (core : Nat) (s : State) : Out :=
  let c := s.coreAt core
  .next (if c.trace.full then s.setCore core { c with trace := { c.trace with frozen := true } } else s)

/-! ### CXL links (R471) -/

/-- CXL_LINK_DOWN (R471): accesses through the port's window raise the access fault. -/
def execCxlLinkDown (port : Nat) (s : State) : Out := .next { s with linkUp := s.linkUp.set port false }

/-- CXL_LINK_UP (R471). -/
def execCxlLinkUp (port : Nat) (s : State) : Out := .next { s with linkUp := s.linkUp.set port true }

end Sys2Proof.Machine
end

