-- ==== Sys2Proof/Machine/HostPort.lean ====
section
/-! DEFINITION. The host port: the endpoints' doorbells and rings (spec/18_translation_partitions.md R444, R445), the register space
and BAR2 (20 R461-R466), and the meanings of the messages. -/

namespace Sys2Proof.Machine

open Host Arith

/-! ### The messages (R445, 21 R477-R485) -/

/-- The bytes 8 i to 8 i + 7 of a payload. -/
def pw8 (p : List Byte) (i : Nat) : Nat := leAt p (8 * i) 8

/-- A FACT's action (R408). -/
def State.factMsg (s : State) (otag : Word) (action : Nat) : Reply :=
  match action with
  | 0 => s.resume otag
  | 1 => s.reflect otag
  | 2 => s.fact otag (fun id _ _ => accepted (s.factEndTask id))
  | 3 => s.evictTask otag
  | _ => declined s 2

/-- QCFG (R416). -/
def State.qcfg (s : State) (die seq q : Nat) (b : List Byte) : State := s.message die 0 1 seq true (fun s => s.qcfgMsg die q b)
/-- QSTOP (R445). -/
def State.qstop (s : State) (die seq q : Nat) : State := s.message die 0 2 seq true (fun s => s.stopMsg die q)
/-- ASSET (R432). -/
def State.asset (s : State) (die seq asid en root : Nat) : State := s.message die 1 1 seq true (fun s => s.setRoot die asid en root)
/-- INVAL (R441). -/
def State.inval (s : State) (die seq asid base len : Nat) : State :=
  s.message die 1 2 seq true (fun s => s.startInval die seq asid base len)
/-- PARTSET (R443): die 0 carries it out; another die has no such type. -/
def State.partset (s : State) (die seq : Nat) (parts ports : List Byte) : State :=
  s.message die 1 3 seq false (fun s => if die = 0 then s.partition parts ports else declined s 4)
/-- WDOG (R415). -/
def State.wdog (s : State) (die seq : Nat) (mask : Word) (w : Nat) : State :=
  s.message die 1 4 seq false (fun s => s.setWatch die mask w)
/-- REPLCFG (R455). -/
def State.replcfg (s : State) (die seq : Nat) (p : List Byte) : State := s.message die 1 5 seq true (fun s => s.replicate die p)
/-- FACT (R408). -/
def State.factAct (s : State) (die seq : Nat) (otag : Word) (action : Nat) : State :=
  s.message die 2 2 seq false (fun s => s.factMsg otag action)
/-- TCANCEL (R445). -/
def State.tcancel (s : State) (die seq : Nat) (otag : Word) : State := s.message die 2 3 seq false (fun s => s.cancelTask otag)
/-- WAKETOL (R481). -/
def State.waketol (s : State) (die seq ns : Nat) : State := s.message die 3 1 seq true (fun s => s.wakeMsg die ns)
/-- PCAP (R482). -/
def State.powerCap (s : State) (die seq watts : Nat) : State := s.message die 3 2 seq true (fun s => s.capMsg die watts)
/-- TREQ (R482). -/
def State.treq (s : State) (die seq : Nat) : State := s.message die 3 3 seq false (fun s => s.telemetryMsg die)
/-- ATTEST (R479). -/
def State.attest (s : State) (die seq : Nat) (nonce : List Byte) : State := s.message die 4 1 seq false (fun s => s.attestMsg nonce)
/-- TRIG (R485). -/
def State.trig (s : State) (die seq : Nat) (mask : Word) (ty base len ttag n en : Nat) : State :=
  s.message die 4 2 seq false (fun s => s.trigMsg die mask ty base len ttag n en)
/-- TREAD (R485). -/
def State.tread (s : State) (die seq core start : Nat) : State := s.message die 5 1 seq false (fun s => s.readTrace die core start)

/-- QCFG (R416). -/
def execQcfg (die seq q : Nat) (block : List Byte) (s : State) : Out := .next (s.qcfg die seq q block)
/-- QSTOP (R445). -/
def execQstop (die seq q : Nat) (s : State) : Out := .next (s.qstop die seq q)
/-- ASSET (R432). -/
def execAsset (die seq asid en root : Nat) (s : State) : Out := .next (s.asset die seq asid en root)
/-- INVAL (R441). -/
def execInval (die seq asid base len : Nat) (s : State) : Out := .next (s.inval die seq asid base len)
/-- PARTSET (R443). -/
def execPartset (die seq : Nat) (parts ports : List Byte) (s : State) : Out := .next (s.partset die seq parts ports)
/-- WDOG (R415). -/
def execWdog (die seq : Nat) (mask : Word) (w : Nat) (s : State) : Out := .next (s.wdog die seq mask w)
/-- REPLCFG (R455). -/
def execReplcfg (die seq : Nat) (payload : List Byte) (s : State) : Out := .next (s.replcfg die seq payload)
/-- FACT resume (R408). -/
def execFactResume (die seq : Nat) (otag : Word) (s : State) : Out := .next (s.factAct die seq otag 0)
/-- FACT reflect (R408). -/
def execFactReflect (die seq : Nat) (otag : Word) (s : State) : Out := .next (s.factAct die seq otag 1)
/-- FACT end (R408). -/
def execFactEnd (die seq : Nat) (otag : Word) (s : State) : Out := .next (s.factAct die seq otag 2)
/-- FACT evict (R408). -/
def execFactEvict (die seq : Nat) (otag : Word) (s : State) : Out := .next (s.factAct die seq otag 3)
/-- TCANCEL (R445). -/
def execTcancel (die seq : Nat) (otag : Word) (s : State) : Out := .next (s.tcancel die seq otag)
/-- WAKETOL (R481). -/
def execWaketol (die seq ns : Nat) (s : State) : Out := .next (s.waketol die seq ns)
/-- PCAP (R482). -/
def execPcap (die seq watts : Nat) (s : State) : Out := .next (s.powerCap die seq watts)
/-- TREQ (R482). -/
def execTreq (die seq : Nat) (s : State) : Out := .next (s.treq die seq)
/-- ATTEST (R479). -/
def execAttest (die seq : Nat) (nonce : List Byte) (s : State) : Out := .next (s.attest die seq nonce)
/-- TRIG (R485). -/
def execTrig (die seq : Nat) (mask : Word) (ty base len ttag n en : Nat) (s : State) : Out :=
  .next (s.trig die seq mask ty base len ttag n en)
/-- TREAD (R485). -/
def execTread (die seq core start : Nat) (s : State) : Out := .next (s.tread die seq core start)
/-- IMGLOAD (R477). -/
def execImgload (seq off : Nat) (data : List Byte) (s : State) : Out := .next (s.imageMsg 0 seq off data)

/-- Handles a message that an endpoint has read (R444, R445): one of another TYPE is answered with NOTYPE, and one whose LEN is out
of range with BADARG. -/
def State.handle (s : State) (die ep : Nat) (m : List Byte) : State :=
  let ty := leAt m 0 2
  let seq := leAt m 4 4
  let len := leAt m 12 2
  let p := padTo 240 (sliceBytes m 16 (min len 240))
  if len % 16 ≠ 0 ∨ 240 < len then s.message die ep ty seq false (fun s => declined s 2)
  else match ep, ty with
    | 0, 1 => s.qcfg die seq (leAt p 0 16) (sliceBytes p 16 64)
    | 0, 2 => s.qstop die seq (pw8 p 0)
    | 1, 1 => s.asset die seq (pw8 p 0) (pw8 p 1) (pw8 p 2)
    | 1, 2 => s.inval die seq (pw8 p 0) (pw8 p 1) (pw8 p 2)
    | 1, 3 => s.partset die seq (sliceBytes p 0 8) (sliceBytes p 8 2)
    | 1, 4 => s.wdog die seq (wd (pw8 p 0)) (pw8 p 1)
    | 1, 5 => s.replcfg die seq p
    | 2, 2 => s.factAct die seq (wd (pw8 p 0)) (pw8 p 1)
    | 2, 3 => s.tcancel die seq (wd (pw8 p 0))
    | 3, 1 => s.waketol die seq (leAt p 0 4)
    | 3, 2 => s.powerCap die seq (leAt p 0 4)
    | 3, 3 => s.treq die seq
    | 4, 1 => s.attest die seq (sliceBytes p 0 32)
    | 4, 2 => s.trig die seq (wd (pw8 p 0)) (pw8 p 1) (pw8 p 2) (pw8 p 3) (pw8 p 4) (pw8 p 5) (pw8 p 6)
    | 4, 3 => if s.running then s.respond die 4 3 seq 4 [] else s.imageMsg die seq (pw8 p 0) (sliceBytes p 16 (len - 16))
    | 5, 1 => s.tread die seq (pw8 p 0) (pw8 p 1)
    | _, _ => s.message die ep ty seq false (fun s => declined s 4)

/-! ### The doorbells (R444) -/

/-- An endpoint of a die. -/
def State.ep (s : State) (die ep : Nat) : Endpoint := (s.die die).eps.get ep default

/-- Replaces an endpoint of a die. -/
def State.setEp (s : State) (die ep : Nat) (e : Endpoint) : State :=
  let d := s.die die
  s.setDie die { d with eps := d.eps.set ep e }

/-- Whether an endpoint has a message to read: in recovery only endpoint 4 of die 0 reads (R477). -/
def State.canRead (s : State) (die ep : Nat) : Bool :=
  let e := s.ep die ep
  !e.stopped && ringSize e.ring != 0 && e.inHead != e.inTail && (s.running || (die == 0 && ep == 4))

/-- Reads an endpoint's new messages in order, n at most; a message whose SEQ is not the expected one is to be read again, and the
ninth mismatch stops the endpoint (R444). -/
def State.readMessages (s : State) (die ep : Nat) : Nat → State
  | 0 => s
  | n + 1 =>
    if !s.canRead die ep then s
    else
      let e := s.ep die ep
      let m := s.rd (ringSlot e.ring e.inHead) 256
      if leAt m 4 4 ≠ e.inSeq then s.setEp die ep { e with bad := e.bad + 1, stopped := decide (9 ≤ e.bad + 1) }
      else
        let s := s.setEp die ep { e with bad := 0, inHead := (e.inHead + 1) % 2 ^ 32, inSeq := (e.inSeq + 1) % 2 ^ 32 }
        (s.handle die ep m).readMessages die ep n

/-- A write of IN_TAIL (R444). -/
def State.ringIn (s : State) (die ep idx : Nat) : State :=
  let e := s.ep die ep
  let s := s.setEp die ep { e with inTail := idx % 2 ^ 32 }
  if e.bad ≠ 0 then s else s.readMessages die ep (min ((idx + 2 ^ 32 - e.inHead) % 2 ^ 32) (ringSize e.ring))

/-- A write of OUT_HEAD (R444): the slots are free, and messages that waited for room are written. -/
def State.ringOut (s : State) (die ep idx : Nat) : State :=
  let e := s.ep die ep
  (s.setEp die ep { e with outHead := idx % 2 ^ 32 }).flushOut die ep e.hold.length

/-- A write of RING or ORING (R444): while both rings are empty, or of RING at a stopped endpoint, which starts again with nothing
to read. -/
def State.ringSet (s : State) (die ep : Nat) (out : Bool) (v : Word) : State :=
  let e := s.ep die ep
  let v := wd (wbits v 63 12 * 4096 + wbits v 3 0)
  if (e.inHead = e.inTail ∧ e.outHead = e.outTail) ∨ (e.stopped ∧ !out) then
    if out then (s.setEp die ep { e with oring := v }).flushOut die ep e.hold.length
    else s.setEp die ep { e with ring := v, stopped := false, bad := 0, inTail := e.inHead }
  else s

/-- IN_TAIL (R444). -/
def execInTail (die ep idx : Nat) (s : State) : Out := .next (s.ringIn die ep idx)
/-- OUT_HEAD (R444). -/
def execOutHead (die ep idx : Nat) (s : State) : Out := .next (s.ringOut die ep idx)
/-- ENDPOINT_RING_WRITE (R444). -/
def execEndpointRingWrite (die ep : Nat) (out : Bool) (v : Word) (s : State) : Out := .next (s.ringSet die ep out v)

/-- ENDPOINT_REREAD (R444): a message whose SEQ did not match is read again, and then those behind it. -/
def execEndpointReread (die ep : Nat) (s : State) : Out :=
  let e := s.ep die ep
  .next (if e.bad = 0 then s else s.readMessages die ep (min ((e.inTail + 2 ^ 32 - e.inHead) % 2 ^ 32) (ringSize e.ring)))

/-! ### The register space (R462-R464) -/

/-- Writes a word of the MSI-X table (R462); an entry that is unmasked sends what was pending on its vector. -/
def State.msixWrite (s : State) (i : Nat) (x : Word) : State :=
  let s := { s with msix := s.msix.set i x }
  if i % 2 = 1 ∧ !wbit x 32 ∧ s.pba.getLsbD (i / 2) then
    { s with pba := s.pba &&& ~~~(BitVec.ofNat 256 (2 ^ (i / 2))) }.interrupt (i / 2)
  else s

/-- A word of the MSI-X table: an entry is masked at reset. -/
def State.msixWord (s : State) (i : Nat) : Word := s.msix.get i (if i % 2 = 1 then 2 ^ 32 else 0)

/-- A write of the register space, BAR0 (R462): one of a size that its row does not allow, or to an unlisted offset, is dropped. -/
def State.writeBar0 (s : State) (off size : Nat) (v : Word) : State :=
  if off < 0x2000 then
    if size = 4 ∧ off % 16 = 0 then s.notify (off / 0x400) (off % 0x400 / 16) (v.setWidth 32) else s
  else if 0x10000 ≤ off ∧ off < 0x18000 then
    let die := (off - 0x10000) / 0x1000
    let ep := off % 0x1000 / 0x100
    if size ≠ 8 ∨ 5 < ep then s
    else match off % 0x100 with
      | 0 => s.ringIn die ep v.toNat
      | 8 => s.ringOut die ep v.toNat
      | 0x20 => s.ringSet die ep false v
      | 0x28 => s.ringSet die ep true v
      | _ => s
  else if 0x20000 ≤ off ∧ off < 0x21000 then
    let i := (off - 0x20000) / 8
    if size = 8 ∧ off % 8 = 0 then s.msixWrite i v
    else if size = 4 ∧ off % 4 = 0 then
      let x := s.msixWord i
      s.msixWrite i (if off % 8 = 0 then wd (wbits x 63 32 * 2 ^ 32 + wbits v 31 0) else wd (wbits v 31 0 * 2 ^ 32 + wbits x 31 0))
    else s
  else if 0x30000 ≤ off ∧ off < 0x30100 then
    if size = 8 ∧ off % 16 = 0 then { s with pwin := s.pwin.set ((off - 0x30000) / 16) (v &&& ~~~0xFE#64) } else s
  else s

/-- REGISTER_WRITE (R462, R464). -/
def execRegisterWrite (off size : Nat) (v : Word) (s : State) : Out := .next (s.writeBar0 off size v)

/-! ### BAR2 (R461, R452, R466) -/

/-- Whether BAR2 reaches n bytes from an offset: inside HBM and outside the firmware-reserved ranges (R461). -/
def bar2Ok (off n : Nat) : Bool := decide (off + n ≤ 8 * stackSize) && !reserved off && !reserved (off + n - 1)

/-- Writes bytes that arrived from outside, and marks their sectors where the packet was poisoned (R461, R267). -/
def State.wrPacket (s : State) (a : Nat) (data : List Byte) (poisoned : Bool) : State :=
  let s := s.wr a data
  if poisoned then (sectorsOf a data.length).foldl (fun s k => s.mark k) s else s

/-- HOST_WRITE (R112, R452, R461): the bytes are written at their home once every copy of their lines has fallen; a write that BAR2 does not
reach is dropped. An offset from 2^56 on is the host's or a peer's own memory, which its owner writes without the part
(notes/assumptions/39.md). -/
def execHostWrite (off : Nat) (data : List Byte) (relaxed poisoned : Bool) (s : State) : Out :=
  .next (if bar2Ok off data.length then s.hostLines off data relaxed poisoned
    else if extBase ≤ off then s.wrPacket off data poisoned else s)

/-- A read of the register space, BAR0 (R462, R463, R444, R464): zero at an unlisted offset or of a size that its row does not
allow, and a free value of a write-only register (R10). -/
def State.readBar0 (s : State) (off size : Nat) : Word × State :=
  if off < 0x2000 then
    let part := s.partOf (off / 0x400)
    (if size = 4 ∧ off % 16 = 0 ∧ s.leader part = off / 0x400 then (s.hq part (off % 0x400 / 16)).tail.setWidth 64 else 0, s)
  else if 0x10000 ≤ off ∧ off < 0x18000 then
    let e := s.ep ((off - 0x10000) / 0x1000) (off % 0x1000 / 0x100)
    if size ≠ 8 ∨ 5 < off % 0x1000 / 0x100 then (0, s)
    else match off % 0x100 with
      | 0 => (Config.writeOnly off e.inTail, s)
      | 8 => (Config.writeOnly off e.outHead, s)
      | 0x10 => (wd e.inHead, s)
      | 0x18 => (wd e.outTail, s)
      | 0x20 => (e.ring, s)
      | 0x28 => (e.oring, s)
      | _ => (0, s)
  else if 0x20000 ≤ off ∧ off < 0x21000 then
    let x := s.msixWord ((off - 0x20000) / 8)
    (if size = 8 ∧ off % 8 = 0 then x
      else if size = 4 ∧ off % 4 = 0 then wd (if off % 8 = 0 then wbits x 31 0 else wbits x 63 32) else 0, s)
  else if 0x21000 ≤ off ∧ off < 0x21020 then
    (if size = 8 ∧ off % 8 = 0 then (s.pba >>> ((off - 0x21000) * 8)).setWidth 64 else 0, s)
  else if 0x30000 ≤ off ∧ off < 0x30100 then
    (if size = 8 ∧ off % 16 = 0 then s.pwin.get ((off - 0x30000) / 16) 0 else 0, s)
  else (0, s)

/-- HOST_READ (R462, R466, R461): of the register space, the register; of BAR2, the bytes, or Unsupported Request where BAR2 does
not reach. -/
def execHostRead (regs : Bool) (off n : Nat) (s : State) : Out :=
  if regs then
    let (x, s) := s.readBar0 off n
    .next { s with sent := s.sent ++ [.completion true (toBytes n x.toNat)] }
  else .next { s with sent := s.sent ++ [if bar2Ok off n then .completion true (s.see off n) else .completion false []] }

/-- ATOMICOP_REQUEST (R461): it completes with Unsupported Request. -/
def execAtomicopRequest (s : State) : Out := .next { s with sent := s.sent ++ [.completion false []] }

end Sys2Proof.Machine
end

