-- ==== Sys2Proof/Machine/Residual.lean ====
section
/-! DEFINITION. The residual unit (spec/12_reverse_mode.md R363, R364, R366, R371): the spills and fills that a strand waits for, and those that
the unit begins by itself. -/

namespace Sys2Proof.Machine

open Host Arith

/-! ### Moving a chunk -/

/-- Writes a chunk that is in local store to its outer tier; the chunk in its HBM slot moves on to CXL first (R363). -/
def State.spillChunk (s : State) (m : Nat) : State × TierEnd :=
  let x := s.slotBytes m
  if s.t.seg 2 = 0 then s.toTier m 2 x.1 x.2
  else match s.t.onward m with
    | none => s.toTier m 1 x.1 x.2
    | some o =>
      match s.fromTier o with
      | .error e => (s, .error e)
      | .ok y =>
        match s.toTier o 2 y.1 y.2 with
        | (s, .ok true) => s.toTier m 1 x.1 x.2
        | r => r

/-- Marks a chunk's slot as equal to its copy outside. -/
def Task.cleanSlot (t : Task) (n : Nat) : Task := { t with chunks := t.chunks.set (n % t.seg 0) (2 * (n + 1) + 1) }

/-- Frees a chunk's slot. -/
def Task.freeSlot (t : Task) (n : Nat) : Task := { t with chunks := t.chunks.del (n % t.seg 0) }

/-- Brings a chunk into its local-store slot with its poisoned sectors. -/
def State.fillChunk (s : State) (n : Nat) : State × TierEnd :=
  match s.fromTier n with
  | .error e => (s, .error e)
  | .ok (bs, mask) =>
    let a := s.t.residPa (4096 * n)
    let s := (s.wr a bs).markMask mask 0 [(a, 4096)]
    (s.setT (s.t.cleanSlot n), .ok true)

/-! ### What the unit has to do -/

/-- The chunk that a core's freeze waits for, for a task (R364). -/
def State.chunkWait (s : State) (task : Nat) : Option (State × Nat) :=
  match (s.coreAt (s.task task).core).freeze, s.issuer (s.task task).core with
  | some f, some s' => if s'.cur = task ∧ 3 ≤ f.kind then some (s', f.arg) else none
  | _, _ => none

/-- A task whose residual unit may work by itself (R364, R371, R303): its core is not frozen (R129), and its local store is in place. -/
def State.unitFree (s : State) (task : Nat) : Option State :=
  let t := s.task task
  if (t.stage = .resident ∨ t.stage = .preempted) ∧ t.saved.isEmpty ∧ t.seg 0 ≠ 0 ∧ (s.coreAt t.core).freeze.isNone then
    some { s with cur := task, core := t.core }
  else none

/-- The chunk that the unit writes out before its slot is needed (R364): the lowest that is full and newer than its copy outside, where
no other chunk has to move on first, nor the task to serialise (R366). -/
def Task.oldest (t : Task) : Option Nat :=
  let full := (List.range (t.seg 0)).filterMap (fun k =>
    match t.slotChunk k with
    | some n => if (n + 1) * 4096 ≤ t.live ∧ t.chunks.get k 0 % 2 = 0 ∧ (t.seg 2 ≠ 0 ∨ n < t.seg 4) ∧ (t.onward n).isNone then some n else none
    | none => none)
  if t.spec then none
  else full.foldl (fun b n => match b with | some m => some (min m n) | none => some n) none

/-- The chunk that a walk brings in ahead of its pops (R364): the highest one outside local store, once its slot holds nothing live. -/
def Task.ahead (t : Task) : Option Nat :=
  if t.ownWalk.isNone then none
  else
    match ((List.range (min (ceilDiv t.live 4096) (t.seg 0 + 1))).map (fun i => ceilDiv t.live 4096 - 1 - i)).find? (fun n => !t.resident n) with
    | some n => if t.need n = .fill then some n else none
    | none => none

/-- Ends the freeze of the current core when its chunk needs nothing more. -/
def State.chunkDone (s : State) (n : Nat) : State := if s.t.need n = .none then s.unfreeze else s

/-! ### The moves -/

/-- RESIDUAL_SPILL (R363, R364, R366): the chunk in the slot that another needs is written to its tier and leaves its slot. A speculative
task serialises first, and waits for the baton when it does not hold it. A fault ends the freeze, and the slot that needs the chunk
meets it. With nothing waiting, the unit may begin a write early. -/
def execResidualSpill (task : Nat) (s : State) : Out :=
  match s.chunkWait task with
  | some (s, n) =>
    match s.t.need n with
    | .spill m =>
      match s.serialised .done with
      | .done s =>
        (match s.spillChunk m with
         | (s, .ok true) => .next ((s.setT (s.t.freeSlot m)).chunkDone n)
         | (s, .ok false) => .next s
         | (s, .error _) => .next s.unfreeze)
      | .block s h => .next (if s.t.inWalk.isSome then s else s.unfreeze.endBlock h)
      | _ => .next s
    | _ => .next (s.chunkDone n)
  | none =>
    match s.unitFree task with
    | none => .next s
    | some s' =>
      match s'.t.oldest with
      | none => .next s
      | some m =>
        match s'.spillChunk m with
        | (s', .ok true) => .next (s'.setT (s'.t.cleanSlot m))
        | (s', _) => .next s'

/-- RESIDUAL_FILL (R364): a chunk is brought into its local-store slot: the one that a strand waits for, or the next of a walk. -/
def execResidualFill (task : Nat) (s : State) : Out :=
  match s.chunkWait task with
  | some (s, n) =>
    match s.t.need n with
    | .fill =>
      (match s.fillChunk n with
       | (s, .ok _) => .next (s.chunkDone n)
       | (s, .error _) => .next s.unfreeze)
    | _ => .next (s.chunkDone n)
  | none =>
    match s.unitFree task with
    | none => .next s
    | some s' =>
      match s'.t.ahead with
      | none => .next s
      | some n => .next (s'.fillChunk n).1

end Sys2Proof.Machine
end

