-- ==== Sys2Proof/Machine/Scalar.lean ====
section
/-! DEFINITION. The scalar forms: sa, sb, sm and ag (spec/06_scalar_control.md R168-R179). -/

namespace Sys2Proof.Machine

open Host Arith

/-- A scalar operation of latency 1 on ports a, b and c of a unit (R168, R170). -/
def scalarOp (unit : Nat) (m : Mv) (f : Word → Word → Word → Word) (s : State) : Out :=
  trigW unit m (fun x s =>
    .done (s.setT (s.t.result unit false 1 (.w (f (s.t.pw unit 2) x (s.t.pw unit 4))) 0))) s

/-- The unit number of sa, or of sb (R119). -/
def saUnit (b : Bool) : Nat := if b then 2 else 1

/-- A 32-bit result, sign-extended from bit 31 (R170). -/
def sext32 (x : Word) : Word := (x.setWidth 32).signExtend 64

/-- The count that shifts and rotates take from b, bits 5:0 (R170). -/
def shiftCount (x : Word) : Nat := wbits x 5 0

/-- A field's position and effective length, from b (R171). -/
def fieldOf (b : Word) : Nat × Nat :=
  let p := wbits b 5 0
  (p, min (wbits b 12 6) (64 - p))

/-- The mask of a field. -/
def fieldMask (p l : Nat) : Word := wd ((2 ^ l - 1) * 2 ^ p)

/-- bfx (R171). -/
def bfx (a b : Word) : Word :=
  let (p, l) := fieldOf b
  (a >>> p) &&& fieldMask 0 l

/-- bfi (R171). -/
def bfi (a b c : Word) : Word :=
  let (p, l) := fieldOf b
  (c &&& ~~~fieldMask p l) ||| ((a <<< p) &&& fieldMask p l)

/-- A word with its bytes reversed (R170). -/
def bswap (x : Word) : Word := wd (ofBytes (toBytes 8 x.toNat).reverse)

/-- The low n bits of a word, sign-extended (R170). -/
def sextFrom (n : Nat) (x : Word) : Word := BitVec.ofInt 64 (sint n x.toNat)

/-- The low n bits of a word, zero-extended (R170). -/
def zextFrom (n : Nat) (x : Word) : Word := wd (x.toNat % 2 ^ n)

/-- The conditions of setk (R172). -/
def setkCond (c : BitVec 2) (a b : Word) : Bool :=
  match c.toNat with
  | 0 => a == b
  | 1 => a != b
  | 2 => a.slt b
  | _ => a.ult b

/-- sa.add and sb.add (R170). -/
def execSaAdd (b : Bool) (m : Mv) (s : State) : Out := scalarOp (saUnit b) m (fun a x _ => a + x) s
/-- sub (R170). -/
def execSaSub (b : Bool) (m : Mv) (s : State) : Out := scalarOp (saUnit b) m (fun a x _ => a - x) s
/-- rsub (R170). -/
def execSaRsub (b : Bool) (m : Mv) (s : State) : Out := scalarOp (saUnit b) m (fun a x _ => x - a) s
/-- addw (R170). -/
def execSaAddw (b : Bool) (m : Mv) (s : State) : Out := scalarOp (saUnit b) m (fun a x _ => sext32 (a + x)) s
/-- subw (R170). -/
def execSaSubw (b : Bool) (m : Mv) (s : State) : Out := scalarOp (saUnit b) m (fun a x _ => sext32 (a - x)) s
/-- shladd.n, n = 1-4 (R170). -/
def execSaShladd (b : Bool) (n : BitVec 2) (m : Mv) (s : State) : Out :=
  scalarOp (saUnit b) m (fun a x _ => (a <<< (n.toNat + 1)) + x) s
/-- and (R170). -/
def execSaAnd (b : Bool) (m : Mv) (s : State) : Out := scalarOp (saUnit b) m (fun a x _ => a &&& x) s
/-- or (R170). -/
def execSaOr (b : Bool) (m : Mv) (s : State) : Out := scalarOp (saUnit b) m (fun a x _ => a ||| x) s
/-- xor (R170). -/
def execSaXor (b : Bool) (m : Mv) (s : State) : Out := scalarOp (saUnit b) m (fun a x _ => a ^^^ x) s
/-- andn (R170). -/
def execSaAndn (b : Bool) (m : Mv) (s : State) : Out := scalarOp (saUnit b) m (fun a x _ => a &&& ~~~x) s
/-- orn (R170). -/
def execSaOrn (b : Bool) (m : Mv) (s : State) : Out := scalarOp (saUnit b) m (fun a x _ => a ||| ~~~x) s
/-- shl (R170). -/
def execSaShl (b : Bool) (m : Mv) (s : State) : Out := scalarOp (saUnit b) m (fun a x _ => a <<< shiftCount x) s
/-- shr (R170). -/
def execSaShr (b : Bool) (m : Mv) (s : State) : Out := scalarOp (saUnit b) m (fun a x _ => a >>> shiftCount x) s
/-- sar (R170). -/
def execSaSar (b : Bool) (m : Mv) (s : State) : Out := scalarOp (saUnit b) m (fun a x _ => a.sshiftRight (shiftCount x)) s
/-- rol (R170). -/
def execSaRol (b : Bool) (m : Mv) (s : State) : Out := scalarOp (saUnit b) m (fun a x _ => a.rotateLeft (shiftCount x)) s
/-- ror (R170). -/
def execSaRor (b : Bool) (m : Mv) (s : State) : Out := scalarOp (saUnit b) m (fun a x _ => a.rotateRight (shiftCount x)) s
/-- seq (R170). -/
def execSaSeq (b : Bool) (m : Mv) (s : State) : Out := scalarOp (saUnit b) m (fun a x _ => wbool (a == x)) s
/-- sne (R170). -/
def execSaSne (b : Bool) (m : Mv) (s : State) : Out := scalarOp (saUnit b) m (fun a x _ => wbool (a != x)) s
/-- slt (R170). -/
def execSaSlt (b : Bool) (m : Mv) (s : State) : Out := scalarOp (saUnit b) m (fun a x _ => wbool (a.slt x)) s
/-- sle (R170). -/
def execSaSle (b : Bool) (m : Mv) (s : State) : Out := scalarOp (saUnit b) m (fun a x _ => wbool (a.sle x)) s
/-- sltn (R170). -/
def execSaSltn (b : Bool) (m : Mv) (s : State) : Out := scalarOp (saUnit b) m (fun a x _ => wbool (a.ult x)) s
/-- slen (R170). -/
def execSaSlen (b : Bool) (m : Mv) (s : State) : Out := scalarOp (saUnit b) m (fun a x _ => wbool (a.ule x)) s
/-- min (R170). -/
def execSaMin (b : Bool) (m : Mv) (s : State) : Out := scalarOp (saUnit b) m (fun a x _ => if a.slt x then a else x) s
/-- max (R170). -/
def execSaMax (b : Bool) (m : Mv) (s : State) : Out := scalarOp (saUnit b) m (fun a x _ => if x.slt a then a else x) s
/-- minn (R170). -/
def execSaMinn (b : Bool) (m : Mv) (s : State) : Out := scalarOp (saUnit b) m (fun a x _ => if a.ult x then a else x) s
/-- maxn (R170). -/
def execSaMaxn (b : Bool) (m : Mv) (s : State) : Out := scalarOp (saUnit b) m (fun a x _ => if x.ult a then a else x) s
/-- sel (R170). -/
def execSaSel (b : Bool) (m : Mv) (s : State) : Out := scalarOp (saUnit b) m (fun a x c => if c ≠ 0 then a else x) s
/-- clz (R170). -/
def execSaClz (b : Bool) (m : Mv) (s : State) : Out := scalarOp (saUnit b) m (fun _ x _ => wd (clzN 64 x.toNat)) s
/-- ctz (R170). -/
def execSaCtz (b : Bool) (m : Mv) (s : State) : Out := scalarOp (saUnit b) m (fun _ x _ => wd (ctzN x.toNat 64)) s
/-- popc (R170). -/
def execSaPopc (b : Bool) (m : Mv) (s : State) : Out := scalarOp (saUnit b) m (fun _ x _ => wd (popcN x.toNat 64)) s
/-- bswap (R170). -/
def execSaBswap (b : Bool) (m : Mv) (s : State) : Out := scalarOp (saUnit b) m (fun _ x _ => bswap x) s
/-- sext.w (R170). -/
def execSaSext (b : Bool) (w : WidthSel) (m : Mv) (s : State) : Out :=
  scalarOp (saUnit b) m (fun _ x _ => sextFrom w.bits x) s
/-- zext.w (R170). -/
def execSaZext (b : Bool) (w : WidthSel) (m : Mv) (s : State) : Out :=
  scalarOp (saUnit b) m (fun _ x _ => zextFrom w.bits x) s
/-- bfx (R171). -/
def execSaBfx (b : Bool) (m : Mv) (s : State) : Out := scalarOp (saUnit b) m (fun a x _ => bfx a x) s
/-- bfi (R171). -/
def execSaBfi (b : Bool) (m : Mv) (s : State) : Out := scalarOp (saUnit b) m (fun a x c => bfi a x c) s

/-- setk.cond.kN (R169, R172): the outcome goes to .o and to kN at the boundary where .o lands. -/
def execSaSetk (b : Bool) (cond : BitVec 2) (k : BitVec 3) (m : Mv) (s : State) : Out :=
  trigW (saUnit b) m (fun x s =>
    let u := saUnit b
    .done (s.setT (s.t.resultK u 1 (setkCond cond (s.t.pw u 2) x) k.toNat))) s

/-- sm's ports: a is port 2, b the trigger value (R155). A trigger while a division occupies sm raises the illegal-slot trap
(R120, R175). -/
def smOp (m : Mv) (f : Word → Word → State → Eff) (s : State) : Out :=
  trigW 3 m (fun x s => f (s.t.pw 3 2) x s) s (fun s => s.unitUsed 3 || decide (s.t.now < s.t.bank.smFree))

/-- A multiply form (R173). -/
def smMulOp (m : Mv) (f : Word → Word → Word) (s : State) : Out :=
  smOp m (fun a b s => .done (s.setT (s.t.result 3 false 3 (.w (f a b)) 0))) s

/-- mul (R173). -/
def execSmMul (m : Mv) (s : State) : Out := smMulOp m (fun a b => a * b) s
/-- mulh (R173). -/
def execSmMulh (m : Mv) (s : State) : Out := smMulOp m (fun a b => BitVec.ofInt 64 (a.toInt * b.toInt / 2 ^ 64)) s
/-- mulhn (R173). -/
def execSmMulhn (m : Mv) (s : State) : Out := smMulOp m (fun a b => wd (a.toNat * b.toNat / 2 ^ 64)) s
/-- mulw (R173). -/
def execSmMulw (m : Mv) (s : State) : Out := smMulOp m (fun a b => sext32 (a * b)) s

/-- The signed quotient and remainder (R174). -/
def divS (a b : Word) : Word × Word := if b = 0 then (-1, a) else (a.sdiv b, a.srem b)

/-- The natural quotient and remainder (R174). -/
def divN (a b : Word) : Word × Word := if b = 0 then (-1, a) else (a / b, a % b)

/-- A division form (R174, R175): b = 0 raises DZ; the results land after 20 cycles, and sm is occupied until then. -/
def smDivOp (rem : Bool) (m : Mv) (f : Word → Word → Word × Word) (s : State) : Out :=
  smOp m (fun a b s =>
    let fl : Flags := if b = 0 then DZ else 0
    fpGuard s fl (fun s =>
      let t := s.t
      let (q, r) := f a b
      let t := { t with bank := { t.bank with smFree := t.now + 20 } }
      .done (s.setT (if rem then t.result 3 false 20 (.w r) fl
        else (t.result 3 false 20 (.w q) fl).result 3 true 20 (.w r) 0)))) s

/-- div (R174). -/
def execSmDiv (m : Mv) (s : State) : Out := smDivOp false m divS s
/-- divn (R174). -/
def execSmDivn (m : Mv) (s : State) : Out := smDivOp false m divN s
/-- rem (R174). -/
def execSmRem (m : Mv) (s : State) : Out := smDivOp true m divS s
/-- remn (R174). -/
def execSmRemn (m : Mv) (s : State) : Out := smDivOp true m divN s

/-- An address-generator operation on a (port 2), b (3), pitch (5) and the trigger (R176). -/
def agOp (m : Mv) (f : Word → Word → Word → Word → Word) (s : State) : Out :=
  trigW 4 m (fun x s =>
    .done (s.setT (s.t.result 4 false 1 (.w (f (s.t.pw 4 2) (s.t.pw 4 3) (s.t.pw 4 5) x)) 0))) s

/-- a2d (R176). -/
def execAgA2d (m : Mv) (s : State) : Out := agOp m (fun a b p j => a + b * p + j) s
/-- sidx.sK (R176). -/
def execAgSidx (k : BitVec 2) (m : Mv) (s : State) : Out := agOp m (fun a _ _ i => a + i * wd (2 ^ k.toNat)) s

/-- taddr (R177): a span code of 2 or 3 raises the illegal-port trap. -/
def execAgTaddr (m : Mv) (s : State) : Out :=
  trigW 4 m (fun row s =>
    let rot := s.t.pw 4 6
    let code := wbits rot 9 8
    if 2 ≤ code then .illPort s
    else
      let nb := if code = 0 then 16 else 32
      let o := s.t.pw 4 2 + row * s.t.pw 4 5 + wd (row.toNat * wbits rot 4 0 % nb * 64)
      .done (s.setT (s.t.result 4 false 1 (.w o) 0))) s

/-- bchk.kN (R178). -/
def execAgBchk (k : BitVec 3) (m : Mv) (s : State) : Out :=
  trigW 4 m (fun x s => .done (s.setT (s.t.resultK 4 1 (x.ult (s.t.pw 4 2)) k.toNat))) s

/-- The two words of a scratchpad operand descriptor (R179). -/
def dpack (a pitch tile rot : Word) : Word × Word :=
  let ovr := 2 ^ 22 ≤ a.toNat ∨ 2 ^ 22 ≤ pitch.toNat ∨ 2 ^ 22 ≤ tile.toNat
  (wd ((if ovr then 2 ^ 63 else 0) + wbits pitch 21 0 * 2 ^ 22 + wbits a 21 0),
   wd (wbits rot 9 0 * 2 ^ 22 + wbits tile 21 0))

/-- dpack (R179). -/
def execAgDpack (m : Mv) (s : State) : Out :=
  trigW 4 m (fun x s =>
    let (w0, w1) := dpack (s.t.pw 4 2) (s.t.pw 4 5) x (s.t.pw 4 6)
    .done (s.setT ((s.t.result 4 false 1 (.w w0) 0).result 4 true 1 (.w w1) 0))) s

end Sys2Proof.Machine
end

