-- ==== Sys2Proof/Machine/Dispatch.lean ====
section
/-! DEFINITION. The dispatch of every step to its meaning: one arm for each constructor of Instr. -/

namespace Sys2Proof.Machine

open Host

/-- The meaning of a step. -/
def exec (i : Instr) (s : State) : Host.Outcome State Fault Refusal :=
  match i with
  | .move m d => Sys2Proof.Machine.execMove m d s
  | .saAdd b m => Sys2Proof.Machine.execSaAdd b m s
  | .saSub b m => Sys2Proof.Machine.execSaSub b m s
  | .saRsub b m => Sys2Proof.Machine.execSaRsub b m s
  | .saAddw b m => Sys2Proof.Machine.execSaAddw b m s
  | .saSubw b m => Sys2Proof.Machine.execSaSubw b m s
  | .saShladd b n m => Sys2Proof.Machine.execSaShladd b n m s
  | .saAnd b m => Sys2Proof.Machine.execSaAnd b m s
  | .saOr b m => Sys2Proof.Machine.execSaOr b m s
  | .saXor b m => Sys2Proof.Machine.execSaXor b m s
  | .saAndn b m => Sys2Proof.Machine.execSaAndn b m s
  | .saOrn b m => Sys2Proof.Machine.execSaOrn b m s
  | .saShl b m => Sys2Proof.Machine.execSaShl b m s
  | .saShr b m => Sys2Proof.Machine.execSaShr b m s
  | .saSar b m => Sys2Proof.Machine.execSaSar b m s
  | .saRol b m => Sys2Proof.Machine.execSaRol b m s
  | .saRor b m => Sys2Proof.Machine.execSaRor b m s
  | .saSeq b m => Sys2Proof.Machine.execSaSeq b m s
  | .saSne b m => Sys2Proof.Machine.execSaSne b m s
  | .saSlt b m => Sys2Proof.Machine.execSaSlt b m s
  | .saSle b m => Sys2Proof.Machine.execSaSle b m s
  | .saSltn b m => Sys2Proof.Machine.execSaSltn b m s
  | .saSlen b m => Sys2Proof.Machine.execSaSlen b m s
  | .saMin b m => Sys2Proof.Machine.execSaMin b m s
  | .saMax b m => Sys2Proof.Machine.execSaMax b m s
  | .saMinn b m => Sys2Proof.Machine.execSaMinn b m s
  | .saMaxn b m => Sys2Proof.Machine.execSaMaxn b m s
  | .saSel b m => Sys2Proof.Machine.execSaSel b m s
  | .saClz b m => Sys2Proof.Machine.execSaClz b m s
  | .saCtz b m => Sys2Proof.Machine.execSaCtz b m s
  | .saPopc b m => Sys2Proof.Machine.execSaPopc b m s
  | .saBswap b m => Sys2Proof.Machine.execSaBswap b m s
  | .saSext b w m => Sys2Proof.Machine.execSaSext b w m s
  | .saZext b w m => Sys2Proof.Machine.execSaZext b w m s
  | .saBfx b m => Sys2Proof.Machine.execSaBfx b m s
  | .saBfi b m => Sys2Proof.Machine.execSaBfi b m s
  | .saSetk b cond k m => Sys2Proof.Machine.execSaSetk b cond k m s
  | .smMul m => Sys2Proof.Machine.execSmMul m s
  | .smMulh m => Sys2Proof.Machine.execSmMulh m s
  | .smMulhn m => Sys2Proof.Machine.execSmMulhn m s
  | .smMulw m => Sys2Proof.Machine.execSmMulw m s
  | .smDiv m => Sys2Proof.Machine.execSmDiv m s
  | .smDivn m => Sys2Proof.Machine.execSmDivn m s
  | .smRem m => Sys2Proof.Machine.execSmRem m s
  | .smRemn m => Sys2Proof.Machine.execSmRemn m s
  | .agA2d m => Sys2Proof.Machine.execAgA2d m s
  | .agSidx k m => Sys2Proof.Machine.execAgSidx k m s
  | .agTaddr m => Sys2Proof.Machine.execAgTaddr m s
  | .agBchk k m => Sys2Proof.Machine.execAgBchk k m s
  | .agDpack m => Sys2Proof.Machine.execAgDpack m s
  | .brPrep bi m => Sys2Proof.Machine.execBrPrep bi m s
  | .brGo bi m => Sys2Proof.Machine.execBrGo bi m s
  | .brCall bi m => Sys2Proof.Machine.execBrCall bi m s
  | .brRet m => Sys2Proof.Machine.execBrRet m s
  | .brLoop bi m => Sys2Proof.Machine.execBrLoop bi m s
  | .brYield m => Sys2Proof.Machine.execBrYield m s
  | .brEnd m => Sys2Proof.Machine.execBrEnd m s
  | .brTrap m => Sys2Proof.Machine.execBrTrap m s
  | .brTret m => Sys2Proof.Machine.execBrTret m s
  | .lsLd ty m => Sys2Proof.Machine.execLsLd ty m s
  | .lsSt ty m => Sys2Proof.Machine.execLsSt ty m s
  | .lsLdv ty m => Sys2Proof.Machine.execLsLdv ty m s
  | .lsStv ty m => Sys2Proof.Machine.execLsStv ty m s
  | .lsLdvs ty m => Sys2Proof.Machine.execLsLdvs ty m s
  | .lsStvs ty m => Sys2Proof.Machine.execLsStvs ty m s
  | .lsGath ty m => Sys2Proof.Machine.execLsGath ty m s
  | .lsScat ty m => Sys2Proof.Machine.execLsScat ty m s
  | .lsLdvm ty m => Sys2Proof.Machine.execLsLdvm ty m s
  | .lsStvm ty m => Sys2Proof.Machine.execLsStvm ty m s
  | .lsLdq ty m => Sys2Proof.Machine.execLsLdq ty m s
  | .lsStq ty m => Sys2Proof.Machine.execLsStq ty m s
  | .lsLdvq ty m => Sys2Proof.Machine.execLsLdvq ty m s
  | .lsStvq ty m => Sys2Proof.Machine.execLsStvq ty m s
  | .ctRdc r m => Sys2Proof.Machine.execCtRdc r m s
  | .ctRdcHi r m => Sys2Proof.Machine.execCtRdcHi r m s
  | .ctWrc r m => Sys2Proof.Machine.execCtWrc r m s
  | .ctWrcHi r m => Sys2Proof.Machine.execCtWrcHi r m s
  | .ctCyc m => Sys2Proof.Machine.execCtCyc m s
  | .ctPerf m => Sys2Proof.Machine.execCtPerf m s
  | .ctDsel k m => Sys2Proof.Machine.execCtDsel k m s
  | .ctWrs r m => Sys2Proof.Machine.execCtWrs r m s
  | .vaAdd b ty m => Sys2Proof.Machine.execVaAdd b ty m s
  | .vaSub b ty m => Sys2Proof.Machine.execVaSub b ty m s
  | .vaMul b ty m => Sys2Proof.Machine.execVaMul b ty m s
  | .vaFma b ty m => Sys2Proof.Machine.execVaFma b ty m s
  | .vaFms b ty m => Sys2Proof.Machine.execVaFms b ty m s
  | .vaFnma b ty m => Sys2Proof.Machine.execVaFnma b ty m s
  | .vaMin b ty m => Sys2Proof.Machine.execVaMin b ty m s
  | .vaMax b ty m => Sys2Proof.Machine.execVaMax b ty m s
  | .vaAbs b ty m => Sys2Proof.Machine.execVaAbs b ty m s
  | .vaNeg b ty m => Sys2Proof.Machine.execVaNeg b ty m s
  | .vaRcp b ty m => Sys2Proof.Machine.execVaRcp b ty m s
  | .vaRsqrt b ty m => Sys2Proof.Machine.execVaRsqrt b ty m s
  | .vaSqrt b ty m => Sys2Proof.Machine.execVaSqrt b ty m s
  | .vaExp2 b ty m => Sys2Proof.Machine.execVaExp2 b ty m s
  | .vaLog2 b ty m => Sys2Proof.Machine.execVaLog2 b ty m s
  | .vaCmp b ty m => Sys2Proof.Machine.execVaCmp b ty m s
  | .vaCvt b ty m => Sys2Proof.Machine.execVaCvt b ty m s
  | .vaRnd b ty m => Sys2Proof.Machine.execVaRnd b ty m s
  | .vaMulh b ty m => Sys2Proof.Machine.execVaMulh b ty m s
  | .vaAnd b ty m => Sys2Proof.Machine.execVaAnd b ty m s
  | .vaOr b ty m => Sys2Proof.Machine.execVaOr b ty m s
  | .vaXor b ty m => Sys2Proof.Machine.execVaXor b ty m s
  | .vaShl b ty m => Sys2Proof.Machine.execVaShl b ty m s
  | .vaShr b ty m => Sys2Proof.Machine.execVaShr b ty m s
  | .vaSar b ty m => Sys2Proof.Machine.execVaSar b ty m s
  | .vaSel b ty m => Sys2Proof.Machine.execVaSel b ty m s
  | .vaClz b ty m => Sys2Proof.Machine.execVaClz b ty m s
  | .vaPopc b ty m => Sys2Proof.Machine.execVaPopc b ty m s
  | .vaAdds b ty m => Sys2Proof.Machine.execVaAdds b ty m s
  | .vaSubs b ty m => Sys2Proof.Machine.execVaSubs b ty m s
  | .vxPerm ty m => Sys2Proof.Machine.execVxPerm ty m s
  | .vxBcast ty m => Sys2Proof.Machine.execVxBcast ty m s
  | .vxRot ty m => Sys2Proof.Machine.execVxRot ty m s
  | .vxRed ty m => Sys2Proof.Machine.execVxRed ty m s
  | .vxScan ty m => Sys2Proof.Machine.execVxScan ty m s
  | .vxCompact ty m => Sys2Proof.Machine.execVxCompact ty m s
  | .vxExpand ty m => Sys2Proof.Machine.execVxExpand ty m s
  | .vxMerge ty m => Sys2Proof.Machine.execVxMerge ty m s
  | .vxSort64 ty m => Sys2Proof.Machine.execVxSort64 ty m s
  | .vxLidx ty m => Sys2Proof.Machine.execVxLidx ty m s
  | .vxTrstep ty m => Sys2Proof.Machine.execVxTrstep ty m s
  | .rgBits m => Sys2Proof.Machine.execRgBits m s
  | .rgKey m => Sys2Proof.Machine.execRgKey m s
  | .rgSeed m => Sys2Proof.Machine.execRgSeed m s
  | .rgMode m => Sys2Proof.Machine.execRgMode m s
  | .mxMma ty m => Sys2Proof.Machine.execMxMma ty m s
  | .mxMmz ty m => Sys2Proof.Machine.execMxMmz ty m s
  | .mxMgrp ty m => Sys2Proof.Machine.execMxMgrp ty m s
  | .mxTld ty m => Sys2Proof.Machine.execMxTld ty m s
  | .mxTst ty m => Sys2Proof.Machine.execMxTst ty m s
  | .mxZero m => Sys2Proof.Machine.execMxZero m s
  | .mxCvt ty m => Sys2Proof.Machine.execMxCvt ty m s
  | .mxBjoin m => Sys2Proof.Machine.execMxBjoin m s
  | .mxDrain m => Sys2Proof.Machine.execMxDrain m s
  | .anRun m => Sys2Proof.Machine.execAnRun m s
  | .anLoad m => Sys2Proof.Machine.execAnLoad m s
  | .anParam p m => Sys2Proof.Machine.execAnParam p m s
  | .xfComp m => Sys2Proof.Machine.execXfComp m s
  | .xfDecomp m => Sys2Proof.Machine.execXfDecomp m s
  | .xfCb3 m => Sys2Proof.Machine.execXfCb3 m s
  | .xfCbtab m => Sys2Proof.Machine.execXfCbtab m s
  | .xfRepack ty m => Sys2Proof.Machine.execXfRepack ty m s
  | .xfGq ty m => Sys2Proof.Machine.execXfGq ty m s
  | .xfDeq ty m => Sys2Proof.Machine.execXfDeq ty m s
  | .xfStat m => Sys2Proof.Machine.execXfStat m s
  | .cpStart m => Sys2Proof.Machine.execCpStart m s
  | .cpChain m => Sys2Proof.Machine.execCpChain m s
  | .cpRed ty m => Sys2Proof.Machine.execCpRed ty m s
  | .cpRelay m => Sys2Proof.Machine.execCpRelay m s
  | .cpCancel m => Sys2Proof.Machine.execCpCancel m s
  | .cpStatus m => Sys2Proof.Machine.execCpStatus m s
  | .cpResume m => Sys2Proof.Machine.execCpResume m s
  | .gmLd ty m => Sys2Proof.Machine.execGmLd ty m s
  | .gmLdv ty m => Sys2Proof.Machine.execGmLdv ty m s
  | .gmLdt m => Sys2Proof.Machine.execGmLdt m s
  | .gmSt ty m => Sys2Proof.Machine.execGmSt ty m s
  | .gmStv ty m => Sys2Proof.Machine.execGmStv ty m s
  | .gmStt m => Sys2Proof.Machine.execGmStt m s
  | .gmStg ty m => Sys2Proof.Machine.execGmStg ty m s
  | .gmPref l2 m => Sys2Proof.Machine.execGmPref l2 m s
  | .gmFlush m => Sys2Proof.Machine.execGmFlush m s
  | .gmInval m => Sys2Proof.Machine.execGmInval m s
  | .syFence scope m => Sys2Proof.Machine.execSyFence scope m s
  | .syXfence scope m => Sys2Proof.Machine.execSyXfence scope m s
  | .syLdacq scope m => Sys2Proof.Machine.execSyLdacq scope m s
  | .syStrel scope m => Sys2Proof.Machine.execSyStrel scope m s
  | .syAmoadd scope ord m => Sys2Proof.Machine.execSyAmoadd scope ord m s
  | .syAmomin scope ord m => Sys2Proof.Machine.execSyAmomin scope ord m s
  | .syAmomax scope ord m => Sys2Proof.Machine.execSyAmomax scope ord m s
  | .syAmominn scope ord m => Sys2Proof.Machine.execSyAmominn scope ord m s
  | .syAmomaxn scope ord m => Sys2Proof.Machine.execSyAmomaxn scope ord m s
  | .syAmoand scope ord m => Sys2Proof.Machine.execSyAmoand scope ord m s
  | .syAmoor scope ord m => Sys2Proof.Machine.execSyAmoor scope ord m s
  | .syAmoxor scope ord m => Sys2Proof.Machine.execSyAmoxor scope ord m s
  | .syAmoswp scope ord m => Sys2Proof.Machine.execSyAmoswp scope ord m s
  | .syAmocas scope ord m => Sys2Proof.Machine.execSyAmocas scope ord m s
  | .syWait scope m => Sys2Proof.Machine.execSyWait scope m s
  | .syLock scope m => Sys2Proof.Machine.execSyLock scope m s
  | .syUnlock scope m => Sys2Proof.Machine.execSyUnlock scope m s
  | .syArrive level m => Sys2Proof.Machine.execSyArrive level m s
  | .syBwait level m => Sys2Proof.Machine.execSyBwait level m s
  | .syQwait q m => Sys2Proof.Machine.execSyQwait q m s
  | .queuePop q m => Sys2Proof.Machine.execQueuePop q m s
  | .queuePublish q m => Sys2Proof.Machine.execQueuePublish q m s
  | .queueConfigure q m => Sys2Proof.Machine.execQueueConfigure q m s
  | .syQspace q m => Sys2Proof.Machine.execSyQspace q m s
  | .syTrig m => Sys2Proof.Machine.execSyTrig m s
  | .syCombine m => Sys2Proof.Machine.execSyCombine m s
  | .syBind scope m => Sys2Proof.Machine.execSyBind scope m s
  | .tkSpawn m => Sys2Proof.Machine.execTkSpawn m s
  | .tkVdecl m => Sys2Proof.Machine.execTkVdecl m s
  | .tkVaddr m => Sys2Proof.Machine.execTkVaddr m s
  | .tkFinish m => Sys2Proof.Machine.execTkFinish m s
  | .tkJoin m => Sys2Proof.Machine.execTkJoin m s
  | .tkStamp m => Sys2Proof.Machine.execTkStamp m s
  | .tkAbort m => Sys2Proof.Machine.execTkAbort m s
  | .dbBegin m => Sys2Proof.Machine.execDbBegin m s
  | .dbEnd m => Sys2Proof.Machine.execDbEnd m s
  | .dbRev m => Sys2Proof.Machine.execDbRev m s
  | .dbZero m => Sys2Proof.Machine.execDbZero m s
  | .dbPush m => Sys2Proof.Machine.execDbPush m s
  | .dbPop m => Sys2Proof.Machine.execDbPop m s
  | .dbSp m => Sys2Proof.Machine.execDbSp m s
  | .dbMode m => Sys2Proof.Machine.execDbMode m s
  | .helperBaseInstruction c op => Sys2Proof.Machine.execHelperBaseInstruction c op s
  | .helperFence rest => Sys2Proof.Machine.execHelperFence rest s
  | .hxSset f st rs1 => Sys2Proof.Machine.execHxSset f st rs1 s
  | .hxSget st rd => Sys2Proof.Machine.execHxSget st rd s
  | .hxQwr q rs1 rs2 => Sys2Proof.Machine.execHxQwr q rs1 rs2 s
  | .hxQrd q rd rs1 => Sys2Proof.Machine.execHxQrd q rd rs1 s
  | .hxQpub q rd rs1 => Sys2Proof.Machine.execHxQpub q rd rs1 s
  | .hxQpop q rd rs1 => Sys2Proof.Machine.execHxQpop q rd rs1 s
  | .hxQwd q rd rs1 => Sys2Proof.Machine.execHxQwd q rd rs1 s
  | .hxQws q rd rs1 => Sys2Proof.Machine.execHxQws q rd rs1 s
  | .hxSld q rd rs1 rs2 => Sys2Proof.Machine.execHxSld q rd rs1 rs2 s
  | .hxSst q rd rs1 rs2 => Sys2Proof.Machine.execHxSst q rd rs1 rs2 s
  | .hxBsx q rd rs1 rs2 => Sys2Proof.Machine.execHxBsx q rd rs1 rs2 s
  | .hxLhint st rs1 => Sys2Proof.Machine.execHxLhint st rs1 s
  | .hxFence scope => Sys2Proof.Machine.execHxFence scope s
  | .hxStop rs1 => Sys2Proof.Machine.execHxStop rs1 s
  | .anchorNop => Sys2Proof.Machine.execAnchorNop s
  | .anchorScale pa => Sys2Proof.Machine.execAnchorScale pa s
  | .anchorSscale pa => Sys2Proof.Machine.execAnchorSscale pa s
  | .anchorBias pa => Sys2Proof.Machine.execAnchorBias pa s
  | .anchorAddres pa ty => Sys2Proof.Machine.execAnchorAddres pa ty s
  | .anchorMulres pa ty => Sys2Proof.Machine.execAnchorMulres pa ty s
  | .anchorRelu => Sys2Proof.Machine.execAnchorRelu s
  | .anchorGelu => Sys2Proof.Machine.execAnchorGelu s
  | .anchorClamp pa => Sys2Proof.Machine.execAnchorClamp pa s
  | .anchorLeaky pa => Sys2Proof.Machine.execAnchorLeaky pa s
  | .anchorSigmoid => Sys2Proof.Machine.execAnchorSigmoid s
  | .anchorDrop pa pb imm => Sys2Proof.Machine.execAnchorDrop pa pb imm s
  | .anchorCvt ty rm => Sys2Proof.Machine.execAnchorCvt ty rm s
  | .anchorCvtsr pa ty imm => Sys2Proof.Machine.execAnchorCvtsr pa ty imm s
  | .anchorRecm pa => Sys2Proof.Machine.execAnchorRecm pa s
  | .anchorRecs pa pb => Sys2Proof.Machine.execAnchorRecs pa pb s
  | .anchorWrt => Sys2Proof.Machine.execAnchorWrt s
  | .anchorWrl => Sys2Proof.Machine.execAnchorWrl s
  | .anchorWrq => Sys2Proof.Machine.execAnchorWrq s
  | .anchorRmax pa => Sys2Proof.Machine.execAnchorRmax pa s
  | .anchorLoop c d => Sys2Proof.Machine.execAnchorLoop c d s
  | .anchorEnd => Sys2Proof.Machine.execAnchorEnd s
  | .powerOnReset => Sys2Proof.Machine.execPowerOnReset s
  | .perst => Sys2Proof.Machine.execPerst s
  | .imgload seq off data => Sys2Proof.Machine.execImgload seq off data s
  | .attest die seq nonce => Sys2Proof.Machine.execAttest die seq nonce s
  | .waketol die seq ns => Sys2Proof.Machine.execWaketol die seq ns s
  | .pcap die seq watts => Sys2Proof.Machine.execPcap die seq watts s
  | .treq die seq => Sys2Proof.Machine.execTreq die seq s
  | .trig die seq mask ty base len ttag n en => Sys2Proof.Machine.execTrig die seq mask ty base len ttag n en s
  | .tread die seq core start => Sys2Proof.Machine.execTread die seq core start s
  | .traceFreeze core => Sys2Proof.Machine.execTraceFreeze core s
  | .islandEntry core => Sys2Proof.Machine.execIslandEntry core s
  | .islandExit core => Sys2Proof.Machine.execIslandExit core s
  | .cxlLinkDown port => Sys2Proof.Machine.execCxlLinkDown port s
  | .qcfg die seq q block => Sys2Proof.Machine.execQcfg die seq q block s
  | .qstop die seq q => Sys2Proof.Machine.execQstop die seq q s
  | .asset die seq asid en root => Sys2Proof.Machine.execAsset die seq asid en root s
  | .inval die seq asid base len => Sys2Proof.Machine.execInval die seq asid base len s
  | .invalComplete n => Sys2Proof.Machine.execInvalComplete n s
  | .partset die seq parts ports => Sys2Proof.Machine.execPartset die seq parts ports s
  | .wdog die seq mask w => Sys2Proof.Machine.execWdog die seq mask w s
  | .replcfg die seq payload => Sys2Proof.Machine.execReplcfg die seq payload s
  | .factResume die seq otag => Sys2Proof.Machine.execFactResume die seq otag s
  | .factReflect die seq otag => Sys2Proof.Machine.execFactReflect die seq otag s
  | .factEnd die seq otag => Sys2Proof.Machine.execFactEnd die seq otag s
  | .factEvict die seq otag => Sys2Proof.Machine.execFactEvict die seq otag s
  | .tcancel die seq otag => Sys2Proof.Machine.execTcancel die seq otag s
  | .inTail die ep idx => Sys2Proof.Machine.execInTail die ep idx s
  | .outHead die ep idx => Sys2Proof.Machine.execOutHead die ep idx s
  | .endpointRingWrite die ep out v => Sys2Proof.Machine.execEndpointRingWrite die ep out v s
  | .endpointReread die ep => Sys2Proof.Machine.execEndpointReread die ep s
  | .registerWrite off size v => Sys2Proof.Machine.execRegisterWrite off size v s
  | .notifyWrite l q v => Sys2Proof.Machine.execNotifyWrite l q v s
  | .hostWrite off data relaxed poisoned => Sys2Proof.Machine.execHostWrite off data relaxed poisoned s
  | .hostRead regs off n => Sys2Proof.Machine.execHostRead regs off n s
  | .atomicopRequest => Sys2Proof.Machine.execAtomicopRequest s
  | .recordFetch part q => Sys2Proof.Machine.execRecordFetch part q s
  | .recordRefetch part q => Sys2Proof.Machine.execRecordRefetch part q s
  | .groupDispatch group => Sys2Proof.Machine.execGroupDispatch group s
  | .taskAdmit task core => Sys2Proof.Machine.execTaskAdmit task core s
  | .preemption task => Sys2Proof.Machine.execPreemption task s
  | .restore task core => Sys2Proof.Machine.execRestore task core s
  | .taskEnd task => Sys2Proof.Machine.execTaskEnd task s
  | .orderedCommit group => Sys2Proof.Machine.execOrderedCommit group s
  | .orderedRerun task => Sys2Proof.Machine.execOrderedRerun task s
  | .merge task view => Sys2Proof.Machine.execMerge task view s
  | .strandSelect core => Sys2Proof.Machine.execStrandSelect core s
  | .bundleIssue core => Sys2Proof.Machine.execBundleIssue core s
  | .landingArrival task entry => Sys2Proof.Machine.execLandingArrival task entry s
  | .fetchArrival core => Sys2Proof.Machine.execFetchArrival core s
  | .freezeWatchdogExpiry core => Sys2Proof.Machine.execFreezeWatchdogExpiry core s
  | .resultLatchLanding task => Sys2Proof.Machine.execResultLatchLanding task s
  | .fmtShadowExpiry task => Sys2Proof.Machine.execFmtShadowExpiry task s
  | .translationWalkComplete core => Sys2Proof.Machine.execTranslationWalkComplete core s
  | .tokenComplete core unit n => Sys2Proof.Machine.execTokenComplete core unit n s
  | .engineOpStart core unit => Sys2Proof.Machine.execEngineOpStart core unit s
  | .broadcastStart cluster group => Sys2Proof.Machine.execBroadcastStart cluster group s
  | .copyTrap task => Sys2Proof.Machine.execCopyTrap task s
  | .residualSpill task => Sys2Proof.Machine.execResidualSpill task s
  | .residualFill task => Sys2Proof.Machine.execResidualFill task s
  | .responseReturn task => Sys2Proof.Machine.execResponseReturn task s
  | .nackRetry task => Sys2Proof.Machine.execNackRetry task s
  | .combineFold task => Sys2Proof.Machine.execCombineFold task s
  | .rs die line => Sys2Proof.Machine.execRs die line s
  | .rx die line => Sys2Proof.Machine.execRx die line s
  | .up die line => Sys2Proof.Machine.execUp die line s
  | .wb die line => Sys2Proof.Machine.execWb die line s
  | .evc die line => Sys2Proof.Machine.execEvc die line s
  | .inv die line => Sys2Proof.Machine.execInv die line s
  | .ack die line toHome => Sys2Proof.Machine.execAck die line toHome s
  | .fws die line req => Sys2Proof.Machine.execFws die line req s
  | .fwx die line req => Sys2Proof.Machine.execFwx die line req s
  | .fmiss die line => Sys2Proof.Machine.execFmiss die line s
  | .data die line grant => Sys2Proof.Machine.execData die line grant s
  | .grant die line => Sys2Proof.Machine.execGrant die line s
  | .memoryData line => Sys2Proof.Machine.execMemoryData line s
  | .l2Eviction die line => Sys2Proof.Machine.execL2Eviction die line s
  | .segmentFree die n => Sys2Proof.Machine.execSegmentFree die n s
  | .replicationWindowEnd die => Sys2Proof.Machine.execReplicationWindowEnd die s
  | .helperStallEnd core setter => Sys2Proof.Machine.execHelperStallEnd core setter s
  | .sldSectorPublish core setter => Sys2Proof.Machine.execSldSectorPublish core setter s
  | .cxlLinkUp port => Sys2Proof.Machine.execCxlLinkUp port s

end Sys2Proof.Machine
end

