-- ==== Sys2Proof/Machine/Moves.lean ====
section
/-! DEFINITION. What may happen next in the part (notes/assumptions/2.md): the moves of its agents, the messages on their way, and
the host's inputs. Which of them comes next the spec leaves open (spec/03_memory_model.md R97, R105; 01 R33; 19 R448). -/

namespace Sys2Proof.Machine

open Host

/-- Something that may happen next. -/
inductive Move where
  | input (k : Nat)
  | bundle (core : Nat)
  | select (core : Nat)
  | fetched (core : Nat)
  | walked (core : Nat)
  | watchdog (core : Nat)
  | arrive (task entry : Nat)
  | store (task seq : Nat)
  | response (task : Nat)
  | retry (task : Nat)
  | fold (task : Nat)
  | copyTrap (task : Nat)
  | spill (task : Nat)
  | fill (task : Nat)
  | results (task : Nat)
  | shadow (task : Nat)
  | start (core unit : Nat)
  | advance (core unit n : Nat)
  | finish (core unit n : Nat)
  | row (core : Nat)
  | broadcast (cluster group : Nat)
  | helper (core : Nat) (setter : Bool)
  | unstall (core : Nat) (setter : Bool)
  | publish (core : Nat) (setter : Bool)
  | helperStore (core h k : Nat)
  | seat (task core : Nat)
  | preempt (task : Nat)
  | restore (task core : Nat)
  | retire (task : Nat)
  | merge (task view : Nat)
  | rerun (task : Nat)
  | commit (group : Nat)
  | fetch (part q : Nat)
  | refetch (part q : Nat)
  | dispatch (group : Nat)
  | message (m : CohMsg)
  | evict (die line : Nat)
  | free (die n : Nat)
  | window (die : Nat)
  | reread (die ep : Nat)
  | inval (n : Nat)
  | traceFreeze (core : Nat)
  | islandIn (core : Nat)
  | islandOut (core : Nat)
deriving Repr

/-- A list, or nothing when a condition fails. -/
def onlyIf {α : Type} (b : Bool) (l : List α) : List α := if b then l else []

/-- The moves of a core's engines (R228, R129): a freeze stops the units of the core, and leaves the cluster's copy engine. -/
def State.engineMoves (s : State) (n : Nat) (c : Core) : List Move :=
  let cp := (s.ops n 15).zipIdx.flatMap (fun (o, i) => onlyIf o.copying [.advance n 15 i] ++ onlyIf o.copyOver [.finish n 15 i])
  cp ++ onlyIf c.freeze.isNone (
    (match c.mxq with
      | o :: _ => onlyIf (!s.mxHeld n) (onlyIf (s.mxReady n o) [.start n 12] ++ onlyIf o.mxOver [.finish n 12 0] ++
          onlyIf (o.run && o.form != 24 && !o.mxOver && o.reg 4 == 0) [.advance n 12 0])
      | [] => []) ++
    (match c.anq with
      | o :: _ => onlyIf (!o.run) [.start n 13] ++ onlyIf o.anOver [.finish n 13 0] ++ onlyIf (o.run && c.row.isSome) [.row n]
      | [] => []) ++
    (match c.xfq.find? (fun o => o.fault.isNone) with
      | some o => onlyIf (!o.run) [.start n 14] ++ onlyIf o.xOver [.finish n 14 0] ++ onlyIf (o.run && !o.xOver) [.advance n 14 0]
      | none => []))

/-- The moves of a core's helpers: one runs for the task that claims it (R304), unless that is pre-empted (R317); what it has issued goes
on. -/
def State.helperMoves (s : State) (n : Nat) (c : Core) : List Move :=
  [(0, c.ret), (1, c.set)].flatMap (fun (i, h) =>
    let b := i == 1
    onlyIf (c.claims.find? i == some h.task && (s.task h.task).stage != .preempted) (
      onlyIf (h.st == 1) [.helper n b] ++ onlyIf (h.st == 2) [.unstall n b] ++ onlyIf (!h.out.isEmpty) [.publish n b]) ++
    (List.range h.wr.length).map (fun k => .helperStore n i k))

/-- Whether a core has a cycle next (R33, R130): not while it may choose a strand, nor when the watchdog of its freeze has expired. -/
def State.cycles (s : State) (n : Nat) (c : Core) : Bool :=
  !(c.issuing.isNone && c.gap == 0 && (s.nextStrand n).isSome) &&
    (match c.freeze with | some f => decide (3 < f.kind ∨ f.count < 2 ^ c.watch) | none => true)

/-- The moves of a core. -/
def State.coreMoves (s : State) (n : Nat) (c : Core) : List Move :=
  onlyIf (c.power == 0) (
    onlyIf (s.cycles n c) [.bundle n] ++ onlyIf (c.issuing.isNone && c.gap == 0 && (s.nextStrand n).isSome) [.select n] ++
    (match c.freeze with
      | some f => onlyIf (f.kind == 1) [.fetched n] ++ onlyIf (f.kind == 2) [.walked n] ++
          onlyIf (decide (f.kind ≤ 3 ∧ 2 ^ c.watch ≤ f.count)) [.watchdog n]
      | none => []) ++
    s.engineMoves n c ++ s.helperMoves n c) ++
  onlyIf c.trace.full [.traceFreeze n] ++ onlyIf (s.idle n && decide (c.power < 3)) [.islandIn n]

/-- The cores on which a waiting or pre-empted task may be placed. -/
def State.seats (s : State) (id : Nat) : List Nat := s.coresNear (s.task id).limit (s.task id).near

/-- The accesses and requests of a task that are still to be performed, and what its residual unit has to do. -/
def State.accessMoves (s : State) (id : Nat) (t : Task) : List Move :=
  t.waitingLoads.map (fun x => .arrive id x.1) ++ t.stores.map (fun x => .store id x.seq) ++
    onlyIf (!t.awaits.isEmpty) [.response id, .retry id, .fold id] ++ onlyIf (t.stores.any (fun x => decide (0 < x.tries))) [.retry id] ++
    (if (s.chunkWait id).isSome then [.spill id, .fill id]
     else match s.unitFree id with
       | some _ => onlyIf t.oldest.isSome [.spill id] ++ onlyIf t.ahead.isSome [.fill id]
       | none => [])

/-- The moves of a task. -/
def State.taskMoves (s : State) (id : Nat) (t : Task) : List Move :=
  match t.stage with
  | .waiting =>
    onlyIf (s.waitq.any (fun w => w.1 == id)) ((s.seats id).map (fun c => .seat id c) ++
      (s.seats id).flatMap (fun c => onlyIf (s.wakes c) [.islandOut c])) ++ onlyIf (t.commit == 1) [.rerun id]
  | .preempted =>
    (s.seats id).map (fun c => .restore id c) ++ (s.seats id).flatMap (fun c => onlyIf (s.wakes c) [.islandOut c]) ++ s.accessMoves id t
  | .resident =>
    s.accessMoves id t ++ onlyIf (!t.copyTr.isEmpty) [.copyTrap id] ++
      onlyIf (!t.bank.flight.isEmpty) [.results id] ++ onlyIf (!t.fmtPend.isEmpty) [.shadow id] ++ onlyIf (s.wanted id) [.preempt id] ++
      onlyIf (t.commit == 1) [.rerun id]
  | .ended =>
    [.retire id] ++ t.copies.map (fun n => .merge id (n - 16)) ++ t.waitingLoads.map (fun x => .arrive id x.1) ++
      t.stores.map (fun x => .store id x.seq) ++
      onlyIf (s.wantsBack t) ((s.seats id).map (fun c => .restore id c)) ++ onlyIf (t.commit == 1) [.rerun id]
  | .retired => []

/-- The messages that may arrive next (R447): what a home sends to a die about a line arrives in order. -/
def arrivals : List CohMsg → List CohMsg → List CohMsg
  | _, [] => []
  | before, m :: r =>
    let held := [5, 7, 8, 10, 11, 12].contains m.kind &&
      before.any (fun b => b.src == m.src && b.dst == m.dst && b.line == m.line && [5, 7, 8, 10, 11, 12].contains b.kind)
    (if held then [] else [m]) ++ arrivals (before ++ [m]) r

/-- The moves of a die. -/
def State.dieMoves (n : Nat) (d : Die) : List Move :=
  (d.lines.filter (fun x => decide (1 ≤ x.2.st ∧ x.2.st ≤ 4))).map (fun x => .evict n x.1) ++
    (List.range d.olds.length).map (fun i => .free n i) ++ onlyIf (!d.regions.isEmpty) [.window n] ++
    (d.eps.filter (fun e => e.2.bad != 0 && !e.2.stopped)).map (fun e => .reread n e.1)

/-- Whether a step comes from outside the part: over the host's link, a reset, or a CXL link. -/
def isInput (i : Instr) : Bool :=
  match i with
  | .powerOnReset => true
  | .perst => true
  | .cxlLinkDown _ => true
  | .cxlLinkUp _ => true
  | .inTail .. => true
  | .outHead .. => true
  | .endpointRingWrite .. => true
  | .registerWrite .. => true
  | .notifyWrite .. => true
  | .hostWrite .. => true
  | .hostRead .. => true
  | .atomicopRequest => true
  | _ => false

/-- Whether an input may overtake those that arrived before it (R466): a write with the relaxed-ordering attribute. -/
def isRelaxed (i : Instr) : Bool :=
  match i with
  | .hostWrite _ _ r _ => r
  | _ => false

/-- The inputs that may come next (R466): the first, and a write with the relaxed-ordering attribute; after a write whose bytes are not
written yet, only what that write or the input lets pass. -/
def State.inputMoves (s : State) : List Move :=
  (s.inputs.zipIdx.filter (fun x => isRelaxed x.1 || (x.2 == 0 && s.hostWs.all (fun w => w.relaxed)))).map (fun x => .input x.2)

/-- Every move that may come next. -/
def State.moves (s : State) : List Move :=
  s.inputMoves ++
    s.cores.flatMap (fun x => s.coreMoves x.1 x.2) ++
    s.clusters.flatMap (fun x => (List.range 8).map (fun g => .broadcast x.1 g)) ++
    s.tasks.flatMap (fun x => s.taskMoves x.1 x.2) ++
    (s.groups.filter (fun x => x.2.stage == 0)).map (fun x => .dispatch x.1) ++
    (s.groups.filter (fun x => x.2.stage == 1)).map (fun x => .commit x.1) ++
    s.hqs.flatMap (fun x => onlyIf (s.canFetch (x.1 / 64) (x.1 % 64)) [.fetch (x.1 / 64) (x.1 % 64), .refetch (x.1 / 64) (x.1 % 64)]) ++
    (arrivals [] s.net).map .message ++ s.dies.flatMap (fun x => State.dieMoves x.1 x.2) ++
    (List.range s.invals.length).map .inval

/-- The grant of DATA by its code. -/
def grantOf (n : Nat) : CohGrant := match n with | 0 => .s | 1 => .e | _ => .m

/-- A message arrives (R447). -/
def State.deliver (s : State) (m : CohMsg) : Out :=
  match m.kind with
  | 0 => execRs m.src m.line s
  | 1 => execRx m.src m.line s
  | 2 => execUp m.src m.line s
  | 3 => execWb m.src m.line s
  | 4 => execEvc m.src m.line s
  | 5 => execInv m.dst m.line s
  | 6 => execAck m.src m.line true s
  | 7 => execFws m.dst m.line m.arg s
  | 8 => execFwx m.dst m.line m.arg s
  | 9 => execFmiss m.src m.line s
  | 10 => execData m.dst m.line (grantOf m.arg) s
  | 11 => execGrant m.dst m.line s
  | 12 => execAck m.dst m.line false s
  | _ => execMemoryData m.line s

/-- Performs a move. A bundle, a helper's instruction, a word of an anchor row and an input take the next step whole. -/
def State.make (s : State) (m : Move) : Out :=
  match m with
  | .input k =>
    match s.inputs[k]? with
    | some i => .next { s with inputs := s.inputs.eraseIdx k, turn := if isInput i then some (.event i) else none }
    | none => .next s
  | .bundle core => execBundleIssue core s
  | .select core => execStrandSelect core s
  | .fetched core => execFetchArrival core s
  | .walked core => execTranslationWalkComplete core s
  | .watchdog core => execFreezeWatchdogExpiry core s
  | .arrive id n => execLandingArrival id n s
  | .store id seq => .next ({ s with cur := id }.performStore id seq)
  | .response id => execResponseReturn id s
  | .retry id => execNackRetry id s
  | .fold id => execCombineFold id s
  | .copyTrap id => execCopyTrap id s
  | .spill id => execResidualSpill id s
  | .fill id => execResidualFill id s
  | .results id => execResultLatchLanding id s
  | .shadow id => execFmtShadowExpiry id s
  | .start core unit => execEngineOpStart core unit s
  | .advance core unit n =>
    .next (match unit with
      | 12 => s.mxAdvance core
      | 14 => s.xfAdvance core
      | _ => s.copyAdvance core n)
  | .finish core unit n => execTokenComplete core unit n s
  | .row core => .next { s with turn := some (.anchor core) }
  | .broadcast c g => execBroadcastStart c g s
  | .helper core b => .next { s with turn := some (.helper core b) }
  | .unstall core b => execHelperStallEnd core b s
  | .publish core b => execSldSectorPublish core b s
  | .helperStore core h k => .next (s.performHelper core h k)
  | .seat id core => execTaskAdmit id core s
  | .preempt id => execPreemption id s
  | .restore id core => execRestore id core s
  | .retire id => execTaskEnd id s
  | .merge id v => execMerge id v s
  | .rerun id => execOrderedRerun id s
  | .commit g => execOrderedCommit g s
  | .fetch p q => execRecordFetch p q s
  | .refetch p q => execRecordRefetch p q s
  | .dispatch g => execGroupDispatch g s
  | .message m => s.deliver m
  | .evict d l => execL2Eviction d l s
  | .free d n => execSegmentFree d n s
  | .window d => execReplicationWindowEnd d s
  | .reread d e => execEndpointReread d e s
  | .inval n => execInvalComplete n s
  | .traceFreeze core => execTraceFreeze core s
  | .islandIn core => execIslandEntry core s
  | .islandOut core => execIslandExit core s

end Sys2Proof.Machine
end

