-- ==== Sys2Proof/Machine/Turns.lean ====
section
/-! DEFINITION. The turns that a step takes whole (notes/assumptions/2.md): a slot of a strand's bundle (spec/04_core_encoding.md R139), a
helper's instruction (10 R307), a word of an anchor row (08 R243), and an input; and the state in which a table word runs next. -/

namespace Sys2Proof.Machine

open Host

/-- Makes a strand's task and core the current ones. -/
def State.onTask (s : State) (id : Nat) : State := { s with cur := id, core := (s.task id).core }

/-- The next slot of a task's bundle (R139, R140): it runs, is passed over as a literal, or raises the trap of its encoding; after
the last one the bundle ends. In a replay an import takes its recorded value (R367). -/
def State.runSlot (s : State) (id : Nat) : Out :=
  let s := s.onTask id
  match s.nextSlot with
  | .finish => .next s.endBundle
  | .skip => .next s.commit
  | .bad code => .next (s.raise 1 code 0)
  | .run i =>
    if s.t.inWalk.isNone then exec i s
    else
      let s := s.syncWalk
      match s.replaySlot i with
      | some o => o
      | none => exec i s

/-- Makes a helper of a core the current one. -/
def State.onHelper (s : State) (core : Nat) (setter : Bool) : State := { s with core := core, setter := setter }

/-- A helper's next instruction (R307, R309). -/
def State.runHelper (s : State) (core : Nat) (setter : Bool) : Out :=
  let s := s.onHelper core setter
  match s.helperFetch with
  | .access => s.helperTrap 1
  | .illegal => s.helperTrap 2
  | .op i => exec i s

/-- The next word of a core's anchor row (R243, R244). -/
def State.runRow (s : State) (core : Nat) : Out :=
  let s := { s with core := core }
  match decodeAnchor (s.anFetch core) with
  | some i => exec i s
  | none => .next { s.anBad core with turn := none }

/-- Whether the agent that a turn names exists. -/
def State.hasAgent (s : State) (t : Turn) : Bool :=
  match t with
  | .slot id => (s.tasks.find? id).isSome
  | .helper core _ => (s.cores.find? core).isSome
  | .anchor core => (s.cores.find? core).isSome
  | .event _ => true

/-- A turn. -/
def State.runTurn (s : State) (t : Turn) : Out :=
  match t with
  | .slot id => s.runSlot id
  | .helper core b => s.runHelper core b
  | .anchor core => s.runRow core
  | .event i => exec i { s with turn := none }

/-- The move that comes next, a free choice; with none, nothing happens. -/
def State.runMove (s : State) : Out :=
  let ms := s.moves
  match ms[Config.choice s.free % ms.length]? with
  | some m => { s with free := s.free + 1 }.make m
  | none => .next s

/-- After every step the sync sites look at their waits again (R273), and storage whose merges are complete is held no more (R321). -/
def afterStep (o : Out) : Out :=
  match o with
  | .next s => .next s.wake.endHolds
  | o => o

/-! ### Placing a word (notes/assumptions/8.md) -/

/-- A task on strand 0 of core 0, issuing, with a bundle under execution. -/
def oneTask (w : BitVec 256) : Task :=
  { (default : Task) with
    stage := .resident, started := true, tagged := true, cur := { (default : Cur) with word := some w } }

/-- A core whose strand 0 issues. -/
def oneCore : Core := { Core.init with power := 0, issuing := some 0, res := [(0, 0)] }

/-- The boot and a launch, put in place: one partition runs, and task 0 issues on core 0. -/
def State.booted (s : State) : State :=
  { s with running := true, groups := [(0, { (default : Group) with stage := 1 })], ntasks := 1 }

/-- Puts a 48-bit slot word into slot 0 of the bundle that task 0 executes, an anchor word into the program store under a started
row, or a helper word into the private store of core 0's Retriever, so that the next step runs it. -/
def State.place_ (s : State) (nbits w : Nat) : State :=
  let s := s.booted
  if nbits = 48 then
    { s with
      cores := [(0, oneCore)], tasks := [(0, oneTask (BitVec.ofNat 256 (w % 2 ^ 48 * 2 ^ 192)))], turn := some (.slot 0) }
  else
    let op : EngOp := { (default : EngOp) with unit := 13, form := 16, run := true, regs := [(12, 1)] }
    let anchor := nbits = 32 ∧ (decodeHx (BitVec.ofNat 32 w)).isNone ∧ (decodeAnchor (BitVec.ofNat 32 w)).isSome
    if anchor then
      { s with
        cores := [(0, { oneCore with prog := [(0, w % 2 ^ 32)], row := some ⟨0, List.replicate 32 0, 0, 2 ^ 32 - 1, 0, 0, 0, [], 0⟩, anq := [op] })]
        tasks := [(0, oneTask 0)], turn := some (.anchor 0) }
    else
      { s with
        cores := [(0, { oneCore with
          ret := { (default : Helper) with st := 1, store := Memory.cells 0 (toBytes (nbits / 8) (w % 2 ^ nbits)) } })]
        tasks := [(0, oneTask 0)], turn := some (.helper 0 false) }

end Sys2Proof.Machine
end

