-- ==== Sys2Proof/Machine/Step.lean ====
section
/-! DEFINITION. One step of the part: the turn in progress, or else the move that comes next. -/

namespace Sys2Proof.Machine

open Host

/-- One step (notes/assumptions/2.md). -/
def step (s : State) : Host.Outcome State Fault Refusal :=
  match s.turn with
  | some t => if s.hasAgent t then afterStep (s.runTurn t) else .fault .noSuchAgent
  | none => afterStep s.runMove

/-- The state in which the next step runs the instruction of a table word (notes/assumptions/8.md). -/
def State.withFetchWord (s : State) (nbits w : Nat) : State := s.place_ nbits w

end Sys2Proof.Machine
end

