-- ==== Sys2Proof/Safety.lean ====
section
/-! DEFINITION. What counts as a safe state, and the conditions in whose terms the statements are written: when a slot's move is
ready, how a slot ends, and what a strand that nothing else disturbs looks like. -/

namespace Sys2Proof.Machine

open Host

/-- The state's memory is in canonical form: addresses strictly rise, and no listed byte is zero. -/
def State.Inv (s : State) : Prop := Memory.wf s.mem = true

/-- The strand's earlier accesses to bytes of its own core are performed (R97 item 1, R193): s1 is the state in which the access to them
that a slot makes takes place. Without such accesses it is s. -/
def Settled (s : State) (ps : List (Nat × Nat)) (s1 : State) : Prop :=
  s1 = s.settle ps ∧ ∀ p ∈ ps, s1.t.inOrder s1.t.nseq p.1 p.2 = true

/-- The local-store bytes of a queue source of a move (R136). -/
def State.srcRuns (s : State) (q : BitVec 4) (off : BitVec 13) (d : Option WClass) : List (Nat × Nat) :=
  let y := s.queue s.t.core q.toNat
  Machine.queueRuns s.t.core y y.head off.toNat (queueWidth (d.getD .S))

/-- A slot's move delivers a value of a class: the landing checks of R140 pass, its guard holds (R137), and its source delivers in the state
s, which is s0 but for a queue's bytes, whose earlier accesses come first (R123, R136). -/
def Delivers (s0 : State) (m : Mv) (d : Option WClass) (s : State) (c : WClass) (x : Val) : Prop :=
  s0.srcIllegal m.src d = false ∧ s0.t.guardHolds m.guard = true ∧
    (match m.src with
     | .queue q off => Settled s0 (s0.srcRuns q off d) s
     | _ => s = s0) ∧
    s.readSrc m.src d = .val c x

/-- A move into a trigger port of a unit, of a class, is ready with a value in the state s: it delivers and converts to the value (R123),
and the unit has no trigger yet in the bundle (R120). -/
def Ready (s0 s : State) (unit : Nat) (m : Mv) (d : WClass) (v : Val) : Prop :=
  (∃ c x, Delivers s0 m (some d) s c x ∧ convertVal x d = v) ∧ s0.unitUsed unit = false

/-- A ready move of class S, by the word that it delivers. -/
def ReadyW (s0 s : State) (unit : Nat) (m : Mv) (x : Word) : Prop := ∃ v, Ready s0 s unit m .S v ∧ v.word = x

/-- The end of a slot that triggered a unit (R120, R139): the unit is marked and the next slot is the resume point. -/
def State.slotEnds (s : State) (unit : Nat) : State :=
  s.setT { s.t with cur := { s.t.cur with used := unit :: s.t.cur.used }, slot := s.t.slot + 1 }

/-- The state of a strand whose task record alone changes, at the end of a slot that triggered a unit. -/
def State.ends (s : State) (unit : Nat) (t : Task) : State := (s.setT t).slotEnds unit

/-- The source and class of a slot form's move (R118). -/
def moveOf (i : Instr) : Option (Mv × Option WClass) :=
  match slotForm i with
  | some (u, p, sub, m) => some (m, some (trigClass u p sub))
  | none => match i with
    | .move m d => some (m, Dst.cls d)
    | _ => none

/-- The unit that a slot form triggers (R119). -/
def unitOf (i : Instr) : Option Nat := (slotForm i).map (fun x => x.1)

/-- Whether no dynamic condition of R140 check 6 stops a trigger of a unit: the unit has no trigger yet in the bundle (R120), no
division occupies sm (R175), no load still owns the entry that gm's port names, or the next one (R128), and a token engine's token is
free (R132). -/
def State.unheld (s : State) (u : Nat) : Prop :=
  s.unitUsed u = false ∧ (u = 3 → s.t.bank.smFree ≤ s.t.now) ∧ (u = 7 → s.loadBusy true = false) ∧
    ∀ p ∈ [(12, 14), (13, 5), (14, 5), (15, 11)], u = p.1 → (s.t.tok (s.t.pw p.1 p.2).toNat).holds = false

/-- Whether a strand records nothing: no block records, and it is outside a walk (R345, R355). -/
def Plain (s : State) : Prop := s.t.recording = false ∧ s.t.inWalk = none

/-- Memory after elements are written in order. -/
def writeEach (m : List Cell) (els : List (Nat × List Byte)) : List Cell := els.foldl (fun m e => Memory.write m e.1 e.2) m

/-- What issuing a store leaves (R97 item 1, R193, R265): the strand's pending stores are followed by parts with the next places in its
program order, which performed in order write the elements. -/
def Issued (s t : State) (due : Option Nat) (els : List (Nat × List Byte)) : Prop :=
  ∃ new : List Store, t = s.setT { s.t with stored := true, stores := s.t.stores ++ new, nseq := s.t.nseq + new.length } ∧
    new.map (·.seq) = (List.range new.length).map (s.t.nseq + ·) ∧
    (∀ x ∈ new, x.due = due ∧ x.rel = .none ∧ x.tries = 0 ∧ x.num = none) ∧
    ∀ m a, Memory.get (writeEach m (new.map (fun x => (x.pa, x.bytes)))) a = Memory.get (writeEach m els) a

/-- Whether no recompute block that records takes an import (R367). -/
def NoImport (s : State) : Prop := ∀ b, s.t.block = some b → b.recomp = false ∨ s.t.ctl.dbmode ≠ 1 ∨ s.t.inBody b = false

/-- What a slot leaves of a state outside the current task: every field but the tasks, and every other task. -/
def OnlyTask (s t : State) : Prop :=
  t = { s with tasks := t.tasks } ∧ ∀ id, id ≠ s.cur → t.task id = s.task id

/-- An access of the current strand to virtual pieces reaches physical pieces (R262): aligned, canonical, its translations cached
and permitted; the state after is the one whose translation cache the access has used. -/
def Reached (s : State) (align : Nat) (p : Perm) (ps pas : List (Nat × Nat)) (s1 : State) : Prop :=
  (∀ x ∈ ps, x.1 % align = 0 ∧ canonical (wd x.1) = true ∧
    (s.cached s.t.core (s.partOfTask s.t) (s.asidOf s.t) (va57 (wd x.1))).isSome = true) ∧
  s.reachPieces s.t.core (s.asidOf s.t) (s.accOf s.t) p ps = (s1, .ok pas)

/-- A landing entry that a load form names can take the load (R128, R261, R397): it exists in the strand's mode, no load still owns
it, and its arrival offset is 1 to 65535. -/
def LandFree (s0 s : State) (pair : Bool) (n d : Nat) : Prop :=
  s0.loadBusy pair = false ∧ (s.t.pw 7 5).toNat = n ∧ (s.t.pw 7 6).toNat = d ∧ n ≤ 63 ∧ 1 ≤ d ∧ d ≤ 65535 ∧ (s.t.sys = true → n < 8) ∧
    (pair = true → n % 2 = 0) ∧
    ∀ k, k = n ∨ (pair = true ∧ k = n + 1) → ∀ p, (s.t.bank.land.get k default).pend = some p → p.due ≤ s.t.now

/-- What issuing a load leaves (R97 item 1, R128): its entry waits for the pieces, due d boundaries ahead, at the strand's next place in
program order; the odd entry of a pair waits with it. -/
def State.loadIssued (s : State) (n d form ty : Nat) (tile : Option (Nat × Nat)) (ps : List Piece) (lanes va : Word) (pair : Bool) : State :=
  let due := s.t.now + d
  let t := { s.t.await_ n ⟨due, form, ty, tile, ps, lanes, va, s.t.nseq, none⟩ with nseq := s.t.nseq + 1 }
  let t := if pair then t.await_ (n + 1) ⟨due, 0, ty, none, [], 0, va, t.nseq, some (.w 0, false)⟩ else t
  (s.setT t).trace 3 t.slot 0 va

/-- A synchronisation access of the current strand reaches its object (R88, R91): aligned, canonical, and translated to pa. -/
def SyReached (s : State) (align n : Nat) (x : Word) (pa : Nat) (s1 : State) : Prop :=
  x.toNat % align = 0 ∧ canonical x = true ∧ ∃ k r,
    s.reachPieces s.t.core (s.asidOf s.t) { s.accOf s.t with atomic := true } .atomic [(x.toNat, n)] = (s1, .ok ((pa, k) :: r))

/-- The response of the requesting form at the current slot has returned, with a value and no fault (R269, R303). -/
def Answered (s : State) (port : Nat) (v : Word) : Prop :=
  ∃ a, s.t.await = some a ∧ a.port = port ∧ a.slot = s.t.slot ∧ a.value = some v ∧ a.arg 3 = 0

/-- The state in which a requesting form has taken its response. -/
def State.taken (s : State) : State := s.setT { s.t with await := none }

/-- A token that a trigger's token port names and that the strand may start (R132, R164). -/
def TokFree (s0 s : State) (unit port n : Nat) : Prop :=
  s0.tokenBusy unit port = false ∧ (s.t.pw unit port).toNat = n ∧ n ≤ 7 ∧ (s.t.tok n).holds = false

/-- The operation that a trigger of a token engine makes (R132, R228, R243): what it copies, before it has run. -/
def Triggered (s : State) (unit form sub tok : Nat) (x : Word) (o : EngOp) : Prop :=
  o.task = s.cur ∧ o.tok = tok ∧ o.unit = unit ∧ o.form = form ∧ o.sub = sub ∧ o.trig = x ∧ o.ports = s.t.shadow unit ∧
    o.anports = s.t.shadow 13 ∧ o.aparam = s.t.aparam ∧ o.fmt = s.t.ctl.fmt.toNat ∧ o.rmode = s.t.ctl.rmode.toNat ∧
    o.key = s.t.ctl.key ∧ o.coord = s.t.coord ∧ o.core = s.t.core ∧ o.run = false ∧ o.cancel = false ∧ o.fault = none

/-- A form starts its operation: the token is pending and the operation is the last of its engine's order (R228). -/
def Starts (s0 s : State) (i : Instr) (unit form sub tok : Nat) (x : Word) : Prop :=
  ∃ o, Triggered s unit form sub tok x o ∧ exec i s0 = .next ((s.start o).slotEnds unit)

end Sys2Proof.Machine
end

