-- ==== Sys2Proof/Certificates/Slice0/Obligations.lean ====
section
/-! DEFINITION. The statements for the provers. Each is written from rules of spec/ that its docstring names. -/

open Host Sys2Proof Sys2Proof.Machine Sys2Proof.Arith

/-! ### Slots (spec/04_core_encoding.md, 06_scalar_control.md) -/

/-- R137, R139: whatever the form, a slot whose guard is false performs nothing and the next slot follows. R120, R140, R401: a second
trigger of a unit in one bundle raises the illegal-slot trap, class 1 code 2, before its source is read, but for a br.prep to the right of
a go or a call (R181). R267, R136: where no dynamic condition of R140 check 6 holds, a source that delivers a fault raises it at its slot,
and the form does nothing else; a queue source is read once the strand's earlier accesses to those bytes of its core are performed, and
until then the slot waits. -/
def Obligations.SlotRules : Prop :=
  (
    ∀ (s : State) (i : Instr) (m : Mv) (d : Option WClass), moveOf i = some (m, d) → s.srcIllegal m.src d = false →
      s.t.guardHolds m.guard = false → exec i s = .next s.commit) ∧
  (
    ∀ (s : State) (i : Instr) (m : Mv) (d : Option WClass) (u : Nat), moveOf i = some (m, d) → unitOf i = some u →
      s.srcIllegal m.src d = false → s.t.guardHolds m.guard = true → s.t.cur.used.contains u = true →
      (s.t.cur.goB = none ∨ ∀ n m', i ≠ .brPrep n m') → exec i s = .next (s.raise 1 2 0)) ∧
  (
    ∀ (s : State) (i : Instr) (m : Mv) (d : Option WClass), moveOf i = some (m, d) → s.srcIllegal m.src d = true →
      exec i s = .next (s.raise 1 2 0)) ∧
  (
    ∀ (s : State) (i : Instr) (m : Mv) (d : Option WClass) (cls code : Nat) (info : Word),
      moveOf i = some (m, d) → s.srcIllegal m.src d = false → s.t.guardHolds m.guard = true → (∀ u, unitOf i = some u → s.unheld u) →
      ((∀ q off, m.src ≠ .queue q off) → s.readSrc m.src d = .trap cls code info → exec i s = .next (s.raise cls code info)) ∧
      (∀ q off s1, m.src = .queue q off → Settled s (s.srcRuns q off d) s1 → s1.readSrc m.src d = .trap cls code info →
        exec i s = .next (s1.raise cls code info)) ∧
      (∀ q off s1, m.src = .queue q off → s1 = s.settle (s.srcRuns q off d) → s1.t.inWalk = none →
        (∃ p ∈ s.srcRuns q off d, s1.t.inOrder s1.t.nseq p.1 p.2 = false) → exec i s = .next (s1.endBlock .fence)))

/-- R170: the results of sa and sb, from a (port 2), b (the trigger value x) and c (port 4), after one cycle. R171: bfx and bfi
work on the field at P = b<5:0> of length min(b<12:6>, 64 − P): bit by bit, what each result holds. R172, R169: setk compares a
with b, and the outcome goes to .o and to kN at one boundary. -/
def Obligations.ScalarResults : Prop :=
  (
    ∀ (s0 s : State) (b : Bool) (m : Mv) (x : Word) (w : WidthSel) (n : BitVec 2), ReadyW s0 s (saUnit b) m x →
      let u := saUnit b
      let a := s.t.pw u 2
      let c := s.t.pw u 4
      let k := x.toNat % 64
      ∀ p ∈ [
        (Instr.saAdd b m, a + x), (.saSub b m, a - x), (.saRsub b m, x - a),
        (.saAddw b m, ((a + x).setWidth 32).signExtend 64), (.saSubw b m, ((a - x).setWidth 32).signExtend 64),
        (.saShladd b n m, a * wd (2 ^ (n.toNat + 1)) + x),
        (.saAnd b m, a &&& x), (.saOr b m, a ||| x), (.saXor b m, a ^^^ x), (.saAndn b m, a &&& ~~~x), (.saOrn b m, a ||| ~~~x),
        (.saShl b m, a <<< k), (.saShr b m, a >>> k), (.saSar b m, a.sshiftRight k), (.saRol b m, a.rotateLeft k),
        (.saRor b m, a.rotateRight k),
        (.saSeq b m, if a = x then 1 else 0), (.saSne b m, if a = x then 0 else 1),
        (.saSlt b m, if a.toInt < x.toInt then 1 else 0), (.saSle b m, if a.toInt ≤ x.toInt then 1 else 0),
        (.saSltn b m, if a.toNat < x.toNat then 1 else 0), (.saSlen b m, if a.toNat ≤ x.toNat then 1 else 0),
        (.saMin b m, if a.toInt < x.toInt then a else x), (.saMax b m, if x.toInt < a.toInt then a else x),
        (.saMinn b m, if a.toNat < x.toNat then a else x), (.saMaxn b m, if x.toNat < a.toNat then a else x),
        (.saSel b m, if c = 0 then x else a),
        (.saClz b m, wd (clzN 64 x.toNat)), (.saCtz b m, wd (ctzN x.toNat 64)), (.saPopc b m, wd (popcN x.toNat 64)),
        (.saBswap b m, wd (ofBytes (toBytes 8 x.toNat).reverse)),
        (.saSext b w m, BitVec.ofInt 64 (sint w.bits x.toNat)), (.saZext b w m, wd (x.toNat % 2 ^ w.bits))],
        exec p.1 s0 = .next (s.ends u (s.t.result u false 1 (.w p.2) 0))) ∧
  (
    ∀ (s0 s : State) (b : Bool) (m : Mv) (x : Word), ReadyW s0 s (saUnit b) m x →
      let u := saUnit b
      let a := s.t.pw u 2
      let c := s.t.pw u 4
      let p := wbits x 5 0
      let l := min (wbits x 12 6) (64 - p)
      ∃ f g : Word,
        exec (.saBfx b m) s0 = .next (s.ends u (s.t.result u false 1 (.w f) 0)) ∧
        exec (.saBfi b m) s0 = .next (s.ends u (s.t.result u false 1 (.w g) 0)) ∧
        ∀ i < 64, f.getLsbD i = (decide (i < l) && a.getLsbD (p + i)) ∧
          g.getLsbD i = (if p ≤ i ∧ i < p + l then a.getLsbD (i - p) else c.getLsbD i)) ∧
  (
    ∀ (s0 s : State) (b : Bool) (m : Mv) (x : Word) (cond : BitVec 2) (k : BitVec 3), ReadyW s0 s (saUnit b) m x →
      let u := saUnit b
      let a := s.t.pw u 2
      let out : Bool :=
        if cond = 0 then decide (a = x) else if cond = 1 then decide (a ≠ x)
        else if cond = 2 then decide (a.toInt < x.toInt) else decide (a.toNat < x.toNat)
      exec (.saSetk b cond k m) s0 = .next (s.ends u (s.t.resultK u 1 out k.toNat)))

/-- R173, R175: the multiply forms of sm, after three cycles, while no division occupies the unit. R174, R175: the division forms:
by zero the quotient is all ones, the remainder is a and DZ is raised; otherwise the quotient truncates. They land after 20
cycles, and sm is occupied until then. R60, R174: with DZ enabled outside a walk, a division by zero takes the FP trap at its
slot, with DZ set in fflags and nothing else of the task changed; R175: while a division occupies sm, a trigger of sm raises the
illegal-slot trap. -/
def Obligations.MultiplyDivideResults : Prop :=
  (
    ∀ (s0 s : State) (m : Mv) (x : Word), ReadyW s0 s 3 m x → s0.t.bank.smFree ≤ s0.t.now →
      let a := s.t.pw 3 2
      ∀ p ∈ [
        (Instr.smMul m, a * x),
        (.smMulh m, (a.signExtend 128 * x.signExtend 128).extractLsb' 64 64),
        (.smMulhn m, (a.setWidth 128 * x.setWidth 128).extractLsb' 64 64),
        (.smMulw m, ((a * x).setWidth 32).signExtend 64)],
        exec p.1 s0 = .next (s.ends 3 (s.t.result 3 false 3 (.w p.2) 0))) ∧
  (
    ∀ (s0 s : State) (m : Mv) (x : Word), ReadyW s0 s 3 m x → s0.t.bank.smFree ≤ s0.t.now →
      let a := s.t.pw 3 2
      let fl : Flags := if x = 0 then DZ else 0
      s.t.fpTraps fl = false →
      let q : Word := if x = 0 then -1 else a.sdiv x
      let r : Word := if x = 0 then a else a.srem x
      let qn : Word := if x = 0 then -1 else wd (a.toNat / x.toNat)
      let rn : Word := if x = 0 then a else wd (a.toNat % x.toNat)
      let t : Task := { s.t with bank := { s.t.bank with smFree := s.t.now + 20 } }
      exec (.smDiv m) s0 = .next (s.ends 3 ((t.result 3 false 20 (.w q) fl).result 3 true 20 (.w r) 0)) ∧
      exec (.smDivn m) s0 = .next (s.ends 3 ((t.result 3 false 20 (.w qn) fl).result 3 true 20 (.w rn) 0)) ∧
      exec (.smRem m) s0 = .next (s.ends 3 (t.result 3 false 20 (.w r) fl)) ∧
      exec (.smRemn m) s0 = .next (s.ends 3 (t.result 3 false 20 (.w rn) fl))) ∧
  (
    ∀ (s0 s : State) (m : Mv) (x : Word), ReadyW s0 s 3 m x →
      (s0.t.bank.smFree ≤ s0.t.now → x = 0 → s.t.fpTraps DZ = true →
        ∀ i ∈ [Instr.smDiv m, .smDivn m, .smRem m, .smRemn m],
          exec i s0 = .next ((s.setT (s.t.orFlags DZ)).raise 2 1 0x808)) ∧
      (s0.t.now < s0.t.bank.smFree →
        ∀ i ∈ [Instr.smMul m, .smMulh m, .smMulhn m, .smMulw m, .smDiv m, .smDivn m, .smRem m, .smRemn m],
          exec i s0 = .next (s0.raise 1 2 0)))

/-- R176-R179: the address-generator forms, after one cycle. -/
def Obligations.AddressResults : Prop :=
  ∀ (s0 s : State) (m : Mv) (x : Word) (k : BitVec 2) (kn : BitVec 3), ReadyW s0 s 4 m x →
    let a := s.t.pw 4 2
    let pitch := s.t.pw 4 5
    let rot := s.t.pw 4 6
    exec (.agA2d m) s0 = .next (s.ends 4 (s.t.result 4 false 1 (.w (a + s.t.pw 4 3 * pitch + x)) 0)) ∧
    exec (.agSidx k m) s0 = .next (s.ends 4 (s.t.result 4 false 1 (.w (a + x * wd (2 ^ k.toNat))) 0)) ∧
    exec (.agTaddr m) s0 = (if 2 ≤ wbits rot 9 8 then .next (s.raise 1 3 0) else
      .next (s.ends 4 (s.t.result 4 false 1
        (.w (a + x * pitch + wd (x.toNat * wbits rot 4 0 % (if wbits rot 9 8 = 0 then 16 else 32) * 64))) 0))) ∧
    exec (.agBchk kn m) s0 = .next (s.ends 4 (s.t.resultK 4 1 (decide (x.toNat < a.toNat)) kn.toNat)) ∧
    (∃ lo hi : Word,
      exec (.agDpack m) s0 = .next (s.ends 4 ((s.t.result 4 false 1 (.w lo) 0).result 4 true 1 (.w hi) 0)) ∧
      wbits lo 21 0 = wbits a 21 0 ∧ wbits lo 43 22 = wbits pitch 21 0 ∧ wbits lo 62 44 = 0 ∧
      (lo.getLsbD 63 = true ↔ 2 ^ 22 ≤ a.toNat ∨ 2 ^ 22 ≤ pitch.toNat ∨ 2 ^ 22 ≤ x.toNat) ∧
      wbits hi 21 0 = wbits x 21 0 ∧ wbits hi 31 22 = wbits rot 9 0 ∧ wbits hi 63 32 = 0)

/-- R180-R184, R186: the branch forms, whose targets are 32-byte aligned and canonical: what each leaves for the end of its
bundle. R180, R186: a target that is not a multiple of 32 raises the alignment fault, otherwise one that is not canonical the
address fault; and br.tret in task mode raises the privilege fault with its port as detail. R181: a
br.prep to the right of a go or a call supplies the target as one of its own. R182, R183: what the next bundle is when a bundle completes with no branch taken: the loop step of the lowest-numbered branch register whose loop ends there. -/
def Obligations.BranchForms : Prop :=
  (
    ∀ (s0 s : State) (m : Mv) (x : Word) (n : BitVec 2), ReadyW s0 s 5 m x →
      let le := s.t.pw 5 2
      (x.toNat % 32 = 0 → canonical x = true →
        exec (.brPrep n m) s0 = .next (s.ends 5 { s.t with bank := { s.t.bank with
          b := s.t.bank.b.set n.toNat x, lc := s.t.bank.lc.set n.toNat 0 } }) ∧
        exec (.brRet m) s0 = .next (((s.branched x).setCur (fun c => { c with target := some x })).slotEnds 5)) ∧
      exec (.brGo n m) s0 =
        .next (((s.branched (s.t.bank.b.get n.toNat 0)).setCur (fun c => { c with goB := some n.toNat })).slotEnds 5) ∧
      (∃ s', s' = s.branched (s.t.bank.b.get n.toNat 0) ∧ exec (.brCall n m) s0 =
        .next (((s'.setT (s'.t.result 5 false 1 (.w (s'.t.pc + 32)) 0)).setCur (fun c => { c with goB := some n.toNat })).slotEnds 5)) ∧
      (le.toNat % 32 = 0 → canonical le = true → x ≠ 0 →
        exec (.brLoop n m) s0 = .next ((s.setCur (fun c =>
          { c with loop := some (n.toNat, le, x), target := some (s.t.pc + 32) })).slotEnds 5)) ∧
      (le.toNat % 32 = 0 → canonical le = true → x = 0 →
        exec (.brLoop n m) s0 = .next (((s.branched (le + 32)).setCur (fun c =>
          { c with loop := some (n.toNat, le, 0), target := some (le + 32) })).slotEnds 5)) ∧
      exec (.brYield m) s0 = .next ((s.setCur (fun c => { c with yield := true })).slotEnds 5) ∧
      exec (.brEnd m) s0 = .next ((s.setCur (fun c => { c with fin := some (s.t.slot, 0) })).slotEnds 5) ∧
      (s.t.sys = true → s.t.ctl.xpc.toNat % 32 = 0 → canonical s.t.ctl.xpc = true →
        exec (.brTret m) s0 = .next ((s.setCur (fun c => { c with ret := true })).slotEnds 5))) ∧
  (
    ∀ (s0 s : State) (m : Mv) (x : Word) (n : BitVec 2), ReadyW s0 s 5 m x →
      (x.toNat % 32 ≠ 0 → ∀ i ∈ [Instr.brPrep n m, .brRet m], exec i s0 = .next (s.raise 4 4 x)) ∧
      (x.toNat % 32 = 0 → canonical x = false → ∀ i ∈ [Instr.brPrep n m, .brRet m], exec i s0 = .next (s.raise 4 3 x)) ∧
      (s.t.sys = false → exec (.brTret m) s0 = .next (s.raise 10 1 24))) ∧
  (
    ∀ (s0 s : State) (m : Mv) (c : WClass) (v : Val) (n : BitVec 2), Delivers s0 m (some .S) s c v → s0.t.cur.goB ≠ none →
      s0.t.cur.used.count 5 = 1 →
      let x := (convertVal v .S).word
      x.toNat % 32 = 0 → canonical x = true → exec (.brPrep n m) s0 = .next (s.ends 5 { s.t with bank := { s.t.bank with
        b := s.t.bank.b.set n.toNat x, lc := s.t.bank.lc.set n.toNat 0 } })) ∧
  (
    ∀ (b : Bank) (pc : Word),
      let ends (n : Nat) : Prop := b.lc.get n 0 ≠ 0 ∧ b.le.get n 0 = pc
      ((∀ n < 4, ¬ ends n) → b.loopStep pc = (b, pc + 32)) ∧
      (∀ n < 4, ends n → (∀ j < n, ¬ ends j) →
        let k := b.lc.get n 0
        (1 < k.toNat → b.loopStep pc = ({ b with lc := b.lc.set n (k - 1) }, b.b.get n 0)) ∧
        (k = 1 → b.loopStep pc = ({ b with lc := b.lc.set n 0 }, pc + 32))))

/-- R185: br.trap commits its own slot and raises the SOFT trap, class 3 code 1, with the trigger value as detail; the slot-resume
point is the next slot that holds a move, or 5. R403: taking an own-route trap in task mode, outside a walk: what the trap
registers hold, what is saved and what is zero, and that the strand runs at tvec in system mode, with handler clock 0, after four
cycles. R407, R404: an own-route trap of a strand in system mode suspends it as class 15 code 1, with the trap's class and code as
detail; with tvec 0, a strand in task mode is suspended with the trap's own class and code. -/
def Obligations.TrapTaking : Prop :=
  (
    ∀ (s0 s : State) (m : Mv) (x : Word) (w : BitVec 256) (b : Bundle), ReadyW s0 s 5 m x →
      s.t.cur.word = some w → decodeBundle w = some b → s.t.slot < 5 →
      let j := s.t.slot + 1
      let next := if b.isLit j then min (j + 1) 5 else min j 5
      ∃ s1, s1 = s.slotEnds 5 ∧ exec (.brTrap m) s0 = .next ((s1.setT { s1.t with slot := next }).raise 3 1 x)) ∧
  (
    ∀ (s : State) (cls code : Nat) (info : Word), ownRoute cls code = true → s.t.sys = false → s.t.ctl.tvec ≠ 0 →
      s.t.walk = none → s.t.slot ≤ 5 → cls < 256 → code < 256 →
      ∃ t, t = (s.raise cls code info).t ∧
        wbits t.ctl.xst 63 56 = cls ∧ wbits t.ctl.xst 55 48 = code ∧ wbits t.ctl.xst 47 3 = 0 ∧ wbits t.ctl.xst 2 0 = s.t.slot ∧
        t.ctl.xpc = s.t.pc ∧ t.ctl.xinfo = info ∧ t.held = s.t.bank ∧ t.bank = Bank.empty ∧ t.sys = true ∧ t.hclock = 0 ∧
        t.clock = s.t.clock ∧ t.slot = 0 ∧ t.pc.toNat % 32 = 0 ∧ wbits t.pc 56 5 = wbits s.t.ctl.tvec 56 5 ∧
        t.g = s.t.g ∧ t.v = s.t.v ∧ t.m = s.t.m ∧ t.k = s.t.k ∧ t.toks = s.t.toks ∧ t.gens = s.t.gens ∧
        t.fmtPend = s.t.fmtPend ∧ (s.raise cls code info).c.gap = 4 ∧ (s.raise cls code info).mem = s.mem) ∧
  (
    ∀ (s : State) (cls code : Nat) (info : Word), ownRoute cls code = true →
      (s.t.sys = true → s.raise cls code info = s.suspend 15 1 (wd (cls * 256 + code))) ∧
      (s.t.sys = false → s.t.ctl.tvec = 0 → s.raise cls code info = s.suspend cls code info) ∧
      (∀ cls' code' info', ownRoute cls' code' = false → s.raise cls' code' info' = s.suspend cls' code' info'))

/-- R405: the return with PMODE 0 restores the banked state, enters task mode at xpc and SLOT at the held strand clock, and
nothing of the strand issues for four cycles; with PMODE 1 the strand stays in system mode and keeps both banks. -/
def Obligations.TrapReturn : Prop :=
  ∀ s : State,
    let t := s.trapReturn.t
    t.pc = s.t.ctl.xpc ∧ t.slot = min (wbits s.t.ctl.xst 2 0) 5 ∧ t.clock = s.t.clock ∧ s.trapReturn.c.gap = 4 ∧
    t.g = s.t.g ∧ t.v = s.t.v ∧ t.m = s.t.m ∧ t.k = s.t.k ∧ t.ctl = s.t.ctl ∧ t.toks = s.t.toks ∧
    (s.t.ctl.xst.getLsbD 11 = false → t.sys = false ∧ t.bank = s.t.held) ∧
    (s.t.ctl.xst.getLsbD 11 = true → t.sys = s.t.sys ∧ t.bank = s.t.bank ∧ t.held = s.t.held ∧ t.hclock = s.t.hclock)

/-- R194, R196, R197: the forms that read control state complete for every register that the strand's mode may read; dsel writes
the bit of its die. R195, R131, R198: a write of a control register that the mode may write is kept for the end of its bundle, and
fmt in task mode takes its shadow of five cycles. R160, R196, R198: in task mode the privilege fault, class 10 code 1 with the
register's number, meets a read of c33-c36, a write of a register that task mode may not write, and every ct.wrs; a reserved
register of a ct.rdc or ct.wrc is an illegal port. -/
def Obligations.ControlForms : Prop :=
  (
    ∀ (s0 s : State) (m : Mv) (x : Word) (r : BitVec 5) (k : BitVec 3), ReadyW s0 s 19 m x →
      (r.toNat < 17 → exec (.ctRdc r m) s0 = .next (s.ends 19 (s.t.result 19 false 1 (.w (s.creg r.toNat)) 0))) ∧
      (r.toNat = 0 ∨ (r.toNat < 5 ∧ s.t.sys = true) →
        exec (.ctRdcHi r m) s0 = .next (s.ends 19 (s.t.result 19 false 1 (.w (s.creg (32 + r.toNat))) 0))) ∧
      exec (.ctCyc m) s0 = .next (s.ends 19 (s.t.result 19 false 1 (.w (wd s.t.now)) 0)) ∧
      exec (.ctPerf m) s0 = .next (s.ends 19 (s.t.result 19 false 1 (.w (wd s.perf)) 0)) ∧
      exec (.ctDsel k m) s0 = .next (s.ends 19 (s.t.resultK 19 1 (x.getLsbD (s.ldie s.t)) k.toNat))) ∧
  (
    ∀ (s0 s : State) (m : Mv) (x : Word) (r : BitVec 5), ReadyW s0 s 19 m x →
      (s.t.sys = false → r = 0 → x.toNat < 8 → x.toNat % 4 ≠ 3 →
        exec (.ctWrc r m) s0 = .next (s.ends 19 { s.t with fmtPend := s.t.fmtPend ++ [(s.t.clock + 5, x)] })) ∧
      (r.toNat ∈ [1, 2, 3, 9, 10, 15] ∨ ((r = 0 ∨ r = 11) ∧ s.t.sys = true) → (r = 0 → x.toNat < 8 ∧ x.toNat % 4 ≠ 3) → (r = 1 → x.toNat < 5) → (r = 2 → x.toNat < 256) →
        exec (.ctWrc r m) s0 = .next ((s.setCur (fun c => { c with ends := c.ends ++ [(r.toNat, x)] })).slotEnds 19)) ∧
      (r.toNat < 5 → s.t.sys = true → ∀ i ∈ [Instr.ctWrcHi r m, .ctWrs r m],
        exec i s0 = .next ((s.setCur (fun c => { c with ends := c.ends ++ [(32 + r.toNat, x)] })).slotEnds 19))) ∧
  (
    ∀ (s0 s : State) (m : Mv) (x : Word) (r : BitVec 5), ReadyW s0 s 19 m x →
      (s.t.sys = false → 1 ≤ r.toNat → r.toNat < 5 → exec (.ctRdcHi r m) s0 = .next (s.raise 10 1 (wd (32 + r.toNat)))) ∧
      (s.t.sys = false → r.toNat ∈ [4, 5, 6, 7, 8, 11, 12, 13, 14, 16] → exec (.ctWrc r m) s0 = .next (s.raise 10 1 (wd r.toNat))) ∧
      (s.t.sys = false → r.toNat < 5 → exec (.ctWrcHi r m) s0 = .next (s.raise 10 1 (wd (32 + r.toNat)))) ∧
      (s.t.sys = false → exec (.ctWrs r m) s0 = .next (s.raise 10 1 (wd (32 + r.toNat)))) ∧
      (17 ≤ r.toNat → exec (.ctRdc r m) s0 = .next (s.raise 1 3 0) ∧ exec (.ctWrc r m) s0 = .next (s.raise 1 3 0)) ∧
      (5 ≤ r.toNat → exec (.ctRdcHi r m) s0 = .next (s.raise 1 3 0) ∧ exec (.ctWrcHi r m) s0 = .next (s.raise 1 3 0)))

/-- R58, R195: a write of fflags sets the enables from bits 12:8 and clears the flags written as 1. R59, R127, R169: a result that
lands writes its latch, ORs its flags into fflags and writes its guard bit; no register, shadow port or landing entry of the task
changes. -/
def Obligations.FlagRules : Prop :=
  (
    ∀ (t : Task) (x : Word),
      let r := (t.endWrite 3 x).ctl.fflags
      ∀ i < 64, r.getLsbD i =
        (if i < 6 then t.ctl.fflags.getLsbD i && !x.getLsbD i else decide (8 ≤ i ∧ i ≤ 12) && x.getLsbD i)) ∧
  (
    ∀ (t : Task) (f : Flight),
      let r := t.landOne f
      (∀ x, f.val = some x → r.latch f.unit f.h = x) ∧
      r.ctl.fflags = t.ctl.fflags ||| f.flags.setWidth 64 ∧
      (∀ n b, f.k = some (n, b) → r.k.get n false = b ∧ ∀ j, j ≠ n → r.k.get j false = t.k.get j false) ∧
      (f.k = none → r.k = t.k) ∧
      (∀ u h, u * 2 + (if h then 1 else 0) ≠ f.unit * 2 + (if f.h then 1 else 0) → r.latch u h = t.latch u h) ∧
      r.g = t.g ∧ r.v = t.v ∧ r.m = t.m ∧ r.bank.b = t.bank.b ∧ r.bank.shadow = t.bank.shadow ∧ r.bank.land = t.bank.land ∧
      r.ctl.fmt = t.ctl.fmt ∧ r.ctl.rmode = t.ctl.rmode ∧ r.ctl.mode = t.ctl.mode)

/-- R115, R121, R123, R124, R117: what a move writes, by the class of its source and its destination, while no recompute block imports
(R367): g0 discards what is written, a write of lane n changes that lane only, a pair takes both registers, and a port takes the value in
its class. R123, R136, R277: a move into a queue position whose buffer is there and whose offset is aligned writes the bytes of its
source's class at the wrapped offset from the tail, after the strand's earlier accesses to them; every other byte of memory reads as
before, and no head or tail moves. -/
def Obligations.MoveForms : Prop :=
  (
    ∀ (s0 s : State) (m : Mv) (d : Dst) (c : WClass) (v : Val), Delivers s0 m (Dst.cls d) s c v → NoImport s →
      let low (y : Word) : Word := (y.setWidth 32).setWidth 64
      let gives (t : Task) : Prop := exec (.move m d) s0 = .next ((s.setT t).commit)
      (d = .null → exec (.move m d) s0 = .next s.commit) ∧
      (∀ x n, v = .w x → d = .reg 0 n 0 → n ≠ 0 → gives { s.t with g := s.t.g.set n.toNat x }) ∧
      (d = .reg 0 0 0 → gives s.t) ∧
      (∀ x n, v = .w x → d = .reg 2 n 0 → ∃ s', s' = s.trace 2 s.t.slot 0 x ∧
        exec (.move m d) s0 = .next ((s'.setT { s'.t with m := s'.t.m.set n.toNat x }).commit)) ∧
      (∀ x n, v = .w x → d = .reg 3 n 0 → gives { s.t with k := s.t.k.set n.toNat (x.getLsbD 0) }) ∧
      (∀ x n, v = .w x → d = .reg 1 n 0 → gives { s.t with v := s.t.v.set n.toNat (List.replicate 64 (low x)) }) ∧
      (∀ x n (i : Nat), v = .w x → i < 64 → d = .reg 1 n (BitVec.ofNat 9 (64 + i)) →
        gives { s.t with v := s.t.v.set n.toNat ((s.t.vr n.toNat).set i (low x)) }) ∧
      (∀ x n (i : Nat), v = .w x → i < 64 → d = .reg 1 n (BitVec.ofNat 9 (128 + i)) →
        gives { s.t with
          v := (s.t.v.set n.toNat ((s.t.vr n.toNat).set i (low x))).set (n.toNat + 1) ((s.t.vr (n.toNat + 1)).set i (x >>> 32)) }) ∧
      (∀ l n, v = .v l → d = .reg 1 n 0 → gives { s.t with v := s.t.v.set n.toNat (l.map low) }) ∧
      (∀ l n, v = .v l → d = .reg 1 n 1 → gives { s.t with
          v := (s.t.v.set n.toNat (l.map low)).set (n.toNat + 1) (l.map (fun (y : Word) => y >>> 32)) }) ∧
      (∀ u p pair k, d = .port u p pair → Dst.cls d = some k →
        gives ((s.t.noteCode (u.toNat * 16 + p.toNat) (s.t.constSrc m.src)).setPort u.toNat p.toNat (convertVal v k)))) ∧
  (
    ∀ (s0 s s1 : State) (m : Mv) (q : BitVec 4) (off : BitVec 13) (c : WClass) (v : Val), Delivers s0 m none s c v →
      let y := s.queue s.t.core q.toNat
      let n := queueWidth c
      let core := s.t.core
      (c = .V ∨ c = .P → v.lanes.length = 64) → off.toNat % n = 0 → y.cfg.isSome = true →
      Settled s (Machine.queueRuns core y y.tail off.toNat n) s1 →
        ∃ t, exec (.move m (.queue q off)) s0 = .next t ∧ t.cores = s1.cores ∧
          t.tasks = s1.tasks.set s1.cur { s1.t with stored := true, slot := s1.t.slot + 1 } ∧
          (n ≤ y.cap * y.entry → ∀ i < n, Memory.get t.mem (coreWin core (y.pos y.tail (off.toNat + i))) = (valBytes v c).getD i 0) ∧
          ∀ a, (∀ i < n, a ≠ coreWin core (y.pos y.tail (off.toNat + i))) → Memory.get t.mem a = Memory.get s1.mem a)

/-! ### Local store (spec/06_scalar_control.md R187-R193) -/

/-- R187, R188, R193: the scalar local-store forms, at an offset of local store aligned to the element: once the strand's earlier
accesses to those bytes are performed, a load's element, extended by its type, goes to .o after four cycles; a store issues the low bytes
of .a there, which are performed within four cycles. R267: a poisoned element raises the poison fault. R187: an element outside local
store is an access fault, otherwise an element that is not aligned an alignment fault; then nothing is read or written. R193, R97: an
issued store to the strand's own local store is performed before a later access to its bytes, or when its clock comes. -/
def Obligations.LocalScalarForms : Prop :=
  (
    ∀ (s0 s : State) (m : Mv) (x : Word) (ty : ElemType), ReadyW s0 s 6 m x → x.toNat + ty.bytes ≤ 0x80000 → x.toNat % ty.bytes = 0 →
      let run := [(coreWin s.t.core x.toNat, ty.bytes)]
      (∀ s1, Settled s run s1 →
        let at_ := coreWin s1.t.core x.toNat
        let e := ofBytes (s1.see at_ ty.bytes)
        let o : Word := if ty.isSigned then BitVec.ofInt 64 (sint ty.bits e) else wd e
        (s1.bad at_ ty.bytes = false → exec (.lsLd ty m) s0 = .next (s1.ends 6 (s1.t.result 6 false 4 (.w o) 0))) ∧
        (s1.bad at_ ty.bytes = true → exec (.lsLd ty m) s0 = .next (s1.raise 4 5 (wd (coreWin s1.t.core 0 + x.toNat))))) ∧
      (∀ s1, s1 = s.settle run → s1.t.inWalk = none → (∃ p ∈ run, s1.t.inOrder s1.t.nseq p.1 p.2 = false) →
        exec (.lsLd ty m) s0 = .next (s1.endBlock .fence)) ∧
      (s.t.core < 512 → ∃ t, Issued s t (some (s.t.now + 4)) [(coreWin s.t.core x.toNat, toBytes ty.bytes (s.t.pw 6 2).toNat)] ∧
        exec (.lsSt ty m) s0 = .next (t.slotEnds 6))) ∧
  (
    ∀ (s0 s : State) (m : Mv) (x : Word) (ty : ElemType), ReadyW s0 s 6 m x →
      ∀ i ∈ [Instr.lsLd ty m, .lsSt ty m],
        (0x80000 < x.toNat + ty.bytes → exec i s0 = .next (s.raise 4 2 (wd (coreWin s.t.core 0 + x.toNat)))) ∧
        (x.toNat + ty.bytes ≤ 0x80000 → x.toNat % ty.bytes ≠ 0 →
          exec i s0 = .next (s.raise 4 4 (wd (coreWin s.t.core 0 + x.toNat))))) ∧
  (
    ∀ (s : State) (x : Store) (off : Nat), s.t.core < 512 → s.t.stores = [x] → s.t.waitingLoads = [] → x.rel = .none → x.attr = 0 →
      x.pa = coreWin s.t.core off → off + x.bytes.length ≤ 0x80000 →
      let t := (s.wr x.pa x.bytes).setT { s.t with stores := [] }
      (∀ a n, overlap x.pa x.bytes.length a n = true → x.seq < s.t.nseq → s.settle [(a, n)] = t) ∧
      (∀ d, x.due = some d → d ≤ s.t.now → s.performDue = t))

/-- R187, R189-R193: the vector local-store forms, by the offset of each active lane: contiguous, strided, gathered and masked
forms. When every active element lies in local store and is aligned, a load gives lane i its element, 0 when inactive, after four
cycles; a store issues the low bytes of the lanes in ascending order, performed within four cycles. R187: an active element outside local
store is an access fault; without one, an active element that is not aligned an alignment fault. -/
def Obligations.LocalVectorResults : Prop :=
  ∀ (s0 s : State) (m : Mv) (x : Word) (ty : ElemType) (ld st : Instr) (always : Bool) (off : Nat → Nat), ReadyW s0 s 6 m x →
    (ld, st, always, off) ∈ [
      (Instr.lsLdv ty m, Instr.lsStv ty m, false, fun i => (x + wd (i * ty.bytes)).toNat),
      (.lsLdvs ty m, .lsStvs ty m, false, fun i => (x + wd i * s.t.pw 6 5).toNat),
      (.lsGath ty m, .lsScat ty m, false, fun i => (x + (((s.t.port 6 3).lanes.getD i 0).setWidth 32).setWidth 64).toNat),
      (.lsLdvm ty m, .lsStvm ty m, true, fun i => (x + wd (i * ty.bytes)).toNat)] →
    let on (i : Nat) : Bool := (!always && !(s.t.pw 6 7).getLsbD 0) || (s.t.pw 6 6).getLsbD i
    let l := (List.range 64).filter on
    let out (i : Nat) : Prop := 0x80000 < off i + ty.bytes
    ((∀ i ∈ l, ¬ out i ∧ off i % ty.bytes = 0) →
      (∀ s1, Settled s (l.map (fun i => (coreWin s.t.core (off i), ty.bytes))) s1 →
        let at_ (i : Nat) : Nat := coreWin s1.t.core (off i)
        (∀ i ∈ l, s1.bad (at_ i) ty.bytes = false) →
          ∃ o : Lanes, o.length = 64 ∧
            (∀ i < 64, o.getD i 0 = if on i then laneOut ty (ofBytes (s1.see (at_ i) ty.bytes)) else 0) ∧
            exec ld s0 = .next (s1.ends 6 (s1.t.result 6 true 4 (.v o) 0 ty.is64))) ∧
      (s.t.core < 512 →
        let data := (s.t.port 6 4).lanes
        ∃ t, Issued s t (some (s.t.now + 4)) (l.map (fun i => (coreWin s.t.core (off i), toBytes ty.bytes (data.getD i 0).toNat))) ∧
          exec st s0 = .next (t.slotEnds 6))) ∧
    (∀ i ∈ l, out i → (∀ j ∈ l, j < i → ¬ out j) →
      exec ld s0 = .next (s.raise 4 2 (wd (coreWin s.t.core 0 + off i))) ∧ exec st s0 = .next (s.raise 4 2 (wd (coreWin s.t.core 0 + off i)))) ∧
    ((∀ j ∈ l, ¬ out j) → ∀ i ∈ l, off i % ty.bytes ≠ 0 → (∀ j ∈ l, j < i → off j % ty.bytes = 0) →
      exec ld s0 = .next (s.raise 4 4 (wd (coreWin s.t.core 0 + off i))) ∧ exec st s0 = .next (s.raise 4 4 (wd (coreWin s.t.core 0 + off i))))

/-- R192: the queue forms of the local store, on a configured queue: a load reads at the offset from its head and a store issues
at the offset from its tail, wrapped in the buffer; q above 15 is an illegal port and a queue with no buffer an access fault. -/
def Obligations.LocalQueueResults : Prop :=
  ∀ (s0 s : State) (m : Mv) (x : Word) (ty : ElemType), ReadyW s0 s 6 m x →
    let n := (s.t.pw 6 8).toNat
    let q := s.queue s.t.core n
    let on (i : Nat) : Bool := !(s.t.pw 6 7).getLsbD 0 || (s.t.pw 6 6).getLsbD i
    let l := (List.range 64).filter on
    let rd (i : Nat) : Nat := q.pos q.head (x.toNat + i * ty.bytes)
    let wr (i : Nat) : Nat := q.pos q.tail (x.toNat + i * ty.bytes)
    let fits (o : Nat) : Prop := o + ty.bytes ≤ 0x80000 ∧ o % ty.bytes = 0
    let w := s.t.core
    (15 < n → ∀ i ∈ [Instr.lsLdq ty m, .lsStq ty m, .lsLdvq ty m, .lsStvq ty m], exec i s0 = .next (s.raise 1 3 0)) ∧
    (n ≤ 15 → q.cfg = none → ∀ i ∈ [Instr.lsLdq ty m, .lsStq ty m, .lsLdvq ty m, .lsStvq ty m],
      exec i s0 = .next (s.raise 4 2 (wd (coreWin w 0)))) ∧
    (n ≤ 15 → q.cfg ≠ none →
      (fits (rd 0) → ∀ s1, Settled s [(coreWin w (rd 0), ty.bytes)] s1 → s1.bad (coreWin s1.t.core (rd 0)) ty.bytes = false →
        exec (.lsLdq ty m) s0 = .next (s1.ends 6 (s1.t.result 6 false 4
          (.w (scalarElem ty (ofBytes (s1.see (coreWin s1.t.core (rd 0)) ty.bytes)))) 0))) ∧
      (fits (wr 0) → w < 512 → ∃ t, Issued s t (some (s.t.now + 4)) [(coreWin w (wr 0), toBytes ty.bytes (s.t.pw 6 2).toNat)] ∧
        exec (.lsStq ty m) s0 = .next (t.slotEnds 6)) ∧
      ((∀ i ∈ l, fits (rd i)) → ∀ s1, Settled s (l.map (fun i => (coreWin w (rd i), ty.bytes))) s1 →
        (∀ i ∈ l, s1.bad (coreWin s1.t.core (rd i)) ty.bytes = false) → ∃ o : Lanes, o.length = 64 ∧
          (∀ i < 64, o.getD i 0 = if on i then laneOut ty (ofBytes (s1.see (coreWin s1.t.core (rd i)) ty.bytes)) else 0) ∧
          exec (.lsLdvq ty m) s0 = .next (s1.ends 6 (s1.t.result 6 true 4 (.v o) 0 ty.is64))) ∧
      ((∀ i ∈ l, fits (wr i)) → w < 512 → ∃ t, Issued s t (some (s.t.now + 4))
          (l.map (fun i => (coreWin w (wr i), toBytes ty.bytes ((s.t.port 6 4).lanes.getD i 0).toNat))) ∧
        exec (.lsStvq ty m) s0 = .next (t.slotEnds 6)))

/-! ### Vectors (spec/07_vector.md) -/

/-- R200, R205-R209: the elementwise forms of va and vb, lane by lane under the active mask, with the flags of the active lanes,
when no enabled flag traps and no block records: lane i of .o is the form's result, 0 when inactive, after four cycles for a float
type and two for an integer type. -/
def Obligations.VectorLaneResults : Prop :=
  ∀ (s0 s : State) (b : Bool) (m : Mv) (ty : ElemType) (v : Val) (i : Instr) (f : Nat → LaneRes),
    let u := vaUnit b
    Ready s0 s u m (vecClass ty) v → s.t.recording = false →
    let A (i : Nat) : Nat := lane ty (s.t.port u 2).lanes i
    let B (i : Nat) : Nat := lane ty v.lanes i
    let a (i : Nat) : Ex := exact ty (A i)
    let x (i : Nat) : Ex := exact ty (B i)
    let c (i : Nat) : Ex := exact ty (lane ty (s.t.port u 4).lanes i)
    let n (i : Nat) : Int := intOf ty (A i)
    let k (i : Nat) : Int := intOf ty (B i)
    let env (i : Nat) : Env := s.t.env i
    let sats : Bool := (s.t.pw u 9).getLsbD 0
    (ty.isFloat = true ∧ (i, f) ∈ [
        (Instr.vaAdd b ty m, fun i => ofRes (addRound ty (env i) [a i, x i])),
        (.vaSub b ty m, fun i => ofRes (addRound ty (env i) [a i, neg (x i)])),
        (.vaMul b ty m, fun i => ofRes (mulRound ty (env i) (a i) (x i))),
        (.vaFma b ty m, fun i => ofRes (fmaRound ty (env i) (a i) (x i) (c i) false false)),
        (.vaFms b ty m, fun i => ofRes (fmaRound ty (env i) (a i) (x i) (c i) false true)),
        (.vaFnma b ty m, fun i => ofRes (fmaRound ty (env i) (a i) (x i) (c i) true false)),
        (.vaMin b ty m, fun i => ofFl (fmaxmin ty false (A i) (B i))),
        (.vaMax b ty m, fun i => ofFl (fmaxmin ty true (A i) (B i))),
        (.vaAbs b ty m, fun i => (B i % 2 ^ (ty.bits - 1), 0, false)),
        (.vaNeg b ty m, fun i => (B i ^^^ 2 ^ (ty.bits - 1), 0, false)),
        (.vaRcp b ty m, fun i => ofRes (rcp ty (env i) (x i))), (.vaRsqrt b ty m, fun i => ofRes (rsqrt ty (env i) (x i))),
        (.vaSqrt b ty m, fun i => ofRes (Arith.sqrt ty (env i) (x i))), (.vaExp2 b ty m, fun i => ofRes (exp2 ty (env i) (x i))),
        (.vaLog2 b ty m, fun i => ofRes (Arith.log2 ty (env i) (x i))), (.vaRnd b ty m, fun i => ofRes (rndInt ty (env i) (B i)))] ∨
      ty.isFloat = false ∧ (i, f) ∈ [
        (.vaAdd b ty m, fun i => (wrapN ty.bits (n i + k i), 0, false)),
        (.vaSub b ty m, fun i => (wrapN ty.bits (n i - k i), 0, false)),
        (.vaMul b ty m, fun i => (wrapN ty.bits (n i * k i), 0, false)),
        (.vaMulh b ty m, fun i => (wrapN ty.bits (n i * k i / (2 ^ ty.bits : Nat)), 0, false)),
        (.vaMin b ty m, fun i => (wrapN ty.bits (min (n i) (k i)), 0, false)),
        (.vaMax b ty m, fun i => (wrapN ty.bits (max (n i) (k i)), 0, false)),
        (.vaAbs b ty m, fun i => if !ty.isSigned then (B i, 0, false)
          else if sats then satRes ty (k i).natAbs else (wrapN ty.bits (k i).natAbs, 0, false)),
        (.vaNeg b ty m, fun i => if sats then satRes ty (-(k i)) else (wrapN ty.bits (-(k i)), 0, false)),
        (.vaAnd b ty m, fun i => (A i &&& B i, 0, false)), (.vaOr b ty m, fun i => (A i ||| B i, 0, false)),
        (.vaXor b ty m, fun i => (A i ^^^ B i, 0, false)),
        (.vaShl b ty m, fun i => (A i * 2 ^ (B i % ty.bits), 0, false)),
        (.vaShr b ty m, fun i => (A i / 2 ^ (B i % ty.bits), 0, false)),
        (.vaSar b ty m, fun i => (wrapN ty.bits (sint ty.bits (A i) / (2 ^ (B i % ty.bits) : Nat)), 0, false)),
        (.vaClz b ty m, fun i => (clzN ty.bits (B i), 0, false)), (.vaPopc b ty m, fun i => (popcN (B i) 64, 0, false)),
        (.vaAdds b ty m, fun i => satRes ty (n i + k i)), (.vaSubs b ty m, fun i => satRes ty (n i - k i))]) →
    let on (i : Nat) : Bool := !(s.t.pw u 8).getLsbD 0 || (s.t.pw u 7).getLsbD i
    let fl : Flags := (((List.range 64).filter on).map (fun i => (f i).2.1)).foldl (· ||| ·) 0
    s.t.fpTraps fl = false →
    ∃ o : Lanes, o.length = 64 ∧ (∀ i < 64, o.getD i 0 = if on i then laneOut ty (f i).1 else 0) ∧
      exec i s0 = .next (s.ends u ((s.t.drawn ((List.range 64).filter (fun i => on i && (f i).2.2))).result u false
        (if ty.isFloat then 4 else 2) (.v o) fl))

/-- R210-R212: cmp, cvt and sel: the mask of the active lanes whose condition holds goes to .h; a conversion takes lane i of .a in
the type named in `from`; sel chooses by m in every lane. A condition above 6, or 6 of an integer type, is an illegal port. R60,
R202: when a flag that a vector add raises is enabled outside a walk, the FP trap is taken at its slot, with the flags raised and
their enabled subset as detail, those flags set in fflags, and neither a latch nor a generator changed. -/
def Obligations.VectorSelectForms : Prop :=
  (
    ∀ (s0 s : State) (b : Bool) (m : Mv) (ty : ElemType) (v : Val),
      let u := vaUnit b
      Ready s0 s u m (vecClass ty) v → s.t.recording = false →
      let A (i : Nat) : Nat := lane ty (s.t.port u 2).lanes i
      let B (i : Nat) : Nat := lane ty v.lanes i
      let on (i : Nat) : Bool := !(s.t.pw u 8).getLsbD 0 || (s.t.pw u 7).getLsbD i
      let cc := (s.t.pw u 5).toNat
      (6 < cc ∨ (cc = 6 ∧ ty.isFloat = false) → exec (.vaCmp b ty m) s0 = .next (s.raise 1 3 0)) ∧
      (cc ≤ 5 ∨ (cc = 6 ∧ ty.isFloat = true) →
        let hit (i : Nat) : Bool :=
          if ty.isFloat then (fcmp ty cc (A i) (B i)).1 else icmp cc (intOf ty (A i)) (intOf ty (B i))
        let fl : Flags := (((List.range 64).filter on).map (fun i =>
          if ty.isFloat then (fcmp ty cc (A i) (B i)).2 else 0)).foldl (· ||| ·) 0
        s.t.fpTraps fl = false →
        ∃ h : Word, (∀ i < 64, h.getLsbD i = (on i && hit i)) ∧
          exec (.vaCmp b ty m) s0 = .next (s.ends u (s.t.result u true (if ty.isFloat then 4 else 2) (.w h) fl))) ∧
      (∃ o : Lanes, o.length = 64 ∧
        (∀ i < 64, o.getD i 0 = laneOut ty (if (s.t.pw u 7).getLsbD i then A i else B i)) ∧
        exec (.vaSel b ty m) s0 = .next (s.ends u (s.t.result u false (if ty.isFloat then 4 else 2) (.v o) 0))) ∧
      (∀ src, src.code = (s.t.pw u 6).toNat → src.code < 14 →
        let r (i : Nat) : RRes := convert src ty ((s.t.pw u 9).getLsbD 0) (s.t.env i) (lane src (s.t.port u 2).lanes i)
        let fl : Flags := (((List.range 64).filter on).map (fun i => (r i).flags)).foldl (· ||| ·) 0
        s.t.fpTraps fl = false →
        ∃ o : Lanes, o.length = 64 ∧ (∀ i < 64, o.getD i 0 = if on i then laneOut ty (r i).bits else 0) ∧
          exec (.vaCvt b ty m) s0 = .next (s.ends u ((s.t.drawn ((List.range 64).filter (fun i => on i && (r i).drew))).result u
            false (if ty.isFloat || src.isFloat then 4 else 2) (.v o) fl)))) ∧
  (
    ∀ (s0 s : State) (b : Bool) (m : Mv) (ty : ElemType) (v : Val), ty.isFloat = true →
      let u := vaUnit b
      Ready s0 s u m (vecClass ty) v →
      let on (i : Nat) : Bool := !(s.t.pw u 8).getLsbD 0 || (s.t.pw u 7).getLsbD i
      let r (i : Nat) : RRes := addRound ty (s.t.env i) [laneEx ty (s.t.port u 2).lanes i, laneEx ty v.lanes i]
      let fl : Flags := (((List.range 64).filter on).map (fun i => (r i).flags)).foldl (· ||| ·) 0
      let en : Flags := BitVec.ofNat 6 (wbits s.t.ctl.fflags 12 8)
      fl &&& en ≠ 0 → s.t.inWalk = none →
        exec (.vaAdd b ty m) s0 = .next ((s.setT (s.t.orFlags fl)).raise 2 1 (wd (fl.toNat + (fl &&& en).toNat * 256))))

/-- R213, R214, R217, R220: the permuting forms of vx lane by lane under the active mask, while no block records; a transpose
step's operation above 4, or a half above 1, is an illegal port. -/
def Obligations.CrossLaneResults : Prop :=
  ∀ (s0 s : State) (m : Mv) (ty : ElemType) (v : Val), Ready s0 s 10 m (vecClass ty) v → s.t.recording = false →
    let A (i : Nat) : Nat := lane ty (s.t.port 10 2).lanes i
    let X (i : Nat) : Nat := lane ty v.lanes i
    let on (i : Nat) : Bool := !(s.t.pw 10 9).getLsbD 0 || (s.t.pw 10 8).getLsbD i
    let l := (List.range 64).filter on
    let op := (s.t.pw 10 5).toNat
    let half := (s.t.pw 10 7).toNat
    let gives (i : Instr) (lat : Nat) (f : Nat → Nat) : Prop :=
      ∃ o : Lanes, o.length = 64 ∧ (∀ j < 64, o.getD j 0 = if on j then laneOut ty (f j) else 0) ∧
        exec i s0 = .next (s.ends 10 (s.t.result 10 false lat (.v o) 0))
    gives (.vxPerm ty m) 6 (fun i => A (X i % 64)) ∧ gives (.vxBcast ty m) 6 (fun _ => A (X 0 % 64)) ∧
    gives (.vxRot ty m) 6 (fun i => A ((i + X 0 % 64) % 64)) ∧ gives (.vxLidx ty m) 6 (fun i => (X 0 + i) % 2 ^ 32) ∧
    gives (.vxExpand ty m) 8 (fun i => X (l.idxOf i)) ∧
    (op ≤ 4 → half ≤ 1 → gives (.vxTrstep ty m) 6 (fun i =>
      if half = 0 then (if i / 2 ^ op % 2 = 0 then A i else X (i - 2 ^ op))
      else if i / 2 ^ op % 2 = 0 then A (i + 2 ^ op) else X i)) ∧
    (4 < op ∨ 1 < half → exec (.vxTrstep ty m) s0 = .next (s.raise 1 3 0)) ∧
    (∃ o h : Lanes, o.length = 64 ∧ h.length = 64 ∧
      (∀ i < 64, o.getD i 0 = if h' : i < l.length then laneOut ty (X l[i]) else 0) ∧
      h.getD 0 0 = wd l.length ∧ (∀ i < 64, i ≠ 0 → h.getD i 0 = 0) ∧
      exec (.vxCompact ty m) s0 = .next (s.ends 10 ((s.t.result 10 false 8 (.v o) 0).result 10 true 8 (.v h) 0)))

/-- R215, R216: red and scan fold the active lanes, an inactive lane as the operator's identity, by the fixed pairwise tree and
the fixed doubling network; an empty fold is +0 for a sum and the identity otherwise; an operation that the type lacks is an
illegal port. R218, R219: merge and sort64 write keys that do not decrease, .o the keys and .h the payloads, and the pairs are a
rearrangement of the operands' pairs that keeps the order of equal keys; of a merge of two sorted sequences, half 0 and half 1 are
its lower and upper 64 pairs. -/
def Obligations.FoldSortResults : Prop :=
  (
    ∀ (s0 s : State) (m : Mv) (ty : ElemType) (v : Val), Ready s0 s 10 m (vecClass ty) v → s.t.recording = false →
      let on (i : Nat) : Bool := !(s.t.pw 10 9).getLsbD 0 || (s.t.pw 10 8).getLsbD i
      let op := (s.t.pw 10 5).toNat
      let leaves : List (Nat × Flags) :=
        (List.range 64).map (fun i => (if on i then lane ty v.lanes i else opIdentity ty op, (0 : Flags)))
      ((if ty.isFloat then 2 else 4) < op → ∀ i ∈ [Instr.vxRed ty m, .vxScan ty m], exec i s0 = .next (s.raise 1 3 0)) ∧
      (op ≤ (if ty.isFloat then 2 else 4) →
        (∀ y fl, (treeFold (opNode ty op) 6 leaves).headD (0, 0) = (y, fl) →
          let any : Bool := (List.range 64).any on
          s.t.fpTraps (if any then fl else 0) = false →
          ∃ o : Lanes, o.length = 64 ∧ o.getD 0 0 = laneOut ty (if any then y else opEmpty ty op) ∧
            (∀ i < 64, i ≠ 0 → o.getD i 0 = 0) ∧
            exec (.vxRed ty m) s0 = .next (s.ends 10 (s.t.result 10 false 12 (.v o) (if any then fl else 0)))) ∧
        (let ys := scanFold (opNode ty op) leaves
         let any (i : Nat) : Bool := (List.range (i + 1)).any on
         let fl : Flags := if any 63 then ys.foldl (fun a y => a ||| y.2) 0 else 0
         s.t.fpTraps fl = false →
          ∃ o : Lanes, o.length = 64 ∧
            (∀ i < 64, o.getD i 0 = laneOut ty (if any i then (ys.getD i (0, 0)).1 else opEmpty ty op)) ∧
            exec (.vxScan ty m) s0 = .next (s.ends 10 (s.t.result 10 false 12 (.v o) fl))))) ∧
  (
    ∀ (s0 s : State) (m : Mv) (ty : ElemType) (v : Val), Ready s0 s 10 m (vecClass ty) v →
      let pairs (k p : Lanes) : List (Nat × Nat) := (List.range 64).map (fun i => (lane ty k i, lane ty p i))
      let le (x y : Nat × Nat) : Prop := intOf ty x.1 ≤ intOf ty y.1
      let done (i : Instr) (lat : Nat) (l : List (Nat × Nat)) : Prop :=
        exec i s0 = .next (s.ends 10 ((s.t.result 10 false lat (.v (l.map (fun p => laneOut ty p.1))) 0).result 10 true lat
          (.v (l.map (fun p => laneOut ty p.2))) 0))
      (∃ l : List (Nat × Nat), l.Perm (pairs v.lanes (s.t.port 10 4).lanes) ∧ l.Pairwise le ∧
        (∀ k, l.filter (fun p => p.1 == k) = (pairs v.lanes (s.t.port 10 4).lanes).filter (fun p => p.1 == k)) ∧
        done (.vxSort64 ty m) 12 l) ∧
      (let P := pairs (s.t.port 10 2).lanes (s.t.port 10 4).lanes
       let Q := pairs v.lanes (s.t.port 10 6).lanes
       let half := (s.t.pw 10 7).toNat
       (1 < half → exec (.vxMerge ty m) s0 = .next (s.raise 1 3 0)) ∧
       (half ≤ 1 → ∃ l : List (Nat × Nat), l.Perm (P ++ Q) ∧
         (P.Pairwise le → Q.Pairwise le → l.Pairwise le ∧
           ∀ k, l.filter (fun p => p.1 == k) = (P ++ Q).filter (fun p => p.1 == k)) ∧
         done (.vxMerge ty m) 8 ((l.drop (64 * half)).take 64))))

/-- R77, R163, R298, R299: the rg forms: bits draws one word in every lane and each generator advances; key sets the generators, seed those of a
free-running task; mode holds 0 or 1, and any other value is an illegal port. -/
def Obligations.RandomResults : Prop :=
  ∀ (s0 s : State) (m : Mv) (x : Word),
    (ReadyW s0 s 11 m x →
      (∃ o : Lanes, o.length = 64 ∧ (∀ i < 64, o.getD i 0 = (s.t.peek i).setWidth 64) ∧
        ∃ t : Task, (∀ i < 64, t.gen i = (s.t.gen i).next s.t.keyed) ∧ t = { s.t with gens := t.gens } ∧
          exec (.rgBits m) s0 = .next (s.ends 11 (t.result 11 false 2 (.v o) 0))) ∧
      (∃ t : Task, (∀ i < 64, t.gen i = if s.t.keyed then s.t.gen i else { s.t.gen i with fs := mix (x + wd i) }) ∧
        t = { s.t with gens := t.gens, ctl := { s.t.ctl with seed := x } } ∧ exec (.rgSeed m) s0 = .next (s.ends 11 t)) ∧
      (1 < x.toNat → exec (.rgMode m) s0 = .next (s.raise 1 3 0)) ∧
      (x.toNat ≤ 1 → exec (.rgMode m) s0 = .next (s.ends 11 { s.t with ctl := { s.t.ctl with
        rgm := x ||| (if x = 1 ∨ s.t.ctl.mode.getLsbD 0 = true then 2 else 0) } }))) ∧
    (∀ v, Ready s0 s 11 m .V v →
      ∃ t : Task, (∀ i < 64, t.gen i = { s.t.gen i with
          eco := ((v.lanes.getD i 0).setWidth 32).setWidth 64, tag := wbits (s.t.pw 11 5) 7 0, step := wbits (s.t.pw 11 6) 31 0 }) ∧
        t = { s.t with gens := t.gens } ∧ exec (.rgKey m) s0 = .next (s.ends 11 t))

/-! ### Global memory (spec/09_memory_sync_tasks.md R261-R268) -/

/-- R261-R264, R128: a load form of a task that is not speculative, whose access is reached and whose landing entry is free, waits
in that entry for data due at its arrival offset: for gm.ld one element, for gm.ldv the active lanes, for gm.ldt the task's own
tile, sector by sector, whose tag becomes f32 when it is an a tile. -/
def Obligations.GlobalLoadResults : Prop :=
  ∀ (s0 s : State) (m : Mv) (x : Word) (ty : ElemType) (n d : Nat) (pas : List (Nat × Nat)) (s1 : State),
    ReadyW s0 s 7 m x → s1.t.spec = false →
    let lanes := (List.range 64).filter (fun i => !(s.t.pw 7 10).getLsbD 0 || (s.t.pw 7 9).getLsbD i)
    let at_ (i : Nat) : Nat := (x + wd (i * ty.bytes)).toNat
    let pieces (ps : List (Nat × Nat)) (vas : List Word) : List Piece :=
      (ps.zip vas).map (fun (p, va) => ⟨p.1, p.2, s1.pageAttr va, none⟩)
    (LandFree s0 s false n d → Reached s ty.bytes .read [(x.toNat, ty.bytes)] pas s1 →
      exec (.gmLd ty m) s0 = .next ((s1.loadIssued n d 16 ty.code none (pieces pas [x]) 1 x false).slotEnds 7)) ∧
    (LandFree s0 s ty.is64 n d → Reached s ty.bytes .read (lanes.map (fun i => (at_ i, ty.bytes))) pas s1 →
      ∃ w : Word, (∀ i < 64, w.getLsbD i = lanes.contains i) ∧
        exec (.gmLdv ty m) s0 = .next
          ((s1.loadIssued n d 17 ty.code none (pieces pas (lanes.map (fun i => wd (at_ i)))) w x ty.is64).slotEnds 7)) ∧
    (∀ code k, (s.t.port 7 7).word.toNat = code → s.t.tmap.find? code = some k → LandFree s0 s false n d →
      Reached s 128 .read (pagePieces 3 x.toNat (tileSize (code / 32))) pas s1 →
      let c := s1.coreAt s1.t.core
      let s2 := if code / 32 = 6 then s1.setCore s1.t.core { c with tags := c.tags.set k 10 } else s1
      let sectors := pas.flatMap (fun p => (List.range (p.2 / 128)).map (fun i => (p.1 + 128 * i, 128)))
      let ps := (sectors.zip ((List.range (tileSize (code / 32) / 128)).map (fun i => s2.pageAttr (x + wd (128 * i))))).map
        (fun (p, k) => (⟨p.1, p.2, k, none⟩ : Piece))
      exec (.gmLdt m) s0 =
        .next ((s2.loadIssued n d 18 0 (some (s1.t.core, tileOff (code / 32) k)) ps 0 x false).slotEnds 7))

/-- R265, R264, R86, R97: a store form of a task that is not speculative, whose access is reached and fits the push windows that it
reaches, issues the low bytes of .a, of the active lanes in ascending order, or of the task's own tile; stg with ALLOC 3 is an
illegal port. Outside ordered mode what is issued waits behind the strand's earlier accesses, and performed in order it writes those
elements. -/
def Obligations.GlobalStoreResults : Prop :=
  ∀ (s0 s : State) (m : Mv) (x : Word) (ty : ElemType) (pas : List (Nat × Nat)) (s1 : State),
    ReadyW s0 s 7 m x → s1.t.spec = false →
    let parts (alloc : Nat) (els : List (Word × Nat × Nat × Nat)) : List (Nat × List Byte × Nat) :=
      joinParts (els.map (fun (va, pa, z, x) => (pa, toBytes z x, storeAttr (s1.pageAttr va) alloc)))
    let gives (i : Instr) (ttag alloc : Nat) (els : List (Word × Nat × Nat × Nat)) : Prop :=
      gmPushOk s1 (parts alloc els) = true →
      ∃ s2 t, s2 = s1.setT (s1.t.foldStore els) ∧ t = s2.issueStore (parts alloc els) ∧
        (s1.t.uncommitted = false → Issued s2 t none (els.map (fun (_, pa, z, x) => (pa, toBytes z x)))) ∧
        exec i s0 = .next ((t.trace 4 t.t.slot ttag x).slotEnds 7)
    let lanes := (List.range 64).filter (fun i => !(s.t.pw 7 10).getLsbD 0 || (s.t.pw 7 9).getLsbD i)
    let at_ (i : Nat) : Nat := (x + wd (i * ty.bytes)).toNat
    let one := pas.map (fun p => (x, p.1, ty.bytes, (s1.t.pw 7 2).toNat % 2 ^ ty.bits))
    let many := (lanes.zip pas).map (fun (i, p) => (wd (at_ i), p.1, ty.bytes, ((s1.t.port 7 4).lanes.getD i 0).toNat % 2 ^ ty.bits))
    let tag := s.t.pw 7 8
    (Reached s ty.bytes .write [(x.toNat, ty.bytes)] pas s1 →
      gives (.gmSt ty m) 0 0 one ∧ (wbits tag 1 0 ≠ 3 → gives (.gmStg ty m) (wbits tag 15 8) (wbits tag 1 0) one)) ∧
    (wbits tag 1 0 = 3 → exec (.gmStg ty m) s0 = .next (s.raise 1 3 0)) ∧
    (Reached s ty.bytes .write (lanes.map (fun i => (at_ i, ty.bytes))) pas s1 → gives (.gmStv ty m) 0 0 many) ∧
    (∀ code k, (s.t.port 7 7).word.toNat = code → s.t.tmap.find? code = some k →
      let size := tileSize (code / 32)
      let src := coreWin s.t.core (tileOff (code / 32) k)
      let pa (o : Nat) : Nat := match pas with
        | [(a, _)] => a + o
        | (a, n) :: (b, _) :: _ => if o < n then a + o else b + (o - n)
        | [] => 0
      let els := (List.range (size / 8)).map (fun i => (x + wd (8 * i), pa (8 * i), 8, leAt (s1.see src size) (8 * i) 8))
      Reached s 128 .write (pagePieces 3 x.toNat size) pas s1 → s1.bad src size = false → gives (.gmStt m) 0 0 els)

/-- R266: pref changes no byte of memory and of the task only its slot, whether its line is reached or not; flush and inval of a reached
line wait in their entry, due at its offset. R262, R128: a load form whose landing entry is out of range, or whose offset is 0 or above
65535, is an illegal port; an entry that a load still owns, or that system mode or a pair does not have, an illegal slot; a misaligned
address is an alignment fault and a non-canonical one an address fault. -/
def Obligations.CacheFormsAndFaults : Prop :=
  (
    ∀ (s0 s : State) (m : Mv) (x : Word) (l2 : Bool) (n d : Nat) (pas : List (Nat × Nat)) (s1 : State), ReadyW s0 s 7 m x →
      (let r := s.reachPieces s.t.core (s.asidOf s.t) (s.accOf s.t) .read [(x.toNat, 1)]
       ∃ t, exec (.gmPref l2 m) s0 = .next (t.slotEnds 7) ∧ t.tasks = r.1.tasks ∧ t.mem = r.1.mem ∧
        ∀ code va, r.2 = .bad code va → t = r.1) ∧
      (s1.t.spec = false → LandFree s0 s false n d → Reached s 1 .read [(x.toNat, 1)] pas s1 →
        let line := (pas.filter (fun p => isGlobal p.1)).map (fun p => (⟨p.1 / 256 * 256, 256, 0, none⟩ : Piece))
        exec (.gmFlush m) s0 = .next ((s1.loadIssued n d 24 3 none line 0 x false).slotEnds 7) ∧
        exec (.gmInval m) s0 = .next ((s1.loadIssued n d 25 3 none line 0 x false).slotEnds 7))) ∧
  (
    ∀ (s0 s : State) (m : Mv) (x : Word) (ty : ElemType), ReadyW s0 s 7 m x →
      let n := (s.t.pw 7 5).toNat
      let d := (s.t.pw 7 6).toNat
      (s0.loadBusy true = false → (63 < n ∨ d = 0 ∨ 65535 < d) → ∀ i ∈ [Instr.gmLd ty m, .gmLdv ty m, .gmLdt m, .gmFlush m, .gmInval m],
        exec i s0 = .next (s.raise 1 3 0)) ∧
      (s0.loadBusy true = false → n ≤ 63 → 1 ≤ d → d ≤ 65535 →
        (s.t.sys = true → 8 ≤ n → ∀ i ∈ [Instr.gmLd ty m, .gmLdv ty m, .gmLdt m, .gmFlush m, .gmInval m], exec i s0 = .next (s.raise 1 2 0)) ∧
        (ty.is64 = true → n % 2 = 1 → exec (.gmLdv ty m) s0 = .next (s.raise 1 2 0))) ∧
      ((s0.t.pw 7 5).toNat ≤ 63 → (∃ p, (s0.t.bank.land.get (s0.t.pw 7 5).toNat default).pend = some p ∧ s0.t.now < p.due) →
        ∀ i ∈ [Instr.gmLd ty m, .gmLdv ty m, .gmLdt m, .gmFlush m, .gmInval m], exec i s0 = .next (s0.raise 1 2 0)) ∧
      (x.toNat % ty.bytes ≠ 0 → exec (.gmSt ty m) s0 = .next (s.raise 4 4 x)) ∧
      (x.toNat % ty.bytes = 0 → canonical x = false → exec (.gmSt ty m) s0 = .next (s.raise 4 3 x)))

/-! ### Synchronisation (spec/09_memory_sync_tasks.md R269-R281) -/

/-- R270, R271, R274, R279, R97: the completing forms of a task that is not speculative. A fence of scope strand completes at once; a
wider one, and an xfence from ST, first perform every earlier access of the strand, and while one waits so does the strand; an xfence from an
engine completes at once. A release form completes at its slot, and its release follows the strand's accesses; trig is one once per task; unlock
needs its ownership. -/
def Obligations.FenceResults : Prop :=
  ∀ (s0 s : State) (m : Mv) (x : Word) (scope : BitVec 3), ReadyW s0 s 16 m x →
    exec (.syFence 0 m) s0 = .next (s.slotEnds 16) ∧
    (∃ s1, s1 = s.settleAll s.cur ∧
      (scope ≠ 0 → s1.t.memIdle = true → exec (.syFence scope m) s0 = .next (s1.slotEnds 16)) ∧
      (scope ≠ 0 → s1.t.memIdle = false → s1.t.inWalk = none → exec (.syFence scope m) s0 = .next (s1.endBlock .fence)) ∧
      ((s.t.pw 16 5).toNat = 0 → (s.t.pw 16 6).toNat ≤ 5 → s1.t.memIdle = true →
        exec (.syXfence scope m) s0 = .next (s1.slotEnds 16)) ∧
      ((s.t.pw 16 5).toNat = 0 → (s.t.pw 16 6).toNat ≤ 5 → s1.t.memIdle = false → s1.t.inWalk = none →
        exec (.syXfence scope m) s0 = .next (s1.endBlock .fence))) ∧
    (1 ≤ (s.t.pw 16 5).toNat → (s.t.pw 16 5).toNat ≤ 5 → (s.t.pw 16 6).toNat ≤ 5 →
      exec (.syXfence scope m) s0 = .next (s.slotEnds 16)) ∧
    (5 < (s.t.pw 16 5).toNat ∨ 5 < (s.t.pw 16 6).toNat → exec (.syXfence scope m) s0 = .next (s.raise 1 3 0)) ∧
    (s.t.spec = false →
      (s.t.trigged = true ∨ (∃ y ∈ s.t.stores, y.rel = .trig) → exec (.syTrig m) s0 = .next (s.slotEnds 16)) ∧
      (s.t.trigged = false → (∀ y ∈ s.t.stores, y.rel ≠ .trig) →
        exec (.syTrig m) s0 = .next ((s.issueRelease .trig 0 [] 0).slotEnds 16)) ∧
      (s.t.trigged = false → s.t.stores = [] → s.t.waitingLoads = [] →
        ∃ t, exec (.syTrig m) s0 = .next t ∧ t.t.trigged = true ∧ t.t.stores = [] ∧ t.mem = s.mem)) ∧
    (∀ pa s1, SyReached s 64 8 x pa s1 → s1.t.spec = false →
      ∃ s2, s2 = (s1.setT { s1.t with stored := true }).noteAll [(pa, 8)] ∧
        exec (.syStrel scope m) s0 =
          .next ((s2.issueRelease .store pa (toBytes 8 (s2.t.pw 16 2).toNat) (s2.pageAttr x)).slotEnds 16)) ∧
    (∀ pa s1, SyReached s 64 16 x pa s1 → s1.t.spec = false →
      ∃ s2, s2 = s1.performWhere s1.cur (fun a => a / 256 == pa / 256) ∧
        ((∃ y ∈ s2.t.stores, y.rel = .unlock ∧ y.pa = pa) → exec (.syUnlock scope m) s0 = .next (s2.raise 5 2 x)) ∧
        ((∀ y ∈ s2.t.stores, y.rel ≠ .unlock ∨ y.pa ≠ pa) → s2.t.inOrder s2.t.nseq pa 16 = false → s2.t.inWalk = none →
          exec (.syUnlock scope m) s0 = .next (s2.endBlock .fence)) ∧
        ((∀ y ∈ s2.t.stores, y.rel ≠ .unlock ∨ y.pa ≠ pa) → s2.t.inOrder s2.t.nseq pa 16 = true →
          (s2.loadBad pa 16 = true → exec (.syUnlock scope m) s0 = .next (s2.raise 4 5 x)) ∧
          (s2.loadBad pa 16 = false → s2.syncRead (pa + 8) ≠ s2.t.ctl.otag → exec (.syUnlock scope m) s0 = .next (s2.raise 5 2 x)) ∧
          (s2.loadBad pa 16 = false → s2.syncRead (pa + 8) = s2.t.ctl.otag →
            exec (.syUnlock scope m) s0 = .next ((s2.issueRelease .unlock pa (List.replicate 16 0) 2).slotEnds 16))))

/-- R269, R271-R275, R281: a requesting form that is re-entered once its response has returned takes the value, writes it to .o
one clock later where it has a result, and completes. R269, R272: a requesting form that is not re-entered sends its request and
ends the block at its slot, outside a walk: an atomic with no ordering, of a task that is not speculative. -/
def Obligations.RequestForms : Prop :=
  (
    ∀ (s0 s : State) (m : Mv) (x v : Word) (scope : BitVec 3) (ord : BitVec 2), ReadyW s0 s 16 m x → scope.toNat ≤ 5 →
      ((s.t.pw 16 2).toNat % 64 = 0 ∧ (s.t.pw 16 4).toNat % 64 = 0 → Answered s 40 v →
        exec (.syBind scope m) s0 = .next (s.taken.slotEnds 16)) ∧
      ((s.t.pw 16 7).toNat ≤ 3 → Answered s 30 v → exec (.syWait scope m) s0 = .next (s.taken.slotEnds 16)) ∧
      (Answered s 31 v → exec (.syLock scope m) s0 = .next (s.taken.slotEnds 16)) ∧
      (Answered s 39 v → exec (.syCombine m) s0 = .next (s.taken.slotEnds 16)) ∧
      (∀ p ∈ [(Instr.syLdacq scope m, 18), (.syAmoadd scope ord m, 20), (.syAmomin scope ord m, 21), (.syAmomax scope ord m, 22),
          (.syAmominn scope ord m, 23), (.syAmomaxn scope ord m, 24), (.syAmoand scope ord m, 25), (.syAmoor scope ord m, 26),
          (.syAmoxor scope ord m, 27), (.syAmoswp scope ord m, 28), (.syAmocas scope ord m, 29)],
        Answered s p.2 v → exec p.1 s0 = .next (s.taken.ends 16 (s.taken.t.result 16 false 1 (.w v) 0)))) ∧
  (
    ∀ (s0 s : State) (m : Mv) (x : Word) (scope : BitVec 3) (pa : Nat) (s1 : State), ReadyW s0 s 16 m x → scope.toNat ≤ 5 →
      s.t.await = none → SyReached s 8 8 x pa s1 → s1.t.spec = false → s1.t.inWalk = none →
      ∀ p ∈ [(Instr.syAmoadd scope 0 m, 20), (.syAmomin scope 0 m, 21), (.syAmomax scope 0 m, 22), (.syAmominn scope 0 m, 23),
        (.syAmomaxn scope 0 m, 24), (.syAmoand scope 0 m, 25), (.syAmoor scope 0 m, 26), (.syAmoxor scope 0 m, 27),
        (.syAmoswp scope 0 m, 28), (.syAmocas scope 0 m, 29)],
        ∃ s2 t, exec p.1 s0 = .next t ∧ t = State.endBlock s2 .response ∧ t.t.slot = s2.t.slot ∧
          ∃ a, s2.t.await = some a ∧ a.port = p.2 ∧ a.addr = pa ∧ a.slot = s2.t.slot)

/-- R272, R91, R97: an atomic's accepted request, once its site is ready, is performed there: it answers with the old value of the 64-bit
word and writes what its form makes of it; every other byte of memory stays, and amocas that fails writes nothing. A site is ready at once
when no access of its task is still to be performed and no copy of the line is out. R274: a released object goes to its most urgent waiting
lock, or to no one. -/
def Obligations.AtomicAtSite : Prop :=
  (
    ∀ (s : State) (id : Nat) (h : Bool) (a : Await) (s1 : State), (s.task id).pick Await.atSite = some (h, a) →
      20 ≤ a.port → a.port ≤ 29 →
      let u : State := { s with cur := id }
      ((s.task id).stores = [] → (s.task id).waitingLoads = [] →
        (∀ l ∈ linesOf a.addr 16, (s.homeLine l).st = 0 ∧ (s.homeLine l).wait = []) → u.siteReady id a = (u, true)) ∧
      (u.siteReady id a = (s1, false) → exec (.responseReturn id) s = .next s1) ∧
      (u.siteReady id a = (s1, true) → s1.loadBad a.addr 8 = true →
        exec (.responseReturn id) s = .next (s1.setOut id (s1.t.setAwait h (a.failed 4 5)))) ∧
      (u.siteReady id a = (s1, true) → s1.loadBad a.addr 8 = false →
        let w : Word := wd (ofBytes (s1.load a.addr 8))
        let b : Word := wd (a.arg 5)
        let new : Word := match a.port with
          | 20 => w + b
          | 21 => if w.toInt < b.toInt then w else b
          | 22 => if w.toInt < b.toInt then b else w
          | 23 => if w.toNat < b.toNat then w else b
          | 24 => if w.toNat < b.toNat then b else w
          | 25 => w &&& b
          | 26 => w ||| b
          | 27 => w ^^^ b
          | 28 => b
          | _ => if w = b then wd (a.arg 6) else w
        ∃ s2, exec (.responseReturn id) s = .next (s2.setOut id (s2.t.setAwait h (a.answered w))) ∧
          (a.port = 29 → w ≠ b → s2 = s1) ∧
          (a.port ≠ 29 ∨ w = b → s2 = s1.syncWrite a.addr new ∧
            (s1.t.uncommitted = false → (∃ o, place a.addr = .hbm o) → s2.mem = Memory.write s1.mem a.addr (toBytes 8 new.toNat))))) ∧
  (
    ∀ (s : State) (pa : Nat), s.held = [] → s.t.uncommitted = false → (∃ o, place (pa + 8) = .hbm o) →
      (s.nextOwner (s.syncAt pa) = none → (s.handOver pa).syncRead (pa + 8) = BitVec.allOnes 64) ∧
      (∀ id, s.nextOwner (s.syncAt pa) = some id → (s.task id).stage ≠ .preempted →
        (s.handOver pa).syncRead (pa + 8) = (s.task id).ctl.otag))

/-- R276, R97: arrive counts one arrival in the first phase of the group's barrier, at its level, that is not full, returns that phase and issues
its arrival as a release; with no earlier access to be performed it is performed at once, and the arrival that reaches COUNT starts the next phase. A
COUNT of 0, or one that differs from that of the phase in progress, is the barrier-count fault, and a 65th identity the barrier-table
fault; a level of 0 or above 4 is an illegal port. bwait holds while the phase is the one it names. -/
def Obligations.BarrierResults : Prop :=
  ∀ (s0 s : State) (m : Mv) (x : Word) (level : BitVec 3), ReadyW s0 s 16 m x → s.t.spec = false →
    let g := s.group s.t.group
    let node := levelNode level.toNat s.t.core
    let key := node * 2 ^ 16 + wbits x 15 0
    let count := wbits x 31 16
    let now := (g.barriers.get key (0, 0)).1
    let st := (g.barriers.get key (0, 0)).2
    let i := openPhase st (Nat.log2 st / 48 + 1) 0
    let d := barDigit st i
    (level = 0 ∨ 4 < level.toNat → ∀ i ∈ [Instr.syArrive level m, .syBwait level m], exec i s0 = .next (s.raise 1 3 0)) ∧
    (1 ≤ level.toNat → level.toNat ≤ 4 →
      (count = 0 ∨ (d ≠ 0 ∧ d % 2 ^ 16 ≠ count) → exec (.syArrive level m) s0 = .next (s.raise 5 3 x)) ∧
      (count ≠ 0 → (d = 0 ∨ d % 2 ^ 16 = count) → g.barriers.find? key = none → 64 ≤ s.liveBarriers g.part node →
        exec (.syArrive level m) s0 = .next (s.raise 5 4 x)) ∧
      (count ≠ 0 → (d = 0 ∨ d % 2 ^ 16 = count) → (g.barriers.find? key ≠ none ∨ s.liveBarriers g.part node < 64) →
        ∃ s1 s2, s1 = s.setGroup s.t.group
            { g with barriers := g.barriers.set key (now, setBarDigit st i (d / 2 ^ 16 * 2 ^ 16 + 2 ^ 32 + 2 ^ 16 + count)) } ∧
          s2 = s1.issueRelease (.arrive s.t.group key ((now + i) % 2 ^ 32)) 0 [] 0 ∧
          exec (.syArrive level m) s0 = .next (s2.ends 16 (s2.t.result 16 false 1 (.w (wd ((now + i) % 2 ^ 32))) 0)) ∧
          (s.t.stores = [] → s.t.waitingLoads = [] → now < 2 ^ 32 → (st = 0 ∨ (st < 2 ^ 32 ∧ st / 2 ^ 16 < st % 2 ^ 16)) →
            i = 0 ∧ (s2.group s.t.group).barriers.get key (0, 0) =
              if st / 2 ^ 16 + 1 = count then ((now + 1) % 2 ^ 32, 0) else (now, (st / 2 ^ 16 + 1) * 2 ^ 16 + count))) ∧
      (wd (s.phase s.t.group level.toNat s.t.core (wbits x 15 0)) ≠ s.t.pw 16 2 →
        exec (.syBwait level m) s0 = .next (s.slotEnds 16)) ∧
      (wd (s.phase s.t.group level.toNat s.t.core (wbits x 15 0)) = s.t.pw 16 2 → s.t.inWalk = none →
        exec (.syBwait level m) s0 = .next (s.endBlock (.barrier level.toNat (wbits x 15 0) (s.t.pw 16 2).toNat))))

/-- R277, R278: pop, publish and configure by bits 63:62 of the trigger value, and the two queue waits, of a task that is not
speculative, on a queue with no sectors outstanding: their effects and the queue-count fault. -/
def Obligations.QueueResults : Prop :=
  ∀ (s0 s : State) (m : Mv) (x : Word) (q : BitVec 4), ReadyW s0 s 16 m x → s.t.spec = false → s.t.await = none →
    let w := s.t.core
    let y := s.queue w q.toNat
    let n := wbits x 31 0
    let op := wbits x 63 62
    s.outstanding w q.toNat = false →
    (∀ i ∈ [Instr.queuePop q m, .queuePublish q m, .queueConfigure q m],
      (op = 0 → n ≤ y.count →
        exec i s0 = .next ((s.setQueue w q.toNat { y with head := y.head + BitVec.ofNat 32 n }).slotEnds 16)) ∧
      (op = 0 → y.count < n → exec i s0 = .next (s.raise 5 5 (wd q.toNat))) ∧
      (op = 1 → n ≤ y.cap - y.count →
        exec i s0 = .next ((s.setQueue w q.toNat { y with tail := y.tail + BitVec.ofNat 32 n }).slotEnds 16)) ∧
      (op = 1 → y.cap - y.count < n → exec i s0 = .next (s.raise 5 5 (wd q.toNat))) ∧
      (let e := wbits x 27 24
       let k := wbits x 23 20
       let base := wbits x 18 0
       op = 2 →
        (3 ≤ e ∧ e ≤ 9 ∧ k + e ≤ 19 ∧ base % 2 ^ e = 0 ∧ base + 2 ^ (e + k) ≤ 0x80000 →
          exec i s0 = .next ((s.setQueue w q.toNat ⟨some (base, e, k), 0, 0⟩).slotEnds 16)) ∧
        (¬ (3 ≤ e ∧ e ≤ 9 ∧ k + e ≤ 19 ∧ base % 2 ^ e = 0 ∧ base + 2 ^ (e + k) ≤ 0x80000) →
          exec i s0 = .next (s.raise 4 2 (wd (coreWin w 0 + base))))) ∧
      (op = 3 → exec i s0 = .next (s.raise 1 3 0))) ∧
    (y.cfg = none → ∀ i ∈ [Instr.syQwait q m, .syQspace q m], exec i s0 = .next (s.raise 4 2 (wd (coreWin w 0)))) ∧
    (y.cfg ≠ none → y.cap < n → ∀ i ∈ [Instr.syQwait q m, .syQspace q m], exec i s0 = .next (s.raise 5 5 (wd q.toNat))) ∧
    (y.cfg ≠ none → n ≤ y.cap →
      (n ≤ y.count → exec (.syQwait q m) s0 = .next (s.slotEnds 16)) ∧
      (y.count < n → s.t.inWalk = none → exec (.syQwait q m) s0 = .next (s.endBlock (.qwait q.toNat n))) ∧
      (n ≤ y.cap - y.count →
        exec (.syQspace q m) s0 = .next (s.ends 16 (s.t.result 16 false 1 (.w (wd (y.cap - y.count))) 0))) ∧
      (y.cap - y.count < n → s.t.inWalk = none → exec (.syQspace q m) s0 = .next (s.endBlock (.qspace q.toNat n))))

/-! ### The token engines (spec/08_matrix_anchor_transform.md, 09 R282-R291) -/

/-- R132, R164, R228, R231, R232, R236-R241: the mx forms outside a replay and outside a recording block complete at their slot: the operation, as
its trigger copied it, joins the order of the matrix unit, and that of the anchor too for a drain and for an mgrp that it takes rows of. R232, R226,
R132: what stops a trigger of the matrix unit at its slot: a token port above 7 or a B type that the port does not accept is an illegal port; a
token that is pending, or a tile that the task does not own, an illegal slot; a listed pair of types that the table does not allow, an illegal
type. -/
def Obligations.MatrixForms : Prop :=
  (
    ∀ (s0 s : State) (m : Mv) (x : Word) (tok : Nat) (ty : ElemType), ReadyW s0 s 12 m x → TokFree s0 s 12 14 tok →
      s0.t.replaying = false → s.t.replaying = false → s.t.recording = false → NoImport s →
      let flag (i : Nat) : Bool := (s.t.pw 12 12).getLsbD i
      let tile (p : Nat) (l : List Nat) : Prop := (s.t.tileAt 12 p l).isSome = true
      (∀ bty, (s.t.pw 12 13).toNat ∈ [0, 4, 8, 9, 12, 13, 14, 15] → ElemType.ofCode (s.t.pw 12 13).toNat = some bty →
        pairOk ty bty = true → (flag 2 = true ∨ tile 6 [5]) →
        ((flag 3 = true ∨ flag 4 = true ∨ tile 7 [5]) → (tile 5 [6] ∨ (intPair ty bty = false ∧ tile 5 [6, 7])) →
          Starts s0 s (.mxMma ty m) 12 16 ty.code tok x) ∧
        ((flag 3 = true ∨ flag 4 = true ∨ tile 7 [5]) → tile 5 [6] → Starts s0 s (.mxMmz ty m) 12 17 ty.code tok x) ∧
        (tile 5 [6] → flag 7 = false → Starts s0 s (.mxMgrp ty m) 12 18 ty.code tok x) ∧
        (tile 5 [6] → flag 7 = true → ∃ o s1, Triggered s 12 18 ty.code tok x o ∧ s1 = s.start o ∧
          exec (.mxMgrp ty m) s0 = .next ((s1.setOps s.t.core 13 (s1.ops s.t.core 13 ++ [o.mgrpAnchor 0 0])).slotEnds 12))) ∧
      (tile 6 [5, 6, 7] →
        (flag 0 = false ∨ (ty ≠ .gq4 ∧ 32 * (ty.bits / 8) ≤ if (s.t.pw 12 6).toNat / 32 = 5 then 64 else 128) →
          Starts s0 s (.mxTld ty m) 12 19 ty.code tok x ∧ Starts s0 s (.mxTst ty m) 12 20 ty.code tok x)) ∧
      (tile 5 [5, 6] → Starts s0 s (.mxZero m) 12 21 0 tok x) ∧
      (tile 5 [6] → tile 6 [5] → Starts s0 s (.mxCvt ty m) 12 22 ty.code tok x) ∧
      Starts s0 s (.mxBjoin m) 12 23 0 tok x ∧
      (tile 5 [6, 7] → ∃ o s1, Triggered s 12 24 0 tok x o ∧ s1 = s.start o ∧
        exec (.mxDrain m) s0 = .next ((s1.setOps s.t.core 13 (s1.ops s.t.core 13 ++ [o.drainAnchor])).slotEnds 12))) ∧
  (
    ∀ (s0 s : State) (m : Mv) (x : Word) (ty : ElemType), ReadyW s0 s 12 m x → s0.t.replaying = false → s.t.replaying = false →
      let tok := (s.t.pw 12 14).toNat
      let b := (s.t.pw 12 13).toNat
      let tile (p : Nat) (l : List Nat) : Prop := s.t.tileAt 12 p l = none
      ((s0.t.pw 12 14).toNat ≤ 7 → (s0.t.tok (s0.t.pw 12 14).toNat).holds = true →
        ∀ i ∈ [Instr.mxMma ty m, .mxMmz ty m, .mxMgrp ty m, .mxTld ty m, .mxTst ty m, .mxZero m, .mxCvt ty m, .mxBjoin m, .mxDrain m],
          exec i s0 = .next (s0.raise 1 2 0)) ∧
      (s0.tokenBusy 12 14 = false → 7 < tok →
        ∀ i ∈ [Instr.mxMma ty m, .mxMmz ty m, .mxMgrp ty m, .mxTld ty m, .mxTst ty m, .mxZero m, .mxCvt ty m, .mxBjoin m, .mxDrain m],
        exec i s0 = .next (s.raise 1 3 0)) ∧
      (TokFree s0 s 12 14 tok →
        (b ∉ [0, 4, 8, 9, 12, 13, 14, 15] → ∀ i ∈ [Instr.mxMma ty m, .mxMmz ty m, .mxMgrp ty m], exec i s0 = .next (s.raise 1 3 0)) ∧
        (b ∈ [0, 4, 8, 9, 12, 13, 14, 15] → (∀ bty, ElemType.ofCode b = some bty → pairOk ty bty = false) →
          ∀ i ∈ [Instr.mxMma ty m, .mxMmz ty m, .mxMgrp ty m], exec i s0 = .next (s.raise 1 4 0)) ∧
        (tile 5 [5, 6] → exec (.mxZero m) s0 = .next (s.raise 1 2 0)) ∧
        (tile 5 [6, 7] → exec (.mxDrain m) s0 = .next (s.raise 1 2 0)) ∧
        (tile 6 [5, 6, 7] → ∀ i ∈ [Instr.mxTld ty m, .mxTst ty m], exec i s0 = .next (s.raise 1 2 0))))

/-- R228, R229, R230, R239: the matrix unit's operation computes, then commits a sector at a time in ascending order, and no other byte changes; once
nothing is left its token becomes complete, or complete with error with the status word of R229, and it leaves the order; zero writes zeros over
its tile. R228, R240: the next operation starts when it is neither a drain nor a broadcast; a broadcast starts in every member at once, over one read of
the bus, when it heads every member's order and the members agree, and has BMIS where they do not. -/
def Obligations.EngineOrder : Prop :=
  (
    ∀ (s : State) (core n : Nat) (o : EngOp) (rest : List EngOp), (s.coreAt core).mxq = o :: rest → o.run = true → o.unit = 12 →
      (o.form ∈ [16, 17, 19, 20, 21, 22, 23] → o.recs = [] → o.out = [] → o.reg 20 = 1 → (s.task o.task).stage ≠ .preempted →
        ∃ t, exec (.tokenComplete core 12 n) s = .next t ∧ t.mem = s.mem ∧
          (t.coreAt core).mxq = (o :: rest).filter (fun y => !y.same o) ∧
          let w := ((t.task o.task).tok o.tok).status
          (o.err = 0 → ((t.task o.task).tok o.tok).st = .complete ∧ w = wd (12 * 256)) ∧
          (o.err ≠ 0 → o.err < 256 → o.detail < 2 ^ 32 → ((t.task o.task).tok o.tok).st = .error ∧
            wbits w 7 0 = o.err ∧ wbits w 15 8 = 12 ∧ wbits w 47 16 = o.detail ∧ wbits w 63 48 = 0)) ∧
      (o.form = 21 → o.err = 0 → o.out = [] → o.reg 20 = 0 → o.reg 4 = 0 → ∃ o', (s.mxAdvance core).mem = s.mem ∧
        ((s.mxAdvance core).coreAt core).mxq.head? = some o' ∧ o'.reg 20 = 1 ∧
        o'.out = [(o.reg 5, List.replicate (tileSize (o.reg 8)) 0)]) ∧
      (∀ p bs, o.form ∈ [16, 17, 19, 20, 21, 22] → o.out = [(p, bs)] → bs ≠ [] → o.reg 4 = 0 →
        (∀ a, Memory.get (s.mxAdvance core).mem a =
          if p ≤ a ∧ a < p + bs.length ∧ a / 128 = p / 128 then bs.getD (a - p) 0 else Memory.get s.mem a) ∧
        ∃ o', ((s.mxAdvance core).coreAt core).mxq.head? = some o' ∧ o' = { o with
          out := if p + bs.length ≤ p / 128 * 128 + 128 then []
            else [(p / 128 * 128 + 128, bs.drop (p / 128 * 128 + 128 - p))] })) ∧
  (
    ∀ (s : State),
      (∀ core o rest, (s.coreAt core).mxq = o :: rest → o.unit = 12 → o.run = false → o.form ≠ 24 → o.isBroadcast = false →
        ∃ t, exec (.engineOpStart core 12) s = .next t ∧ (t.coreAt core).mxq.head? = some { o with run := true } ∧
          t.mem = s.mem ∧ t.tasks = s.tasks) ∧
      (∀ cl g p, let ms := s.members cl g
        let first := ms.headD (0, 0, none)
        first.2.2 = some p →
        (∀ x ∈ ms, (s.coreAt (cl * 8 + x.1)).freeze = none ∧ ∃ o, x.2.2 = some o ∧ o.unit = 12 ∧ o.reg 23 = 0 ∧
          Tab.get (s.cluster cl).joins x.1 0 = Tab.get (s.cluster cl).joins first.1 0 ∧
          ∀ i < 8, (x.2.1 / 8).testBit i = true → ∃ y ∈ ms, y.1 = i) →
        let agree := ∀ x ∈ ms, x.2.1 / 8 % 256 = first.2.1 / 8 % 256 ∧ ∀ o, x.2.2 = some o → o.agrees p = true
        ∃ t, exec (.broadcastStart cl g) s = .next t ∧ t.mem = s.mem ∧ t.tasks = s.tasks ∧
          ∀ i w o, (i, w, some o) ∈ ms → ∃ o', (t.coreAt (cl * 8 + i)).mxq.head? = some o' ∧ o'.run = true ∧
            (agree → o'.err = o.err ∧ o'.reg 1 = 1 ∧ o'.bus = (s.busRead p).1) ∧ (¬ agree → o'.err = 4 ∧ o'.detail = g % 2 ^ 32)))

/-- R132, R164, R228, R243, R249: the an and xf forms complete at their slot. an.run of a tile of the task's and an.load, and each xf form of a task
that is not speculative whose mode its form allows, with a token that is free, start their operations: the token is pending and the operation, as
the trigger copied it, is the last of its engine's order; an.param's word is written at the end of its bundle. A mode that a form does not allow or
a token port above 7 is an illegal port, a token that is pending an illegal slot. -/
def Obligations.EngineForms : Prop :=
  (
    ∀ (s0 s : State) (m : Mv) (x : Word) (tok : Nat) (p : BitVec 4), ReadyW s0 s 13 m x →
      (TokFree s0 s 13 5 tok → (s.t.tileAt 13 7 [6, 7]).isSome = true → Starts s0 s (.anRun m) 13 16 0 tok x) ∧
      (TokFree s0 s 13 5 tok → Starts s0 s (.anLoad m) 13 17 0 tok x) ∧
      exec (.anParam p m) s0 = .next ((s.setCur (fun c =>
        { c with ends := c.ends ++ [((if s.t.constSrc m.src then 1536 else 1024) + p.toNat, x)] })).slotEnds 13) ∧
      (TokFree s0 s 13 5 tok → s.t.tileAt 13 7 [6, 7] = none → exec (.anRun m) s0 = .next (s.raise 1 2 0)) ∧
      (s0.tokenBusy 13 5 = false → 7 < (s.t.pw 13 5).toNat → ∀ i ∈ [Instr.anRun m, .anLoad m], exec i s0 = .next (s.raise 1 3 0)) ∧
      ((s0.t.pw 13 5).toNat ≤ 7 → (s0.t.tok (s0.t.pw 13 5).toNat).holds = true →
        ∀ i ∈ [Instr.anRun m, .anLoad m], exec i s0 = .next (s0.raise 1 2 0))) ∧
  (
    ∀ (s0 s : State) (m : Mv) (x : Word) (tok : Nat) (ty : ElemType), ReadyW s0 s 14 m x → s.t.spec = false →
      ∀ r ∈ [(Instr.xfComp m, 16, 0), (.xfDecomp m, 17, 0), (.xfCb3 m, 18, 16), (.xfCbtab m, 19, 9), (.xfRepack ty m, 20, ty.code),
          (.xfGq ty m, 21, ty.code), (.xfDeq ty m, 22, ty.code), (.xfStat m, 23, 0)],
        (xModeOk r.2.1 (s.t.pw 14 10) = true → TokFree s0 s 14 5 tok → Starts s0 s r.1 14 r.2.1 r.2.2 tok x) ∧
        (xModeOk r.2.1 (s.t.pw 14 10) = false ∨ 7 < (s.t.pw 14 5).toNat → s0.tokenBusy 14 5 = false →
          exec r.1 s0 = .next (s.raise 1 3 0)) ∧
        ((s0.t.pw 14 5).toNat ≤ 7 → (s0.t.tok (s0.t.pw 14 5).toNat).holds = true → exec r.1 s0 = .next (s0.raise 1 2 0)))

/-- R132, R283-R290: the cp forms complete at their slot. cp.start, cp.chain, cp.red and a cp.relay to a core of the partition, of a task that is
not speculative, with a token that is free, start their operations, and the token's status says what is to be copied; a relay's peer outside the
partition is an access fault. cp.cancel and cp.resume act on the token of bits 2:0 at the end of their bundle; cp.status answers the word that bits
10:8 select: 0 the status with the token's state in bits 63:56, which counts as observed; 1 the handle; 2-6 a coordinate; 7 is an illegal
port. -/
def Obligations.CopyForms : Prop :=
  (
    ∀ (s0 s : State) (m : Mv) (x : Word) (tok : Nat) (ty : ElemType), ReadyW s0 s 15 m x →
      (s.t.spec = false → TokFree s0 s 15 11 tok →
        (∀ r ∈ [(Instr.cpStart m, 16, 0), (.cpChain m, 17, 0), (.cpRed ty m, 18, ty.code)],
          ∃ o, Triggered s 15 r.2.1 r.2.2 tok x o ∧ exec r.1 s0 = .next (((s.start o).noteCopy o).slotEnds 15)) ∧
        (let peer := relayPeer (s.t.pw 15 15)
         let pa := coreWin peer.1 (0xA0000 + peer.2 * 0x1000)
         (s.permits (s.accOf s.t) pa = true →
            ∃ o, Triggered s 15 19 0 tok x o ∧ exec (.cpRelay m) s0 = .next (((s.start o).noteCopy o).slotEnds 15)) ∧
         (s.permits (s.accOf s.t) pa = false → exec (.cpRelay m) s0 = .next (s.raise 4 2 (wd pa))))) ∧
      (s0.tokenBusy 15 11 = false → 7 < (s.t.pw 15 11).toNat →
        ∀ i ∈ [Instr.cpStart m, .cpChain m, .cpRed ty m, .cpRelay m], exec i s0 = .next (s.raise 1 3 0)) ∧
      ((s0.t.pw 15 11).toNat ≤ 7 → (s0.t.tok (s0.t.pw 15 11).toNat).holds = true →
        ∀ i ∈ [Instr.cpStart m, .cpChain m, .cpRed ty m, .cpRelay m], exec i s0 = .next (s0.raise 1 2 0))) ∧
  (
    ∀ (s0 s : State) (m : Mv) (x : Word), ReadyW s0 s 15 m x →
      let n := wbits x 2 0
      let sel := wbits x 10 8
      let k := s.t.tok n
      exec (.cpCancel m) s0 = .next ((s.setCur (fun c => { c with ends := c.ends ++ [(512 + n, 0)] })).slotEnds 15) ∧
      exec (.cpResume m) s0 = .next ((s.setCur (fun c => { c with ends := c.ends ++ [(544 + n, 0)] })).slotEnds 15) ∧
      (sel = 0 → exec (.cpStatus m) s0 = .next (s.ends 15 ((s.t.observe (2 ^ n)).result 15 false 1 (.w k.word) 0))) ∧
      (sel = 1 → exec (.cpStatus m) s0 = .next (s.ends 15 (s.t.result 15 false 1 (.w k.handle) 0))) ∧
      (∀ j < 5, sel = j + 2 → exec (.cpStatus m) s0 = .next (s.ends 15 (s.t.result 15 false 1 (.w (wd (k.coord.getD j 0))) 0))) ∧
      (sel = 7 → exec (.cpStatus m) s0 = .next (s.raise 1 3 0)))

/-- R245-R247: the anchor's words that change X and M: the row at a core's anchor, before its limits of R248, takes the word's
value lane by lane, then the next word follows; no memory and no task changes. Words that read local store do so where it is
aligned, inside, and without error. -/
def Obligations.AnchorLaneWords : Prop :=
  ∀ (s : State) (o : EngOp) (r : ARow) (pa pb : BitVec 4) (imm : BitVec 8) (ty : BitVec 3) (rm : BitVec 2),
    s.anHead s.core = some o → (s.coreAt s.core).row = some r → r.count < 1024 → r.word < 1023 → r.x.length = 32 →
    let P := o.param pa
    let Q := o.param pb
    let sr (j : Nat) : BitVec 32 :=
      (keyHash o.key o.coord (wd (wbits P 31 0 + 32 * r.row + j)) imm.toNat 0).setWidth 32
    let gives (i : Instr) (f : Nat → Nat → Nat) (mask : Nat → Nat → Bool) (t : Nat) : Prop :=
      ∃ s' r', exec i s = .next s' ∧ (s'.coreAt s.core).row = some r' ∧ r'.word = r.word + 1 ∧ r'.count = r.count + 1 ∧
        r'.row = r.row ∧ r'.pend = r.pend ∧ r'.lcnt = r.lcnt ∧ r'.ty = t ∧ r'.x.length = 32 ∧
        (∀ j < 32, r'.x.getD j 0 = f j (r.x.getD j 0) ∧ r'.m.testBit j = mask j (r.x.getD j 0)) ∧
        s'.mem = s.mem ∧ s'.tasks = s.tasks ∧ s'.turn = none
    let keep (j : Nat) (_ : Nat) : Bool := r.m.testBit j
    let pos (x : Nat) : Bool := cmpEx (f32 x) (exactI 0) == .gt && !isNaN (f32 x)
    let cv (t : ElemType) (e : Env) (x : Nat) : Nat := (convert t .f32 false ⟨.rne, false, 0⟩ (convert .f32 t false e x).bits).bits
    gives .anchorNop (fun _ x => x) keep r.ty ∧
    gives (.anchorSscale pa) (fun _ x => (mul32 x (wbits P 31 0)).1) keep r.ty ∧
    gives .anchorRelu (fun _ x => if isNaN (f32 x) then canonNaN .f32 else if pos x then x else 0) (fun _ x => pos x) r.ty ∧
    gives .anchorGelu (fun _ x => (gelu x).1) keep r.ty ∧
    gives .anchorSigmoid (fun _ x => (sigmoid x).1) keep r.ty ∧
    gives (.anchorLeaky pa) (fun _ x => if pos x then x else (mul32 x (wbits P 31 0)).1) (fun _ x => pos x) r.ty ∧
    gives (.anchorClamp pa) (fun _ x => (fmaxmin .f32 false (fmaxmin .f32 true x (wbits P 31 0)).1 (wbits P 63 32)).1)
      (fun _ x => !isNaN (f32 x) && !isNaN (f32 (wbits P 31 0)) && !isNaN (f32 (wbits P 63 32)) &&
        cmpEx (f32 (wbits P 31 0)) (f32 x) != .gt && cmpEx (f32 x) (f32 (wbits P 63 32)) != .gt) r.ty ∧
    gives (.anchorDrop pa pb imm) (fun j x => if wbits P 63 32 ≤ (sr j).toNat then (mul32 x (wbits Q 31 0)).1 else 0)
      (fun j _ => decide (wbits P 63 32 ≤ (sr j).toNat)) r.ty ∧
    (ty.toNat ≤ 5 →
      gives (.anchorCvt ty rm) (fun _ => cv (anType ty.toNat) ⟨RMode.ofCode rm.toNat, o.fmt.testBit 2, 0⟩) keep ty.toNat ∧
      gives (.anchorCvtsr pa ty imm) (fun j => cv (anType ty.toNat) ⟨.sr, o.fmt.testBit 2, sr j⟩) keep ty.toNat) ∧
    (let off := wbits P 18 0
     off % 4 = 0 → off + 128 ≤ 0x80000 → s.bad (coreWin o.core off) 128 = false →
      let w (j : Nat) : Nat := leAt (s.see (coreWin o.core off) 128) (4 * j) 4
      gives (.anchorScale pa) (fun j x => (mul32 x (w j)).1) keep r.ty ∧
      gives (.anchorBias pa) (fun j x => (add32 x (w j)).1) keep r.ty) ∧
    (let t := anType ty.toNat
     let off := wbits P 18 0 + r.row * wbits P 37 24
     ty.toNat ≤ 2 → off % t.bytes = 0 → off + 32 * t.bytes ≤ 0x80000 → s.bad (coreWin o.core off) (32 * t.bytes) = false →
      let w (j : Nat) : Ex := exactF t (leAt (s.see (coreWin o.core off) (32 * t.bytes)) (j * t.bytes) t.bytes)
      gives (.anchorAddres pa ty) (fun j x => (addRound .f32 ⟨.rne, false, 0⟩ [f32 x, w j]).bits) keep r.ty ∧
      gives (.anchorMulres pa ty) (fun j x => (mulRound .f32 ⟨.rne, false, 0⟩ (f32 x) (w j)).bits) keep r.ty)

/-- R243, R245, R246: the anchor's words that write keep their bytes with the row until `end`, which performs them in program
order; loop goes back d words while its count lasts. Their addresses are aligned and in local store, outside a replay. R244, R248:
a word outside its form's fields or a word of a row beyond its 1,024th fails the row with APROG: the row's pending writes are not
performed and no later row runs. How an X that its type does not represent is written is the model's choice (notes/assumptions/24.md). -/
def Obligations.AnchorRowWrites : Prop :=
  (
    ∀ (s : State) (o : EngOp) (r : ARow) (pa pb : BitVec 4) (c d : BitVec 7),
      s.anHead s.core = some o → (s.coreAt s.core).row = some r → r.count < 1024 → r.word < 1023 → o.reg 19 ≠ 1 →
      o.core = s.core →
      let keeps (i : Instr) (l : List (Nat × List Byte)) : Prop :=
        ∃ s' r', exec i s = .next s' ∧ (s'.coreAt s.core).row = some r' ∧ r' = { r with
          pend := r.pend ++ l, word := r.word + 1, count := r.count + 1, recd := r'.recd } ∧ s'.mem = s.mem ∧ s'.tasks = s.tasks
      let bs := elemBytes (anType r.ty).bytes
        (if anType r.ty = .f32 then r.x else r.x.map (fun x => (convert .f32 (anType r.ty) false ⟨.rne, false, 0⟩ x).bits))
      let at_ := wbits (o.param pa) 18 0 + 4 * r.row
      (at_ % 4 = 0 → at_ + 4 ≤ 0x80000 → keeps (.anchorRecm pa) [(coreWin o.core at_, toBytes 4 r.m)] ∧
        keeps (.anchorRmax pa) [(coreWin o.core at_,
          toBytes 4 ((treeFold (opNode .f32 2) 5 (r.x.map (fun x => (x, 0)))).headD (0, 0)).1)]) ∧
      (r.row ≠ 0 → keeps (.anchorRecs pa pb) []) ∧
      (r.row = 0 → wbits (o.param pa) 18 0 % 8 = 0 → wbits (o.param pa) 18 0 + 16 ≤ 0x80000 → keeps (.anchorRecs pa pb)
        [(coreWin o.core (wbits (o.param pa) 18 0), toBytes 8 o.key.toNat ++ toBytes 8 (o.param pb).toNat)]) ∧
      (o.reg 16 ≠ 0 → bs.length ≤ (if o.reg 17 = 5 then 64 else 128) → o.reg 18 = 0 →
        keeps .anchorWrt [(o.reg 16 - 1 + r.row * (if o.reg 17 = 5 then 64 else 128), bs)]) ∧
      (let a := wbits (o.pw 8) 18 0 + r.row * wbits (o.pw 8) 37 24
       a % (anType r.ty).bytes = 0 → a + bs.length ≤ 0x80000 → keeps .anchorWrl [(coreWin o.core a, bs)]) ∧
      ((s.queue o.core (wbits (o.pw 8) 3 0)).entry = bs.length → keeps .anchorWrq [(2 ^ 60 + wbits (o.pw 8) 3 0, bs)]) ∧
      (let n := if r.lcnt = 0 then c.toNat else r.lcnt
       c ≠ 0 → d ≠ 0 → d.toNat ≤ r.word →
        ∃ s' r', exec (.anchorLoop c d) s = .next s' ∧ (s'.coreAt s.core).row = some r' ∧ r'.x = r.x ∧ r'.m = r.m ∧
          r'.count = r.count + 1 ∧ r'.word = (if 1 < n then r.word - d.toNat else r.word + 1) ∧ r'.lcnt = (if 1 < n then n - 1 else 0)) ∧
      ((∀ p ∈ r.pend, p.1 < 2 ^ 60) →
        ∃ s', exec .anchorEnd s = .next s' ∧ s'.mem = r.pend.foldl (fun m p => Memory.write m p.1 p.2) s.mem ∧ s'.tasks = s.tasks ∧
          (o.reg 12 ≤ r.row + 1 → (s'.coreAt s.core).row = none))) ∧
  (
    ∀ (s : State) (o : EngOp) (r : ARow) (pa : BitVec 4) (ty : BitVec 3) (d : BitVec 7),
      s.anHead s.core = some o → (s.coreAt s.core).row = some r → o.unit = 13 → o.core = s.core → r.row * 1024 + r.word < 2 ^ 32 →
      let fails (i : Instr) : Prop := ∃ s', exec i s = .next s' ∧ (s'.coreAt s.core).row = none ∧ s'.mem = s.mem ∧
        ∃ o', s'.anHead s.core = some o' ∧ o'.err = 6 ∧ o'.detail = r.row * 1024 + r.word
      (1024 ≤ r.count → fails .anchorNop ∧ fails .anchorWrt ∧ fails .anchorEnd) ∧
      (r.count < 1024 → (2 < ty.toNat → fails (.anchorAddres pa ty) ∧ fails (.anchorMulres pa ty)) ∧
        fails (.anchorLoop 0 d) ∧ (r.word = 1023 → fails .anchorNop)))

/-! ### Tasks (spec/09_memory_sync_tasks.md R292-R297) and blocks (R300-R302, 12 R345-R365) -/

/-- R292, R293: spawn of no child completes with the next child's index; a spawn of n children that no case stops, whose request
the spawn queue accepts, creates them in order with consecutive task numbers, and answers the first child's index. R292, R26,
R421: what child j of a spawn starts with. R26, R28, R75, R341, R421: what a task starts with: g1 its argument, g2 its index and
g3 its task's number, every other register zero, the control registers that its setup names, and every bank empty. -/
def Obligations.SpawnAndStart : Prop :=
  (
    ∀ (s0 s : State) (m : Mv) (x : Word), ReadyW s0 s 17 m x → (s.t.pw 17 7).toNat ≤ 3 → s.cur < s.ntasks →
      (wbit (s.t.pw 17 8) 63 = true → wbits (s.t.pw 17 8) 5 0 ≤ 47) →
      (x = 0 → exec (.tkSpawn m) s0 = .next (s.ends 17 (s.t.result 17 false 1 (.w (wd s.t.nkids)) 0))) ∧
      (x ≠ 0 → (s.t.pw 17 5).toNat % 32 = 0 → canonical (s.t.pw 17 5) = true →
        (∀ code, s.spawnFault x = some code → exec (.tkSpawn m) s0 = .next (s.raise 6 code x)) ∧
        (s.spawnFault x = none → Answered s 16 0 → ∃ t, exec (.tkSpawn m) s0 = .next t ∧
          t.ntasks = s.ntasks + x.toNat ∧ (t.task s.cur).nkids = s.t.nkids + x.toNat ∧
          (t.task s.cur).kids = s.t.kids ++ (List.range x.toNat).map (s.ntasks + ·) ∧
          (t.task s.cur).bank.flight = s.t.bank.flight ++ [⟨17, false, s.t.now + 1, some (.w (wd s.t.nkids)), 0, none, false, false⟩] ∧
          t.mem = s.mem)) ∧
      (x ≠ 0 → (s.t.pw 17 5).toNat % 32 ≠ 0 → exec (.tkSpawn m) s0 = .next (s.raise 4 4 (s.t.pw 17 5)))) ∧
  (
    ∀ (s : State) (prio j : Nat),
      let c := s.child prio j
      c.stage = .waiting ∧ c.group = s.t.group ∧ c.parent = some s.cur ∧ c.depth = s.t.depth + 1 ∧ c.idx = s.t.nkids + j ∧
        c.coord = s.t.coord ++ [s.t.nkids + j] ∧ c.limit = (s.t.pw 17 7).toNat ∧ c.bprio = prio ∧ c.stamp = ((s.t.pw 17 9).toNat + j) % 2 ^ 64 ∧
        c.setup.entry = s.t.pw 17 5 ∧ c.setup.arg = s.t.pw 17 6 ∧ c.setup.seed = s.t.ctl.seed ∧ c.setup.key = s.t.ctl.key ∧
        c.setup.tvec = s.t.ctl.tvec ∧ c.setup.bt = wbits (s.t.pw 17 10) 4 0 ∧ c.setup.ba = wbits (s.t.pw 17 10) 11 8 ∧
        c.setup.bd = wbits (s.t.pw 17 10) 20 16) ∧
  (
    ∀ t : Task,
      let b := t.begun
      b.gr 0 = 0 ∧ b.gr 1 = t.setup.arg ∧ b.gr 2 = t.setup.pre.get 2 0 ∧ b.gr 3 = t.setup.pre.get 3 0 ∧ (∀ n, 4 ≤ n → b.gr n = 0) ∧
        b.v = [] ∧ b.m = [] ∧ b.k = [] ∧ b.toks = [] ∧ b.bank = default ∧ b.pc = t.setup.entry ∧ b.slot = 0 ∧ b.sys = false ∧
        b.ctl.seed = t.setup.seed ∧ b.ctl.key = t.setup.key ∧ b.ctl.tvec = t.setup.tvec ∧ b.ctl.fflags = 0 ∧ b.clock = 0 ∧
        b.digest = 1 ∧ b.digest1 = 1 ∧ b.ctl.taskid = t.ctl.taskid ∧ b.stamp = t.stamp ∧ b.coord = t.coord)

/-- R294, R320, R323: vdecl writes the declaration and vaddr answers a copy's location; a view number above 15, or an operator and
type that do not go together, is an illegal port; a length above 2^24 of a declaration, or a view whose copy the strand does not
hold, the view fault. -/
def Obligations.ViewForms : Prop :=
  ∀ (s0 s : State) (m : Mv) (x : Word), ReadyW s0 s 17 m x →
    let op := wbits (s.t.pw 17 11) 3 0
    let ty := wbits (s.t.pw 17 11) 12 8
    let b := s.t.pw 17 12
    let len := (s.t.pw 17 13).toNat
    let v := s.t.views.get (16 + x.toNat) default
    (∀ e, ElemType.ofCode ty = some e → x.toNat ≤ 15 → viewOpOk op ty = true → len % e.bytes = 0 → len ≤ 2 ^ 24 →
      s.viewHeld s.t x.toNat = false →
      (wbit b 63 = false → b.toNat % 256 = 0 → canonical b = true → exec (.tkVdecl m) s0 = .next
        (s.ends 17 { s.t with views := s.t.views.set x.toNat ⟨b, len, op, ty, 1, 0, 0⟩ })) ∧
      (wbit b 63 = true → s.t.hasTile (wbits b 7 0) = true → len = tileSize (wbits b 7 0 / 32) → exec (.tkVdecl m) s0 = .next
        (s.ends 17 { s.t with views := s.t.views.set x.toNat ⟨b, len, op, ty, 1, 0, 0⟩ }))) ∧
    (x.toNat ≤ 15 → v.st ≠ 0 → exec (.tkVaddr m) s0 = .next (s.ends 17 (s.t.result 17 false 1 (.w v.loc) 0))) ∧
    (15 < x.toNat → ∀ i ∈ [Instr.tkVdecl m, .tkVaddr m], exec i s0 = .next (s.raise 1 3 0)) ∧
    (x.toNat ≤ 15 → viewOpOk op ty = false → exec (.tkVdecl m) s0 = .next (s.raise 1 3 0)) ∧
    (x.toNat ≤ 15 → v.st = 0 → exec (.tkVaddr m) s0 = .next (s.raise 6 3 x)) ∧
    (x.toNat ≤ 15 → viewOpOk op ty = true → 2 ^ 24 < len → exec (.tkVdecl m) s0 = .next (s.raise 6 3 x))

/-- R31, R295-R297, R338: finish and abort end their bundle with their status; join closes the sibling set and waits while a token
is pending or a child has not ended and merged; stamp raises an ordered task's key before its first store, and does nothing elsewhere. -/
def Obligations.TaskEndForms : Prop :=
  ∀ (s0 s : State) (m : Mv) (x : Word), ReadyW s0 s 17 m x →
    exec (.tkFinish m) s0 = .next ((s.setCur (fun c => { c with fin := some (s.t.slot, 0) })).slotEnds 17) ∧
    exec (.tkAbort m) s0 = .next ((s.setCur (fun c => { c with fin := some (s.t.slot, 1 + 16 * wbits x 31 0) })).slotEnds 17) ∧
    (s.t.ord = true → exec (.tkJoin m) s0 = .next (s.raise 6 5 x)) ∧
    (s.t.ord = false →
      let t : Task := { s.t with sibset := s.t.sibset + 1 }
      (s.t.waitMask 255 = 0 → s.t.redo = 0 → (∀ k ∈ s.t.kids, k ≠ s.cur ∧ (s.task k).settled = true) →
        exec (.tkJoin m) s0 = .next (s.ends 17 (t.observe 255))) ∧
      (s.t.inWalk = none → (s.t.waitMask 255 ≠ 0 ∨ (s.t.redo = 0 ∧ ∃ k ∈ s.t.kids, k ≠ s.cur ∧ (s.task k).settled = false)) →
        exec (.tkJoin m) s0 = .next ((s.setT t).endBlock .join))) ∧
    (s.t.ord = false → exec (.tkStamp m) s0 = .next (s.slotEnds 17)) ∧
    (s.t.ord = true → (x.toNat < s.t.stamp ∨ s.t.stored = true) → exec (.tkStamp m) s0 = .next (s.raise 6 4 x)) ∧
    (s.t.ord = true → s.t.stamp ≤ x.toNat → s.t.stored = false → s.t.ordered = [] →
      exec (.tkStamp m) s0 = .next (((s.setT { s.t with stamp := x.toNat }).passBaton s.t.group).slotEnds 17))

/-- R300-R302, R345, R347: the forms of db that read no record: a block opens where its descriptor says, closes where it ends, and
the walk, the stack pointer and the mode follow at the end of the bundle; a form in a block that forbids it is cause NEST. R300:
zero clears the d tiles of bits 15:0 and v16-v31 by bits 31:16, and no other byte of memory or lane; a d tile outside the budget
is cause NEST. -/
def Obligations.BlockAndPartnerForms : Prop :=
  (
    ∀ (s0 s : State) (m : Mv) (x : Word), ReadyW s0 s 18 m x →
      let nest := wd (2 + 256 * s.t.bodyPos.1 + 65536 * (s.t.bodyPos.2 % 2 ^ 16))
      (∀ b, s.t.block = some b → ∀ i ∈ [Instr.dbBegin m, .dbRev m, .dbMode m], exec i s0 = .next (s.raise 7 2 nest)) ∧
      (s.t.block = none → exec (.dbEnd m) s0 = .next (s.raise 7 2 nest)) ∧
      (∀ b, s.t.block = some b → s.t.drain = none →
        (b.desc = x ∧ s.t.pc = b.entry + wd (32 * b.nb) →
          exec (.dbEnd m) s0 = .next (s.ends 18 { s.t with block := none })) ∧
        (b.desc ≠ x ∨ s.t.pc ≠ b.entry + wd (32 * b.nb) → exec (.dbEnd m) s0 = .next (s.raise 7 2 nest))) ∧
      (∀ ps s1, s.t.block = none → x.toNat % 64 = 0 → s.reach s.t.core (s.asidOf s.t) (s.accOf s.t) .read x 64 = (s1, .ok ps) →
        s1.badAll ps = false → s1.t = s.t → s.t.ctl.dbmode ≠ 1 →
        let b := s1.loadAll ps
        blockDescOk b = true → (blockDesc b).entry = s.t.pc + 32 →
          exec (.dbBegin m) s0 = .next (s1.ends 18 { s.t with block := some ⟨x, wd (leAt b 0 8), leAt b 8 4, leAt b 12 4, leAt b 16 8,
            nbit (leAt b 36 1) 0, []⟩ })) ∧
      (s.t.block = none → x.toNat % 64 ≠ 0 →
        exec (.dbBegin m) s0 = .next (s.raise 7 1 (wd (1 + 256 * s.t.bodyPos.1 + 65536 * (s.t.bodyPos.2 % 2 ^ 16))))) ∧
      (s.t.block = none →
        (s.t.waitMask 255 = 0 → exec (.dbRev m) s0 =
          .next (((s.setT (s.t.observe 255)).setCur (fun c => { c with rev := some x })).slotEnds 18)) ∧
        (s.t.waitMask 255 ≠ 0 → s.t.inWalk = none → exec (.dbRev m) s0 = .next (s.endBlock (.tokens 255))) ∧
        (x.toNat ≤ 1 → exec (.dbMode m) s0 = .next ((s.setCur (fun c => { c with ends := c.ends ++ [(14, x)] })).slotEnds 18)) ∧
        (1 < x.toNat → exec (.dbMode m) s0 = .next (s.raise 1 3 0))) ∧
      (x.toNat % 16 = 0 → exec (.dbSp m) s0 = .next (((s.setT (s.t.result 18 false 1 (.w s.t.ctl.rsp) 0)).setCur (fun c =>
        { c with ends := c.ends ++ [(11, x)] })).slotEnds 18)) ∧
      (x.toNat % 16 ≠ 0 → exec (.dbSp m) s0 = .next (s.raise 4 4 x))) ∧
  (
    ∀ (s0 s : State) (m : Mv) (x : Word), ReadyW s0 s 18 m x →
      (∀ n < 16, x.getLsbD n = true → s.t.hasTile (224 + n) = false →
        exec (.dbZero m) s0 = .next (s.raise 7 2 (wd (2 + 256 * s.t.bodyPos.1 + 65536 * (s.t.bodyPos.2 % 2 ^ 16))))) ∧
      ((∀ n < 16, x.getLsbD n = true → s.t.hasTile (224 + n) = true) →
        ∃ t, exec (.dbZero m) s0 = .next t ∧
          (∀ a, (∃ n pa, n < 16 ∧ x.getLsbD n = true ∧ s.t.tilePa (224 + n) = some pa ∧ pa ≤ a ∧ a < pa + 4096) → Memory.get t.mem a = 0) ∧
          (∀ a, (∀ n pa, n < 16 → x.getLsbD n = true → s.t.tilePa (224 + n) = some pa → a < pa ∨ pa + 4096 ≤ a) →
            Memory.get t.mem a = Memory.get s.mem a) ∧
          (∀ n < 16, (t.task s.cur).v.get (16 + n) [] = if x.getLsbD (16 + n) then zeroLanes else s.t.v.get (16 + n) []) ∧
          (∀ n < 16, (t.task s.cur).v.get n [] = s.t.v.get n []) ∧ (t.task s.cur).g = s.t.g))

/-- R300, R302, R360, R364, R365: push of a scalar or marker record on a stack with room whose chunks are in local store places the record above the
top of the stack, and pop of the record that the stack ends with answers its value and takes it off; `rsp` itself changes at the end of the
bundle. A kind above 1 is an illegal port, an empty stack cause NEST, and a stack without room cause OVERFLOW. -/
def Obligations.RecordForms : Prop :=
  ∀ (s0 s : State) (m : Mv) (x : Word), ReadyW s0 s 18 m x → s.t.inWalk = none → s.t.drain = none → s.t.cur.pushed = 0 →
    let top := s.t.top
    let blk := s.t.pw 18 5
    let bid := match s.t.block with | some b => b.bid | none => 0
    let info (cause : Nat) : Word := wd (cause + 256 * s.t.bodyPos.1 + 65536 * (s.t.bodyPos.2 % 2 ^ 16))
    (1 < x.toNat → ∀ i ∈ [Instr.dbPush m, .dbPop m], exec i s0 = .next (s.raise 1 3 0)) ∧
    (x.toNat ≤ 1 → top < 16 → exec (.dbPop m) s0 = .next (s.raise 7 2 (info 2))) ∧
    (let r := if x = 0 then recordBytes 0 0 0 0 bid (toBytes 8 blk.toNat) else recordBytes 1 0 0 0 (wbits blk 31 0) []
     x.toNat ≤ 1 →
      (s.t.residCap < top + r.length → exec (.dbPush m) s0 = .next (s.raise 7 5 (info 5))) ∧
      (top + r.length ≤ s.t.residCap → (chunksOf top r.length).length ≤ s.t.seg 0 →
        (∀ c ∈ chunksOf top r.length, s.t.resident c = true) → ∃ t bad, exec (.dbPush m) s0 = .next t ∧
          (t.task s.cur).cur.top = some (wd (top + r.length)) ∧ (t.task s.cur).ctl = s.t.ctl ∧ t.residSee top r.length = .ok (r, bad) ∧
          (t.task s.cur).g = s.t.g ∧ (t.task s.cur).v = s.t.v)) ∧
    (∀ trb p, x.toNat ≤ 1 → 16 ≤ top → s.residSee (top - 16) 16 = .ok (trb, false) →
      let tr := trailerOf trb
      (tr.kind ≠ x.toNat → exec (.dbPop m) s0 = .next (s.raise 7 2 (info 2))) ∧
      (tr.kind = x.toNat → tr.size ≤ top → s.residSee (top - tr.size) tr.plen = .ok (p, false) →
        (∀ c ∈ (chunksOf (top - tr.size) tr.size).take (s.t.seg 0), s.t.resident c = true) →
        ∃ t, exec (.dbPop m) s0 = .next t ∧ (t.task s.cur).cur.top = some (wd (top - tr.size)) ∧ (t.task s.cur).ctl = s.t.ctl ∧
          t.mem = s.mem ∧ (t.task s.cur).bank.flight = s.t.bank.flight ++
            [⟨18, false, s.t.now + 1, some (.w (if x = 0 then wd (leAt p 0 8) else wd tr.bid)), 0, none, false, false⟩]))

/-! ### Helper cores (spec/10_helper_cores.md) -/

/-- R304, R307, R308: the base instructions of a helper, with x0 zero: the value of each integer operation, the branches and
jumps, the loads and stores of the private store and local store with what they leave alone, and the exceptions; a store to local store is issued
and a load of its bytes comes after it, and a fence waits for every earlier access. The integer
encoding and operations are those of the RISC-V manual (assumption 7). R306, R309: the exception of a helper with nothing left to be performed writes
its status word, STATE 2 with its cause and pc, at HSTAT, and halts the helper; no other byte of the part's memory changes (the message to the
Handler's endpoint lies in a ring outside it) and no register. -/
def Obligations.HelperBaseForms : Prop :=
  (
    ∀ (s : State) (c : Bool) (rd rs1 rs2 : BitVec 5) (imm : Word),
      let h := s.h
      let next := h.pc + (if c then 2 else 4)
      let a := h.r rs1
      let b := h.r rs2
      let base (op : Rv) : Outcome State Fault Refusal := exec (.helperBaseInstruction c op) s
      let goes (h : Helper) (pc : Word) : Outcome State Fault Refusal := .next { s.setH { h with pc := pc } with turn := none }
      let w (x : Word) : Word := (x.setWidth 32).signExtend 64
      h.r 0 = 0 ∧ (∀ x, h.w 0 x = h) ∧ (∀ x, rd ≠ 0 → (h.w rd x).r rd = x ∧ ∀ r, r ≠ rd → (h.w rd x).r r = h.r r) ∧
      base (.lui rd imm) = goes (h.w rd imm) next ∧ base (.auipc rd imm) = goes (h.w rd (h.pc + imm)) next ∧
      base (.jal rd imm) = goes (h.w rd next) (h.pc + imm) ∧ base (.jalr rd rs1 imm) = goes (h.w rd next) ((a + imm) &&& ~~~1) ∧
      (∀ p ∈ [(RvCond.eq, decide (a = b)), (.ne, decide (a ≠ b)), (.lt, decide (a.toInt < b.toInt)), (.ge, decide (b.toInt ≤ a.toInt)),
          (.ltu, decide (a.toNat < b.toNat)), (.geu, decide (b.toNat ≤ a.toNat))],
        base (.branch p.1 rs1 rs2 imm) = goes h (if p.2 then h.pc + imm else next)) ∧
      (∀ p ∈ [(RvAlu.add, a + b), (.sub, a - b), (.sll, a <<< (b.toNat % 64)), (.slt, if a.toInt < b.toInt then 1 else 0),
          (.sltu, if a.toNat < b.toNat then 1 else 0), (.xor, a ^^^ b), (.srl, a >>> (b.toNat % 64)), (.sra, a.sshiftRight (b.toNat % 64)),
          (.or, a ||| b), (.and, a &&& b), (.mul, a * b), (.mulh, (a.signExtend 128 * b.signExtend 128).extractLsb' 64 64),
          (.mulhsu, (a.signExtend 128 * b.setWidth 128).extractLsb' 64 64), (.mulhu, (a.setWidth 128 * b.setWidth 128).extractLsb' 64 64),
          (.div, if b = 0 then -1 else a.sdiv b), (.divu, if b = 0 then -1 else a.udiv b), (.rem, if b = 0 then a else a.srem b),
          (.remu, if b = 0 then a else a.umod b)],
        base (.op p.1 false rd rs1 rs2) = goes (h.w rd p.2) next ∧
        (b = imm → base (.opImm p.1 false rd rs1 imm) = goes (h.w rd p.2) next)) ∧
      (∀ p ∈ [(RvAlu.add, w (a + b)), (.sub, w (a - b)), (.sll, w (a <<< (b.toNat % 32))),
          (.srl, w ((a.setWidth 32).setWidth 64 >>> (b.toNat % 32))), (.sra, (w a).sshiftRight (b.toNat % 32)), (.mul, w (a * b))],
        base (.op p.1 true rd rs1 rs2) = goes (h.w rd p.2) next ∧ (b = imm → base (.opImm p.1 true rd rs1 imm) = goes (h.w rd p.2) next)) ∧
      (∀ n u_, n ∈ [1, 2, 4, 8] → let x := a + imm
        let val (y : Nat) : Word := if u_ then wd y else BitVec.ofInt 64 (sint (8 * n) y)
        (x.toNat + n ≤ 0x8000 → base (.load n u_ rd rs1 imm) = goes (h.w rd (val (ofBytes (Memory.read h.store x.toNat n)))) next ∧
          base (.store n rs1 rs2 imm) = goes { h with store := Memory.write h.store x.toNat (toBytes n b.toNat) } next) ∧
        (0x100000 ≤ x.toNat → x.toNat + n ≤ 0x180000 → let pa := coreWin s.core (x.toNat - 0x100000)
          (∃ u, u = s.settleOver pa n ∧ (u.bad pa n = false → base (.load n u_ rd rs1 imm) =
            .next { u.setH { (u.h.w rd (val (u.seeN pa n))) with pc := next } with turn := none })) ∧
          ∃ new : List Store, base (.store n rs1 rs2 imm) = goes { h with wr := h.wr ++ new } next ∧
            (∀ y ∈ new, y.seq = h.out.length ∧ y.rel = .none) ∧
            ∀ m a, Memory.get (writeEach m (new.map (fun y => (y.pa, y.bytes)))) a = Memory.get (Memory.write m pa (toBytes n b.toNat)) a) ∧
        (0x180000 < x.toNat + n ∨ (0x8000 < x.toNat + n ∧ x.toNat < 0x100000) →
          base (.load n u_ rd rs1 imm) = s.helperTrap 5 ∧ base (.store n rs1 rs2 imm) = s.helperTrap 7)) ∧
      base .ecall = s.helperTrap 11 ∧ base .ebreak = s.helperTrap 3 ∧
      (∀ rest, ∃ u, u = s.settleH ∧
        (u.h.wr = [] → u.h.out = [] → exec (.helperFence rest) s = .next { u.setH { u.h with pc := u.h.pc + 4 } with turn := none }) ∧
        (u.h.wr ≠ [] ∨ u.h.out ≠ [] → exec (.helperFence rest) s = u.helperStall))) ∧
  (
    ∀ (s : State) (cause : Nat), cause < 64 → s.core < 512 → s.h.stat < 0x80000 → s.h.wr = [] → s.h.out = [] → ∃ t, s.helperTrap cause = .next t ∧
      (∀ i < 8, Memory.get t.mem (coreWin s.core s.h.stat + i) =
        (toBytes 8 (2 * 2 ^ 56 + cause * 2 ^ 48 + s.h.pc.toNat % 2 ^ 32)).getD i 0) ∧
      (∀ a < extBase, (∀ i < 8, a ≠ coreWin s.core s.h.stat + i) → Memory.get t.mem a = Memory.get s.mem a) ∧
      t.h.st = 3 ∧ t.h.x = s.h.x ∧ t.h.pc = s.h.pc ∧ t.h.store = s.h.store ∧ t.h.desc = s.h.desc ∧ t.tasks = s.tasks)

/-- R308: the atomics of a helper on its private store, aligned: an AMO reads and writes in one step; LR takes the reservation; SC
writes and answers 0 when it still holds, else it answers 1 and writes nothing; a misaligned address is cause 4 or 6. One with rl first waits for
the helper's earlier accesses. -/
def Obligations.HelperAtomics : Prop :=
  ∀ (s : State) (c aq rl : Bool) (rd rs1 rs2 : BitVec 5),
    let h := s.h
    let next := h.pc + (if c then 2 else 4)
    let a := (h.r rs1).toNat
    let b := h.r rs2
    let amo (op : RvAmo) : Outcome State Fault Refusal := exec (.helperBaseInstruction c (.amo op true aq rl rd rs1 rs2)) s
    (a % 8 = 0 → a + 8 ≤ 0x8000 → (rl = true → h.wr = [] ∧ h.out = []) →
      let x : Word := wd (ofBytes (Memory.read h.store a 8))
      let key := (2 ^ 60 + s.hid * 2 ^ 20 + a, 8, s.hid)
      (∀ p ∈ [(RvAmo.swap, b), (.add, x + b), (.xor, x ^^^ b), (.and, x &&& b), (.or, x ||| b), (.min, if x.toInt < b.toInt then x else b),
          (.max, if x.toInt < b.toInt then b else x), (.minu, if x.toNat < b.toNat then x else b),
          (.maxu, if x.toNat < b.toNat then b else x)],
        amo p.1 = .next { s.setH { (h.w rd x) with store := Memory.write h.store a (toBytes 8 p.2.toNat), pc := next } with turn := none }) ∧
      (∃ t, amo .lr = .next t ∧ t.h = { h.w rd x with pc := next } ∧ key ∈ t.lrs ∧ t.mem = s.mem) ∧
      (∃ t, amo .sc = .next t ∧ (∀ r ∈ t.lrs, r.2.2 ≠ s.hid) ∧ t.mem = s.mem ∧
        (key ∈ s.lrs → t.h = { (h.w rd 0) with store := Memory.write h.store a (toBytes 8 b.toNat), pc := next }) ∧
        (key ∉ s.lrs → t.h = { h.w rd 1 with pc := next }))) ∧
    (a % 8 ≠ 0 → (rl = true → h.wr = [] ∧ h.out = []) → ∃ u, u = s.helperSees (h.r rs1) 8 ∧
      amo .lr = u.helperTrap 4 ∧ ∀ op, op ≠ .lr → amo op = u.helperTrap 6) ∧
    (rl = true → s.settleH.h.wr ≠ [] ∨ s.settleH.h.out ≠ [] → ∀ op, amo op = s.settleH.helperStall)

/-- R311, R312, R314, R315: the stream, queue and control forms of a helper: descriptor reads and writes, queue words, publication
and pops with their counters, the waits, bit fields, hints, fences and the stop; a queue form comes after the helper's stores to the queue's
buffer, and a fence or stop after all its accesses; a queue without a buffer is cause 24, and a wait that does not hold stalls the helper. -/
def Obligations.HelperForms : Prop :=
  ∀ (s : State) (f : BitVec 2) (st : BitVec 3) (q : BitVec 4) (rd rs1 rs2 : BitVec 5) (scope : BitVec 3),
    let h := s.h
    let a := h.r rs1
    let b := h.r rs2
    let d := h.stream st.toNat
    let y := s.queue s.core q.toNat
    let n := wbits a 31 0
    let goes (s : State) (h : Helper) : Outcome State Fault Refusal := .next { s.setH { h with pc := h.pc + 4 } with turn := none }
    let d1 : Stream := if f = 0 then { d with base := a } else if f = 1 then { d with pitch := a }
      else if f = 2 then { d with shape := a } else { d with cur := a }
    exec (.hxSset f st rs1) s = goes s { h with desc := h.desc.set st.toNat d1 } ∧
    exec (.hxSget st rd) s = goes s (h.w rd d.cur) ∧
    exec (.hxLhint st rs1) s = goes s { h with hint := h.hint.set st.toNat a } ∧
    (y.cfg = none → ∀ i ∈ [Instr.hxQwr q rs1 rs2, .hxQrd q rd rs1, .hxQpub q rd rs1, .hxQpop q rd rs1, .hxQwd q rd rs1, .hxQws q rd rs1],
      exec i s = s.helperTrap 24) ∧
    (∀ base e k u, y.cfg = some (base, e, k) → u = s.settleOver (coreWin s.core base) (2 ^ (e + k)) →
      (a.toNat % 8 ≠ 0 → exec (.hxQwr q rs1 rs2) s = u.helperTrap 24 ∧ exec (.hxQrd q rd rs1) s = u.helperTrap 24) ∧
      (a.toNat % 8 = 0 →
        (∃ t, exec (.hxQwr q rs1 rs2) s = .next t ∧ t.h = { u.h with pc := h.pc + 4 } ∧
          (8 ≤ y.cap * y.entry → ∀ i < 8, Memory.get t.mem (coreWin s.core (y.pos y.tail (a.toNat + i))) = (toBytes 8 b.toNat).getD i 0) ∧
          (∀ x, (∀ i < 8, x ≠ coreWin s.core (y.pos y.tail (a.toNat + i))) → Memory.get t.mem x = Memory.get u.mem x)) ∧
        (u.badAll (u.queueRuns y y.head a.toNat 8) = false → exec (.hxQrd q rd rs1) s =
          goes u (u.h.w rd (wd (ofBytes ((List.range 8).flatMap (fun i => u.see (coreWin s.core (y.pos y.head (a.toNat + i))) 1)))))) ∧
        (u.badAll (u.queueRuns y y.head a.toNat 8) = true → exec (.hxQrd q rd rs1) s = u.helperTrap 24)) ∧
      (s.outstanding s.core q.toNat = true → exec (.hxQpub q rd rs1) s = u.helperStall) ∧
      (s.outstanding s.core q.toNat = false →
        (n ≤ y.cap - y.count → exec (.hxQpub q rd rs1) s =
          (let tail := y.tail + BitVec.ofNat 32 n
           let s1 := u.setQueue s.core q.toNat { y with tail := tail }
           goes s1 (s1.h.w rd (tail.setWidth 64)))) ∧
        (y.cap - y.count < n → exec (.hxQpub q rd rs1) s = u.helperTrap 24)) ∧
      (n ≤ y.count → exec (.hxQpop q rd rs1) s =
        (let head := y.head + BitVec.ofNat 32 n
         let s1 := u.setQueue s.core q.toNat { y with head := head }
         goes s1 (s1.h.w rd (head.setWidth 64)))) ∧
      (y.count < n → exec (.hxQpop q rd rs1) s = u.helperTrap 24) ∧
      (y.cap < n → ∀ i ∈ [Instr.hxQwd q rd rs1, .hxQws q rd rs1], exec i s = u.helperTrap 24) ∧
      (n ≤ y.cap →
        (n ≤ y.count → exec (.hxQwd q rd rs1) s = goes u (u.h.w rd (wd y.count))) ∧
        (y.count < n → exec (.hxQwd q rd rs1) s = u.helperStall) ∧
        (n ≤ y.cap - y.count → exec (.hxQws q rd rs1) s = goes u (u.h.w rd (wd (y.cap - y.count)))) ∧
        (y.cap - y.count < n → exec (.hxQws q rd rs1) s = u.helperStall)) ∧
      (let p := a.toNat
       let w := wbits b 6 0
       1 ≤ w → w ≤ 64 →
        (y.cap * y.entry * 8 < p + w → exec (.hxBsx q rd rs1 rs2) s = u.helperTrap 24) ∧
        (p + w ≤ y.cap * y.entry * 8 → y.count * y.entry * 8 < p + w → exec (.hxBsx q rd rs1 rs2) s = u.helperStall) ∧
        (p + w ≤ y.cap * y.entry * 8 → p + w ≤ y.count * y.entry * 8 →
          u.badAll (u.queueRuns y y.head (p / 8) ((p + w - 1) / 8 - p / 8 + 1)) = false →
          ∃ v : Word, exec (.hxBsx q rd rs1 rs2) s = goes u (u.h.w rd v) ∧ ∀ i < 64, v.getLsbD i = (decide (i < w) &&
            ((u.see (coreWin s.core (y.pos y.head ((p + i) / 8))) 1).headD 0).getLsbD ((p + i) % 8))))) ∧
    (wbits b 6 0 = 0 → exec (.hxBsx q rd rs1 rs2) s = goes s (h.w rd 0)) ∧ (64 < wbits b 6 0 → exec (.hxBsx q rd rs1 rs2) s = s.helperTrap 2) ∧
    (6 ≤ scope.toNat → exec (.hxFence scope) s = s.helperTrap 2) ∧
    (∃ u, u = s.settleH ∧
      (scope.toNat < 6 → exec (.hxFence scope) s = if u.h.out = [] ∧ u.h.wr = [] then goes u u.h else u.helperStall) ∧
      (u.h.out ≠ [] ∨ u.h.wr ≠ [] → exec (.hxStop rs1) s = u.helperStall) ∧
      (u.h.out = [] → u.h.wr = [] → ∃ t, exec (.hxStop rs1) s = .next t ∧ t.h = { u.h with st := 0 } ∧
        t.mem = Memory.write u.mem (coreWin s.core h.stat) (toBytes 8 (2 ^ 56 + a.toNat % 2 ^ 32))))

/-- R313: the bulk forms with an aligned descriptor and a queue whose entries fit: sld issues the reads of its sectors, 64 of them at most
outstanding, when the queue has their room, and completes once all are issued; sst takes the sectors at the head, pops them, issues their stores and
moves CUR; a misaligned descriptor is cause 25, a queue that does not fit cause 24, and no room or no data a stall. R312, R313: a stalled helper
runs again when its stall ends; the oldest outstanding sector that its task's tables reach, of a task that is not speculative, is written to its
queue and published, and leaves the list. -/
def Obligations.HelperBulkAndEvents : Prop :=
  (
    ∀ (s : State) (q : BitVec 4) (rd rs1 rs2 : BitVec 5),
      let h := s.h
      let st := wbits (h.r rs1) 2 0
      let d := h.stream st
      let y := s.queue s.core q.toNat
      let left := min ((h.r rs2).toNat - h.moved) d.left
      let n := h.moved + left
      let aligned := d.base.toNat % 128 = 0 ∧ d.pitch.toNat % 128 = 0
      (¬ aligned → exec (.hxSld q rd rs1 rs2) s = s.helperTrap 25 ∧ exec (.hxSst q rd rs1 rs2) s = s.helperTrap 25) ∧
      (aligned → y.cfg = none → exec (.hxSld q rd rs1 rs2) s = s.helperTrap 24 ∧ exec (.hxSst q rd rs1 rs2) s = s.helperTrap 24) ∧
      (∀ base e k u, aligned → y.cfg = some (base, e, k) → u = s.settleOver (coreWin s.core base) (2 ^ (e + k)) →
        let fits := (128 % y.entry = 0 ∨ 128 * n % y.entry = 0) ∧ 128 * n ≤ y.cap * y.entry
        let free := (y.cap - y.count) * y.entry
        let asked := ceilDiv (128 * u.h.outOn q.toNat) y.entry * y.entry + 128 * left
        let other := (u.helper s.core (1 - s.hsel)).outOn q.toNat
        let issued (k : Nat) : List (Nat × Nat × Nat × Nat) :=
          u.h.out ++ (List.range k).map (fun i => (q.toNat, (d.addr i).toNat, st * 2 ^ 48 + (d.after i).toNat, h.pc.toNat))
        (¬ fits → exec (.hxSld q rd rs1 rs2) s = u.helperTrap 24 ∧ exec (.hxSst q rd rs1 rs2) s = u.helperTrap 24) ∧
        (fits →
          (other = 0 → asked ≤ free → u.h.out.length + left ≤ 64 ∨ left = 0 → ∃ t, exec (.hxSld q rd rs1 rs2) s = .next t ∧
            t.h.out = issued left ∧ t.h.x = (h.w rd (wd n)).x ∧ t.h.pc = h.pc + 4 ∧ t.h.moved = 0 ∧
            (left ≠ 0 → (t.h.stream st).cur = d.after left) ∧ t.mem = u.mem ∧ t.tasks = u.tasks) ∧
          (other = 0 → asked ≤ free → u.h.out.length < 64 → 64 < u.h.out.length + left → ∃ t, exec (.hxSld q rd rs1 rs2) s = .next t ∧
            t.h.out = issued (64 - u.h.out.length) ∧ t.h.moved = h.moved + (64 - u.h.out.length) ∧ t.h.st = 2 ∧ t.h.pc = h.pc ∧
            (t.h.stream st).cur = d.after (64 - u.h.out.length) ∧ t.mem = u.mem ∧ t.tasks = u.tasks) ∧
          (other ≠ 0 ∨ free < asked ∨ (64 ≤ u.h.out.length ∧ left ≠ 0) → exec (.hxSld q rd rs1 rs2) s = u.helperStall) ∧
          (y.count * y.entry < 128 * left → exec (.hxSst q rd rs1 rs2) s = u.helperStall) ∧
          (128 * left ≤ y.count * y.entry → (s.task h.task).spec = false → (s.task h.task).uncommitted = false →
            (u.bulkPieces h.task d left 0).2.2 = none → ∃ t new, exec (.hxSst q rd rs1 rs2) s = .next t ∧
              t.h.x = (h.w rd (wd left)).x ∧ t.h.pc = h.pc + 4 ∧ t.h.wr = u.h.wr ++ new ∧
              new.map (fun w => (w.pa, w.bytes)) = (u.bulkPieces h.task d left 0).2.1.zipIdx.map (fun (p, i) =>
                ((p.headD (0, 0)).1, (u.bulkPieces h.task d left 0).1.queueRead s.core y y.head (128 * i) 128)) ∧
              (left ≠ 0 → (t.h.stream st).cur = d.after left) ∧
              t.queue s.core q.toNat = { y with head := y.head + BitVec.ofNat 32 (128 * left / y.entry) })))) ∧
  (
    ∀ (s : State) (core : Nat) (b : Bool),
      let u : State := { s with core := core, setter := b }
      (u.h.st = 2 → exec (.helperStallEnd core b) s = .next (u.setH { u.h with st := 1 })) ∧
      (∀ q va mark pc rest s1 ps, u.h.out = (q, va, mark, pc) :: rest → u.sectorReach u.h.task .read (wd va) = (s1, .ok ps) →
        (∀ w ∈ u.h.wr, w.seq ≠ 0 ∨ ∀ p ∈ ps, overlap w.pa w.bytes.length p.1 p.2 = false) → (s.task u.h.task).spec = false →
        let y := s.queue core q
        y.cfg.isSome = true → ∃ t, exec (.sldSectorPublish core b) s = .next t ∧
          t.h = { u.h with
            out := rest
            wr := u.h.wr.map (fun w => { w with seq := w.seq - 1 }) } ∧
          t.queue core q = { y with tail := y.tail + BitVec.ofNat 32 (if y.entry ≤ 128 then 128 / y.entry
            else if ((y.entry - 128 * u.h.outOn q % y.entry) % y.entry) + 128 = y.entry then 1 else 0) } ∧ t.tasks = s.tasks))

/-! ### The Handler endpoints and the host port (spec/18_translation_partitions.md, 20_host_io_physical.md, 21_bringup_power_security.md) -/

/-- R416, R415, R432, R441, R445, R481, R482, R485: the commands of the Handler at a die that leads its partition, once the part
runs: each does its work and is answered with status 0, or does nothing and is answered with BADARG (2). -/
def Obligations.HandlerCommands : Prop :=
  ∀ (s : State) (die seq q : Nat) (b : List Byte) (x : HQueue) (asid en root base len : Nat) (mask : Word) (w ns watts ty n ttag : Nat),
    s.running = true → s.leads die = true →
    let part := s.partOf die
    let ok (s1 : State) (ep t : Nat) : Outcome State Fault Refusal := .next (s1.respond die ep t seq 0 [])
    let no (ep t : Nat) : Outcome State Fault Refusal := .next (s.respond die ep t seq 2 [])
    (queueOf b = some x → q ≤ 63 → exec (.qcfg die seq q b) s = ok (s.setHq part q x) 0 1) ∧
    (queueOf b = none ∨ 63 < q → exec (.qcfg die seq q b) s = no 0 1) ∧
    (q ≤ 63 → (s.hq part q).st = 1 → s.queueHeld part q = false → exec (.qstop die seq q) s =
      ok (s.setHq part q { s.hq part q with st := 0 }) 0 2) ∧
    (q ≤ 63 → (s.hq part q).st = 1 → s.queueHeld part q = true → exec (.qstop die seq q) s =
      ok (s.setHq part q { s.hq part q with stopReq := true }) 0 2) ∧
    (63 < q → exec (.qstop die seq q) s = no 0 2) ∧
    (asid ≤ 255 → root % 4096 = 0 → exec (.asset die seq asid en root) s = ok { s with
      asids := if en % 2 = 1 then s.asids.set (part * 256 + asid) root else s.asids.del (part * 256 + asid) } 1 1) ∧
    (255 < asid ∨ root % 4096 ≠ 0 → exec (.asset die seq asid en root) s = no 1 1) ∧
    (asid ≤ 255 → exec (.inval die seq asid base len) s = .next { s with invals := s.invals ++ [(die, seq, asid, base, len)] }) ∧
    (255 < asid → exec (.inval die seq asid base len) s = no 1 2) ∧
    (12 ≤ w → w ≤ 24 → ∃ s1 : State, exec (.wdog die seq mask w) s = ok s1 1 4 ∧ s1.mem = s.mem ∧ s1.tasks = s.tasks ∧
      ∀ i < 64, (s1.coreAt (die * 64 + i)).watch = if mask.getLsbD i then w else (s.coreAt (die * 64 + i)).watch) ∧
    (w < 12 ∨ 24 < w → exec (.wdog die seq mask w) s = no 1 4) ∧
    (∃ s1 : State, exec (.waketol die seq ns) s = ok s1 3 1 ∧ s1.mem = s.mem ∧ s1.tasks = s.tasks ∧
      ∀ d, (s1.die d).waketol = if d ∈ s.diesOf part then ns else (s.die d).waketol) ∧
    (600 ≤ watts → watts ≤ 2400 → exec (.pcap die seq watts) s = ok { s with pcap := s.pcap.set part watts } 3 2) ∧
    (watts < 600 ∨ 2400 < watts → exec (.pcap die seq watts) s = no 3 2) ∧
    (n ≤ 4095 → ttag ≤ 255 → (en = 0 ∨ (1 ≤ ty ∧ ty ≤ 5)) → ∃ s1 : State, exec (.trig die seq mask ty base len ttag n en) s = ok s1 4 2 ∧
      s1.mem = s.mem ∧ s1.tasks = s.tasks ∧ ∀ i < 64, mask.getLsbD i = true →
        (s1.coreAt (die * 64 + i)).trace = ⟨[], 0, ty, base, len, ttag, n, en != 0, false, 0, false⟩) ∧
    (4095 < n ∨ 255 < ttag ∨ (en ≠ 0 ∧ (ty = 0 ∨ 5 < ty)) → exec (.trig die seq mask ty base len ttag n en) s = no 4 2)

/-- R445, R477: a leader's command at another die is answered with NOTLEADER (3) and does nothing; before the boot has ended only
endpoint 4 of die 0 answers, with NOTYPE (4), and every other command is not answered. R479, R482, R485: the answers that carry
data: an attestation binds the nonce, the measurement, the ROM's version and the boots; telemetry answers with 12 bytes for each
die of the partition, whose values are free; a trace read answers with up to 15 records of a frozen buffer, and with BUSY while it
is not frozen. -/
def Obligations.CommandAnswers : Prop :=
  (
    ∀ (s : State) (die seq q asid en root base len ns watts : Nat) (b : List Byte) (nonce : List Byte),
      (s.running = true → s.leads die = false →
        ∀ p ∈ [(Instr.qcfg die seq q b, 0, 1), (.qstop die seq q, 0, 2), (.asset die seq asid en root, 1, 1), (.inval die seq asid base len, 1, 2),
            (.replcfg die seq b, 1, 5), (.waketol die seq ns, 3, 1), (.pcap die seq watts, 3, 2)],
          exec p.1 s = .next (s.respond die p.2.1 p.2.2 seq 3 [])) ∧
      (s.running = false →
        (∀ i ∈ [Instr.qcfg die seq q b, .qstop die seq q, .asset die seq asid en root, .inval die seq asid base len, .replcfg die seq b,
            .waketol die seq ns, .pcap die seq watts, .treq die seq], exec i s = .next s) ∧
        exec (.attest 0 seq nonce) s = .next (s.respond 0 4 1 seq 4 []) ∧ (die ≠ 0 → exec (.attest die seq nonce) s = .next s))) ∧
  (
    ∀ (s : State) (die seq core start : Nat) (nonce : List Byte), s.running = true →
      (∃ sig : List Byte, exec (.attest die seq nonce) s =
        .next (s.respond die 4 1 seq 0 (padTo 32 nonce ++ padTo 32 s.measure ++ toBytes 8 s.romver ++ toBytes 8 s.boots ++ sig))) ∧
      (∃ k b, exec (.treq die seq) s = .next ({ s with free := k }.respond die 3 3 seq 0 b) ∧
        b.length = 12 * (s.diesOf (s.partOf die)).length) ∧
      (let x := (s.coreAt (die * 64 + core)).trace
       (core ≤ 63 → x.frozen = true → exec (.tread die seq core start) s =
          .next (s.respond die 5 1 seq 0 (((x.records.drop start).take 15).flatten))) ∧
       (core ≤ 63 → x.frozen = false → exec (.tread die seq core start) s = .next (s.respond die 5 1 seq 1 [])) ∧
       (63 < core → exec (.tread die seq core start) s = .next (s.respond die 5 1 seq 2 []))))

/-- R408, R445: what FACT does to a task that is suspended on the Handler: resume lets it go on at its slot, end leaves it to end
with status fault, reflect enters its own handler, evict vacates its strand; TCANCEL ends a pre-empted task that no restore
admits; an otag that names no such task is BADARG. -/
def Obligations.FaultActions : Prop :=
  ∀ (s : State) (die seq id : Nat) (otag : Word) (x : Susp), s.running = true →
    let t := s.task id
    let ok (s1 : State) : Outcome State Fault Refusal := .next (s1.respond die 2 2 seq 0 [])
    (s.factTask otag = none → ∀ i ∈ [Instr.factResume die seq otag, .factReflect die seq otag, .factEnd die seq otag, .factEvict die seq otag],
      exec i s = .next (s.respond die 2 2 seq 2 [])) ∧
    (s.factTask otag = some id → t.susp = some x →
      exec (.factResume die seq otag) s = ok (s.setTask id { t with susp := none, head := if x.merge then t.head else .ready }) ∧
      (t.stage = .preempted → exec (.factEnd die seq otag) s = ok ((s.endTask id 2 0).dequeue id)) ∧
      (t.stage = .resident → exec (.factEnd die seq otag) s = ok (s.setTask id { t with
        susp := none, status := 2, walk := none, slot := 5, cur := { (default : Cur) with fin := some (t.slot, 2) }, head := .tokens 255 })) ∧
      (x.merge = false → t.sys = false → t.ctl.tvec ≠ 0 → t.stage = .resident → ∃ s1 : State, exec (.factReflect die seq otag) s = ok s1 ∧
        (s1.task id).ctl.xpc = t.pc ∧ (s1.task id).ctl.xinfo = x.info ∧ (s1.task id).sys = true ∧ (s1.task id).pc = handlerAddr t.ctl.tvec ∧
        (s1.task id).notBefore = (s.coreAt t.core).cycles + 4 ∧ s1.mem = s.mem) ∧
      (x.merge = false → t.sys = false → t.ctl.tvec ≠ 0 → t.stage = .preempted → t.image ≠ 0 →
        ∃ s1 : State, exec (.factReflect die seq otag) s = ok s1 ∧ (s1.task id).ctl.xinfo = x.info ∧ (s1.task id).sys = true) ∧
      ((t.sys = true ∨ t.ctl.tvec = 0) → t.stage = .preempted →
        exec (.factReflect die seq otag) s = ok ((s.endTask id 2 0).dequeue id)) ∧
      ((x.merge = true ∨ t.stage ≠ .resident) → exec (.factEvict die seq otag) s = .next (s.respond die 2 2 seq 2 [])) ∧
      (∀ s1, x.merge = false → t.stage = .resident → s.vacate id = some s1 → exec (.factEvict die seq otag) s = ok s1)) ∧
    (s.tagged otag = some id →
      (t.stage = .preempted → t.susp = none → (∀ w ∈ s.waitq, w.1 ≠ id) →
        exec (.tcancel die seq otag) s = .next ((s.endTask id 4 0).respond die 2 3 seq 0 [])) ∧
      (t.stage ≠ .preempted → exec (.tcancel die seq otag) s = .next (s.respond die 2 3 seq 2 [])))

/-- R441: an invalidation whose space has no access still to be performed drops every cached translation that it names from the
partition's cores and dies, and is answered. R443, R455: PARTSET divides a quiet part into rectangles of dies, in die 0 only, and
assigns the CXL ports; REPLCFG without pins sets the two thresholds, a field of 0 keeping its own. -/
def Obligations.TranslationAndPartition : Prop :=
  (
    ∀ (s : State) (n die seq asid base len : Nat), s.invals[n]? = some (die, seq, asid, base, len) → s.inSpace (s.partOf die) asid = [] →
      ∃ s1 : State, exec (.invalComplete n) s = .next (s1.respond die 1 2 seq 0 []) ∧ s1.invals = s.invals.eraseIdx n ∧ s1.mem = s.mem ∧
        s1.tasks = s.tasks ∧
        let gone (e : Tlb) : Prop := e.asid = s.partOf die * 256 + asid ∧
          (len = 0 ∨ (e.base < va57 (wd base) + len ∧ va57 (wd base) < e.base + 2 ^ e.lg))
        (∀ c, dieOf c ∈ s.diesOf (s.partOf die) → ∀ e, e ∈ (s1.coreAt c).tlb ↔ e ∈ (s.coreAt c).tlb ∧ ¬ gone e) ∧
        (∀ d, d ∈ s.diesOf (s.partOf die) → ∀ e, e ∈ (s1.die d).tlb ↔ e ∈ (s.die d).tlb ∧ ¬ gone e)) ∧
  (
    ∀ (s : State) (seq die : Nat) (parts ports p : List Byte), s.running = true →
      let new : Tab Nat := (List.range 8).map (fun d => (d, leAt parts d 1))
      (die ≠ 0 → exec (.partset die seq parts ports) s = .next (s.respond die 1 3 seq 4 [])) ∧
      (leAt ports 0 1 ≤ 1 → leAt ports 1 1 ≤ 1 →
        (∀ d < 8, rectangle ((List.range 8).filter (fun e => Tab.get new e 0 == Tab.get new d 0)) = true) → (∀ d < 8, s.quiet d = true) →
        ∃ s1 : State, exec (.partset 0 seq parts ports) s = .next (s1.respond 0 1 3 seq 0 []) ∧ s1.parts = new ∧
          s1.portOwn = portsOf new ports ∧ s1.mem = s.mem ∧ s1.tasks = s.tasks) ∧
      (1 < leAt ports 0 1 ∨ 1 < leAt ports 1 1 → exec (.partset 0 seq parts ports) s = .next (s.respond 0 1 3 seq 2 [])) ∧
      (s.leads die = true → leAt p 0 4 ≤ 65535 → leAt p 4 4 ≤ 65535 → leAt p 8 8 = 0 →
        (∀ i < 14, (sliceBytes p (16 + 16 * i) 16).all (· == 0) = true) →
        ∃ s1 : State, exec (.replcfg die seq p) s = .next (s1.respond die 1 5 seq 0 []) ∧ s1.mem = s.mem ∧ s1.tasks = s.tasks ∧
          ∀ d ∈ s.diesOf (s.partOf die), (s1.die d).rt = (if leAt p 0 4 = 0 then (s.die d).rt else leAt p 0 4) ∧
            (s1.die d).ct = if leAt p 4 4 = 0 then (s.die d).ct else leAt p 4 4) ∧
      (s.leads die = true → 65535 < leAt p 0 4 → exec (.replcfg die seq p) s = .next (s.respond die 1 5 seq 2 [])))

/-- R476-R478: a power-on reset keeps nothing of the part but the host's memory and what a reset does not reach, and ends in
recovery; a PERST keeps the stacks' contents too, without what a cache had not written back, and boots the image there when its header and signature stand; in
recovery IMGLOAD writes the boot region, 16 bytes at a time, and with no bytes checks the image. R471, R480, R481, R485: an idle
island goes to the deepest state that the tolerance allows and wakes for an admission; a trace buffer freezes once the records
after its match are written; a CXL link's state follows its events. -/
def Obligations.ResetAndPower : Prop :=
  (
    ∀ (s : State) (seq off : Nat) (data : List Byte),
      let after (keeps : Nat → Bool) : State := { State.reset with
        free := s.free, mem := s.behind.filter (fun c => keeps c.1), poison := s.poison.filter (fun k => keeps (k * 128))
        romver := s.romver, boots := s.boots + 1, linkUp := s.linkUp, inputs := s.inputs, sent := s.sent }
      let r := after (fun a => decide (a < 0x2000000000000) || decide (extBase ≤ a))
      exec .powerOnReset s = .next (after (fun a => decide (extBase ≤ a))) ∧
      ((r.bootImage = none ∨ ∃ b, r.bootImage = some b ∧ Config.imageValid b = false) → exec .perst s = .next r) ∧
      (∀ b, r.bootImage = some b → Config.imageValid b = true → ∃ t, exec .perst s = .next t ∧ t.running = true ∧
        t.measure = padTo 32 (Config.measure b) ∧ t.parts = [] ∧ t.mem = r.mem ∧ t.tasks = []) ∧
      (s.running = true → exec (.imgload seq off data) s = .next (s.respond 0 4 3 seq 4 [])) ∧
      (s.running = false →
        (data.length % 16 ≠ 0 ∨ bootSize < off + data.length → exec (.imgload seq off data) s = .next (s.respond 0 4 3 seq 2 [])) ∧
        (data.length % 16 = 0 → off + data.length ≤ bootSize → data ≠ [] →
          exec (.imgload seq off data) s = .next ((s.wr (bootBase + off) data).respond 0 4 3 seq 0 [])) ∧
        (off ≤ bootSize → data = [] → s.boot = none → exec (.imgload seq off data) s = .next (s.respond 0 4 3 seq 2 [])) ∧
        (∀ s1, off ≤ bootSize → data = [] → s.boot = some s1 → exec (.imgload seq off data) s = .next (s1.respond 0 4 3 seq 0 [])))) ∧
  (
    ∀ (s : State) (core port : Nat),
      let c := s.coreAt core
      let deep := islandState (s.die (dieOf core)).waketol
      (s.idle core = true → c.power < deep → deep < 2 → exec (.islandEntry core) s = .next (s.setCore core { c with power := deep })) ∧
      (s.idle core = true → c.power < deep → 2 ≤ deep → ∃ t : State, exec (.islandEntry core) s = .next t ∧ (t.coreAt core).power = deep ∧
        (t.coreAt core).l1 = [] ∧ t.mem = s.mem ∧ t.tasks = s.tasks) ∧
      (s.idle core = false → exec (.islandEntry core) s = .next s) ∧
      (s.wakes core = true → exec (.islandExit core) s = .next (s.setCore core { c with power := 0 })) ∧
      (c.trace.full = true → exec (.traceFreeze core) s = .next (s.setCore core { c with trace := { c.trace with frozen := true } })) ∧
      exec (.cxlLinkDown port) s = .next { s with linkUp := s.linkUp.set port false } ∧
      exec (.cxlLinkUp port) s = .next { s with linkUp := s.linkUp.set port true })

/-- R461-R466: the host's accesses: BAR2 reads and writes reach HBM outside the reserved ranges, others are Unsupported Request or
dropped, as is an AtomicOp; a poisoned packet's sectors carry the mark; a register write of a wrong size is dropped, and a read of
one gives zero, and of a write-only one a free value; a write is performed at once where its lines' homes have given out no copy, and
otherwise recalls the owner's first; NOTIFY goes to its queue; a peer window takes its base and gives it back; an endpoint's registers are read. A
write from 2^56 on is the host's own memory (the model's choice, log 39). R444: the doorbells and rings of an endpoint: OUT_HEAD
frees slots; a ring register takes its base and size while the rings are empty; IN_TAIL lets a message be read, in order, whose
SEQ must be the expected one, a ninth mismatch stopping the endpoint; a stopped endpoint reads nothing. -/
def Obligations.HostAndRings : Prop :=
  (
    ∀ (s : State) (off n size : Nat) (v : Word) (data : List Byte) (b : Bool),
      let answers (x : Word) : State := { s with sent := s.sent ++ [.completion true (toBytes n x.toNat)] }
      (bar2Ok off n = true → exec (.hostRead false off n) s = .next { s with sent := s.sent ++ [.completion true (s.see off n)] }) ∧
      (bar2Ok off n = false → exec (.hostRead false off n) s = .next { s with sent := s.sent ++ [.completion false []] }) ∧
      (∀ i, i < 16 → n = 8 → exec (.hostRead true (0x30000 + 16 * i) n) s = .next (answers (s.pwin.get i 0))) ∧
      (∀ die ep, die < 8 → ep < 6 → n = 8 →
        exec (.hostRead true (0x10000 + 0x1000 * die + 0x100 * ep + 0x10) n) s = .next (answers (wd (s.ep die ep).inHead)) ∧
        exec (.hostRead true (0x10000 + 0x1000 * die + 0x100 * ep + 0x18) n) s = .next (answers (wd (s.ep die ep).outTail)) ∧
        exec (.hostRead true (0x10000 + 0x1000 * die + 0x100 * ep) n) s =
          .next (answers (Config.writeOnly (0x10000 + 0x1000 * die + 0x100 * ep) (s.ep die ep).inTail))) ∧
      (∀ q, q < 64 → n = 4 → s.leader (s.partOf 0) = 0 →
        exec (.hostRead true (16 * q) n) s = .next (answers ((s.hq (s.partOf 0) q).tail.setWidth 64))) ∧
      (0x10000 ≤ off → off < 0x18000 ∨ 0x30000 ≤ off → n ≠ 8 → exec (.hostRead true off n) s = .next (answers 0)) ∧
      (bar2Ok off data.length = true → data ≠ [] →
        (∀ l ∈ linesOf off data.length, (s.homeLine l).st = 0 ∧ (s.homeLine l).shr = 0 ∧ (s.homeLine l).wait = [] ∧
          ∀ w ∈ s.hostWs, l ∉ w.lines) →
        ∀ p, ∃ t, exec (.hostWrite off data b p) s = .next t ∧ t.mem = Memory.write s.mem off data ∧ t.tasks = s.tasks ∧ t.cores = s.cores ∧
          t.net = s.net) ∧
      (∀ p, bar2Ok off data.length = true → data ≠ [] → off % 256 + data.length ≤ 256 →
        let h := s.homeLine (off / 256)
        h.st = 5 → h.own < 8 → h.shr = 2 ^ h.own → h.wait = [] →
        ∃ t, exec (.hostWrite off data b p) s = .next t ∧ t.mem = s.mem ∧ (t.homeLine (off / 256)).st = 13 ∧
          ⟨8, homeOf (off / 256), h.own, off / 256, 8⟩ ∈ t.net) ∧
      (bar2Ok off data.length = false → off < extBase → ∀ p, exec (.hostWrite off data b p) s = .next s) ∧
      (extBase ≤ off → exec (.hostWrite off data b false) s = .next (s.wr off data) ∧
        ∃ t, exec (.hostWrite off data b true) s = .next t ∧ t.mem = Memory.write s.mem off data ∧
          ∀ k ∈ sectorsOf off data.length, t.poison.contains k = true) ∧
      exec .atomicopRequest s = .next { s with sent := s.sent ++ [.completion false []] } ∧
      (0x30000 ≤ off → off < 0x30100 → off % 16 = 0 → exec (.registerWrite off 8 v) s =
        .next { s with pwin := s.pwin.set ((off - 0x30000) / 16) (v &&& ~~~0xFE#64) }) ∧
      (0x30000 ≤ off → off < 0x30100 → (size ≠ 8 ∨ off % 16 ≠ 0) → exec (.registerWrite off size v) s = .next s) ∧
      (off < 0x2000 → off % 16 = 0 → exec (.registerWrite off 4 v) s = exec (.notifyWrite (off / 0x400) (off % 0x400 / 16) (v.setWidth 32)) s) ∧
      (0x40000 ≤ off → exec (.registerWrite off size v) s = .next s)) ∧
  (
    ∀ (s : State) (die ep idx : Nat) (v : Word),
      let e := s.ep die ep
      let at_ (e : Endpoint) : State := s.setEp die ep e
      let base : Word := wd (wbits v 63 12 * 4096 + wbits v 3 0)
      (e.hold = [] → exec (.outHead die ep idx) s = .next (at_ { e with outHead := idx % 2 ^ 32 })) ∧
      (e.inHead = e.inTail → e.outHead = e.outTail →
        exec (.endpointRingWrite die ep false v) s = .next (at_ { e with ring := base, stopped := false, bad := 0, inTail := e.inHead }) ∧
        (e.hold = [] → exec (.endpointRingWrite die ep true v) s = .next (at_ { e with oring := base }))) ∧
      (e.inHead ≠ e.inTail → e.stopped = false → exec (.endpointRingWrite die ep false v) s = .next s) ∧
      (e.stopped = true → exec (.inTail die ep idx) s = .next (at_ { e with inTail := idx % 2 ^ 32 })) ∧
      (e.stopped = false → ringSize e.ring ≠ 0 → e.bad = 0 → idx % 2 ^ 32 = (e.inHead + 1) % 2 ^ 32 → e.inHead < 2 ^ 32 →
        (s.running = true ∨ (die = 0 ∧ ep = 4)) →
        let m := Memory.read s.mem (ringSlot e.ring e.inHead) 256
        (leAt m 4 4 = e.inSeq → exec (.inTail die ep idx) s = .next ((at_ { e with
          inTail := idx % 2 ^ 32, bad := 0, inHead := (e.inHead + 1) % 2 ^ 32, inSeq := (e.inSeq + 1) % 2 ^ 32 }).handle die ep m)) ∧
        (leAt m 4 4 ≠ e.inSeq → exec (.inTail die ep idx) s = .next (at_ { e with inTail := idx % 2 ^ 32, bad := 1 }))) ∧
      (e.bad = 0 → exec (.endpointReread die ep) s = .next s) ∧
      (e.stopped = false → ringSize e.ring ≠ 0 → e.bad ≠ 0 → e.bad < 9 → e.inHead < 2 ^ 32 → e.inTail < 2 ^ 32 → e.inHead ≠ e.inTail →
        (s.running = true ∨ (die = 0 ∧ ep = 4)) → leAt (Memory.read s.mem (ringSlot e.ring e.inHead) 256) 4 4 ≠ e.inSeq →
        exec (.endpointReread die ep) s = .next (at_ { e with bad := e.bad + 1, stopped := decide (9 ≤ e.bad + 1) })))

/-! ### Steps, encodings and invariants -/

/-- R443, R476, R478: a power-on reset leaves the part in recovery with nothing loaded and no task, with one partition that holds
all eight dies, every island off and no memory listed. -/
def Obligations.ResetState : Prop :=
  let s := State.reset
  s.running = false ∧ s.tasks = [] ∧ s.groups = [] ∧ s.waitq = [] ∧ s.hqs = [] ∧ s.asids = [] ∧ (∀ d, s.partOf d = 0) ∧
    (∀ n, s.task n = default) ∧ s.measure = [] ∧
    (∀ n, (s.coreAt n).power = 3) ∧ s.mem = [] ∧ s.back = [] ∧ s.net = [] ∧ s.hostWs = [] ∧ s.held = []

/-- The memory of the reset state is in canonical form, and every byte of it reads 0 (the model's choice, assumption 4). -/
def Obligations.ResetInv : Prop :=
  State.reset.Inv ∧ ∀ a, Memory.get State.reset.mem a = 0

/-- The canonical form of memory is kept by every step, from every state that has it. -/
def Obligations.StepKeepsInv : Prop :=
  ∀ s t : State, s.Inv → step s = .next t → t.Inv

/-- R135-R138, R244, R310: decoding what the encoder writes of a well-formed step gives the step back, with every operand: the
slot forms with their literal, the anchor words and the helper words of 32 bits; and every slot form, anchor word and stream form
has an encoding. -/
def Obligations.DecodeEncode : Prop :=
  ∀ i : Instr, i.wf = true →
    (∀ w l, encodeSlot i = some (w, l) → decodeSlot w l = .ok i) ∧
    (∀ w, encodeAnchor i = some w → decodeAnchor w = some i) ∧
    (∀ w, encodeHelper i = some w → decodeHelper w = some i) ∧
    ((moveOf i).isSome = true → (encodeSlot i).isSome = true)

/-- R135, R138, R244, R310: the words of a few instructions, as the encoding tables give them. -/
def Obligations.DecodeWords : Prop :=
  decodeTableWord 48 0x040008005000 = some (.saAdd false ⟨none, .imm 16⟩) ∧
    decodeTableWord 48 0x024400021348 = some (.vaFma false .bf16 ⟨none, .reg 1 4 0⟩) ∧
    decodeTableWord 48 0x040010031148 = some (.mxMmz .bf16 ⟨none, .imm 32⟩) ∧
    decodeTableWord 48 0x8C0000015108 = some (.brGo 1 ⟨some ⟨false, 1⟩, .imm 0⟩) ∧
    decodeTableWord 48 0x02070001D338 = some (.gmSt .n64 ⟨none, .reg 0 7 0⟩) ∧
    decodeTableWord 48 0x03EA002C4000 = some (.move ⟨none, .reg 7 42 0⟩ (.reg 3 4 0)) ∧
    decodeTableWord 32 0x18000000 = some (.anchorBias 0) ∧ decodeTableWord 32 0xA8000000 = some .anchorEnd ∧
    decodeTableWord 32 0x04B5560B = some (.hxSld 2 12 10 11) ∧ decodeTableWord 48 0x040008005001 = none

/-- A step runs the instruction that its turn's bytes decode to, and then the sync sites look at their waits, and storage whose merges
are complete is held no more (R139, R243, R273, R307,
R321, assumption 2): a slot of a strand's bundle, in a replay what the replay makes of it, a literal, the end of a bundle, a helper's instruction, an
anchor's word, an event. -/
def Obligations.StepRunsDecoded : Prop :=
  ∀ s : State,
    let after (o : Outcome State Fault Refusal) : Outcome State Fault Refusal := match o with
      | .next t => .next t.wake.endHolds
      | o => o
    (∀ id w b, s.turn = some (.slot id) → (s.tasks.find? id).isSome = true →
      let u : State := { s with cur := id, core := (s.task id).core }
      u.t.cur.word = some w → decodeBundle w = some b → u.t.slot ≤ 5 →
      (∀ i, u.t.slot < 5 → u.t.inWalk = none → b.isLit u.t.slot = false → b.decode u.t.slot = .ok i → step s = after (exec i u)) ∧
      (∀ i, u.t.slot < 5 → u.t.inWalk.isSome = true → b.isLit u.t.slot = false → b.decode u.t.slot = .ok i →
        step s = after ((u.syncWalk.replaySlot i).getD (exec i u.syncWalk))) ∧
      (u.t.slot < 5 → b.isLit u.t.slot = true → step s = .next u.commit.wake.endHolds) ∧
      (u.t.slot < 5 → b.isLit u.t.slot = false → b.decode u.t.slot = .error .slot → step s = .next (u.raise 1 2 0).wake.endHolds) ∧
      (u.t.slot < 5 → b.isLit u.t.slot = false → b.decode u.t.slot = .error .port → step s = .next (u.raise 1 3 0).wake.endHolds) ∧
      (u.t.slot < 5 → b.isLit u.t.slot = false → b.decode u.t.slot = .error .type → step s = .next (u.raise 1 4 0).wake.endHolds) ∧
      (u.t.slot = 5 → step s = .next u.endBundle.wake.endHolds)) ∧
    (∀ core x, s.turn = some (.helper core x) → (s.cores.find? core).isSome = true →
      let u : State := { s with core := core, setter := x }
      (∀ i lo, u.helperParcel u.h.pc = some lo → lo % 4 ≠ 3 → decodeRv16 (BitVec.ofNat 16 lo) = some i → step s = after (exec i u)) ∧
      (∀ i lo hi, u.helperParcel u.h.pc = some lo → lo % 4 = 3 → u.helperParcel (u.h.pc + 2) = some hi →
        decodeHelper (BitVec.ofNat 32 (lo + hi * 65536)) = some i → step s = after (exec i u)) ∧
      (u.helperParcel u.h.pc = none → step s = after (u.helperTrap 1)) ∧
      (∀ a : Word, a.toNat + 2 ≤ 0x8000 → u.helperParcel a = some (ofBytes (Memory.read u.h.store a.toNat 2))) ∧
      (∀ off, off + 2 ≤ 0x80000 → u.bad (coreWin core off) 2 = false →
        u.helperParcel (wd (0x100000 + off)) = some (u.rdN (coreWin core off) 2))) ∧
    (∀ core r i, s.turn = some (.anchor core) → (s.cores.find? core).isSome = true → (s.coreAt core).row = some r →
      decodeAnchor (BitVec.ofNat 32 ((s.coreAt core).prog.get r.word 0)) = some i → step s = after (exec i { s with core := core })) ∧
    (∀ i, s.turn = some (.event i) → step s = after (exec i { s with turn := none })) ∧
    (s.turn = none → s.moves = [] → step s = .next s.wake.endHolds)

/-- R55, R117, R121, R127: the frame of the register forms of sa, sb, sm, ag, va, vb and vx outside a recording block: when a slot
ends without a trap, its move having delivered in the state s (the state itself, but for a queue source, whose earlier accesses come
first), everything outside the strand's task is unchanged, with every byte of memory, and in the task every register,
control register, branch register, port, landing entry, token and pending access; results reach their latches later. -/
def Obligations.RegisterFormFrame : Prop :=
  ∀ (s0 s t : State) (i : Instr) (u p sub : Nat) (m : Mv) (c : WClass) (x : Val), slotForm i = some (u, p, sub, m) →
    u ∈ [1, 2, 3, 4, 8, 9, 10] → Delivers s0 m (some (trigClass u p sub)) s c x →
    s.t.recording = false → s.turn.isSome = true → exec i s0 = .next t → t.turn = s.turn →
    OnlyTask s t ∧ (∀ a, Memory.get t.mem a = Memory.get s.mem a) ∧ t.t.g = s.t.g ∧ t.t.v = s.t.v ∧ t.t.m = s.t.m ∧ t.t.k = s.t.k ∧
      t.t.ctl = s.t.ctl ∧ t.t.toks = s.t.toks ∧ t.t.stores = s.t.stores ∧ t.t.held = s.t.held ∧ t.t.pc = s.t.pc ∧ t.t.sys = s.t.sys ∧
      t.t.clock = s.t.clock ∧ t.t.bank.b = s.t.bank.b ∧ t.t.bank.lc = s.t.bank.lc ∧ t.t.bank.le = s.t.bank.le ∧
      t.t.bank.latch = s.t.bank.latch ∧ t.t.bank.shadow = s.t.bank.shadow ∧ t.t.bank.land = s.t.bank.land ∧
      t.t.slot = s.t.slot + 1

/-- R187-R193, R97: the frame of the local-store stores: until the bytes are performed, a store changes no byte of memory, no other task
and nothing else outside its task, and in the task no register, control register, latch, port, landing entry or token; performing a
strand's accesses to its own core changes only bytes of stores that it has pending. -/
def Obligations.StoreFrame : Prop :=
  (
    ∀ (s0 s t : State) (m : Mv) (x : Word) (ty : ElemType) (i : Instr), ReadyW s0 s 6 m x → s.t.core < 512 → s.turn.isSome = true →
      i ∈ [Instr.lsSt ty m, .lsStv ty m, .lsStvs ty m, .lsScat ty m, .lsStvm ty m, .lsStq ty m, .lsStvq ty m] →
      exec i s0 = .next t → t.turn = s.turn →
      OnlyTask s t ∧ (∀ a, Memory.get t.mem a = Memory.get s.mem a) ∧ t.t.g = s.t.g ∧ t.t.v = s.t.v ∧ t.t.k = s.t.k ∧ t.t.m = s.t.m ∧
        t.t.ctl = s.t.ctl ∧ t.t.bank = s.t.bank ∧ t.t.held = s.t.held ∧ t.t.toks = s.t.toks ∧ t.t.slot = s.t.slot + 1) ∧
  (
    ∀ (s : State) (ps : List (Nat × Nat)) (a : Nat), (∀ x ∈ s.t.stores, a < x.pa ∨ x.pa + x.bytes.length ≤ a) →
      Memory.get (s.settle ps).mem a = Memory.get s.mem a)

/-! ### Cores, scheduling, merges and coherence (spec/01, 04, 11, 16, 17, 19) -/

/-- R33, R35, R126-R131, R139, R402: the cycles of a core (strandSelect and bundleIssue complete): after the gap the core issues from the
strand chosen; a cycle of the gap or of a freeze only counts; a strand fetches its bundle, a bundle that has arrived and whose
tokens have completed starts its slots; and a bundle that changes nothing at its end goes on at the next. R127-R131, R288, R402, R436,
R364: the arrivals that a core waits for (landingArrival, fetchArrival, translationWalkComplete, residualSpill and residualFill, freezeWatchdogExpiry,
resultLatchLanding, fmtShadowExpiry and copyTrap complete): a load's data, a fetch, a translation and a residual chunk end their
freeze; the watchdog gives a frozen strand to the Handler, with a free detail where the spec names none (log 22); results, a
written fmt and a copy's trap take effect. -/
def Obligations.CoreIssue : Prop :=
  (
    ∀ (s : State) (core id r p n : Nat) (b : Bundle),
      let c := s.coreAt core
      let u : State := { s with core := core, cur := id }
      let u1 := u.setC { c with cycles := c.cycles + 1 }
      let u2 := u1.setT u1.t.landDue.expireFmt.landEntries
      let pc := u.t.pc
      let fetched := u2.reach u2.t.core (u2.asidOf u2.t) (u2.accOf u2.t) .fetch pc 32
      (c.issuing = none → c.gap = 0 → s.nextStrand core = some (r, id, p) → ∃ t, exec (.strandSelect core) s = .next t ∧
        (t.coreAt core).issuing = some r ∧ (t.coreAt core).last.get p 3 = r ∧ (t.task id).head = .ready ∧ t.mem = s.mem) ∧
      (c.issuing ≠ none ∨ c.gap ≠ 0 → exec (.strandSelect core) s = .next s) ∧
      (c.gap = n + 1 → ∃ t, exec (.bundleIssue core) s = .next t ∧ (t.coreAt core).gap = n ∧ (t.coreAt core).cycles = c.cycles + 1 ∧
        t.tasks = s.tasks ∧ t.mem = s.mem) ∧
      (c.gap = 0 → c.issuing = some r → c.res.find? r = some id →
        (∀ f, c.freeze = some f → f.kind ≠ 4 → ∃ t, exec (.bundleIssue core) s = .next t ∧
          (t.coreAt core).freeze = some { f with count := f.count + 1 } ∧ (t.coreAt core).frozen = c.frozen + 1 ∧
          (t.coreAt core).cycles = c.cycles + 1 ∧ t.tasks = s.tasks ∧ t.mem = s.mem) ∧
        (∀ f, c.freeze = some f → f.kind = 4 → exec (.bundleIssue core) s = .next u1) ∧
        (c.freeze = none → u.t.slot = 5 → u.t.inWalk = none → exec (.bundleIssue core) s = .next u.endBundle) ∧
        (c.freeze = none → u.t.slot < 5 → u.t.inWalk = none → u.t.cur.word.isSome = true →
          exec (.bundleIssue core) s = .next { u1 with turn := some (.slot id) }) ∧
        (c.freeze = none → u.t.slot < 5 → u.t.copyTrapDue = false → u.t.inWalk = none → u.t.cur.word = none →
          exec (.bundleIssue core) s = .next (match u2.fetch pc with
            | .word v w => (v.setT { v.t with entering := false }).issueWord w
            | .wait v => v
            | .fault v code va => v.fetchFault 4 code va)) ∧
        (∀ ps, c.freeze = none → u.t.slot = 0 → u.t.copyTrapDue = false → u.t.inWalk = none → u.t.cur.word = none →
          canonical pc = true → c.fetched = some (va57 pc) →
          (u2.cached u2.t.core (u2.partOfTask u2.t) (u2.asidOf u2.t) (va57 pc)).isSome = true → fetched.2 = .ok ps →
          let v := fetched.1.setT { fetched.1.t with entering := false }
          let w := BitVec.ofNat 256 (ofBytes (fetched.1.loadAll ps))
          let tw := (w.extractLsb 255 248).toNat
          fetched.1.badAll ps = false → v.t.slot = 0 → v.t.inWalk = none → v.t.waitMask tw = 0 → (v.t.observe tw).lateEntry = none →
          decodeBundle w = some b → exec (.bundleIssue core) s = .next ((v.setT (v.t.observe tw)).startSlots w))) ∧
      (∀ (v : State) (w : BitVec 256),
        (v.startSlots w).turn = some (.slot v.cur) ∧ (v.startSlots w).t.cur.word = some w ∧ (v.startSlots w).mem = v.mem) ∧
      (∀ v : State, v.t.inWalk = none → v.t.cur.fin = none → v.t.cur.ends = [] → v.t.cur.ret = false → v.t.cur.rev = none →
        v.t.cur.yield = false → v.t.cur.target = none → v.t.cur.goB = none → v.t.cur.loop = none → v.t.cur.still = false →
        v.t.cur.top = none → v.t.stores = [] →
        (∀ k < 4, v.t.bank.lc.get k 0 = 0) → ∃ t, v.endBundle = t ∧ t.t.pc = v.t.pc + 32 ∧ t.t.slot = 0 ∧ t.t.cur = default ∧ t.turn = none ∧
          t.t.clock = (if v.t.sys then v.t.clock else v.t.clock + 1) ∧ t.t.g = v.t.g ∧ t.t.ctl = v.t.ctl ∧ t.mem = v.mem)) ∧
  (
    ∀ (s : State) (core task n : Nat) (f : Freeze) (s1 u : State),
      let t := s.task task
      let c := s.coreAt core
      let va : Word := (BitVec.ofNat 57 f.arg).signExtend 64
      (∀ p pa k a, (t.landAt n).pend = some p → p.got = none → p.form = 16 ∨ p.form = 17 → p.pas = [⟨pa, k, a, none⟩] →
        t.inOrder p.seq pa k = true →
        let q : LandPend := { p with
          pas := [⟨pa, k, a, some (s.ownLoad t pa k, s.loadBad pa k)⟩]
          got := some (landValue p [s.ownLoad t pa k], s.loadBad pa k) }
        ∃ z, exec (.landingArrival task n) s = .next z ∧ (z.task task).landAt n = { t.landAt n with pend := some q } ∧ z.mem = s.mem ∧
          ((s.coreAt t.core).freeze = some f → f.kind = 0 → f.arg = n → s.issuer t.core = some u → u.cur = task →
            (z.coreAt t.core).freeze = none)) ∧
      (c.freeze = some f → f.kind = 1 → exec (.fetchArrival core) s =
        .next (s.setCore core { c with freeze := none, fetched := some f.arg })) ∧
      (c.freeze = some f → s.issuer core = some u → f.kind ≤ 3 →
        (2 ^ c.watch ≤ f.count →
          (f.kind = 0 → exec (.freezeWatchdogExpiry core) s = .next (u.unfreeze.suspend 11 1 (wd f.arg))) ∧
          (f.kind = 1 ∨ (f.kind = 2 ∧ f.arg / 2 ^ 57 = 2) →
            ((u.t.sys = false ∨ u.t.entering = false) →
              exec (.freezeWatchdogExpiry core) s = .next { u.unfreeze.suspend 11 2 va with turn := none }) ∧
            (u.t.sys = true → u.t.entering = true →
              exec (.freezeWatchdogExpiry core) s = .next { u.unfreeze.doubleFault with turn := none })) ∧
          ((f.kind = 2 ∧ f.arg / 2 ^ 57 ≠ 2) ∨ f.kind = 3 →
            exec (.freezeWatchdogExpiry core) s =
              .next (({ u.unfreeze with free := s.free + 1 } : State).suspend 11 1 (Config.freeWord s.free)))) ∧
        (f.count < 2 ^ c.watch → exec (.freezeWatchdogExpiry core) s = .next s)) ∧
      (t.stage = .resident → exec (.resultLatchLanding task) s = .next (s.setTask task t.landDue) ∧
        (t.inWalk = none → exec (.fmtShadowExpiry task) s = .next (s.setTask task t.expireFmt))) ∧
      (c.freeze = some f → s.issuer core = some u → f.kind = 2 →
        let v := u.unfreeze
        let r := v.walkCache core (v.partOfTask v.t) (v.asidOf v.t) (f.arg % 2 ^ 57) (permOf (f.arg / 2 ^ 57))
        (∀ pa, r.2 = .ok pa → exec (.translationWalkComplete core) s = .next r.1) ∧
        (∀ reason level, r.2 = .bad reason level → permOf (f.arg / 2 ^ 57) ≠ .fetch → exec (.translationWalkComplete core) s =
          .next { r.1.raise 4 (trCode (permOf (f.arg / 2 ^ 57)) reason level) va with turn := none })) ∧
      (s.issuer t.core = some u → u.cur = task → u.c.gap = 0 → u.c.freeze = none → u.t.copyTrapDue = true →
        let k := u.t.copyTr.foldl (fun b n => min b n) 7
        exec (.copyTrap task) s = .next ((u.setT { u.t with copyTr := u.t.copyTr.filter (· != k) }).raise 8 1 (wd k))) ∧
      (∀ m, s.chunkWait task = some (s1, n) → s1.t.need n = .spill m → s1.t.spec = false →
        exec (.residualSpill task) s = .next (match s1.spillChunk m with
          | (v, .ok true) => (v.setT (v.t.freeSlot m)).chunkDone n
          | (v, .ok false) => v
          | (v, .error _) => v.unfreeze)) ∧
      (s.chunkWait task = none → s.unitFree task = some s1 → (∀ m, s1.t.oldest = some m →
          exec (.residualSpill task) s = .next (match s1.spillChunk m with
            | (v, .ok true) => v.setT (v.t.cleanSlot m)
            | (v, _) => v)) ∧
        (∀ m, s1.t.ahead = some m → exec (.residualFill task) s = .next (s1.fillChunk m).1)) ∧
      (s.chunkWait task = some (s1, n) → s1.t.need n = .fill →
        exec (.residualFill task) s = .next (match s1.fillChunk n with
          | (v, .ok _) => v.chunkDone n
          | (v, .error _) => v.unfreeze)))

/-- R417-R423 (recordFetch, recordRefetch, notifyWrite and groupDispatch complete): a record at a queue's head that is reached and carries the sequence number expected is accepted, and another is
fetched again, up to eight times; a poisoned one is a queue fault; a group whose dependences hold dispatches its root tasks. -/
def Obligations.LaunchEvents : Prop :=
  ∀ (s : State) (part q group : Nat) (ps : List (Nat × Nat)),
    let x := s.hq part q
    let g := s.group group
    let read := s.reach (s.leader part * 64) x.asid ⟨part, false, false, false⟩ .read (x.ring + wd (x.head.toNat % 2 ^ x.log2n * 256)) 256
    let i : Instr := if x.retries = 0 then .recordFetch part q else .recordRefetch part q
    let s1 := read.1
    (s.canFetch part q = false → exec (.recordFetch part q) s = .next s ∧ exec (.recordRefetch part q) s = .next s) ∧
    (s.canFetch part q = true → read.2 = .ok ps → s1.badAll ps = true → exec i s = .next (s1.queueFault part q 12)) ∧
    (s.canFetch part q = true → read.2 = .ok ps → s1.badAll ps = false →
      let rec_ := s1.loadAll ps
      (leAt rec_ 0 4 = x.nseq.toNat → s1.recordCode part rec_ = 0 → ∃ t, exec i s = .next t ∧
        (t.hq part q).head = x.head + 1 ∧ (t.hq part q).nseq = x.nseq + 1 ∧ (t.hq part q).retries = 0 ∧
        (t.group s.groups.length).record = rec_ ∧ (t.group s.groups.length).stage = 0 ∧ t.mem = s1.mem ∧ t.tasks = s.tasks) ∧
      (leAt rec_ 0 4 ≠ x.nseq.toNat → x.retries ≠ 8 → exec i s = .next (s1.setHq part q { x with retries := x.retries + 1 })) ∧
      (leAt rec_ 0 4 ≠ x.nseq.toNat → x.retries = 8 → exec i s = .next (s1.queueFault part q 10))) ∧
    (∀ l k v, s.running = true → l ≤ 7 → k ≤ 63 → s.leader (s.partOf l) = l →
      let y := s.hq (s.partOf l) k
      ((v - y.head).toNat ≤ 2 ^ y.log2n ∨ y.st ≠ 1 → exec (.notifyWrite l k v) s = .next (s.setHq (s.partOf l) k { y with tail := v })) ∧
      (y.st = 1 → 2 ^ y.log2n < (v - y.head).toNat →
        exec (.notifyWrite l k v) s = .next (s.setHq (s.partOf l) k { y with tail := v, st := 3, lstat := 11 }))) ∧
    ((s.groups.find? group).isSome = true → g.stage = 0 →
      (s.deps group = .refused → exec (.groupDispatch group) s = .next ((s.refuseGroup group 8).stopQueue g.part g.queue)) ∧
      (s.deps group = .wait → exec (.groupDispatch group) s = .next s) ∧
      (s.deps group = .hold → g.flag 0 = false → g.at_ 104 4 = 0 → g.at_ 128 4 = 0 → s.imageReads g = true → g.span ≠ 3 →
        nbit (g.at_ 5 1) 7 = true → 0 < min (g.at_ 20 4) (g.at_ 16 4) → ∃ t, exec (.groupDispatch group) s = .next t ∧
          (t.group group).stage = 1 ∧ (t.group group).unit = g.at_ 8 2 ∧ (t.group group).discarded = g.at_ 20 4 - min (g.at_ 20 4) (g.at_ 16 4) ∧
          t.ntasks = s.ntasks + min (g.at_ 20 4) (g.at_ 16 4) ∧ t.mem = s.mem))

/-- R27, R409, R414, R421, R424, R426, R427, R333 (taskAdmit, preemption, restore and orderedRerun complete): admission, pre-emption,
restore and the rerun of an aborted task, of the task that the scheduler has chosen. R42-R44, R326, R328-R330, R332 (taskEnd, merge and
orderedCommit complete): an ended task that nothing holds is counted out; a merge with no fault folds the copy into its target and
marks it merged, one that faults is suspended at its element; the smallest key's ended task commits. -/
def Obligations.SchedulerAndEnds : Prop :=
  (
    ∀ (s s1 : State) (task core : Nat),
      let u := s.requeue
      let t := u.task task
      (t.stage = .waiting → u.firstFor core = some task → u.seatAt task core = some s1 → s1.fillFault task = none →
        let s2 := if t.started then s1 else (s1.setTask task (s1.task task).begun).passBaton (s1.task task).group
        let s3 := s2.blankCopies task
        let s4 := if (s1.task task).ord then s3.reserveWays (dieOf core) else s3
        exec (.taskAdmit task core) s = .next ((s4.startHelpers task).getD (s4.endTask task 4 0)) ∧
          ((s4.task task).claims 0 = false → (s4.task task).claims 1 = false → exec (.taskAdmit task core) s = .next s4)) ∧
      (t.stage ≠ .waiting ∨ u.firstFor core ≠ some task → exec (.taskAdmit task core) s = .next u) ∧
      (t.stage = .resident → u.wanted task = true → exec (.preemption task) s = .next ((u.vacate task).getD u) ∧
        (u.vacate task = some s1 → (s1.task task).stage = .preempted)) ∧
      (t.stage ≠ .resident ∨ u.wanted task = false → exec (.preemption task) s = .next u) ∧
      (u.wantsBack t = false → t.stage = .preempted → u.firstFor core = some task →
        (u.shapeFault task = none → exec (.restore task core) s = .next ((u.seatAt task core).getD u)) ∧
        (∀ k x, u.shapeFault task = some (k, x) → exec (.restore task core) s = .next ((u.report task 12 k x).dequeue task))) ∧
      (let t := s.task task
       let r := s.setTask task { t with commit := 0, head := .ready }
       t.commit = 1 → ((s.task t.after).commit = 2 ∨ (s.task t.after).stage = .retired) →
        (t.stage = .waiting → ∃ z, exec (.orderedRerun task) s = .next z ∧ (z.task task).commit = 0 ∧ (z.task task).head = .ready ∧
          (∃ p, z.waitq.head? = some (task, p)) ∧ z.mem = s.mem) ∧
        (t.stage ≠ .waiting → exec (.orderedRerun task) s = .next ((r.startHelpers task).getD (r.endTask task 4 0))))) ∧
  (
    ∀ (s : State) (task view group dst n : Nat),
      let v : State := { s with cur := task }.settleAll task
      ((s.task task).stage ≠ .ended → exec (.taskEnd task) s = .next s) ∧
      ((s.task task).stage = .ended → (v.task task).memIdle = false → exec (.taskEnd task) s = .next v) ∧
      ((s.task task).stage = .ended → (v.task task).memIdle = true → v.checked (v.task task) = true →
        exec (.taskEnd task) s = .next (if v.canRetire task then v.retire task else v)) ∧
      (let T := (s.task dst).views.get n default
       let S := (s.task task).views.get (16 + view) default
       let m := s.mergeFrom dst task T S (S.len / T.elem.bytes) 0
       let at_ (k e : Nat) (z : State) : State := z.setView dst n (fun v => { v with st := k, mview := view, melem := e })
       s.mergeTarget task view = some (dst, n) → T.st ≠ 3 → T.st ≠ 2 → (s.task task).status = 0 → (n < 16 ∨ (s.task dst).status = 0) →
        (m.2 = .done → ∃ z, exec (.merge task view) s = .next z ∧ z.mem = m.1.mem ∧
          ((z.task task).views.get (16 + view) default).st = 4) ∧
        (∀ e, m.2 = .wait e → exec (.merge task view) s = .next (at_ 2 e m.1)) ∧
        (∀ e k va, m.2 = .memory e k va →
          exec (.merge task view) s = .next ((at_ 3 e m.1).mergeSuspend dst k va (wd (view * 2 ^ 32 + e)))) ∧
        (∀ e k, m.2 = .trap e k → exec (.merge task view) s = .next ((at_ 3 e m.1).mergeTrap dst k (wd (view * 2 ^ 32 + e))))) ∧
      (s.mergeTarget task view = none → exec (.merge task view) s = .next s) ∧
      (∀ id, s.committer group = some id →
        let w : State := { s with cur := id }.settleAll id
        let k := w.commitBytes id
        ((w.task id).memIdle = false → exec (.orderedCommit group) s = .next w) ∧
        ((w.task id).memIdle = true → k.2 = false → exec (.orderedCommit group) s = .next k.1) ∧
        ((w.task id).memIdle = true → k.2 = true → ∃ z, exec (.orderedCommit group) s = .next z ∧ (z.task id).commit = 2 ∧
          (z.task id).ordered = [] ∧ z.mem = k.1.mem)) ∧
      (s.committer group = none → exec (.orderedCommit group) s = .next s))

/-- R94, R281 (nackRetry and combineFold complete): a refused request is offered again with what it was refused, and so is a refused
push; a combine whose sources have all arrived, of free order, clears ARRIVED and is answered once no cache holds its descriptor, and
waits until then; a descriptor that is no longer well formed is answered with the staging fault. -/
def Obligations.SiteEvents : Prop :=
  ∀ (s : State) (task : Nat) (a : Await) (d : Staging) (x : Store),
    let t := s.task task
    let u : State := { s with cur := task }
    (t.await = some a → a.value = none → a.arg 0 = 1 → exec (.nackRetry task) s =
      (let r := u.submit t.core a
       .next (r.1.setOut task (r.1.t.setAwait false r.2)))) ∧
    (t.await = none → t.hawait = none → t.stores.find? (fun x => decide (0 < x.tries)) = some x →
      exec (.nackRetry task) s = .next (u.performStore task x.seq)) ∧
    (t.await = some a → a.value = none → a.arg 0 = 0 → a.port = 39 →
      (stagingOf (s.load a.addr 64) = .ok d →
        (arrivedAll (s.load a.addr 64) d.n = false → exec (.combineFold task) s = .next u) ∧
        (arrivedAll (s.load a.addr 64) d.n = true → d.free = true → (∃ o, place a.addr = .hbm o) → t.uncommitted = false → t.stage = .resident →
          (∀ l ∈ linesOf a.addr 64, (s.homeLine l).st = 0 ∧ (s.homeLine l).wait = []) → ∃ z, exec (.combineFold task) s = .next z ∧
            z.mem = (u.homeStore (a.addr + 32) (toBytes 32 0)).mem ∧ (z.task task).await = some (a.answered 0))) ∧
      (∀ b, stagingOf (s.load a.addr 64) = .error b →
        exec (.combineFold task) s = .next (u.setOut task (u.t.setAwait false (a.failed 5 6)))))

/-- R391, R392, R446-R449, R452: the home's side of the protocol, a message at a time: requests of a line in I fetch memory, of the only
sharer are granted, of an owned line are forwarded; the data of memory, an owner's write-back or eviction, a missed forward and
the last acknowledgement end what they end, a host write's among them, whose bytes are then written. R446, R447, R450, R457, R389: a die's side of the protocol: an invalidation drops the
copy and is acknowledged; a forward to an owner sends its data, and one to a die without the line misses; data and a grant end
what waits for them in M; an eviction in S is silent and one in M writes back; a freed segment leaves its list, and the end of a
window advances the die's window clock. -/
def Obligations.CoherenceMessages : Prop :=
  (
    ∀ (s : State) (die line : Nat),
      let home := homeOf line
      let seen (k : Nat) : State := (s.takeMsg (fun m => m.kind == k && m.src == die && m.line == line)).1
      let h := s.homeLine line
      let req := h.who % 16
      die < 8 → s.region line = none → h.wait = [] →
      (h.st = 0 → die = home → ∀ p ∈ [(Instr.rs die line, 0), (.rx die line, 1)],
        exec p.1 s = .next (((seen p.2).setHome line { h with st := 1, who := die + 16 * p.2 }).post 13 home home line 0)) ∧
      (h.st = 2 → h.shr = 2 ^ die → (∀ m ∈ (seen 2).net, ¬ (m.kind = 2 ∧ m.line = line)) → exec (.up die line) s =
        .next (((seen 2).setHome line { h with st := 5, own := die, shr := 2 ^ die }).post 11 home die line 0)) ∧
      (h.st = 5 →
        exec (.rx die line) s = .next (((seen 1).setHome line { h with st := 10, who := die + 16 }).post 8 home h.own line die)) ∧
      (h.st = 1 → h.who / 16 % 16 = 1 → ∃ t, exec (.memoryData line) s = .next t ∧ (t.homeLine line).st = 5 ∧ (t.homeLine line).own = req ∧
        ⟨10, home, req, line, 2⟩ ∈ t.net) ∧
      (h.own = die → (h.st = 4 ∨ h.st = 5) → ∃ t, exec (.evc die line) s = .next t ∧ (t.homeLine line).st = 0 ∧ t.mem = s.mem) ∧
      (h.own = die → (h.st = 4 ∨ h.st = 5) → (s.takeMsg (fun m => m.kind == 3 && m.src == die && m.line == line)).2 = 0 →
        ∃ t, exec (.wb die line) s = .next t ∧ (t.homeLine line).st = 0 ∧ ⟨12, home, die, line, 0⟩ ∈ t.net ∧ t.mem = s.mem) ∧
      (h.st = 7 → exec (.fmiss die line) s = .next ((seen 9).setHome line { h with st := 9 })) ∧
      (h.st = 10 → exec (.fmiss die line) s = .next ((seen 9).setHome line { h with st := 12 })) ∧
      (h.st = 3 → h.acks = 1 → h.who / 16 % 16 = 1 → ∃ t, exec (.ack die line true) s = .next t ∧ (t.homeLine line).st = 5 ∧
        (t.homeLine line).own = req ∧ ⟨10, home, req, line, 2⟩ ∈ t.net) ∧
      (∀ pa bs r, h.st = 13 → h.acks = 1 → h.who % 16 = 8 → pa / 256 = line → s.hostWs = [⟨[line], [(pa, bs)], r, false⟩] →
        ∃ t, exec (.ack die line true) s = .next t ∧ (t.homeLine line).st = 0 ∧ t.mem = Memory.write s.mem pa bs ∧ t.hostWs = []) ∧
      (h.st = 3 → 1 < h.acks → exec (.ack die line true) s = .next ((seen 6).setHome line { h with acks := h.acks - 1 }))) ∧
  (
    ∀ (s : State) (die line req n : Nat),
      let home := homeOf line
      let seen (k : Nat) : State := (s.takeMsg (fun m => m.kind == k && m.dst == die && m.line == line)).1
      let x := s.dieLine die line
      (s.region line = none → x.st ∈ [1, 2, 3, 4] → ∃ t, exec (.inv die line) s = .next t ∧ (t.dieLine die line).st = 0 ∧
        ⟨6, die, home, line, 0⟩ ∈ t.net ∧ t.mem = s.mem ∧ t.tasks = s.tasks) ∧
      (x.st = 0 → req < 8 → exec (.fws die line req) s = .next ((seen 7).post 9 die home line 0) ∧
        exec (.fwx die line req) s = .next ((seen 8).post 9 die home line 0)) ∧
      (x.st = 4 → req < 8 → ∃ t, exec (.fwx die line req) s = .next t ∧ (t.dieLine die line).st = 0 ∧ ⟨10, die, req, line, 2⟩ ∈ t.net) ∧
      (x.st = 4 → ∃ t, exec (.fwx die line 8) s = .next t ∧ (t.dieLine die line).st = 0 ∧ ⟨3, die, home, line, 1⟩ ∈ t.net) ∧
      (x.st = 4 → req < 8 → ∃ t, exec (.fws die line req) s = .next t ∧ ⟨10, die, req, line, 0⟩ ∈ t.net ∧ t.mem = s.mem) ∧
      (x.st = 7 → exec (.grant die line) s = .next ((seen 11).setLine die line { x with st := 4, want := 0 })) ∧
      (x.st ≠ 7 → exec (.grant die line) s = .next (seen 11)) ∧
      (∀ g, x.st = 0 → (s.homeLine line).who % 16 ≠ die → ∃ t, exec (.data die line g) s = .next t ∧ t.dies = s.dies ∧ t.mem = s.mem) ∧
      (∀ g, x.st = 6 → (s.homeLine line).who % 16 ≠ die → ∃ t, exec (.data die line g) s = .next t ∧ (t.dieLine die line).st = 4 ∧
        t.mem = s.mem) ∧
      (x.st = 8 → x.want = 0 → exec (.ack die line false) s = .next ((seen 12).setLine die line ⟨0, 0, false, 0⟩)) ∧
      (x.st = 1 → ∃ t, exec (.l2Eviction die line) s = .next t ∧ (t.dieLine die line).st = 0 ∧ t.net = s.net ∧ t.mem = s.mem) ∧
      (x.st = 4 → ∃ t, exec (.l2Eviction die line) s = .next t ∧ (t.dieLine die line).st = 8 ∧ t.net = s.net ++ [⟨3, die, home, line, 0⟩]) ∧
      exec (.segmentFree die n) s = .next (s.setDie die { s.die die with olds := (s.die die).olds.eraseIdx n }) ∧
      (∃ t, exec (.replicationWindowEnd die) s = .next t ∧ t.mem = s.mem ∧ t.tasks = s.tasks ∧ (s.die die).cycles < (t.die die).cycles))
end

