-- ==== Sys2Proof/Laws/Tab.lean ====
section
/-! SUPPORT. Reading and writing the keyed tables: what is written under a key is read there, and nothing else changes. -/

namespace Sys2Proof

/-- A read of the key just written. -/
@[simp] theorem Tab.get_set_self {α : Type} (t : Tab α) (k : Nat) (x d : α) : (t.set k x).get k d = x := by
  induction t with
  | nil => simp [Tab.set, Tab.get]
  | cons h r ih =>
    obtain ⟨j, y⟩ := h
    by_cases h1 : j = k
    · simp [Tab.set, Tab.get, h1]
    · by_cases h2 : k < j <;> simp [Tab.set, Tab.get, h1, h2, ih]

/-- A read of another key. -/
theorem Tab.get_set_ne {α : Type} (t : Tab α) (k j : Nat) (x d : α) (h : j ≠ k) : (t.set k x).get j d = t.get j d := by
  induction t with
  | nil => simp [Tab.set, Tab.get, Ne.symm h]
  | cons a r ih =>
    obtain ⟨i, y⟩ := a
    by_cases h1 : i = k
    · subst h1; simp [Tab.set, Tab.get, Ne.symm h]
    · by_cases h2 : k < i
      · simp [Tab.set, Tab.get, h1, h2, Ne.symm h]
      · simp [Tab.set, Tab.get, h1, h2, ih]

/-- A second write of a key replaces the first. -/
@[simp] theorem Tab.set_set {α : Type} (t : Tab α) (k : Nat) (x y : α) : (t.set k x).set k y = t.set k y := by
  induction t with
  | nil => simp [Tab.set]
  | cons h r ih =>
    obtain ⟨j, z⟩ := h
    by_cases h1 : j = k
    · simp [Tab.set, h1]
    · by_cases h2 : k < j <;> simp [Tab.set, h1, h2, ih]

/-- The key just written is found. -/
@[simp] theorem Tab.find?_set_self {α : Type} (t : Tab α) (k : Nat) (x : α) : (t.set k x).find? k = some x := by
  induction t with
  | nil => simp [Tab.set, Tab.find?]
  | cons h r ih =>
    obtain ⟨j, y⟩ := h
    by_cases h1 : j = k
    · simp [Tab.set, Tab.find?, h1]
    · by_cases h2 : k < j <;> simp [Tab.set, Tab.find?, h1, h2, ih]

/-- Another key is found as before. -/
theorem Tab.find?_set_ne {α : Type} (t : Tab α) (k j : Nat) (x : α) (h : j ≠ k) : (t.set k x).find? j = t.find? j := by
  induction t with
  | nil => simp [Tab.set, Tab.find?, Ne.symm h]
  | cons a r ih =>
    obtain ⟨i, y⟩ := a
    by_cases h1 : i = k
    · subst h1; simp [Tab.set, Tab.find?, Ne.symm h]
    · by_cases h2 : k < i
      · simp [Tab.set, Tab.find?, h1, h2, Ne.symm h]
      · simp [Tab.set, Tab.find?, h1, h2, ih]

/-- A removed key reads as its default. -/
@[simp] theorem Tab.get_del_self {α : Type} (t : Tab α) (k : Nat) (d : α) : (t.del k).get k d = d := by
  induction t with
  | nil => rfl
  | cons h r ih =>
    obtain ⟨j, y⟩ := h
    by_cases h1 : j = k <;> simp [Tab.del, Tab.get, h1, ih]

/-- Removing a key leaves the others. -/
theorem Tab.get_del_ne {α : Type} (t : Tab α) (k j : Nat) (d : α) (h : j ≠ k) : (t.del k).get j d = t.get j d := by
  induction t with
  | nil => rfl
  | cons a r ih =>
    obtain ⟨i, y⟩ := a
    by_cases h1 : i = k
    · subst h1; simp [Tab.del, Tab.get, Ne.symm h, ih]
    · simp [Tab.del, Tab.get, h1, ih]

end Sys2Proof
end

