-- ==== Sys2Proof/Laws/State.lean ====
section
/-! SUPPORT. The small lemmas of State and Task: one per field and update, true by unfolding, so that no later proof opens a record
update. -/

namespace Sys2Proof.Machine

open Host Arith

@[simp] theorem State.setT_turn (s : State) (t : Task) : (s.setT t).turn = s.turn := rfl
@[simp] theorem State.setT_inputs (s : State) (t : Task) : (s.setT t).inputs = s.inputs := rfl
@[simp] theorem State.setT_free (s : State) (t : Task) : (s.setT t).free = s.free := rfl
@[simp] theorem State.setT_mem (s : State) (t : Task) : (s.setT t).mem = s.mem := rfl
@[simp] theorem State.setT_back (s : State) (t : Task) : (s.setT t).back = s.back := rfl
@[simp] theorem State.setT_hostWs (s : State) (t : Task) : (s.setT t).hostWs = s.hostWs := rfl
@[simp] theorem State.setT_poison (s : State) (t : Task) : (s.setT t).poison = s.poison := rfl
@[simp] theorem State.setT_lrs (s : State) (t : Task) : (s.setT t).lrs = s.lrs := rfl
@[simp] theorem State.setT_held (s : State) (t : Task) : (s.setT t).held = s.held := rfl
@[simp] theorem State.setT_running (s : State) (t : Task) : (s.setT t).running = s.running := rfl
@[simp] theorem State.setT_measure (s : State) (t : Task) : (s.setT t).measure = s.measure := rfl
@[simp] theorem State.setT_romver (s : State) (t : Task) : (s.setT t).romver = s.romver := rfl
@[simp] theorem State.setT_boots (s : State) (t : Task) : (s.setT t).boots = s.boots := rfl
@[simp] theorem State.setT_parts (s : State) (t : Task) : (s.setT t).parts = s.parts := rfl
@[simp] theorem State.setT_linkUp (s : State) (t : Task) : (s.setT t).linkUp = s.linkUp := rfl
@[simp] theorem State.setT_portOwn (s : State) (t : Task) : (s.setT t).portOwn = s.portOwn := rfl
@[simp] theorem State.setT_pwin (s : State) (t : Task) : (s.setT t).pwin = s.pwin := rfl
@[simp] theorem State.setT_msix (s : State) (t : Task) : (s.setT t).msix = s.msix := rfl
@[simp] theorem State.setT_pba (s : State) (t : Task) : (s.setT t).pba = s.pba := rfl
@[simp] theorem State.setT_sent (s : State) (t : Task) : (s.setT t).sent = s.sent := rfl
@[simp] theorem State.setT_asids (s : State) (t : Task) : (s.setT t).asids = s.asids := rfl
@[simp] theorem State.setT_hqs (s : State) (t : Task) : (s.setT t).hqs = s.hqs := rfl
@[simp] theorem State.setT_otags (s : State) (t : Task) : (s.setT t).otags = s.otags := rfl
@[simp] theorem State.setT_serial (s : State) (t : Task) : (s.setT t).serial = s.serial := rfl
@[simp] theorem State.setT_groups (s : State) (t : Task) : (s.setT t).groups = s.groups := rfl
@[simp] theorem State.setT_ntasks (s : State) (t : Task) : (s.setT t).ntasks = s.ntasks := rfl
@[simp] theorem State.setT_waitq (s : State) (t : Task) : (s.setT t).waitq = s.waitq := rfl
@[simp] theorem State.setT_admits (s : State) (t : Task) : (s.setT t).admits = s.admits := rfl
@[simp] theorem State.setT_cur (s : State) (t : Task) : (s.setT t).cur = s.cur := rfl
@[simp] theorem State.setT_core (s : State) (t : Task) : (s.setT t).core = s.core := rfl
@[simp] theorem State.setT_setter (s : State) (t : Task) : (s.setT t).setter = s.setter := rfl
@[simp] theorem State.setT_cores (s : State) (t : Task) : (s.setT t).cores = s.cores := rfl
@[simp] theorem State.setT_clusters (s : State) (t : Task) : (s.setT t).clusters = s.clusters := rfl
@[simp] theorem State.setT_dies (s : State) (t : Task) : (s.setT t).dies = s.dies := rfl
@[simp] theorem State.setT_syncs (s : State) (t : Task) : (s.setT t).syncs = s.syncs := rfl
@[simp] theorem State.setT_resvs (s : State) (t : Task) : (s.setT t).resvs = s.resvs := rfl
@[simp] theorem State.setT_net (s : State) (t : Task) : (s.setT t).net = s.net := rfl
@[simp] theorem State.setT_invals (s : State) (t : Task) : (s.setT t).invals = s.invals := rfl
@[simp] theorem State.setT_pcap (s : State) (t : Task) : (s.setT t).pcap = s.pcap := rfl
@[simp] theorem State.setTask_turn (s : State) (id : Nat) (t : Task) : (s.setTask id t).turn = s.turn := rfl
@[simp] theorem State.setTask_inputs (s : State) (id : Nat) (t : Task) : (s.setTask id t).inputs = s.inputs := rfl
@[simp] theorem State.setTask_free (s : State) (id : Nat) (t : Task) : (s.setTask id t).free = s.free := rfl
@[simp] theorem State.setTask_mem (s : State) (id : Nat) (t : Task) : (s.setTask id t).mem = s.mem := rfl
@[simp] theorem State.setTask_back (s : State) (id : Nat) (t : Task) : (s.setTask id t).back = s.back := rfl
@[simp] theorem State.setTask_hostWs (s : State) (id : Nat) (t : Task) : (s.setTask id t).hostWs = s.hostWs := rfl
@[simp] theorem State.setTask_poison (s : State) (id : Nat) (t : Task) : (s.setTask id t).poison = s.poison := rfl
@[simp] theorem State.setTask_lrs (s : State) (id : Nat) (t : Task) : (s.setTask id t).lrs = s.lrs := rfl
@[simp] theorem State.setTask_held (s : State) (id : Nat) (t : Task) : (s.setTask id t).held = s.held := rfl
@[simp] theorem State.setTask_running (s : State) (id : Nat) (t : Task) : (s.setTask id t).running = s.running := rfl
@[simp] theorem State.setTask_measure (s : State) (id : Nat) (t : Task) : (s.setTask id t).measure = s.measure := rfl
@[simp] theorem State.setTask_romver (s : State) (id : Nat) (t : Task) : (s.setTask id t).romver = s.romver := rfl
@[simp] theorem State.setTask_boots (s : State) (id : Nat) (t : Task) : (s.setTask id t).boots = s.boots := rfl
@[simp] theorem State.setTask_parts (s : State) (id : Nat) (t : Task) : (s.setTask id t).parts = s.parts := rfl
@[simp] theorem State.setTask_linkUp (s : State) (id : Nat) (t : Task) : (s.setTask id t).linkUp = s.linkUp := rfl
@[simp] theorem State.setTask_portOwn (s : State) (id : Nat) (t : Task) : (s.setTask id t).portOwn = s.portOwn := rfl
@[simp] theorem State.setTask_pwin (s : State) (id : Nat) (t : Task) : (s.setTask id t).pwin = s.pwin := rfl
@[simp] theorem State.setTask_msix (s : State) (id : Nat) (t : Task) : (s.setTask id t).msix = s.msix := rfl
@[simp] theorem State.setTask_pba (s : State) (id : Nat) (t : Task) : (s.setTask id t).pba = s.pba := rfl
@[simp] theorem State.setTask_sent (s : State) (id : Nat) (t : Task) : (s.setTask id t).sent = s.sent := rfl
@[simp] theorem State.setTask_asids (s : State) (id : Nat) (t : Task) : (s.setTask id t).asids = s.asids := rfl
@[simp] theorem State.setTask_hqs (s : State) (id : Nat) (t : Task) : (s.setTask id t).hqs = s.hqs := rfl
@[simp] theorem State.setTask_otags (s : State) (id : Nat) (t : Task) : (s.setTask id t).otags = s.otags := rfl
@[simp] theorem State.setTask_serial (s : State) (id : Nat) (t : Task) : (s.setTask id t).serial = s.serial := rfl
@[simp] theorem State.setTask_groups (s : State) (id : Nat) (t : Task) : (s.setTask id t).groups = s.groups := rfl
@[simp] theorem State.setTask_ntasks (s : State) (id : Nat) (t : Task) : (s.setTask id t).ntasks = s.ntasks := rfl
@[simp] theorem State.setTask_waitq (s : State) (id : Nat) (t : Task) : (s.setTask id t).waitq = s.waitq := rfl
@[simp] theorem State.setTask_admits (s : State) (id : Nat) (t : Task) : (s.setTask id t).admits = s.admits := rfl
@[simp] theorem State.setTask_cur (s : State) (id : Nat) (t : Task) : (s.setTask id t).cur = s.cur := rfl
@[simp] theorem State.setTask_core (s : State) (id : Nat) (t : Task) : (s.setTask id t).core = s.core := rfl
@[simp] theorem State.setTask_setter (s : State) (id : Nat) (t : Task) : (s.setTask id t).setter = s.setter := rfl
@[simp] theorem State.setTask_cores (s : State) (id : Nat) (t : Task) : (s.setTask id t).cores = s.cores := rfl
@[simp] theorem State.setTask_clusters (s : State) (id : Nat) (t : Task) : (s.setTask id t).clusters = s.clusters := rfl
@[simp] theorem State.setTask_dies (s : State) (id : Nat) (t : Task) : (s.setTask id t).dies = s.dies := rfl
@[simp] theorem State.setTask_syncs (s : State) (id : Nat) (t : Task) : (s.setTask id t).syncs = s.syncs := rfl
@[simp] theorem State.setTask_resvs (s : State) (id : Nat) (t : Task) : (s.setTask id t).resvs = s.resvs := rfl
@[simp] theorem State.setTask_net (s : State) (id : Nat) (t : Task) : (s.setTask id t).net = s.net := rfl
@[simp] theorem State.setTask_invals (s : State) (id : Nat) (t : Task) : (s.setTask id t).invals = s.invals := rfl
@[simp] theorem State.setTask_pcap (s : State) (id : Nat) (t : Task) : (s.setTask id t).pcap = s.pcap := rfl
@[simp] theorem State.setC_turn (s : State) (c : Core) : (s.setC c).turn = s.turn := rfl
@[simp] theorem State.setC_inputs (s : State) (c : Core) : (s.setC c).inputs = s.inputs := rfl
@[simp] theorem State.setC_free (s : State) (c : Core) : (s.setC c).free = s.free := rfl
@[simp] theorem State.setC_mem (s : State) (c : Core) : (s.setC c).mem = s.mem := rfl
@[simp] theorem State.setC_back (s : State) (c : Core) : (s.setC c).back = s.back := rfl
@[simp] theorem State.setC_hostWs (s : State) (c : Core) : (s.setC c).hostWs = s.hostWs := rfl
@[simp] theorem State.setC_poison (s : State) (c : Core) : (s.setC c).poison = s.poison := rfl
@[simp] theorem State.setC_lrs (s : State) (c : Core) : (s.setC c).lrs = s.lrs := rfl
@[simp] theorem State.setC_held (s : State) (c : Core) : (s.setC c).held = s.held := rfl
@[simp] theorem State.setC_running (s : State) (c : Core) : (s.setC c).running = s.running := rfl
@[simp] theorem State.setC_measure (s : State) (c : Core) : (s.setC c).measure = s.measure := rfl
@[simp] theorem State.setC_romver (s : State) (c : Core) : (s.setC c).romver = s.romver := rfl
@[simp] theorem State.setC_boots (s : State) (c : Core) : (s.setC c).boots = s.boots := rfl
@[simp] theorem State.setC_parts (s : State) (c : Core) : (s.setC c).parts = s.parts := rfl
@[simp] theorem State.setC_linkUp (s : State) (c : Core) : (s.setC c).linkUp = s.linkUp := rfl
@[simp] theorem State.setC_portOwn (s : State) (c : Core) : (s.setC c).portOwn = s.portOwn := rfl
@[simp] theorem State.setC_pwin (s : State) (c : Core) : (s.setC c).pwin = s.pwin := rfl
@[simp] theorem State.setC_msix (s : State) (c : Core) : (s.setC c).msix = s.msix := rfl
@[simp] theorem State.setC_pba (s : State) (c : Core) : (s.setC c).pba = s.pba := rfl
@[simp] theorem State.setC_sent (s : State) (c : Core) : (s.setC c).sent = s.sent := rfl
@[simp] theorem State.setC_asids (s : State) (c : Core) : (s.setC c).asids = s.asids := rfl
@[simp] theorem State.setC_hqs (s : State) (c : Core) : (s.setC c).hqs = s.hqs := rfl
@[simp] theorem State.setC_otags (s : State) (c : Core) : (s.setC c).otags = s.otags := rfl
@[simp] theorem State.setC_serial (s : State) (c : Core) : (s.setC c).serial = s.serial := rfl
@[simp] theorem State.setC_groups (s : State) (c : Core) : (s.setC c).groups = s.groups := rfl
@[simp] theorem State.setC_tasks (s : State) (c : Core) : (s.setC c).tasks = s.tasks := rfl
@[simp] theorem State.setC_ntasks (s : State) (c : Core) : (s.setC c).ntasks = s.ntasks := rfl
@[simp] theorem State.setC_waitq (s : State) (c : Core) : (s.setC c).waitq = s.waitq := rfl
@[simp] theorem State.setC_admits (s : State) (c : Core) : (s.setC c).admits = s.admits := rfl
@[simp] theorem State.setC_cur (s : State) (c : Core) : (s.setC c).cur = s.cur := rfl
@[simp] theorem State.setC_core (s : State) (c : Core) : (s.setC c).core = s.core := rfl
@[simp] theorem State.setC_setter (s : State) (c : Core) : (s.setC c).setter = s.setter := rfl
@[simp] theorem State.setC_clusters (s : State) (c : Core) : (s.setC c).clusters = s.clusters := rfl
@[simp] theorem State.setC_dies (s : State) (c : Core) : (s.setC c).dies = s.dies := rfl
@[simp] theorem State.setC_syncs (s : State) (c : Core) : (s.setC c).syncs = s.syncs := rfl
@[simp] theorem State.setC_resvs (s : State) (c : Core) : (s.setC c).resvs = s.resvs := rfl
@[simp] theorem State.setC_net (s : State) (c : Core) : (s.setC c).net = s.net := rfl
@[simp] theorem State.setC_invals (s : State) (c : Core) : (s.setC c).invals = s.invals := rfl
@[simp] theorem State.setC_pcap (s : State) (c : Core) : (s.setC c).pcap = s.pcap := rfl
@[simp] theorem State.setCore_turn (s : State) (n : Nat) (c : Core) : (s.setCore n c).turn = s.turn := rfl
@[simp] theorem State.setCore_inputs (s : State) (n : Nat) (c : Core) : (s.setCore n c).inputs = s.inputs := rfl
@[simp] theorem State.setCore_free (s : State) (n : Nat) (c : Core) : (s.setCore n c).free = s.free := rfl
@[simp] theorem State.setCore_mem (s : State) (n : Nat) (c : Core) : (s.setCore n c).mem = s.mem := rfl
@[simp] theorem State.setCore_back (s : State) (n : Nat) (c : Core) : (s.setCore n c).back = s.back := rfl
@[simp] theorem State.setCore_hostWs (s : State) (n : Nat) (c : Core) : (s.setCore n c).hostWs = s.hostWs := rfl
@[simp] theorem State.setCore_poison (s : State) (n : Nat) (c : Core) : (s.setCore n c).poison = s.poison := rfl
@[simp] theorem State.setCore_lrs (s : State) (n : Nat) (c : Core) : (s.setCore n c).lrs = s.lrs := rfl
@[simp] theorem State.setCore_held (s : State) (n : Nat) (c : Core) : (s.setCore n c).held = s.held := rfl
@[simp] theorem State.setCore_running (s : State) (n : Nat) (c : Core) : (s.setCore n c).running = s.running := rfl
@[simp] theorem State.setCore_measure (s : State) (n : Nat) (c : Core) : (s.setCore n c).measure = s.measure := rfl
@[simp] theorem State.setCore_romver (s : State) (n : Nat) (c : Core) : (s.setCore n c).romver = s.romver := rfl
@[simp] theorem State.setCore_boots (s : State) (n : Nat) (c : Core) : (s.setCore n c).boots = s.boots := rfl
@[simp] theorem State.setCore_parts (s : State) (n : Nat) (c : Core) : (s.setCore n c).parts = s.parts := rfl
@[simp] theorem State.setCore_linkUp (s : State) (n : Nat) (c : Core) : (s.setCore n c).linkUp = s.linkUp := rfl
@[simp] theorem State.setCore_portOwn (s : State) (n : Nat) (c : Core) : (s.setCore n c).portOwn = s.portOwn := rfl
@[simp] theorem State.setCore_pwin (s : State) (n : Nat) (c : Core) : (s.setCore n c).pwin = s.pwin := rfl
@[simp] theorem State.setCore_msix (s : State) (n : Nat) (c : Core) : (s.setCore n c).msix = s.msix := rfl
@[simp] theorem State.setCore_pba (s : State) (n : Nat) (c : Core) : (s.setCore n c).pba = s.pba := rfl
@[simp] theorem State.setCore_sent (s : State) (n : Nat) (c : Core) : (s.setCore n c).sent = s.sent := rfl
@[simp] theorem State.setCore_asids (s : State) (n : Nat) (c : Core) : (s.setCore n c).asids = s.asids := rfl
@[simp] theorem State.setCore_hqs (s : State) (n : Nat) (c : Core) : (s.setCore n c).hqs = s.hqs := rfl
@[simp] theorem State.setCore_otags (s : State) (n : Nat) (c : Core) : (s.setCore n c).otags = s.otags := rfl
@[simp] theorem State.setCore_serial (s : State) (n : Nat) (c : Core) : (s.setCore n c).serial = s.serial := rfl
@[simp] theorem State.setCore_groups (s : State) (n : Nat) (c : Core) : (s.setCore n c).groups = s.groups := rfl
@[simp] theorem State.setCore_tasks (s : State) (n : Nat) (c : Core) : (s.setCore n c).tasks = s.tasks := rfl
@[simp] theorem State.setCore_ntasks (s : State) (n : Nat) (c : Core) : (s.setCore n c).ntasks = s.ntasks := rfl
@[simp] theorem State.setCore_waitq (s : State) (n : Nat) (c : Core) : (s.setCore n c).waitq = s.waitq := rfl
@[simp] theorem State.setCore_admits (s : State) (n : Nat) (c : Core) : (s.setCore n c).admits = s.admits := rfl
@[simp] theorem State.setCore_cur (s : State) (n : Nat) (c : Core) : (s.setCore n c).cur = s.cur := rfl
@[simp] theorem State.setCore_core (s : State) (n : Nat) (c : Core) : (s.setCore n c).core = s.core := rfl
@[simp] theorem State.setCore_setter (s : State) (n : Nat) (c : Core) : (s.setCore n c).setter = s.setter := rfl
@[simp] theorem State.setCore_clusters (s : State) (n : Nat) (c : Core) : (s.setCore n c).clusters = s.clusters := rfl
@[simp] theorem State.setCore_dies (s : State) (n : Nat) (c : Core) : (s.setCore n c).dies = s.dies := rfl
@[simp] theorem State.setCore_syncs (s : State) (n : Nat) (c : Core) : (s.setCore n c).syncs = s.syncs := rfl
@[simp] theorem State.setCore_resvs (s : State) (n : Nat) (c : Core) : (s.setCore n c).resvs = s.resvs := rfl
@[simp] theorem State.setCore_net (s : State) (n : Nat) (c : Core) : (s.setCore n c).net = s.net := rfl
@[simp] theorem State.setCore_invals (s : State) (n : Nat) (c : Core) : (s.setCore n c).invals = s.invals := rfl
@[simp] theorem State.setCore_pcap (s : State) (n : Nat) (c : Core) : (s.setCore n c).pcap = s.pcap := rfl
@[simp] theorem State.setDie_turn (s : State) (d : Nat) (x : Die) : (s.setDie d x).turn = s.turn := rfl
@[simp] theorem State.setDie_inputs (s : State) (d : Nat) (x : Die) : (s.setDie d x).inputs = s.inputs := rfl
@[simp] theorem State.setDie_free (s : State) (d : Nat) (x : Die) : (s.setDie d x).free = s.free := rfl
@[simp] theorem State.setDie_mem (s : State) (d : Nat) (x : Die) : (s.setDie d x).mem = s.mem := rfl
@[simp] theorem State.setDie_back (s : State) (d : Nat) (x : Die) : (s.setDie d x).back = s.back := rfl
@[simp] theorem State.setDie_hostWs (s : State) (d : Nat) (x : Die) : (s.setDie d x).hostWs = s.hostWs := rfl
@[simp] theorem State.setDie_poison (s : State) (d : Nat) (x : Die) : (s.setDie d x).poison = s.poison := rfl
@[simp] theorem State.setDie_lrs (s : State) (d : Nat) (x : Die) : (s.setDie d x).lrs = s.lrs := rfl
@[simp] theorem State.setDie_held (s : State) (d : Nat) (x : Die) : (s.setDie d x).held = s.held := rfl
@[simp] theorem State.setDie_running (s : State) (d : Nat) (x : Die) : (s.setDie d x).running = s.running := rfl
@[simp] theorem State.setDie_measure (s : State) (d : Nat) (x : Die) : (s.setDie d x).measure = s.measure := rfl
@[simp] theorem State.setDie_romver (s : State) (d : Nat) (x : Die) : (s.setDie d x).romver = s.romver := rfl
@[simp] theorem State.setDie_boots (s : State) (d : Nat) (x : Die) : (s.setDie d x).boots = s.boots := rfl
@[simp] theorem State.setDie_parts (s : State) (d : Nat) (x : Die) : (s.setDie d x).parts = s.parts := rfl
@[simp] theorem State.setDie_linkUp (s : State) (d : Nat) (x : Die) : (s.setDie d x).linkUp = s.linkUp := rfl
@[simp] theorem State.setDie_portOwn (s : State) (d : Nat) (x : Die) : (s.setDie d x).portOwn = s.portOwn := rfl
@[simp] theorem State.setDie_pwin (s : State) (d : Nat) (x : Die) : (s.setDie d x).pwin = s.pwin := rfl
@[simp] theorem State.setDie_msix (s : State) (d : Nat) (x : Die) : (s.setDie d x).msix = s.msix := rfl
@[simp] theorem State.setDie_pba (s : State) (d : Nat) (x : Die) : (s.setDie d x).pba = s.pba := rfl
@[simp] theorem State.setDie_sent (s : State) (d : Nat) (x : Die) : (s.setDie d x).sent = s.sent := rfl
@[simp] theorem State.setDie_asids (s : State) (d : Nat) (x : Die) : (s.setDie d x).asids = s.asids := rfl
@[simp] theorem State.setDie_hqs (s : State) (d : Nat) (x : Die) : (s.setDie d x).hqs = s.hqs := rfl
@[simp] theorem State.setDie_otags (s : State) (d : Nat) (x : Die) : (s.setDie d x).otags = s.otags := rfl
@[simp] theorem State.setDie_serial (s : State) (d : Nat) (x : Die) : (s.setDie d x).serial = s.serial := rfl
@[simp] theorem State.setDie_groups (s : State) (d : Nat) (x : Die) : (s.setDie d x).groups = s.groups := rfl
@[simp] theorem State.setDie_tasks (s : State) (d : Nat) (x : Die) : (s.setDie d x).tasks = s.tasks := rfl
@[simp] theorem State.setDie_ntasks (s : State) (d : Nat) (x : Die) : (s.setDie d x).ntasks = s.ntasks := rfl
@[simp] theorem State.setDie_waitq (s : State) (d : Nat) (x : Die) : (s.setDie d x).waitq = s.waitq := rfl
@[simp] theorem State.setDie_admits (s : State) (d : Nat) (x : Die) : (s.setDie d x).admits = s.admits := rfl
@[simp] theorem State.setDie_cur (s : State) (d : Nat) (x : Die) : (s.setDie d x).cur = s.cur := rfl
@[simp] theorem State.setDie_core (s : State) (d : Nat) (x : Die) : (s.setDie d x).core = s.core := rfl
@[simp] theorem State.setDie_setter (s : State) (d : Nat) (x : Die) : (s.setDie d x).setter = s.setter := rfl
@[simp] theorem State.setDie_cores (s : State) (d : Nat) (x : Die) : (s.setDie d x).cores = s.cores := rfl
@[simp] theorem State.setDie_clusters (s : State) (d : Nat) (x : Die) : (s.setDie d x).clusters = s.clusters := rfl
@[simp] theorem State.setDie_syncs (s : State) (d : Nat) (x : Die) : (s.setDie d x).syncs = s.syncs := rfl
@[simp] theorem State.setDie_resvs (s : State) (d : Nat) (x : Die) : (s.setDie d x).resvs = s.resvs := rfl
@[simp] theorem State.setDie_net (s : State) (d : Nat) (x : Die) : (s.setDie d x).net = s.net := rfl
@[simp] theorem State.setDie_invals (s : State) (d : Nat) (x : Die) : (s.setDie d x).invals = s.invals := rfl
@[simp] theorem State.setDie_pcap (s : State) (d : Nat) (x : Die) : (s.setDie d x).pcap = s.pcap := rfl
@[simp] theorem State.setGroup_turn (s : State) (g : Nat) (x : Group) : (s.setGroup g x).turn = s.turn := rfl
@[simp] theorem State.setGroup_inputs (s : State) (g : Nat) (x : Group) : (s.setGroup g x).inputs = s.inputs := rfl
@[simp] theorem State.setGroup_free (s : State) (g : Nat) (x : Group) : (s.setGroup g x).free = s.free := rfl
@[simp] theorem State.setGroup_mem (s : State) (g : Nat) (x : Group) : (s.setGroup g x).mem = s.mem := rfl
@[simp] theorem State.setGroup_back (s : State) (g : Nat) (x : Group) : (s.setGroup g x).back = s.back := rfl
@[simp] theorem State.setGroup_hostWs (s : State) (g : Nat) (x : Group) : (s.setGroup g x).hostWs = s.hostWs := rfl
@[simp] theorem State.setGroup_poison (s : State) (g : Nat) (x : Group) : (s.setGroup g x).poison = s.poison := rfl
@[simp] theorem State.setGroup_lrs (s : State) (g : Nat) (x : Group) : (s.setGroup g x).lrs = s.lrs := rfl
@[simp] theorem State.setGroup_held (s : State) (g : Nat) (x : Group) : (s.setGroup g x).held = s.held := rfl
@[simp] theorem State.setGroup_running (s : State) (g : Nat) (x : Group) : (s.setGroup g x).running = s.running := rfl
@[simp] theorem State.setGroup_measure (s : State) (g : Nat) (x : Group) : (s.setGroup g x).measure = s.measure := rfl
@[simp] theorem State.setGroup_romver (s : State) (g : Nat) (x : Group) : (s.setGroup g x).romver = s.romver := rfl
@[simp] theorem State.setGroup_boots (s : State) (g : Nat) (x : Group) : (s.setGroup g x).boots = s.boots := rfl
@[simp] theorem State.setGroup_parts (s : State) (g : Nat) (x : Group) : (s.setGroup g x).parts = s.parts := rfl
@[simp] theorem State.setGroup_linkUp (s : State) (g : Nat) (x : Group) : (s.setGroup g x).linkUp = s.linkUp := rfl
@[simp] theorem State.setGroup_portOwn (s : State) (g : Nat) (x : Group) : (s.setGroup g x).portOwn = s.portOwn := rfl
@[simp] theorem State.setGroup_pwin (s : State) (g : Nat) (x : Group) : (s.setGroup g x).pwin = s.pwin := rfl
@[simp] theorem State.setGroup_msix (s : State) (g : Nat) (x : Group) : (s.setGroup g x).msix = s.msix := rfl
@[simp] theorem State.setGroup_pba (s : State) (g : Nat) (x : Group) : (s.setGroup g x).pba = s.pba := rfl
@[simp] theorem State.setGroup_sent (s : State) (g : Nat) (x : Group) : (s.setGroup g x).sent = s.sent := rfl
@[simp] theorem State.setGroup_asids (s : State) (g : Nat) (x : Group) : (s.setGroup g x).asids = s.asids := rfl
@[simp] theorem State.setGroup_hqs (s : State) (g : Nat) (x : Group) : (s.setGroup g x).hqs = s.hqs := rfl
@[simp] theorem State.setGroup_otags (s : State) (g : Nat) (x : Group) : (s.setGroup g x).otags = s.otags := rfl
@[simp] theorem State.setGroup_serial (s : State) (g : Nat) (x : Group) : (s.setGroup g x).serial = s.serial := rfl
@[simp] theorem State.setGroup_tasks (s : State) (g : Nat) (x : Group) : (s.setGroup g x).tasks = s.tasks := rfl
@[simp] theorem State.setGroup_ntasks (s : State) (g : Nat) (x : Group) : (s.setGroup g x).ntasks = s.ntasks := rfl
@[simp] theorem State.setGroup_waitq (s : State) (g : Nat) (x : Group) : (s.setGroup g x).waitq = s.waitq := rfl
@[simp] theorem State.setGroup_admits (s : State) (g : Nat) (x : Group) : (s.setGroup g x).admits = s.admits := rfl
@[simp] theorem State.setGroup_cur (s : State) (g : Nat) (x : Group) : (s.setGroup g x).cur = s.cur := rfl
@[simp] theorem State.setGroup_core (s : State) (g : Nat) (x : Group) : (s.setGroup g x).core = s.core := rfl
@[simp] theorem State.setGroup_setter (s : State) (g : Nat) (x : Group) : (s.setGroup g x).setter = s.setter := rfl
@[simp] theorem State.setGroup_cores (s : State) (g : Nat) (x : Group) : (s.setGroup g x).cores = s.cores := rfl
@[simp] theorem State.setGroup_clusters (s : State) (g : Nat) (x : Group) : (s.setGroup g x).clusters = s.clusters := rfl
@[simp] theorem State.setGroup_dies (s : State) (g : Nat) (x : Group) : (s.setGroup g x).dies = s.dies := rfl
@[simp] theorem State.setGroup_syncs (s : State) (g : Nat) (x : Group) : (s.setGroup g x).syncs = s.syncs := rfl
@[simp] theorem State.setGroup_resvs (s : State) (g : Nat) (x : Group) : (s.setGroup g x).resvs = s.resvs := rfl
@[simp] theorem State.setGroup_net (s : State) (g : Nat) (x : Group) : (s.setGroup g x).net = s.net := rfl
@[simp] theorem State.setGroup_invals (s : State) (g : Nat) (x : Group) : (s.setGroup g x).invals = s.invals := rfl
@[simp] theorem State.setGroup_pcap (s : State) (g : Nat) (x : Group) : (s.setGroup g x).pcap = s.pcap := rfl
@[simp] theorem State.mark_turn (s : State) (k : Nat) : (s.mark k).turn = s.turn := rfl
@[simp] theorem State.mark_inputs (s : State) (k : Nat) : (s.mark k).inputs = s.inputs := rfl
@[simp] theorem State.mark_free (s : State) (k : Nat) : (s.mark k).free = s.free := rfl
@[simp] theorem State.mark_mem (s : State) (k : Nat) : (s.mark k).mem = s.mem := rfl
@[simp] theorem State.mark_back (s : State) (k : Nat) : (s.mark k).back = s.back := rfl
@[simp] theorem State.mark_hostWs (s : State) (k : Nat) : (s.mark k).hostWs = s.hostWs := rfl
@[simp] theorem State.mark_lrs (s : State) (k : Nat) : (s.mark k).lrs = s.lrs := rfl
@[simp] theorem State.mark_held (s : State) (k : Nat) : (s.mark k).held = s.held := rfl
@[simp] theorem State.mark_running (s : State) (k : Nat) : (s.mark k).running = s.running := rfl
@[simp] theorem State.mark_measure (s : State) (k : Nat) : (s.mark k).measure = s.measure := rfl
@[simp] theorem State.mark_romver (s : State) (k : Nat) : (s.mark k).romver = s.romver := rfl
@[simp] theorem State.mark_boots (s : State) (k : Nat) : (s.mark k).boots = s.boots := rfl
@[simp] theorem State.mark_parts (s : State) (k : Nat) : (s.mark k).parts = s.parts := rfl
@[simp] theorem State.mark_linkUp (s : State) (k : Nat) : (s.mark k).linkUp = s.linkUp := rfl
@[simp] theorem State.mark_portOwn (s : State) (k : Nat) : (s.mark k).portOwn = s.portOwn := rfl
@[simp] theorem State.mark_pwin (s : State) (k : Nat) : (s.mark k).pwin = s.pwin := rfl
@[simp] theorem State.mark_msix (s : State) (k : Nat) : (s.mark k).msix = s.msix := rfl
@[simp] theorem State.mark_pba (s : State) (k : Nat) : (s.mark k).pba = s.pba := rfl
@[simp] theorem State.mark_sent (s : State) (k : Nat) : (s.mark k).sent = s.sent := rfl
@[simp] theorem State.mark_asids (s : State) (k : Nat) : (s.mark k).asids = s.asids := rfl
@[simp] theorem State.mark_hqs (s : State) (k : Nat) : (s.mark k).hqs = s.hqs := rfl
@[simp] theorem State.mark_otags (s : State) (k : Nat) : (s.mark k).otags = s.otags := rfl
@[simp] theorem State.mark_serial (s : State) (k : Nat) : (s.mark k).serial = s.serial := rfl
@[simp] theorem State.mark_groups (s : State) (k : Nat) : (s.mark k).groups = s.groups := rfl
@[simp] theorem State.mark_tasks (s : State) (k : Nat) : (s.mark k).tasks = s.tasks := rfl
@[simp] theorem State.mark_ntasks (s : State) (k : Nat) : (s.mark k).ntasks = s.ntasks := rfl
@[simp] theorem State.mark_waitq (s : State) (k : Nat) : (s.mark k).waitq = s.waitq := rfl
@[simp] theorem State.mark_admits (s : State) (k : Nat) : (s.mark k).admits = s.admits := rfl
@[simp] theorem State.mark_cur (s : State) (k : Nat) : (s.mark k).cur = s.cur := rfl
@[simp] theorem State.mark_core (s : State) (k : Nat) : (s.mark k).core = s.core := rfl
@[simp] theorem State.mark_setter (s : State) (k : Nat) : (s.mark k).setter = s.setter := rfl
@[simp] theorem State.mark_cores (s : State) (k : Nat) : (s.mark k).cores = s.cores := rfl
@[simp] theorem State.mark_clusters (s : State) (k : Nat) : (s.mark k).clusters = s.clusters := rfl
@[simp] theorem State.mark_dies (s : State) (k : Nat) : (s.mark k).dies = s.dies := rfl
@[simp] theorem State.mark_syncs (s : State) (k : Nat) : (s.mark k).syncs = s.syncs := rfl
@[simp] theorem State.mark_resvs (s : State) (k : Nat) : (s.mark k).resvs = s.resvs := rfl
@[simp] theorem State.mark_net (s : State) (k : Nat) : (s.mark k).net = s.net := rfl
@[simp] theorem State.mark_invals (s : State) (k : Nat) : (s.mark k).invals = s.invals := rfl
@[simp] theorem State.mark_pcap (s : State) (k : Nat) : (s.mark k).pcap = s.pcap := rfl
@[simp] theorem State.wr_turn (s : State) (a : Nat) (bs : List Byte) : (s.wr a bs).turn = s.turn := rfl
@[simp] theorem State.wr_inputs (s : State) (a : Nat) (bs : List Byte) : (s.wr a bs).inputs = s.inputs := rfl
@[simp] theorem State.wr_free (s : State) (a : Nat) (bs : List Byte) : (s.wr a bs).free = s.free := rfl
@[simp] theorem State.wr_back (s : State) (a : Nat) (bs : List Byte) : (s.wr a bs).back = s.back := rfl
@[simp] theorem State.wr_hostWs (s : State) (a : Nat) (bs : List Byte) : (s.wr a bs).hostWs = s.hostWs := rfl
@[simp] theorem State.wr_running (s : State) (a : Nat) (bs : List Byte) : (s.wr a bs).running = s.running := rfl
@[simp] theorem State.wr_measure (s : State) (a : Nat) (bs : List Byte) : (s.wr a bs).measure = s.measure := rfl
@[simp] theorem State.wr_romver (s : State) (a : Nat) (bs : List Byte) : (s.wr a bs).romver = s.romver := rfl
@[simp] theorem State.wr_boots (s : State) (a : Nat) (bs : List Byte) : (s.wr a bs).boots = s.boots := rfl
@[simp] theorem State.wr_parts (s : State) (a : Nat) (bs : List Byte) : (s.wr a bs).parts = s.parts := rfl
@[simp] theorem State.wr_linkUp (s : State) (a : Nat) (bs : List Byte) : (s.wr a bs).linkUp = s.linkUp := rfl
@[simp] theorem State.wr_portOwn (s : State) (a : Nat) (bs : List Byte) : (s.wr a bs).portOwn = s.portOwn := rfl
@[simp] theorem State.wr_pwin (s : State) (a : Nat) (bs : List Byte) : (s.wr a bs).pwin = s.pwin := rfl
@[simp] theorem State.wr_msix (s : State) (a : Nat) (bs : List Byte) : (s.wr a bs).msix = s.msix := rfl
@[simp] theorem State.wr_pba (s : State) (a : Nat) (bs : List Byte) : (s.wr a bs).pba = s.pba := rfl
@[simp] theorem State.wr_sent (s : State) (a : Nat) (bs : List Byte) : (s.wr a bs).sent = s.sent := rfl
@[simp] theorem State.wr_asids (s : State) (a : Nat) (bs : List Byte) : (s.wr a bs).asids = s.asids := rfl
@[simp] theorem State.wr_hqs (s : State) (a : Nat) (bs : List Byte) : (s.wr a bs).hqs = s.hqs := rfl
@[simp] theorem State.wr_otags (s : State) (a : Nat) (bs : List Byte) : (s.wr a bs).otags = s.otags := rfl
@[simp] theorem State.wr_serial (s : State) (a : Nat) (bs : List Byte) : (s.wr a bs).serial = s.serial := rfl
@[simp] theorem State.wr_groups (s : State) (a : Nat) (bs : List Byte) : (s.wr a bs).groups = s.groups := rfl
@[simp] theorem State.wr_tasks (s : State) (a : Nat) (bs : List Byte) : (s.wr a bs).tasks = s.tasks := rfl
@[simp] theorem State.wr_ntasks (s : State) (a : Nat) (bs : List Byte) : (s.wr a bs).ntasks = s.ntasks := rfl
@[simp] theorem State.wr_waitq (s : State) (a : Nat) (bs : List Byte) : (s.wr a bs).waitq = s.waitq := rfl
@[simp] theorem State.wr_admits (s : State) (a : Nat) (bs : List Byte) : (s.wr a bs).admits = s.admits := rfl
@[simp] theorem State.wr_cur (s : State) (a : Nat) (bs : List Byte) : (s.wr a bs).cur = s.cur := rfl
@[simp] theorem State.wr_core (s : State) (a : Nat) (bs : List Byte) : (s.wr a bs).core = s.core := rfl
@[simp] theorem State.wr_setter (s : State) (a : Nat) (bs : List Byte) : (s.wr a bs).setter = s.setter := rfl
@[simp] theorem State.wr_cores (s : State) (a : Nat) (bs : List Byte) : (s.wr a bs).cores = s.cores := rfl
@[simp] theorem State.wr_clusters (s : State) (a : Nat) (bs : List Byte) : (s.wr a bs).clusters = s.clusters := rfl
@[simp] theorem State.wr_dies (s : State) (a : Nat) (bs : List Byte) : (s.wr a bs).dies = s.dies := rfl
@[simp] theorem State.wr_syncs (s : State) (a : Nat) (bs : List Byte) : (s.wr a bs).syncs = s.syncs := rfl
@[simp] theorem State.wr_resvs (s : State) (a : Nat) (bs : List Byte) : (s.wr a bs).resvs = s.resvs := rfl
@[simp] theorem State.wr_net (s : State) (a : Nat) (bs : List Byte) : (s.wr a bs).net = s.net := rfl
@[simp] theorem State.wr_invals (s : State) (a : Nat) (bs : List Byte) : (s.wr a bs).invals = s.invals := rfl
@[simp] theorem State.wr_pcap (s : State) (a : Nat) (bs : List Byte) : (s.wr a bs).pcap = s.pcap := rfl
@[simp] theorem State.wr_mem (s : State) (a : Nat) (bs : List Byte) : (s.wr a bs).mem = Memory.write s.mem a bs := rfl
@[simp] theorem Task.setPort_stage (t : Task) (u p : Nat) (x : Val) : (t.setPort u p x).stage = t.stage := rfl
@[simp] theorem Task.setPort_group (t : Task) (u p : Nat) (x : Val) : (t.setPort u p x).group = t.group := rfl
@[simp] theorem Task.setPort_parent (t : Task) (u p : Nat) (x : Val) : (t.setPort u p x).parent = t.parent := rfl
@[simp] theorem Task.setPort_depth (t : Task) (u p : Nat) (x : Val) : (t.setPort u p x).depth = t.depth := rfl
@[simp] theorem Task.setPort_idx (t : Task) (u p : Nat) (x : Val) : (t.setPort u p x).idx = t.idx := rfl
@[simp] theorem Task.setPort_coord (t : Task) (u p : Nat) (x : Val) : (t.setPort u p x).coord = t.coord := rfl
@[simp] theorem Task.setPort_core (t : Task) (u p : Nat) (x : Val) : (t.setPort u p x).core = t.core := rfl
@[simp] theorem Task.setPort_strand (t : Task) (u p : Nat) (x : Val) : (t.setPort u p x).strand = t.strand := rfl
@[simp] theorem Task.setPort_limit (t : Task) (u p : Nat) (x : Val) : (t.setPort u p x).limit = t.limit := rfl
@[simp] theorem Task.setPort_near (t : Task) (u p : Nat) (x : Val) : (t.setPort u p x).near = t.near := rfl
@[simp] theorem Task.setPort_bprio (t : Task) (u p : Nat) (x : Val) : (t.setPort u p x).bprio = t.bprio := rfl
@[simp] theorem Task.setPort_setup (t : Task) (u p : Nat) (x : Val) : (t.setPort u p x).setup = t.setup := rfl
@[simp] theorem Task.setPort_started (t : Task) (u p : Nat) (x : Val) : (t.setPort u p x).started = t.started := rfl
@[simp] theorem Task.setPort_tagged (t : Task) (u p : Nat) (x : Val) : (t.setPort u p x).tagged = t.tagged := rfl
@[simp] theorem Task.setPort_g (t : Task) (u p : Nat) (x : Val) : (t.setPort u p x).g = t.g := rfl
@[simp] theorem Task.setPort_v (t : Task) (u p : Nat) (x : Val) : (t.setPort u p x).v = t.v := rfl
@[simp] theorem Task.setPort_m (t : Task) (u p : Nat) (x : Val) : (t.setPort u p x).m = t.m := rfl
@[simp] theorem Task.setPort_k (t : Task) (u p : Nat) (x : Val) : (t.setPort u p x).k = t.k := rfl
@[simp] theorem Task.setPort_held (t : Task) (u p : Nat) (x : Val) : (t.setPort u p x).held = t.held := rfl
@[simp] theorem Task.setPort_ctl (t : Task) (u p : Nat) (x : Val) : (t.setPort u p x).ctl = t.ctl := rfl
@[simp] theorem Task.setPort_fmtPend (t : Task) (u p : Nat) (x : Val) : (t.setPort u p x).fmtPend = t.fmtPend := rfl
@[simp] theorem Task.setPort_toks (t : Task) (u p : Nat) (x : Val) : (t.setPort u p x).toks = t.toks := rfl
@[simp] theorem Task.setPort_gens (t : Task) (u p : Nat) (x : Val) : (t.setPort u p x).gens = t.gens := rfl
@[simp] theorem Task.setPort_aparam (t : Task) (u p : Nat) (x : Val) : (t.setPort u p x).aparam = t.aparam := rfl
@[simp] theorem Task.setPort_books (t : Task) (u p : Nat) (x : Val) : (t.setPort u p x).books = t.books := rfl
@[simp] theorem Task.setPort_views (t : Task) (u p : Nat) (x : Val) : (t.setPort u p x).views = t.views := rfl
@[simp] theorem Task.setPort_clock (t : Task) (u p : Nat) (x : Val) : (t.setPort u p x).clock = t.clock := rfl
@[simp] theorem Task.setPort_hclock (t : Task) (u p : Nat) (x : Val) : (t.setPort u p x).hclock = t.hclock := rfl
@[simp] theorem Task.setPort_sys (t : Task) (u p : Nat) (x : Val) : (t.setPort u p x).sys = t.sys := rfl
@[simp] theorem Task.setPort_pc (t : Task) (u p : Nat) (x : Val) : (t.setPort u p x).pc = t.pc := rfl
@[simp] theorem Task.setPort_slot (t : Task) (u p : Nat) (x : Val) : (t.setPort u p x).slot = t.slot := rfl
@[simp] theorem Task.setPort_cur (t : Task) (u p : Nat) (x : Val) : (t.setPort u p x).cur = t.cur := rfl
@[simp] theorem Task.setPort_hcur (t : Task) (u p : Nat) (x : Val) : (t.setPort u p x).hcur = t.hcur := rfl
@[simp] theorem Task.setPort_hpc (t : Task) (u p : Nat) (x : Val) : (t.setPort u p x).hpc = t.hpc := rfl
@[simp] theorem Task.setPort_head (t : Task) (u p : Nat) (x : Val) : (t.setPort u p x).head = t.head := rfl
@[simp] theorem Task.setPort_await (t : Task) (u p : Nat) (x : Val) : (t.setPort u p x).await = t.await := rfl
@[simp] theorem Task.setPort_hawait (t : Task) (u p : Nat) (x : Val) : (t.setPort u p x).hawait = t.hawait := rfl
@[simp] theorem Task.setPort_susp (t : Task) (u p : Nat) (x : Val) : (t.setPort u p x).susp = t.susp := rfl
@[simp] theorem Task.setPort_copyTr (t : Task) (u p : Nat) (x : Val) : (t.setPort u p x).copyTr = t.copyTr := rfl
@[simp] theorem Task.setPort_stores (t : Task) (u p : Nat) (x : Val) : (t.setPort u p x).stores = t.stores := rfl
@[simp] theorem Task.setPort_tmap (t : Task) (u p : Nat) (x : Val) : (t.setPort u p x).tmap = t.tmap := rfl
@[simp] theorem Task.setPort_nkids (t : Task) (u p : Nat) (x : Val) : (t.setPort u p x).nkids = t.nkids := rfl
@[simp] theorem Task.setPort_kids (t : Task) (u p : Nat) (x : Val) : (t.setPort u p x).kids = t.kids := rfl
@[simp] theorem Task.setPort_sibset (t : Task) (u p : Nat) (x : Val) : (t.setPort u p x).sibset = t.sibset := rfl
@[simp] theorem Task.setPort_inset (t : Task) (u p : Nat) (x : Val) : (t.setPort u p x).inset = t.inset := rfl
@[simp] theorem Task.setPort_status (t : Task) (u p : Nat) (x : Val) : (t.setPort u p x).status = t.status := rfl
@[simp] theorem Task.setPort_detail (t : Task) (u p : Nat) (x : Val) : (t.setPort u p x).detail = t.detail := rfl
@[simp] theorem Task.setPort_trigged (t : Task) (u p : Nat) (x : Val) : (t.setPort u p x).trigged = t.trigged := rfl
@[simp] theorem Task.setPort_stamp (t : Task) (u p : Nat) (x : Val) : (t.setPort u p x).stamp = t.stamp := rfl
@[simp] theorem Task.setPort_ordered (t : Task) (u p : Nat) (x : Val) : (t.setPort u p x).ordered = t.ordered := rfl
@[simp] theorem Task.setPort_commit (t : Task) (u p : Nat) (x : Val) : (t.setPort u p x).commit = t.commit := rfl
@[simp] theorem Task.setPort_after (t : Task) (u p : Nat) (x : Val) : (t.setPort u p x).after = t.after := rfl
@[simp] theorem Task.setPort_digest (t : Task) (u p : Nat) (x : Val) : (t.setPort u p x).digest = t.digest := rfl
@[simp] theorem Task.setPort_digest1 (t : Task) (u p : Nat) (x : Val) : (t.setPort u p x).digest1 = t.digest1 := rfl
@[simp] theorem Task.setPort_walk (t : Task) (u p : Nat) (x : Val) : (t.setPort u p x).walk = t.walk := rfl
@[simp] theorem Task.setPort_block (t : Task) (u p : Nat) (x : Val) : (t.setPort u p x).block = t.block := rfl
@[simp] theorem Task.setPort_drain (t : Task) (u p : Nat) (x : Val) : (t.setPort u p x).drain = t.drain := rfl
@[simp] theorem Task.setPort_chunks (t : Task) (u p : Nat) (x : Val) : (t.setPort u p x).chunks = t.chunks := rfl
@[simp] theorem Task.setPort_image (t : Task) (u p : Nat) (x : Val) : (t.setPort u p x).image = t.image := rfl
@[simp] theorem Task.setPort_tsave (t : Task) (u p : Nat) (x : Val) : (t.setPort u p x).tsave = t.tsave := rfl
@[simp] theorem Task.setPort_lsave (t : Task) (u p : Nat) (x : Val) : (t.setPort u p x).lsave = t.lsave := rfl
@[simp] theorem Task.setPort_saved (t : Task) (u p : Nat) (x : Val) : (t.setPort u p x).saved = t.saved := rfl
@[simp] theorem Task.setPort_rslot (t : Task) (u p : Nat) (x : Val) : (t.setPort u p x).rslot = t.rslot := rfl
@[simp] theorem Task.setPort_since (t : Task) (u p : Nat) (x : Val) : (t.setPort u p x).since = t.since := rfl
@[simp] theorem Task.setPort_redo (t : Task) (u p : Nat) (x : Val) : (t.setPort u p x).redo = t.redo := rfl
@[simp] theorem Task.setPort_hsave (t : Task) (u p : Nat) (x : Val) : (t.setPort u p x).hsave = t.hsave := rfl
@[simp] theorem Task.setPort_nseq (t : Task) (u p : Nat) (x : Val) : (t.setPort u p x).nseq = t.nseq := rfl
@[simp] theorem Task.setPort_stored (t : Task) (u p : Nat) (x : Val) : (t.setPort u p x).stored = t.stored := rfl
@[simp] theorem Task.setPort_entering (t : Task) (u p : Nat) (x : Val) : (t.setPort u p x).entering = t.entering := rfl
@[simp] theorem Task.setPort_hwalk (t : Task) (u p : Nat) (x : Val) : (t.setPort u p x).hwalk = t.hwalk := rfl
@[simp] theorem Task.setPort_notBefore (t : Task) (u p : Nat) (x : Val) : (t.setPort u p x).notBefore = t.notBefore := rfl
@[simp] theorem Task.result_stage (t : Task) (u : Nat) (h : Bool) (l : Nat) (x : Val) (fl : Flags) : (t.result u h l x fl).stage = t.stage := rfl
@[simp] theorem Task.result_group (t : Task) (u : Nat) (h : Bool) (l : Nat) (x : Val) (fl : Flags) : (t.result u h l x fl).group = t.group := rfl
@[simp] theorem Task.result_parent (t : Task) (u : Nat) (h : Bool) (l : Nat) (x : Val) (fl : Flags) : (t.result u h l x fl).parent = t.parent := rfl
@[simp] theorem Task.result_depth (t : Task) (u : Nat) (h : Bool) (l : Nat) (x : Val) (fl : Flags) : (t.result u h l x fl).depth = t.depth := rfl
@[simp] theorem Task.result_idx (t : Task) (u : Nat) (h : Bool) (l : Nat) (x : Val) (fl : Flags) : (t.result u h l x fl).idx = t.idx := rfl
@[simp] theorem Task.result_coord (t : Task) (u : Nat) (h : Bool) (l : Nat) (x : Val) (fl : Flags) : (t.result u h l x fl).coord = t.coord := rfl
@[simp] theorem Task.result_core (t : Task) (u : Nat) (h : Bool) (l : Nat) (x : Val) (fl : Flags) : (t.result u h l x fl).core = t.core := rfl
@[simp] theorem Task.result_strand (t : Task) (u : Nat) (h : Bool) (l : Nat) (x : Val) (fl : Flags) : (t.result u h l x fl).strand = t.strand := rfl
@[simp] theorem Task.result_limit (t : Task) (u : Nat) (h : Bool) (l : Nat) (x : Val) (fl : Flags) : (t.result u h l x fl).limit = t.limit := rfl
@[simp] theorem Task.result_near (t : Task) (u : Nat) (h : Bool) (l : Nat) (x : Val) (fl : Flags) : (t.result u h l x fl).near = t.near := rfl
@[simp] theorem Task.result_bprio (t : Task) (u : Nat) (h : Bool) (l : Nat) (x : Val) (fl : Flags) : (t.result u h l x fl).bprio = t.bprio := rfl
@[simp] theorem Task.result_setup (t : Task) (u : Nat) (h : Bool) (l : Nat) (x : Val) (fl : Flags) : (t.result u h l x fl).setup = t.setup := rfl
@[simp] theorem Task.result_started (t : Task) (u : Nat) (h : Bool) (l : Nat) (x : Val) (fl : Flags) : (t.result u h l x fl).started = t.started := rfl
@[simp] theorem Task.result_tagged (t : Task) (u : Nat) (h : Bool) (l : Nat) (x : Val) (fl : Flags) : (t.result u h l x fl).tagged = t.tagged := rfl
@[simp] theorem Task.result_g (t : Task) (u : Nat) (h : Bool) (l : Nat) (x : Val) (fl : Flags) : (t.result u h l x fl).g = t.g := rfl
@[simp] theorem Task.result_v (t : Task) (u : Nat) (h : Bool) (l : Nat) (x : Val) (fl : Flags) : (t.result u h l x fl).v = t.v := rfl
@[simp] theorem Task.result_m (t : Task) (u : Nat) (h : Bool) (l : Nat) (x : Val) (fl : Flags) : (t.result u h l x fl).m = t.m := rfl
@[simp] theorem Task.result_k (t : Task) (u : Nat) (h : Bool) (l : Nat) (x : Val) (fl : Flags) : (t.result u h l x fl).k = t.k := rfl
@[simp] theorem Task.result_held (t : Task) (u : Nat) (h : Bool) (l : Nat) (x : Val) (fl : Flags) : (t.result u h l x fl).held = t.held := rfl
@[simp] theorem Task.result_ctl (t : Task) (u : Nat) (h : Bool) (l : Nat) (x : Val) (fl : Flags) : (t.result u h l x fl).ctl = t.ctl := rfl
@[simp] theorem Task.result_fmtPend (t : Task) (u : Nat) (h : Bool) (l : Nat) (x : Val) (fl : Flags) : (t.result u h l x fl).fmtPend = t.fmtPend := rfl
@[simp] theorem Task.result_toks (t : Task) (u : Nat) (h : Bool) (l : Nat) (x : Val) (fl : Flags) : (t.result u h l x fl).toks = t.toks := rfl
@[simp] theorem Task.result_gens (t : Task) (u : Nat) (h : Bool) (l : Nat) (x : Val) (fl : Flags) : (t.result u h l x fl).gens = t.gens := rfl
@[simp] theorem Task.result_aparam (t : Task) (u : Nat) (h : Bool) (l : Nat) (x : Val) (fl : Flags) : (t.result u h l x fl).aparam = t.aparam := rfl
@[simp] theorem Task.result_books (t : Task) (u : Nat) (h : Bool) (l : Nat) (x : Val) (fl : Flags) : (t.result u h l x fl).books = t.books := rfl
@[simp] theorem Task.result_views (t : Task) (u : Nat) (h : Bool) (l : Nat) (x : Val) (fl : Flags) : (t.result u h l x fl).views = t.views := rfl
@[simp] theorem Task.result_clock (t : Task) (u : Nat) (h : Bool) (l : Nat) (x : Val) (fl : Flags) : (t.result u h l x fl).clock = t.clock := rfl
@[simp] theorem Task.result_hclock (t : Task) (u : Nat) (h : Bool) (l : Nat) (x : Val) (fl : Flags) : (t.result u h l x fl).hclock = t.hclock := rfl
@[simp] theorem Task.result_sys (t : Task) (u : Nat) (h : Bool) (l : Nat) (x : Val) (fl : Flags) : (t.result u h l x fl).sys = t.sys := rfl
@[simp] theorem Task.result_pc (t : Task) (u : Nat) (h : Bool) (l : Nat) (x : Val) (fl : Flags) : (t.result u h l x fl).pc = t.pc := rfl
@[simp] theorem Task.result_slot (t : Task) (u : Nat) (h : Bool) (l : Nat) (x : Val) (fl : Flags) : (t.result u h l x fl).slot = t.slot := rfl
@[simp] theorem Task.result_cur (t : Task) (u : Nat) (h : Bool) (l : Nat) (x : Val) (fl : Flags) : (t.result u h l x fl).cur = t.cur := rfl
@[simp] theorem Task.result_hcur (t : Task) (u : Nat) (h : Bool) (l : Nat) (x : Val) (fl : Flags) : (t.result u h l x fl).hcur = t.hcur := rfl
@[simp] theorem Task.result_hpc (t : Task) (u : Nat) (h : Bool) (l : Nat) (x : Val) (fl : Flags) : (t.result u h l x fl).hpc = t.hpc := rfl
@[simp] theorem Task.result_head (t : Task) (u : Nat) (h : Bool) (l : Nat) (x : Val) (fl : Flags) : (t.result u h l x fl).head = t.head := rfl
@[simp] theorem Task.result_await (t : Task) (u : Nat) (h : Bool) (l : Nat) (x : Val) (fl : Flags) : (t.result u h l x fl).await = t.await := rfl
@[simp] theorem Task.result_hawait (t : Task) (u : Nat) (h : Bool) (l : Nat) (x : Val) (fl : Flags) : (t.result u h l x fl).hawait = t.hawait := rfl
@[simp] theorem Task.result_susp (t : Task) (u : Nat) (h : Bool) (l : Nat) (x : Val) (fl : Flags) : (t.result u h l x fl).susp = t.susp := rfl
@[simp] theorem Task.result_copyTr (t : Task) (u : Nat) (h : Bool) (l : Nat) (x : Val) (fl : Flags) : (t.result u h l x fl).copyTr = t.copyTr := rfl
@[simp] theorem Task.result_stores (t : Task) (u : Nat) (h : Bool) (l : Nat) (x : Val) (fl : Flags) : (t.result u h l x fl).stores = t.stores := rfl
@[simp] theorem Task.result_tmap (t : Task) (u : Nat) (h : Bool) (l : Nat) (x : Val) (fl : Flags) : (t.result u h l x fl).tmap = t.tmap := rfl
@[simp] theorem Task.result_nkids (t : Task) (u : Nat) (h : Bool) (l : Nat) (x : Val) (fl : Flags) : (t.result u h l x fl).nkids = t.nkids := rfl
@[simp] theorem Task.result_kids (t : Task) (u : Nat) (h : Bool) (l : Nat) (x : Val) (fl : Flags) : (t.result u h l x fl).kids = t.kids := rfl
@[simp] theorem Task.result_sibset (t : Task) (u : Nat) (h : Bool) (l : Nat) (x : Val) (fl : Flags) : (t.result u h l x fl).sibset = t.sibset := rfl
@[simp] theorem Task.result_inset (t : Task) (u : Nat) (h : Bool) (l : Nat) (x : Val) (fl : Flags) : (t.result u h l x fl).inset = t.inset := rfl
@[simp] theorem Task.result_status (t : Task) (u : Nat) (h : Bool) (l : Nat) (x : Val) (fl : Flags) : (t.result u h l x fl).status = t.status := rfl
@[simp] theorem Task.result_detail (t : Task) (u : Nat) (h : Bool) (l : Nat) (x : Val) (fl : Flags) : (t.result u h l x fl).detail = t.detail := rfl
@[simp] theorem Task.result_trigged (t : Task) (u : Nat) (h : Bool) (l : Nat) (x : Val) (fl : Flags) : (t.result u h l x fl).trigged = t.trigged := rfl
@[simp] theorem Task.result_stamp (t : Task) (u : Nat) (h : Bool) (l : Nat) (x : Val) (fl : Flags) : (t.result u h l x fl).stamp = t.stamp := rfl
@[simp] theorem Task.result_ordered (t : Task) (u : Nat) (h : Bool) (l : Nat) (x : Val) (fl : Flags) : (t.result u h l x fl).ordered = t.ordered := rfl
@[simp] theorem Task.result_commit (t : Task) (u : Nat) (h : Bool) (l : Nat) (x : Val) (fl : Flags) : (t.result u h l x fl).commit = t.commit := rfl
@[simp] theorem Task.result_after (t : Task) (u : Nat) (h : Bool) (l : Nat) (x : Val) (fl : Flags) : (t.result u h l x fl).after = t.after := rfl
@[simp] theorem Task.result_digest (t : Task) (u : Nat) (h : Bool) (l : Nat) (x : Val) (fl : Flags) : (t.result u h l x fl).digest = t.digest := rfl
@[simp] theorem Task.result_digest1 (t : Task) (u : Nat) (h : Bool) (l : Nat) (x : Val) (fl : Flags) : (t.result u h l x fl).digest1 = t.digest1 := rfl
@[simp] theorem Task.result_walk (t : Task) (u : Nat) (h : Bool) (l : Nat) (x : Val) (fl : Flags) : (t.result u h l x fl).walk = t.walk := rfl
@[simp] theorem Task.result_block (t : Task) (u : Nat) (h : Bool) (l : Nat) (x : Val) (fl : Flags) : (t.result u h l x fl).block = t.block := rfl
@[simp] theorem Task.result_drain (t : Task) (u : Nat) (h : Bool) (l : Nat) (x : Val) (fl : Flags) : (t.result u h l x fl).drain = t.drain := rfl
@[simp] theorem Task.result_chunks (t : Task) (u : Nat) (h : Bool) (l : Nat) (x : Val) (fl : Flags) : (t.result u h l x fl).chunks = t.chunks := rfl
@[simp] theorem Task.result_image (t : Task) (u : Nat) (h : Bool) (l : Nat) (x : Val) (fl : Flags) : (t.result u h l x fl).image = t.image := rfl
@[simp] theorem Task.result_tsave (t : Task) (u : Nat) (h : Bool) (l : Nat) (x : Val) (fl : Flags) : (t.result u h l x fl).tsave = t.tsave := rfl
@[simp] theorem Task.result_lsave (t : Task) (u : Nat) (h : Bool) (l : Nat) (x : Val) (fl : Flags) : (t.result u h l x fl).lsave = t.lsave := rfl
@[simp] theorem Task.result_saved (t : Task) (u : Nat) (h : Bool) (l : Nat) (x : Val) (fl : Flags) : (t.result u h l x fl).saved = t.saved := rfl
@[simp] theorem Task.result_rslot (t : Task) (u : Nat) (h : Bool) (l : Nat) (x : Val) (fl : Flags) : (t.result u h l x fl).rslot = t.rslot := rfl
@[simp] theorem Task.result_since (t : Task) (u : Nat) (h : Bool) (l : Nat) (x : Val) (fl : Flags) : (t.result u h l x fl).since = t.since := rfl
@[simp] theorem Task.result_redo (t : Task) (u : Nat) (h : Bool) (l : Nat) (x : Val) (fl : Flags) : (t.result u h l x fl).redo = t.redo := rfl
@[simp] theorem Task.result_hsave (t : Task) (u : Nat) (h : Bool) (l : Nat) (x : Val) (fl : Flags) : (t.result u h l x fl).hsave = t.hsave := rfl
@[simp] theorem Task.result_nseq (t : Task) (u : Nat) (h : Bool) (l : Nat) (x : Val) (fl : Flags) : (t.result u h l x fl).nseq = t.nseq := rfl
@[simp] theorem Task.result_stored (t : Task) (u : Nat) (h : Bool) (l : Nat) (x : Val) (fl : Flags) : (t.result u h l x fl).stored = t.stored := rfl
@[simp] theorem Task.result_entering (t : Task) (u : Nat) (h : Bool) (l : Nat) (x : Val) (fl : Flags) : (t.result u h l x fl).entering = t.entering := rfl
@[simp] theorem Task.result_hwalk (t : Task) (u : Nat) (h : Bool) (l : Nat) (x : Val) (fl : Flags) : (t.result u h l x fl).hwalk = t.hwalk := rfl
@[simp] theorem Task.result_notBefore (t : Task) (u : Nat) (h : Bool) (l : Nat) (x : Val) (fl : Flags) : (t.result u h l x fl).notBefore = t.notBefore := rfl
@[simp] theorem Task.resultK_stage (t : Task) (u l : Nat) (x : Bool) (k : Nat) : (t.resultK u l x k).stage = t.stage := rfl
@[simp] theorem Task.resultK_group (t : Task) (u l : Nat) (x : Bool) (k : Nat) : (t.resultK u l x k).group = t.group := rfl
@[simp] theorem Task.resultK_parent (t : Task) (u l : Nat) (x : Bool) (k : Nat) : (t.resultK u l x k).parent = t.parent := rfl
@[simp] theorem Task.resultK_depth (t : Task) (u l : Nat) (x : Bool) (k : Nat) : (t.resultK u l x k).depth = t.depth := rfl
@[simp] theorem Task.resultK_idx (t : Task) (u l : Nat) (x : Bool) (k : Nat) : (t.resultK u l x k).idx = t.idx := rfl
@[simp] theorem Task.resultK_coord (t : Task) (u l : Nat) (x : Bool) (k : Nat) : (t.resultK u l x k).coord = t.coord := rfl
@[simp] theorem Task.resultK_core (t : Task) (u l : Nat) (x : Bool) (k : Nat) : (t.resultK u l x k).core = t.core := rfl
@[simp] theorem Task.resultK_strand (t : Task) (u l : Nat) (x : Bool) (k : Nat) : (t.resultK u l x k).strand = t.strand := rfl
@[simp] theorem Task.resultK_limit (t : Task) (u l : Nat) (x : Bool) (k : Nat) : (t.resultK u l x k).limit = t.limit := rfl
@[simp] theorem Task.resultK_near (t : Task) (u l : Nat) (x : Bool) (k : Nat) : (t.resultK u l x k).near = t.near := rfl
@[simp] theorem Task.resultK_bprio (t : Task) (u l : Nat) (x : Bool) (k : Nat) : (t.resultK u l x k).bprio = t.bprio := rfl
@[simp] theorem Task.resultK_setup (t : Task) (u l : Nat) (x : Bool) (k : Nat) : (t.resultK u l x k).setup = t.setup := rfl
@[simp] theorem Task.resultK_started (t : Task) (u l : Nat) (x : Bool) (k : Nat) : (t.resultK u l x k).started = t.started := rfl
@[simp] theorem Task.resultK_tagged (t : Task) (u l : Nat) (x : Bool) (k : Nat) : (t.resultK u l x k).tagged = t.tagged := rfl
@[simp] theorem Task.resultK_g (t : Task) (u l : Nat) (x : Bool) (k : Nat) : (t.resultK u l x k).g = t.g := rfl
@[simp] theorem Task.resultK_v (t : Task) (u l : Nat) (x : Bool) (k : Nat) : (t.resultK u l x k).v = t.v := rfl
@[simp] theorem Task.resultK_m (t : Task) (u l : Nat) (x : Bool) (k : Nat) : (t.resultK u l x k).m = t.m := rfl
@[simp] theorem Task.resultK_k (t : Task) (u l : Nat) (x : Bool) (k : Nat) : (t.resultK u l x k).k = t.k := rfl
@[simp] theorem Task.resultK_held (t : Task) (u l : Nat) (x : Bool) (k : Nat) : (t.resultK u l x k).held = t.held := rfl
@[simp] theorem Task.resultK_ctl (t : Task) (u l : Nat) (x : Bool) (k : Nat) : (t.resultK u l x k).ctl = t.ctl := rfl
@[simp] theorem Task.resultK_fmtPend (t : Task) (u l : Nat) (x : Bool) (k : Nat) : (t.resultK u l x k).fmtPend = t.fmtPend := rfl
@[simp] theorem Task.resultK_toks (t : Task) (u l : Nat) (x : Bool) (k : Nat) : (t.resultK u l x k).toks = t.toks := rfl
@[simp] theorem Task.resultK_gens (t : Task) (u l : Nat) (x : Bool) (k : Nat) : (t.resultK u l x k).gens = t.gens := rfl
@[simp] theorem Task.resultK_aparam (t : Task) (u l : Nat) (x : Bool) (k : Nat) : (t.resultK u l x k).aparam = t.aparam := rfl
@[simp] theorem Task.resultK_books (t : Task) (u l : Nat) (x : Bool) (k : Nat) : (t.resultK u l x k).books = t.books := rfl
@[simp] theorem Task.resultK_views (t : Task) (u l : Nat) (x : Bool) (k : Nat) : (t.resultK u l x k).views = t.views := rfl
@[simp] theorem Task.resultK_clock (t : Task) (u l : Nat) (x : Bool) (k : Nat) : (t.resultK u l x k).clock = t.clock := rfl
@[simp] theorem Task.resultK_hclock (t : Task) (u l : Nat) (x : Bool) (k : Nat) : (t.resultK u l x k).hclock = t.hclock := rfl
@[simp] theorem Task.resultK_sys (t : Task) (u l : Nat) (x : Bool) (k : Nat) : (t.resultK u l x k).sys = t.sys := rfl
@[simp] theorem Task.resultK_pc (t : Task) (u l : Nat) (x : Bool) (k : Nat) : (t.resultK u l x k).pc = t.pc := rfl
@[simp] theorem Task.resultK_slot (t : Task) (u l : Nat) (x : Bool) (k : Nat) : (t.resultK u l x k).slot = t.slot := rfl
@[simp] theorem Task.resultK_cur (t : Task) (u l : Nat) (x : Bool) (k : Nat) : (t.resultK u l x k).cur = t.cur := rfl
@[simp] theorem Task.resultK_hcur (t : Task) (u l : Nat) (x : Bool) (k : Nat) : (t.resultK u l x k).hcur = t.hcur := rfl
@[simp] theorem Task.resultK_hpc (t : Task) (u l : Nat) (x : Bool) (k : Nat) : (t.resultK u l x k).hpc = t.hpc := rfl
@[simp] theorem Task.resultK_head (t : Task) (u l : Nat) (x : Bool) (k : Nat) : (t.resultK u l x k).head = t.head := rfl
@[simp] theorem Task.resultK_await (t : Task) (u l : Nat) (x : Bool) (k : Nat) : (t.resultK u l x k).await = t.await := rfl
@[simp] theorem Task.resultK_hawait (t : Task) (u l : Nat) (x : Bool) (k : Nat) : (t.resultK u l x k).hawait = t.hawait := rfl
@[simp] theorem Task.resultK_susp (t : Task) (u l : Nat) (x : Bool) (k : Nat) : (t.resultK u l x k).susp = t.susp := rfl
@[simp] theorem Task.resultK_copyTr (t : Task) (u l : Nat) (x : Bool) (k : Nat) : (t.resultK u l x k).copyTr = t.copyTr := rfl
@[simp] theorem Task.resultK_stores (t : Task) (u l : Nat) (x : Bool) (k : Nat) : (t.resultK u l x k).stores = t.stores := rfl
@[simp] theorem Task.resultK_tmap (t : Task) (u l : Nat) (x : Bool) (k : Nat) : (t.resultK u l x k).tmap = t.tmap := rfl
@[simp] theorem Task.resultK_nkids (t : Task) (u l : Nat) (x : Bool) (k : Nat) : (t.resultK u l x k).nkids = t.nkids := rfl
@[simp] theorem Task.resultK_kids (t : Task) (u l : Nat) (x : Bool) (k : Nat) : (t.resultK u l x k).kids = t.kids := rfl
@[simp] theorem Task.resultK_sibset (t : Task) (u l : Nat) (x : Bool) (k : Nat) : (t.resultK u l x k).sibset = t.sibset := rfl
@[simp] theorem Task.resultK_inset (t : Task) (u l : Nat) (x : Bool) (k : Nat) : (t.resultK u l x k).inset = t.inset := rfl
@[simp] theorem Task.resultK_status (t : Task) (u l : Nat) (x : Bool) (k : Nat) : (t.resultK u l x k).status = t.status := rfl
@[simp] theorem Task.resultK_detail (t : Task) (u l : Nat) (x : Bool) (k : Nat) : (t.resultK u l x k).detail = t.detail := rfl
@[simp] theorem Task.resultK_trigged (t : Task) (u l : Nat) (x : Bool) (k : Nat) : (t.resultK u l x k).trigged = t.trigged := rfl
@[simp] theorem Task.resultK_stamp (t : Task) (u l : Nat) (x : Bool) (k : Nat) : (t.resultK u l x k).stamp = t.stamp := rfl
@[simp] theorem Task.resultK_ordered (t : Task) (u l : Nat) (x : Bool) (k : Nat) : (t.resultK u l x k).ordered = t.ordered := rfl
@[simp] theorem Task.resultK_commit (t : Task) (u l : Nat) (x : Bool) (k : Nat) : (t.resultK u l x k).commit = t.commit := rfl
@[simp] theorem Task.resultK_after (t : Task) (u l : Nat) (x : Bool) (k : Nat) : (t.resultK u l x k).after = t.after := rfl
@[simp] theorem Task.resultK_digest (t : Task) (u l : Nat) (x : Bool) (k : Nat) : (t.resultK u l x k).digest = t.digest := rfl
@[simp] theorem Task.resultK_digest1 (t : Task) (u l : Nat) (x : Bool) (k : Nat) : (t.resultK u l x k).digest1 = t.digest1 := rfl
@[simp] theorem Task.resultK_walk (t : Task) (u l : Nat) (x : Bool) (k : Nat) : (t.resultK u l x k).walk = t.walk := rfl
@[simp] theorem Task.resultK_block (t : Task) (u l : Nat) (x : Bool) (k : Nat) : (t.resultK u l x k).block = t.block := rfl
@[simp] theorem Task.resultK_drain (t : Task) (u l : Nat) (x : Bool) (k : Nat) : (t.resultK u l x k).drain = t.drain := rfl
@[simp] theorem Task.resultK_chunks (t : Task) (u l : Nat) (x : Bool) (k : Nat) : (t.resultK u l x k).chunks = t.chunks := rfl
@[simp] theorem Task.resultK_image (t : Task) (u l : Nat) (x : Bool) (k : Nat) : (t.resultK u l x k).image = t.image := rfl
@[simp] theorem Task.resultK_tsave (t : Task) (u l : Nat) (x : Bool) (k : Nat) : (t.resultK u l x k).tsave = t.tsave := rfl
@[simp] theorem Task.resultK_lsave (t : Task) (u l : Nat) (x : Bool) (k : Nat) : (t.resultK u l x k).lsave = t.lsave := rfl
@[simp] theorem Task.resultK_saved (t : Task) (u l : Nat) (x : Bool) (k : Nat) : (t.resultK u l x k).saved = t.saved := rfl
@[simp] theorem Task.resultK_rslot (t : Task) (u l : Nat) (x : Bool) (k : Nat) : (t.resultK u l x k).rslot = t.rslot := rfl
@[simp] theorem Task.resultK_since (t : Task) (u l : Nat) (x : Bool) (k : Nat) : (t.resultK u l x k).since = t.since := rfl
@[simp] theorem Task.resultK_redo (t : Task) (u l : Nat) (x : Bool) (k : Nat) : (t.resultK u l x k).redo = t.redo := rfl
@[simp] theorem Task.resultK_hsave (t : Task) (u l : Nat) (x : Bool) (k : Nat) : (t.resultK u l x k).hsave = t.hsave := rfl
@[simp] theorem Task.resultK_nseq (t : Task) (u l : Nat) (x : Bool) (k : Nat) : (t.resultK u l x k).nseq = t.nseq := rfl
@[simp] theorem Task.resultK_stored (t : Task) (u l : Nat) (x : Bool) (k : Nat) : (t.resultK u l x k).stored = t.stored := rfl
@[simp] theorem Task.resultK_entering (t : Task) (u l : Nat) (x : Bool) (k : Nat) : (t.resultK u l x k).entering = t.entering := rfl
@[simp] theorem Task.resultK_hwalk (t : Task) (u l : Nat) (x : Bool) (k : Nat) : (t.resultK u l x k).hwalk = t.hwalk := rfl
@[simp] theorem Task.resultK_notBefore (t : Task) (u l : Nat) (x : Bool) (k : Nat) : (t.resultK u l x k).notBefore = t.notBefore := rfl
@[simp] theorem Task.setTok_stage (t : Task) (n : Nat) (x : Tok) : (t.setTok n x).stage = t.stage := rfl
@[simp] theorem Task.setTok_group (t : Task) (n : Nat) (x : Tok) : (t.setTok n x).group = t.group := rfl
@[simp] theorem Task.setTok_parent (t : Task) (n : Nat) (x : Tok) : (t.setTok n x).parent = t.parent := rfl
@[simp] theorem Task.setTok_depth (t : Task) (n : Nat) (x : Tok) : (t.setTok n x).depth = t.depth := rfl
@[simp] theorem Task.setTok_idx (t : Task) (n : Nat) (x : Tok) : (t.setTok n x).idx = t.idx := rfl
@[simp] theorem Task.setTok_coord (t : Task) (n : Nat) (x : Tok) : (t.setTok n x).coord = t.coord := rfl
@[simp] theorem Task.setTok_core (t : Task) (n : Nat) (x : Tok) : (t.setTok n x).core = t.core := rfl
@[simp] theorem Task.setTok_strand (t : Task) (n : Nat) (x : Tok) : (t.setTok n x).strand = t.strand := rfl
@[simp] theorem Task.setTok_limit (t : Task) (n : Nat) (x : Tok) : (t.setTok n x).limit = t.limit := rfl
@[simp] theorem Task.setTok_near (t : Task) (n : Nat) (x : Tok) : (t.setTok n x).near = t.near := rfl
@[simp] theorem Task.setTok_bprio (t : Task) (n : Nat) (x : Tok) : (t.setTok n x).bprio = t.bprio := rfl
@[simp] theorem Task.setTok_setup (t : Task) (n : Nat) (x : Tok) : (t.setTok n x).setup = t.setup := rfl
@[simp] theorem Task.setTok_started (t : Task) (n : Nat) (x : Tok) : (t.setTok n x).started = t.started := rfl
@[simp] theorem Task.setTok_tagged (t : Task) (n : Nat) (x : Tok) : (t.setTok n x).tagged = t.tagged := rfl
@[simp] theorem Task.setTok_g (t : Task) (n : Nat) (x : Tok) : (t.setTok n x).g = t.g := rfl
@[simp] theorem Task.setTok_v (t : Task) (n : Nat) (x : Tok) : (t.setTok n x).v = t.v := rfl
@[simp] theorem Task.setTok_m (t : Task) (n : Nat) (x : Tok) : (t.setTok n x).m = t.m := rfl
@[simp] theorem Task.setTok_k (t : Task) (n : Nat) (x : Tok) : (t.setTok n x).k = t.k := rfl
@[simp] theorem Task.setTok_bank (t : Task) (n : Nat) (x : Tok) : (t.setTok n x).bank = t.bank := rfl
@[simp] theorem Task.setTok_held (t : Task) (n : Nat) (x : Tok) : (t.setTok n x).held = t.held := rfl
@[simp] theorem Task.setTok_ctl (t : Task) (n : Nat) (x : Tok) : (t.setTok n x).ctl = t.ctl := rfl
@[simp] theorem Task.setTok_fmtPend (t : Task) (n : Nat) (x : Tok) : (t.setTok n x).fmtPend = t.fmtPend := rfl
@[simp] theorem Task.setTok_gens (t : Task) (n : Nat) (x : Tok) : (t.setTok n x).gens = t.gens := rfl
@[simp] theorem Task.setTok_aparam (t : Task) (n : Nat) (x : Tok) : (t.setTok n x).aparam = t.aparam := rfl
@[simp] theorem Task.setTok_books (t : Task) (n : Nat) (x : Tok) : (t.setTok n x).books = t.books := rfl
@[simp] theorem Task.setTok_views (t : Task) (n : Nat) (x : Tok) : (t.setTok n x).views = t.views := rfl
@[simp] theorem Task.setTok_clock (t : Task) (n : Nat) (x : Tok) : (t.setTok n x).clock = t.clock := rfl
@[simp] theorem Task.setTok_hclock (t : Task) (n : Nat) (x : Tok) : (t.setTok n x).hclock = t.hclock := rfl
@[simp] theorem Task.setTok_sys (t : Task) (n : Nat) (x : Tok) : (t.setTok n x).sys = t.sys := rfl
@[simp] theorem Task.setTok_pc (t : Task) (n : Nat) (x : Tok) : (t.setTok n x).pc = t.pc := rfl
@[simp] theorem Task.setTok_slot (t : Task) (n : Nat) (x : Tok) : (t.setTok n x).slot = t.slot := rfl
@[simp] theorem Task.setTok_cur (t : Task) (n : Nat) (x : Tok) : (t.setTok n x).cur = t.cur := rfl
@[simp] theorem Task.setTok_hcur (t : Task) (n : Nat) (x : Tok) : (t.setTok n x).hcur = t.hcur := rfl
@[simp] theorem Task.setTok_hpc (t : Task) (n : Nat) (x : Tok) : (t.setTok n x).hpc = t.hpc := rfl
@[simp] theorem Task.setTok_head (t : Task) (n : Nat) (x : Tok) : (t.setTok n x).head = t.head := rfl
@[simp] theorem Task.setTok_await (t : Task) (n : Nat) (x : Tok) : (t.setTok n x).await = t.await := rfl
@[simp] theorem Task.setTok_hawait (t : Task) (n : Nat) (x : Tok) : (t.setTok n x).hawait = t.hawait := rfl
@[simp] theorem Task.setTok_susp (t : Task) (n : Nat) (x : Tok) : (t.setTok n x).susp = t.susp := rfl
@[simp] theorem Task.setTok_copyTr (t : Task) (n : Nat) (x : Tok) : (t.setTok n x).copyTr = t.copyTr := rfl
@[simp] theorem Task.setTok_stores (t : Task) (n : Nat) (x : Tok) : (t.setTok n x).stores = t.stores := rfl
@[simp] theorem Task.setTok_tmap (t : Task) (n : Nat) (x : Tok) : (t.setTok n x).tmap = t.tmap := rfl
@[simp] theorem Task.setTok_nkids (t : Task) (n : Nat) (x : Tok) : (t.setTok n x).nkids = t.nkids := rfl
@[simp] theorem Task.setTok_kids (t : Task) (n : Nat) (x : Tok) : (t.setTok n x).kids = t.kids := rfl
@[simp] theorem Task.setTok_sibset (t : Task) (n : Nat) (x : Tok) : (t.setTok n x).sibset = t.sibset := rfl
@[simp] theorem Task.setTok_inset (t : Task) (n : Nat) (x : Tok) : (t.setTok n x).inset = t.inset := rfl
@[simp] theorem Task.setTok_status (t : Task) (n : Nat) (x : Tok) : (t.setTok n x).status = t.status := rfl
@[simp] theorem Task.setTok_detail (t : Task) (n : Nat) (x : Tok) : (t.setTok n x).detail = t.detail := rfl
@[simp] theorem Task.setTok_trigged (t : Task) (n : Nat) (x : Tok) : (t.setTok n x).trigged = t.trigged := rfl
@[simp] theorem Task.setTok_stamp (t : Task) (n : Nat) (x : Tok) : (t.setTok n x).stamp = t.stamp := rfl
@[simp] theorem Task.setTok_ordered (t : Task) (n : Nat) (x : Tok) : (t.setTok n x).ordered = t.ordered := rfl
@[simp] theorem Task.setTok_commit (t : Task) (n : Nat) (x : Tok) : (t.setTok n x).commit = t.commit := rfl
@[simp] theorem Task.setTok_after (t : Task) (n : Nat) (x : Tok) : (t.setTok n x).after = t.after := rfl
@[simp] theorem Task.setTok_digest (t : Task) (n : Nat) (x : Tok) : (t.setTok n x).digest = t.digest := rfl
@[simp] theorem Task.setTok_digest1 (t : Task) (n : Nat) (x : Tok) : (t.setTok n x).digest1 = t.digest1 := rfl
@[simp] theorem Task.setTok_walk (t : Task) (n : Nat) (x : Tok) : (t.setTok n x).walk = t.walk := rfl
@[simp] theorem Task.setTok_block (t : Task) (n : Nat) (x : Tok) : (t.setTok n x).block = t.block := rfl
@[simp] theorem Task.setTok_drain (t : Task) (n : Nat) (x : Tok) : (t.setTok n x).drain = t.drain := rfl
@[simp] theorem Task.setTok_chunks (t : Task) (n : Nat) (x : Tok) : (t.setTok n x).chunks = t.chunks := rfl
@[simp] theorem Task.setTok_image (t : Task) (n : Nat) (x : Tok) : (t.setTok n x).image = t.image := rfl
@[simp] theorem Task.setTok_tsave (t : Task) (n : Nat) (x : Tok) : (t.setTok n x).tsave = t.tsave := rfl
@[simp] theorem Task.setTok_lsave (t : Task) (n : Nat) (x : Tok) : (t.setTok n x).lsave = t.lsave := rfl
@[simp] theorem Task.setTok_saved (t : Task) (n : Nat) (x : Tok) : (t.setTok n x).saved = t.saved := rfl
@[simp] theorem Task.setTok_rslot (t : Task) (n : Nat) (x : Tok) : (t.setTok n x).rslot = t.rslot := rfl
@[simp] theorem Task.setTok_since (t : Task) (n : Nat) (x : Tok) : (t.setTok n x).since = t.since := rfl
@[simp] theorem Task.setTok_redo (t : Task) (n : Nat) (x : Tok) : (t.setTok n x).redo = t.redo := rfl
@[simp] theorem Task.setTok_hsave (t : Task) (n : Nat) (x : Tok) : (t.setTok n x).hsave = t.hsave := rfl
@[simp] theorem Task.setTok_nseq (t : Task) (n : Nat) (x : Tok) : (t.setTok n x).nseq = t.nseq := rfl
@[simp] theorem Task.setTok_stored (t : Task) (n : Nat) (x : Tok) : (t.setTok n x).stored = t.stored := rfl
@[simp] theorem Task.setTok_entering (t : Task) (n : Nat) (x : Tok) : (t.setTok n x).entering = t.entering := rfl
@[simp] theorem Task.setTok_hwalk (t : Task) (n : Nat) (x : Tok) : (t.setTok n x).hwalk = t.hwalk := rfl
@[simp] theorem Task.setTok_notBefore (t : Task) (n : Nat) (x : Tok) : (t.setTok n x).notBefore = t.notBefore := rfl
@[simp] theorem Task.orFlags_stage (t : Task) (f : Flags) : (t.orFlags f).stage = t.stage := rfl
@[simp] theorem Task.orFlags_group (t : Task) (f : Flags) : (t.orFlags f).group = t.group := rfl
@[simp] theorem Task.orFlags_parent (t : Task) (f : Flags) : (t.orFlags f).parent = t.parent := rfl
@[simp] theorem Task.orFlags_depth (t : Task) (f : Flags) : (t.orFlags f).depth = t.depth := rfl
@[simp] theorem Task.orFlags_idx (t : Task) (f : Flags) : (t.orFlags f).idx = t.idx := rfl
@[simp] theorem Task.orFlags_coord (t : Task) (f : Flags) : (t.orFlags f).coord = t.coord := rfl
@[simp] theorem Task.orFlags_core (t : Task) (f : Flags) : (t.orFlags f).core = t.core := rfl
@[simp] theorem Task.orFlags_strand (t : Task) (f : Flags) : (t.orFlags f).strand = t.strand := rfl
@[simp] theorem Task.orFlags_limit (t : Task) (f : Flags) : (t.orFlags f).limit = t.limit := rfl
@[simp] theorem Task.orFlags_near (t : Task) (f : Flags) : (t.orFlags f).near = t.near := rfl
@[simp] theorem Task.orFlags_bprio (t : Task) (f : Flags) : (t.orFlags f).bprio = t.bprio := rfl
@[simp] theorem Task.orFlags_setup (t : Task) (f : Flags) : (t.orFlags f).setup = t.setup := rfl
@[simp] theorem Task.orFlags_started (t : Task) (f : Flags) : (t.orFlags f).started = t.started := rfl
@[simp] theorem Task.orFlags_tagged (t : Task) (f : Flags) : (t.orFlags f).tagged = t.tagged := rfl
@[simp] theorem Task.orFlags_g (t : Task) (f : Flags) : (t.orFlags f).g = t.g := rfl
@[simp] theorem Task.orFlags_v (t : Task) (f : Flags) : (t.orFlags f).v = t.v := rfl
@[simp] theorem Task.orFlags_m (t : Task) (f : Flags) : (t.orFlags f).m = t.m := rfl
@[simp] theorem Task.orFlags_k (t : Task) (f : Flags) : (t.orFlags f).k = t.k := rfl
@[simp] theorem Task.orFlags_bank (t : Task) (f : Flags) : (t.orFlags f).bank = t.bank := rfl
@[simp] theorem Task.orFlags_held (t : Task) (f : Flags) : (t.orFlags f).held = t.held := rfl
@[simp] theorem Task.orFlags_fmtPend (t : Task) (f : Flags) : (t.orFlags f).fmtPend = t.fmtPend := rfl
@[simp] theorem Task.orFlags_toks (t : Task) (f : Flags) : (t.orFlags f).toks = t.toks := rfl
@[simp] theorem Task.orFlags_gens (t : Task) (f : Flags) : (t.orFlags f).gens = t.gens := rfl
@[simp] theorem Task.orFlags_aparam (t : Task) (f : Flags) : (t.orFlags f).aparam = t.aparam := rfl
@[simp] theorem Task.orFlags_books (t : Task) (f : Flags) : (t.orFlags f).books = t.books := rfl
@[simp] theorem Task.orFlags_views (t : Task) (f : Flags) : (t.orFlags f).views = t.views := rfl
@[simp] theorem Task.orFlags_clock (t : Task) (f : Flags) : (t.orFlags f).clock = t.clock := rfl
@[simp] theorem Task.orFlags_hclock (t : Task) (f : Flags) : (t.orFlags f).hclock = t.hclock := rfl
@[simp] theorem Task.orFlags_sys (t : Task) (f : Flags) : (t.orFlags f).sys = t.sys := rfl
@[simp] theorem Task.orFlags_pc (t : Task) (f : Flags) : (t.orFlags f).pc = t.pc := rfl
@[simp] theorem Task.orFlags_slot (t : Task) (f : Flags) : (t.orFlags f).slot = t.slot := rfl
@[simp] theorem Task.orFlags_cur (t : Task) (f : Flags) : (t.orFlags f).cur = t.cur := rfl
@[simp] theorem Task.orFlags_hcur (t : Task) (f : Flags) : (t.orFlags f).hcur = t.hcur := rfl
@[simp] theorem Task.orFlags_hpc (t : Task) (f : Flags) : (t.orFlags f).hpc = t.hpc := rfl
@[simp] theorem Task.orFlags_head (t : Task) (f : Flags) : (t.orFlags f).head = t.head := rfl
@[simp] theorem Task.orFlags_await (t : Task) (f : Flags) : (t.orFlags f).await = t.await := rfl
@[simp] theorem Task.orFlags_hawait (t : Task) (f : Flags) : (t.orFlags f).hawait = t.hawait := rfl
@[simp] theorem Task.orFlags_susp (t : Task) (f : Flags) : (t.orFlags f).susp = t.susp := rfl
@[simp] theorem Task.orFlags_copyTr (t : Task) (f : Flags) : (t.orFlags f).copyTr = t.copyTr := rfl
@[simp] theorem Task.orFlags_stores (t : Task) (f : Flags) : (t.orFlags f).stores = t.stores := rfl
@[simp] theorem Task.orFlags_tmap (t : Task) (f : Flags) : (t.orFlags f).tmap = t.tmap := rfl
@[simp] theorem Task.orFlags_nkids (t : Task) (f : Flags) : (t.orFlags f).nkids = t.nkids := rfl
@[simp] theorem Task.orFlags_kids (t : Task) (f : Flags) : (t.orFlags f).kids = t.kids := rfl
@[simp] theorem Task.orFlags_sibset (t : Task) (f : Flags) : (t.orFlags f).sibset = t.sibset := rfl
@[simp] theorem Task.orFlags_inset (t : Task) (f : Flags) : (t.orFlags f).inset = t.inset := rfl
@[simp] theorem Task.orFlags_status (t : Task) (f : Flags) : (t.orFlags f).status = t.status := rfl
@[simp] theorem Task.orFlags_detail (t : Task) (f : Flags) : (t.orFlags f).detail = t.detail := rfl
@[simp] theorem Task.orFlags_trigged (t : Task) (f : Flags) : (t.orFlags f).trigged = t.trigged := rfl
@[simp] theorem Task.orFlags_stamp (t : Task) (f : Flags) : (t.orFlags f).stamp = t.stamp := rfl
@[simp] theorem Task.orFlags_ordered (t : Task) (f : Flags) : (t.orFlags f).ordered = t.ordered := rfl
@[simp] theorem Task.orFlags_commit (t : Task) (f : Flags) : (t.orFlags f).commit = t.commit := rfl
@[simp] theorem Task.orFlags_after (t : Task) (f : Flags) : (t.orFlags f).after = t.after := rfl
@[simp] theorem Task.orFlags_digest (t : Task) (f : Flags) : (t.orFlags f).digest = t.digest := rfl
@[simp] theorem Task.orFlags_digest1 (t : Task) (f : Flags) : (t.orFlags f).digest1 = t.digest1 := rfl
@[simp] theorem Task.orFlags_walk (t : Task) (f : Flags) : (t.orFlags f).walk = t.walk := rfl
@[simp] theorem Task.orFlags_block (t : Task) (f : Flags) : (t.orFlags f).block = t.block := rfl
@[simp] theorem Task.orFlags_drain (t : Task) (f : Flags) : (t.orFlags f).drain = t.drain := rfl
@[simp] theorem Task.orFlags_chunks (t : Task) (f : Flags) : (t.orFlags f).chunks = t.chunks := rfl
@[simp] theorem Task.orFlags_image (t : Task) (f : Flags) : (t.orFlags f).image = t.image := rfl
@[simp] theorem Task.orFlags_tsave (t : Task) (f : Flags) : (t.orFlags f).tsave = t.tsave := rfl
@[simp] theorem Task.orFlags_lsave (t : Task) (f : Flags) : (t.orFlags f).lsave = t.lsave := rfl
@[simp] theorem Task.orFlags_saved (t : Task) (f : Flags) : (t.orFlags f).saved = t.saved := rfl
@[simp] theorem Task.orFlags_rslot (t : Task) (f : Flags) : (t.orFlags f).rslot = t.rslot := rfl
@[simp] theorem Task.orFlags_since (t : Task) (f : Flags) : (t.orFlags f).since = t.since := rfl
@[simp] theorem Task.orFlags_redo (t : Task) (f : Flags) : (t.orFlags f).redo = t.redo := rfl
@[simp] theorem Task.orFlags_hsave (t : Task) (f : Flags) : (t.orFlags f).hsave = t.hsave := rfl
@[simp] theorem Task.orFlags_nseq (t : Task) (f : Flags) : (t.orFlags f).nseq = t.nseq := rfl
@[simp] theorem Task.orFlags_stored (t : Task) (f : Flags) : (t.orFlags f).stored = t.stored := rfl
@[simp] theorem Task.orFlags_entering (t : Task) (f : Flags) : (t.orFlags f).entering = t.entering := rfl
@[simp] theorem Task.orFlags_hwalk (t : Task) (f : Flags) : (t.orFlags f).hwalk = t.hwalk := rfl
@[simp] theorem Task.orFlags_notBefore (t : Task) (f : Flags) : (t.orFlags f).notBefore = t.notBefore := rfl

/-! ### What the updates read back -/

@[simp] theorem State.t_setT (s : State) (t : Task) : (s.setT t).t = t := by simp [State.t, State.setT]
@[simp] theorem State.setT_setT (s : State) (t u : Task) : (s.setT t).setT u = s.setT u := by simp [State.setT]
@[simp] theorem State.c_setT (s : State) (t : Task) : (s.setT t).c = s.c := rfl
@[simp] theorem State.coreAt_setT (s : State) (t : Task) (n : Nat) : (s.setT t).coreAt n = s.coreAt n := rfl
@[simp] theorem State.die_setT (s : State) (t : Task) (n : Nat) : (s.setT t).die n = s.die n := rfl
@[simp] theorem State.group_setT (s : State) (t : Task) (n : Nat) : (s.setT t).group n = s.group n := rfl
@[simp] theorem State.c_setC (s : State) (c : Core) : (s.setC c).c = c := by simp [State.c, State.setC]
@[simp] theorem State.t_setC (s : State) (c : Core) : (s.setC c).t = s.t := rfl
@[simp] theorem State.t_setCore (s : State) (n : Nat) (c : Core) : (s.setCore n c).t = s.t := rfl
@[simp] theorem State.coreAt_setCore (s : State) (n : Nat) (c : Core) : (s.setCore n c).coreAt n = c := by
  simp [State.coreAt, State.setCore]
@[simp] theorem State.t_setDie (s : State) (n : Nat) (d : Die) : (s.setDie n d).t = s.t := rfl
@[simp] theorem State.die_setDie (s : State) (n : Nat) (d : Die) : (s.setDie n d).die n = d := by simp [State.die, State.setDie]
@[simp] theorem State.t_setGroup (s : State) (n : Nat) (g : Group) : (s.setGroup n g).t = s.t := rfl
@[simp] theorem State.group_setGroup (s : State) (n : Nat) (g : Group) : (s.setGroup n g).group n = g := by
  simp [State.group, State.setGroup]
@[simp] theorem State.t_wr (s : State) (a : Nat) (bs : List Byte) : (s.wr a bs).t = s.t := rfl
@[simp] theorem State.task_wr (s : State) (a : Nat) (bs : List Byte) (id : Nat) : (s.wr a bs).task id = s.task id := rfl
@[simp] theorem State.task_setTask (s : State) (id : Nat) (t : Task) : (s.setTask id t).task id = t := by
  simp [State.task, State.setTask]
theorem State.task_setTask_ne (s : State) (id j : Nat) (t : Task) (h : j ≠ id) : (s.setTask id t).task j = s.task j := by
  simp [State.task, State.setTask, Tab.get_set_ne _ _ _ _ _ h]
theorem State.task_setT_ne (s : State) (j : Nat) (t : Task) (h : j ≠ s.cur) : (s.setT t).task j = s.task j := by
  simp [State.task, State.setT, Tab.get_set_ne _ _ _ _ _ h]

@[simp] theorem State.wr_held (s : State) (a : Nat) (bs : List Byte) : (s.wr a bs).held = s.held.map (fun h => h.touch a bs.length) := rfl
/-- Where no storage is held, an agent reads the bytes that are there (R321). -/
@[simp] theorem State.see_free (s : State) (a n : Nat) (h : s.held = []) : s.see a n = s.rd a n := by simp [State.see, State.seen, h]

/-- g0 reads zero (R121). -/
@[simp] theorem Task.gr_zero (t : Task) : t.gr 0 = 0 := rfl
/-- g0 ignores writes (R121). -/
@[simp] theorem Task.setG_zero (t : Task) (x : Word) : t.setG 0 x = t := rfl
/-- A written general register reads back (R121). -/
theorem Task.gr_setG (t : Task) (n : Nat) (x : Word) (h : n ≠ 0) : (t.setG n x).gr n = x := by simp [Task.gr, Task.setG, h]
/-- The other general registers stay. -/
theorem Task.gr_setG_ne (t : Task) (n j : Nat) (x : Word) (h : j ≠ n) : (t.setG n x).gr j = t.gr j := by
  unfold Task.gr Task.setG; split
  · rfl
  · split
    · rfl
    · exact Tab.get_set_ne _ _ _ _ _ h
/-- A written shadow port reads back (R117). -/
@[simp] theorem Task.port_setPort (t : Task) (u p : Nat) (x : Val) : (t.setPort u p x).port u p = x := by
  simp [Task.port, Task.setPort]

end Sys2Proof.Machine
end

