-- ==== Sys2Proof/Laws/Operands.lean ====
section
/-! SUPPORT. The frame that every slot form shares, once each: a ready slot performs its operation, a false guard skips it, a second
trigger of a unit traps, and a source that delivers a fault raises it. -/

namespace Sys2Proof.Machine

open Host

/-- The end of a slot, from the operation's own state. -/
theorem State.useUnit_commit (s : State) (u : Nat) : (s.useUnit u).commit = s.slotEnds u := by
  simp [State.useUnit, State.commit, State.slotEnds]

/-- Accesses to bytes of the strand's own core that are in order take place in the state in which they are settled. -/
theorem whenOrdered_settled {s s1 : State} {ps : List (Nat × Nat)} (h : Settled s ps s1) (f : State → Eff) :
    s.whenOrdered ps f = f s1 := by
  obtain ⟨rfl, h⟩ := h
  have e : (ps.all fun p => (s.settle ps).t.inOrder (s.settle ps).t.nseq p.1 p.2) = true := List.all_eq_true.2 h
  simp only [State.whenOrdered, e, if_true]

/-- Without earlier accesses to its bytes an access is in order at once. -/
theorem settled_of_inOrder {s : State} {ps : List (Nat × Nat)} (h : ∀ p ∈ ps, s.t.inOrder s.t.nseq p.1 p.2 = true) : Settled s ps s := by
  have e : (ps.all fun p => s.t.inOrder s.t.nseq p.1 p.2) = true := List.all_eq_true.2 h
  exact ⟨by simp [State.settle, e], h⟩

/-- A source that delivers is read in the state in which it does. -/
theorem ready_delivers {s0 s : State} {m : Mv} {d : Option WClass} {c : WClass} {x : Val} (h : Delivers s0 m d s c x)
    (f : State → Eff) : s0.ready m.src d f = f s := by
  obtain ⟨-, -, h, -⟩ := h
  cases e : m.src <;> simp only [e] at h
  case queue q off => exact whenOrdered_settled h f
  all_goals exact h ▸ rfl

/-- A move that delivers performs its operation on the class and value. -/
theorem slotRun_delivers {s0 s : State} {m : Mv} {d : Option WClass} {c : WClass} {x : Val} (h : Delivers s0 m d s c x)
    (f : WClass → Val → State → Eff) (b : Bool := false) (hb : b = false := by rfl) : slotRun m d f s0 b = (f c x s).out := by
  subst hb
  have hr := ready_delivers h
  obtain ⟨h1, h2, -, h4⟩ := h
  simp only [slotRun, h1, h2, hr, h4, Bool.false_eq_true, Bool.not_true, if_false]

/-- A ready slot performs its operation on the value that its source delivers. -/
theorem slotTrig_ready {s0 s : State} {u : Nat} {m : Mv} {d : WClass} {v : Val} (h : Ready s0 s u m d v) (f : Val → State → Eff)
    (busy : State → Bool := fun s => s.unitUsed u) (hb : busy s0 = false) :
    slotTrig u m d f s0 busy = match f v s with
      | .done s' => .next (s'.slotEnds u)
      | e => e.out := by
  obtain ⟨⟨c, x, h, rfl⟩, -⟩ := h
  have hr := ready_delivers h
  obtain ⟨h1, h2, -, h4⟩ := h
  simp only [slotTrig, slotRun, h1, h2, hb, hr, h4, trigEff, Bool.false_eq_true, Bool.not_true, if_false]
  cases f (convertVal x d) s <;> simp [Eff.out, State.useUnit_commit]

/-- A ready slot of a word performs its operation on the word. -/
theorem trigW_ready {s0 s : State} {u : Nat} {m : Mv} {x : Word} (h : ReadyW s0 s u m x) (f : Word → State → Eff)
    (busy : State → Bool := fun s => s.unitUsed u) (hb : busy s0 = false) :
    trigW u m f s0 busy = match f x s with
      | .done s' => .next (s'.slotEnds u)
      | e => e.out := by
  obtain ⟨v, h, rfl⟩ := h
  exact slotTrig_ready h _ busy hb

/-- A ready form that asks for nothing more than a free unit. -/
theorem trigW_free {s0 s : State} {u : Nat} {m : Mv} {x : Word} (h : ReadyW s0 s u m x) (f : Word → State → Eff) :
    trigW u m f s0 = match f x s with
      | .done s' => .next (s'.slotEnds u)
      | e => e.out := trigW_ready h f _ (by obtain ⟨v, h, -⟩ := h; exact h.2)

/-- A slot whose guard is false commits and does nothing else (R137). -/
theorem slotRun_guard {s : State} {m : Mv} {d : Option WClass} (h : s.srcIllegal m.src d = false)
    (g : s.t.guardHolds m.guard = false) (f : WClass → Val → State → Eff) (b : Bool) : slotRun m d f s b = .next s.commit := by
  simp [slotRun, h, g]

/-- A landing source that fails the checks of R140 raises the illegal-slot trap. -/
theorem slotRun_illegal {s : State} {m : Mv} {d : Option WClass} (h : s.srcIllegal m.src d = true)
    (f : WClass → Val → State → Eff) (b : Bool) : slotRun m d f s b = .next (s.raise 1 2 0) := by
  simp [slotRun, h, Eff.illSlot, Eff.out]

/-- A source outside the queues that delivers a fault raises it at its slot. -/
theorem slotRun_trap {s : State} {m : Mv} {d : Option WClass} {cls code : Nat} {info : Word} (h : s.srcIllegal m.src d = false)
    (g : s.t.guardHolds m.guard = true) (q : ∀ q off, m.src ≠ .queue q off) (e : s.readSrc m.src d = .trap cls code info)
    (f : WClass → Val → State → Eff) (b : Bool) (hb : b = false) :
    slotRun m d f s b = .next (s.raise cls code info) := by
  subst hb
  have hr : ∀ k : State → Eff, s.ready m.src d k = k s := by
    intro k
    cases h : m.src <;> first | rfl | exact absurd h (q _ _)
  simp [slotRun, h, g, hr, e, Eff.out]

/-- A queue source that delivers a fault raises it in the state in which its bytes are read. -/
theorem slotRun_trap_queue {s0 s : State} {m : Mv} {d : Option WClass} {q : BitVec 4} {off : BitVec 13} {cls code : Nat} {info : Word}
    (hq : m.src = .queue q off) (h : s0.srcIllegal m.src d = false) (g : s0.t.guardHolds m.guard = true)
    (hs : Settled s0 (s0.srcRuns q off d) s) (e : s.readSrc m.src d = .trap cls code info) (f : WClass → Val → State → Eff) (b : Bool)
    (hb : b = false) : slotRun m d f s0 b = .next (s.raise cls code info) := by
  subst hb
  have hr : ∀ k : State → Eff, s0.ready m.src d k = k s := fun k => by
    simp only [hq, State.ready]
    exact whenOrdered_settled hs k
  simp only [slotRun, h, g, hr, e, Bool.false_eq_true, Bool.not_true, if_false, Eff.out]

/-- A queue source whose bytes an earlier access still holds back waits at its slot. -/
theorem slotRun_wait_queue {s0 : State} {m : Mv} {d : Option WClass} {q : BitVec 4} {off : BitVec 13}
    (hq : m.src = .queue q off) (h : s0.srcIllegal m.src d = false) (g : s0.t.guardHolds m.guard = true)
    (hs : ∃ p ∈ s0.srcRuns q off d, (s0.settle (s0.srcRuns q off d)).t.inOrder (s0.settle (s0.srcRuns q off d)).t.nseq p.1 p.2 = false)
    (f : WClass → Val → State → Eff) (b : Bool) (hb : b = false) :
    slotRun m d f s0 b = (Eff.block (s0.settle (s0.srcRuns q off d)) .fence).out := by
  subst hb
  have e : ((s0.srcRuns q off d).all fun p =>
      (s0.settle (s0.srcRuns q off d)).t.inOrder (s0.settle (s0.srcRuns q off d)).t.nseq p.1 p.2) = false := by
    rw [Bool.eq_false_iff]
    intro h
    obtain ⟨p, hp, hn⟩ := hs
    simp [List.all_eq_true.1 h p hp] at hn
  have hr : ∀ k : State → Eff, s0.ready m.src d k = .block (s0.settle (s0.srcRuns q off d)) .fence := fun k => by
    simp only [hq, State.ready]
    show s0.whenOrdered (s0.srcRuns q off d) k = _
    simp only [State.whenOrdered, e, Bool.false_eq_true, if_false]
  simp only [slotRun, h, g, hr, Bool.false_eq_true, Bool.not_true, if_false]

/-- A second trigger of a unit in a bundle raises the illegal-slot trap (R120). -/
theorem slotTrig_twice {s : State} {u : Nat} {m : Mv} {d : WClass} (h : s.srcIllegal m.src (some d) = false)
    (g : s.t.guardHolds m.guard = true) (busy : State → Bool := fun s => s.unitUsed u) (w : busy s = true)
    (f : Val → State → Eff) : slotTrig u m d f s busy = .next (s.raise 1 2 0) := by
  simp [slotTrig, slotRun, h, g, w, Eff.illSlot, Eff.out]

/-- What `slotEnds` leaves: everything but the task. -/
@[simp] theorem State.slotEnds_mem (s : State) (u : Nat) : (s.slotEnds u).mem = s.mem := rfl
@[simp] theorem State.slotEnds_cur (s : State) (u : Nat) : (s.slotEnds u).cur = s.cur := rfl
@[simp] theorem State.slotEnds_turn (s : State) (u : Nat) : (s.slotEnds u).turn = s.turn := rfl

end Sys2Proof.Machine
end

