-- ==== Sys2Proof/Laws/Forms.lean ====
section
/-! SUPPORT. Every slot form is one move into one trigger port (R115, R118): its meaning is an operation under the shared frame of a
slot, of the unit and class that its encoding names. -/

namespace Sys2Proof.Machine

open Host

/-- A form's meaning is an operation under the frame of a slot, whose dynamic conditions hold at a second trigger of its unit (R120), but
for a br.prep to the right of a go or a call (R181), and do not hold when nothing of R140 check 6 holds the unit. -/
def SlotOp (late : Bool) (u : Nat) (m : Mv) (d : WClass) (g : State → Out) : Prop :=
  ∃ (f : Val → State → Eff) (busy : State → Bool),
    (∀ s, s.unitUsed u = true → (late = true → s.t.cur.goB = none) → busy s = true) ∧ (∀ s, s.unheld u → busy s = false) ∧
      ∀ s, g s = slotTrig u m d f s busy

/-- A load's conditions hold at a second trigger of gm. -/
theorem loadBusy_used (pair : Bool) (s : State) (h : s.unitUsed 7 = true) : s.loadBusy pair = true := by simp [State.loadBusy, h]

/-- A load's conditions do not hold when nothing holds gm. -/
theorem loadBusy_unheld (pair : Bool) (s : State) (h : s.unheld 7) : s.loadBusy pair = false := by
  have h2 := h.2.2.1 rfl
  simp only [State.loadBusy, Bool.or_eq_false_iff, Bool.and_eq_false_iff, Bool.true_and] at h2 ⊢
  grind

/-- A token trigger's conditions hold at a second trigger of its unit. -/
theorem tokenBusy_used (u p : Nat) (s : State) (h : s.unitUsed u = true) : s.tokenBusy u p = true := by simp [State.tokenBusy, h]

/-- A token trigger's conditions do not hold when nothing holds its unit. -/
theorem tokenBusy_unheld (u p : Nat) (hp : (u, p) ∈ [(12, 14), (13, 5), (14, 5), (15, 11)]) (s : State) (h : s.unheld u) :
    s.tokenBusy u p = false := by
  have h2 := h.2.2.2 _ hp rfl
  simp only at h2
  simp [State.tokenBusy, h.1, h2]

/-- The conditions of a trigger of mx hold at a second one. -/
theorem mxBusy_used (s : State) (h : s.unitUsed 12 = true) :
    (if s.t.replaying then s.unitUsed 12 else s.tokenBusy 12 14) = true := by
  split
  · exact h
  · exact tokenBusy_used 12 14 s h

/-- The conditions of a trigger of mx do not hold when nothing holds it. -/
theorem mxBusy_unheld (s : State) (h : s.unheld 12) :
    (if s.t.replaying then s.unitUsed 12 else s.tokenBusy 12 14) = false := by
  split
  · exact h.1
  · exact tokenBusy_unheld 12 14 (by decide) s h

/-- The conditions of a trigger of sm do not hold when nothing holds it. -/
theorem smBusy_unheld (s : State) (h : s.unheld 3) : (s.unitUsed 3 || decide (s.t.now < s.t.bank.smFree)) = false := by
  have h2 := h.2.1 rfl
  simp only [h.1, Bool.false_or, decide_eq_false_iff_not]
  omega

/-- The conditions of a trigger of sm hold at a second one. -/
theorem smBusy_used (s : State) (h : s.unitUsed 3 = true) : (s.unitUsed 3 || decide (s.t.now < s.t.bank.smFree)) = true := by simp [h]

/-- No unit that nothing holds has been triggered. -/
theorem unheld_used {u : Nat} (s : State) (h : s.unheld u) : s.unitUsed u = false := h.1

/-- A br.prep with no go or call to its left holds at a second trigger of br. -/
theorem prepUsed_used (s : State) (h : s.unitUsed 5 = true) (g : s.t.cur.goB = none) : s.prepUsed = true := by simp [State.prepUsed, h, g]

/-- A br.prep holds at no trigger when nothing holds br. -/
theorem prepUsed_unheld (s : State) (h : s.unheld 5) : s.prepUsed = false := by simp [State.prepUsed, h.1]

/-- Whether a form is a br.prep, which may stand to the right of a go or a call (R181). -/
def isPrep (i : Instr) : Bool := match i with | .brPrep _ _ => true | _ => false

/-- The unit of an sa or sb form. -/
theorem sa_unit (b : Bool) : (if b = true then 2 else 1) = saUnit b := rfl

/-- The unit of a va or vb form. -/
theorem va_unit (b : Bool) : (if b = true then 9 else 8) = vaUnit b := rfl

/-- The trigger ports of sa and sb take words. -/
theorem trigClass_sa (b : Bool) (p sub : Nat) : trigClass (saUnit b) p sub = .S := by cases b <;> rfl

/-- The trigger ports of va and vb take vectors of the form's type. -/
theorem trigClass_va (b : Bool) (p : Nat) (ty : ElemType) : trigClass (vaUnit b) p ty.code = vecClass ty := by
  cases b <;> cases ty <;> rfl

/-- The trigger ports of vx take vectors of the form's type. -/
theorem trigClass_vx (p : Nat) (ty : ElemType) : trigClass 10 p ty.code = vecClass ty := by cases ty <;> rfl

/-- Every trigger form is its unit's operation on a move of its port's class. -/
theorem exec_slotTrig (i : Instr) (u p sub : Nat) (m : Mv) (h : slotForm i = some (u, p, sub, m)) :
    SlotOp (isPrep i) u m (trigClass u p sub) (exec i) := by
  cases i <;> cases h
  all_goals simp only [SlotOp, sa_unit, va_unit, trigClass_sa, trigClass_va, trigClass_vx,
      exec, execSaAdd, execSaSub, execSaRsub, execSaAddw, execSaSubw, execSaShladd, execSaAnd, execSaOr, execSaXor,
      execSaAndn, execSaOrn, execSaShl, execSaShr, execSaSar, execSaRol, execSaRor, execSaSeq, execSaSne, execSaSlt,
      execSaSle, execSaSltn, execSaSlen, execSaMin, execSaMax, execSaMinn, execSaMaxn, execSaSel, execSaClz, execSaCtz,
      execSaPopc, execSaBswap, execSaSext, execSaZext, execSaBfx, execSaBfi, execSaSetk, execSmMul, execSmMulh,
      execSmMulhn, execSmMulw, execSmDiv, execSmDivn, execSmRem, execSmRemn, execAgA2d, execAgSidx, execAgTaddr,
      execAgBchk, execAgDpack, execBrPrep, execBrGo, execBrCall, execBrRet, execBrLoop, execBrYield, execBrEnd,
      execBrTrap, execBrTret, execLsLd, execLsSt, execLsLdv, execLsStv, execLsLdvs, execLsStvs, execLsGath, execLsScat,
      execLsLdvm, execLsStvm, execLsLdq, execLsStq, execLsLdvq, execLsStvq, execCtRdc, execCtRdcHi, execCtWrc,
      execCtWrcHi, execCtWrs, execCtCyc, execCtPerf, execCtDsel, execVaAdd, execVaSub, execVaMul, execVaFma, execVaFms, execVaFnma,
      execVaMin, execVaMax, execVaAbs, execVaNeg, execVaRcp, execVaRsqrt, execVaSqrt, execVaExp2, execVaLog2, execVaCmp,
      execVaCvt, execVaRnd, execVaMulh, execVaAnd, execVaOr, execVaXor, execVaShl, execVaShr, execVaSar, execVaSel,
      execVaClz, execVaPopc, execVaAdds, execVaSubs, execVxPerm, execVxBcast, execVxRot, execVxRed, execVxScan,
      execVxCompact, execVxExpand, execVxMerge, execVxSort64, execVxLidx, execVxTrstep, execRgBits, execRgKey,
      execRgSeed, execRgMode, execMxMma, execMxMmz, execMxMgrp, execMxTld, execMxTst, execMxZero, execMxCvt,
      execMxBjoin, execMxDrain, execAnRun, execAnLoad, execAnParam, execXfComp, execXfDecomp, execXfCb3, execXfCbtab,
      execXfRepack, execXfGq, execXfDeq, execXfStat, execCpStart, execCpChain, execCpRed, execCpRelay, execCpCancel,
      execCpStatus, execCpResume, execGmLd, execGmLdv, execGmLdt, execGmSt, execGmStv, execGmStt, execGmStg, execGmPref,
      execGmFlush, execGmInval, execSyFence, execSyXfence, execSyLdacq, execSyStrel, execSyAmoadd, execSyAmomin,
      execSyAmomax, execSyAmominn, execSyAmomaxn, execSyAmoand, execSyAmoor, execSyAmoxor, execSyAmoswp, execSyAmocas,
      execSyWait, execSyLock, execSyUnlock, execSyArrive, execSyBwait, execSyQwait, execQueuePop, execQueuePublish,
      execQueueConfigure, execSyQspace, execSyTrig, execSyCombine, execSyBind, execTkSpawn, execTkVdecl, execTkVaddr,
      execTkFinish, execTkJoin, execTkStamp, execTkAbort, execDbBegin, execDbEnd, execDbRev, execDbZero, execDbPush,
      execDbPop, execDbSp, execDbMode, tkForm, syForm, syQadv, syAmo, gmLine, cpControl, cpForm, xfForm, mxForm,
      mxTransfer, mxMm, vxPermute, vaForm, vaBits, vaFun, vaExtreme, vaFused, vaArith, ctWrite, ctRead, lsStoreV,
      lsLoadV, lsStore, lsLoad, agOp, smDivOp, smOp, smMulOp, scalarOp]
  all_goals refine ⟨_, _, ?_, ?_, fun _ => rfl⟩
  all_goals first
    | with_reducible exact fun _ h _ => h
    | with_reducible exact fun s h => unheld_used s h
    | with_reducible exact fun s h _ => loadBusy_used _ s h
    | with_reducible exact fun s h => loadBusy_unheld _ s h
    | with_reducible exact fun s h _ => tokenBusy_used _ _ s h
    | with_reducible exact fun s h => tokenBusy_unheld _ _ (by decide) s h
    | with_reducible exact fun s h _ => mxBusy_used s h
    | with_reducible exact fun s h => mxBusy_unheld s h
    | with_reducible exact fun s h _ => smBusy_used s h
    | with_reducible exact fun s h => smBusy_unheld s h
    | with_reducible exact fun s h g => prepUsed_used s h (g rfl)
    | with_reducible exact fun s h => prepUsed_unheld s h

/-- Every slot form is an operation on its move, whose dynamic conditions do not hold when nothing holds its unit. -/
theorem exec_slotRun (i : Instr) (m : Mv) (d : Option WClass) (h : moveOf i = some (m, d)) :
    ∃ (f : WClass → Val → State → Eff) (busy : State → Bool),
      (∀ s, (∀ u, unitOf i = some u → s.unheld u) → busy s = false) ∧ ∀ s, exec i s = slotRun m d f s (busy s) := by
  unfold moveOf at h
  split at h
  · rename_i u p sub m' e
    obtain ⟨rfl, rfl⟩ := by simpa using h
    obtain ⟨f, b, -, hb, hf⟩ := exec_slotTrig i u p sub _ e
    exact ⟨_, b, fun s hs => hb s (hs u (by simp [unitOf, e])), fun s => hf s⟩
  · split at h
    · obtain ⟨rfl, rfl⟩ := by simpa using h
      exact ⟨_, fun _ => false, fun _ _ => rfl, fun _ => rfl⟩
    · simp at h

end Sys2Proof.Machine
end

