-- ==== Sys2Proof/Laws/Global.lean ====
section
/-! SUPPORT. What the shared steps of the global-memory forms do when nothing stops them, once each. -/

namespace Sys2Proof.Machine

open Host

/-- A load whose landing entry is free goes on with it (R128). -/
theorem gmLand_free {s0 s : State} {pair : Bool} {n d : Nat} (h : LandFree s0 s pair n d) (f : Nat → Nat → Eff) : gmLand s pair f = f n d := by
  obtain ⟨-, h1, h2, h3, h4, h5, h6, h7, h8⟩ := h
  have hb : ∀ k, k = n ∨ (pair = true ∧ k = n + 1) → s.t.landBusy k = false := by
    intro k hk
    unfold Task.landBusy
    cases e : (s.t.bank.land.get k default).pend with
    | none => rfl
    | some p => simpa using h8 k hk p e
  simp only [gmLand, h1, h2]
  rw [if_neg (by omega), if_neg, hb n (Or.inl rfl)]
  · cases pair with
    | false => simp
    | true => simp [hb (n+1) (Or.inr ⟨rfl, rfl⟩)]
  · rintro (⟨a, b⟩ | ⟨a, b⟩)
    · have := h6 a; omega
    · have := h7 a; omega

/-- An access that is reached goes on with its physical pieces (R262). -/
theorem gmReach_reached {s s1 : State} {align : Nat} {p : Perm} {ps pas : List (Nat × Nat)} (h : Reached s align p ps pas s1) (f : List (Nat × Nat) → State → Eff) :
    gmReach s align p ps f = f pas s1 := by
  obtain ⟨h1, h2⟩ := h
  have e1 : ps.find? (fun x => x.1 % align != 0) = none := by
    rw [List.find?_eq_none]; intro x hx; simp [(h1 x hx).1]
  have e2 : ps.find? (fun x => !canonical (wd x.1)) = none := by
    rw [List.find?_eq_none]; intro x hx; simp [(h1 x hx).2.1]
  have e3 : ps.find? (fun x => (s.cached s.t.core (s.partOfTask s.t) (s.asidOf s.t) (va57 (wd x.1))).isNone) = none := by
    rw [List.find?_eq_none]; intro x hx
    have := (h1 x hx).2.2
    cases e : s.cached s.t.core (s.partOfTask s.t) (s.asidOf s.t) (va57 (wd x.1)) <;> simp_all
  simp only [gmReach, e1, e2, gmCached, e3, h2]

/-- A task that is not speculative serialises nothing (R334). -/
theorem gmWhen_direct {s : State} (h : s.t.spec = false) (b : Bool) (pas) (f : State → Eff) : gmWhen b pas s f = f s := by
  simp [gmWhen, State.serialised, State.serialisedAs, h]

/-- A task that is not speculative notes no read (R333). -/
theorem noteReads_direct {s : State} (h : s.t.spec = false) (l : List Nat) : l.foldl (fun (acc : State × Bool) k => if acc.2 then acc.1.noteRead k else acc) (s, true) = (s, true) := by
  induction l with
  | nil => rfl
  | cons k r ih => simp [State.noteRead, h] at ih ⊢; exact ih

/-- A load of a task that is not speculative waits in its entry. -/
theorem gmIssueLoad_direct {s : State} (h : s.t.spec = false) (n d form ty : Nat) (tile : Option (Nat × Nat)) (pas : List (Nat × Nat)) (attrs : List Nat) (lanes va : Word) (pair : Bool) :
    gmIssueLoad s n d form ty tile pas attrs lanes va pair =
      .done (s.loadIssued n d form ty tile ((pas.zip attrs).map (fun (p, k) => ⟨p.1, p.2, k, none⟩)) lanes va pair) := by
  simp only [gmIssueLoad, noteReads_direct h]
  rfl

end Sys2Proof.Machine
end

