-- ==== Sys2Proof/Laws/Memory.lean ====
section
/-! SUPPORT. The byte memory: every operation keeps the canonical form, and a read gives the byte last written. -/

namespace Sys2Proof.Machine

open Host

/-- Every listed address is at least a bound. -/
def Memory.above (n : Nat) (m : List Cell) : Bool := m.all (fun c => decide (n ≤ c.1))

/-- The canonical form of a list with a first cell. -/
theorem Memory.wf_cons (a : Nat) (b : Byte) (m : List Cell) :
    Memory.wf ((a, b) :: m) = true ↔ b ≠ 0 ∧ Memory.above (a + 1) m = true ∧ Memory.wf m = true := by
  simp [Memory.wf, Memory.above, and_assoc]

/-- A part of a canonical memory is canonical. -/
theorem Memory.wf_filter (f : Cell → Bool) (m : List Cell) (h : Memory.wf m = true) : Memory.wf (m.filter f) = true := by
  induction m with
  | nil => rfl
  | cons c r ih =>
    obtain ⟨a, b⟩ := c
    rw [Memory.wf_cons] at h
    obtain ⟨hb, ha, hr⟩ := h
    rw [List.filter_cons]
    split
    · rw [Memory.wf_cons]
      refine ⟨hb, ?_, ih hr⟩
      simp only [Memory.above, List.all_eq_true, List.mem_filter] at ha ⊢
      exact fun x hx => ha x hx.1
    · exact ih hr

/-- Two canonical memories, one wholly below the other, join to a canonical memory. -/
theorem Memory.wf_append (n : Nat) (m k : List Cell) (hm : Memory.wf m = true) (hk : Memory.wf k = true)
    (lo : m.all (fun c => decide (c.1 < n)) = true) (hi : Memory.above n k = true) : Memory.wf (m ++ k) = true := by
  induction m with
  | nil => simpa using hk
  | cons c r ih =>
    obtain ⟨a, b⟩ := c
    rw [Memory.wf_cons] at hm
    obtain ⟨hb, ha, hr⟩ := hm
    simp only [List.all_cons, Bool.and_eq_true, decide_eq_true_eq] at lo
    rw [List.cons_append, Memory.wf_cons]
    refine ⟨hb, ?_, ih hr lo.2⟩
    simp only [Memory.above, List.all_append, Bool.and_eq_true, List.all_eq_true, decide_eq_true_eq] at ha hi ⊢
    exact ⟨ha, fun x hx => by have := hi x hx; omega⟩

/-- The cells of a run lie in the run. -/
theorem Memory.cells_range (bs : List Byte) (a : Nat) : ∀ c ∈ Memory.cells a bs, a ≤ c.1 ∧ c.1 < a + bs.length := by
  induction bs generalizing a with
  | nil => simp [Memory.cells]
  | cons b r ih =>
    intro c hc
    simp only [Memory.cells, List.length_cons] at hc ⊢
    split at hc
    · have := ih _ c hc; omega
    · rcases List.mem_cons.1 hc with h | h
      · subst h; simp
      · have := ih _ c h; omega

/-- The cells of a run are canonical. -/
theorem Memory.wf_cells (bs : List Byte) (a : Nat) : Memory.wf (Memory.cells a bs) = true := by
  induction bs generalizing a with
  | nil => rfl
  | cons b r ih =>
    simp only [Memory.cells]
    split
    · exact ih _
    · rename_i h
      rw [Memory.wf_cons]
      refine ⟨h, ?_, ih _⟩
      simp only [Memory.above, List.all_eq_true, decide_eq_true_eq]
      exact fun x hx => (Memory.cells_range r _ x hx).1

/-- A write keeps the canonical form. -/
theorem Memory.wf_write (m : List Cell) (a : Nat) (bs : List Byte) (h : Memory.wf m = true) :
    Memory.wf (Memory.write m a bs) = true := by
  unfold Memory.write
  refine Memory.wf_append (a + bs.length) _ _ (Memory.wf_append a _ _ (Memory.wf_filter _ _ h) (Memory.wf_cells _ _) ?_ ?_)
    (Memory.wf_filter _ _ h) ?_ ?_
  · simp
  · simp only [Memory.above, List.all_eq_true, decide_eq_true_eq]
    exact fun x hx => (Memory.cells_range bs a x hx).1
  · simp only [List.all_append, Bool.and_eq_true, List.all_eq_true, List.mem_filter, decide_eq_true_eq]
    exact ⟨fun x hx => by omega, fun x hx => (Memory.cells_range bs a x hx).2⟩
  · simp [Memory.above]

/-- A byte read below everything listed is blank. -/
theorem Memory.get_above (n : Nat) (m : List Cell) (h : Memory.above n m = true) (a : Nat) (ha : a < n) : Memory.get m a = 0 := by
  induction m with
  | nil => rfl
  | cons c r ih =>
    obtain ⟨j, b⟩ := c
    simp only [Memory.above, List.all_cons, Bool.and_eq_true, decide_eq_true_eq] at h
    rw [Memory.get, if_neg (by omega)]
    exact ih h.2

/-- Reading a part of memory at an address that the part takes. -/
theorem Memory.get_filter (f : Nat → Bool) (m : List Cell) (a : Nat) (h : f a = true) :
    Memory.get (m.filter (fun c => f c.1)) a = Memory.get m a := by
  induction m with
  | nil => rfl
  | cons c r ih =>
    obtain ⟨j, b⟩ := c
    by_cases hj : j = a
    · subst hj; simp [Memory.get, h]
    · by_cases hf : f j = true <;> simp [Memory.get, hj, hf, ih]

/-- An address that no cell lists reads blank. -/
theorem Memory.get_none (m : List Cell) (a : Nat) (h : ∀ c ∈ m, c.1 ≠ a) : Memory.get m a = 0 := by
  induction m with
  | nil => rfl
  | cons c r ih =>
    obtain ⟨j, b⟩ := c
    rw [Memory.get, if_neg (h _ (List.mem_cons_self ..))]
    exact ih (fun x hx => h x (List.mem_cons_of_mem _ hx))

/-- Reading past a list that does not list the address. -/
theorem Memory.get_append (m k : List Cell) (a : Nat) (h : ∀ c ∈ m, c.1 ≠ a) : Memory.get (m ++ k) a = Memory.get k a := by
  induction m with
  | nil => rfl
  | cons c r ih =>
    obtain ⟨j, b⟩ := c
    rw [List.cons_append, Memory.get, if_neg (h _ (List.mem_cons_self ..))]
    exact ih (fun x hx => h x (List.mem_cons_of_mem _ hx))

/-- Reading before a list that does not list the address. -/
theorem Memory.get_append_left (m k : List Cell) (a : Nat) (h : ∀ c ∈ k, c.1 ≠ a) : Memory.get (m ++ k) a = Memory.get m a := by
  induction m with
  | nil => exact Memory.get_none k a h
  | cons c r ih =>
    obtain ⟨j, b⟩ := c
    simp only [List.cons_append, Memory.get]
    split
    · rfl
    · exact ih

/-- A byte outside a write reads as before. -/
theorem Memory.get_write_out (m : List Cell) (a : Nat) (bs : List Byte) (x : Nat) (h : x < a ∨ a + bs.length ≤ x) :
    Memory.get (Memory.write m a bs) x = Memory.get m x := by
  unfold Memory.write
  rcases h with h | h
  · rw [List.append_assoc, Memory.get_append_left]
    · exact Memory.get_filter (fun y => decide (y < a)) m x (by simp [h])
    · simp only [List.mem_append, List.mem_filter, decide_eq_true_eq]
      rintro c (hc | hc)
      · have := Memory.cells_range bs a c hc; omega
      · omega
  · rw [Memory.get_append]
    · exact Memory.get_filter (fun y => decide (a + bs.length ≤ y)) m x (by simp [h])
    · simp only [List.mem_append, List.mem_filter, decide_eq_true_eq]
      rintro c (hc | hc)
      · omega
      · have := Memory.cells_range bs a c hc; omega

/-- The cells of a run read as its bytes. -/
theorem Memory.get_cells (bs : List Byte) (a i : Nat) : Memory.get (Memory.cells a bs) (a + i) = bs.getD i 0 := by
  induction bs generalizing a i with
  | nil => simp [Memory.cells, Memory.get, Memory.blank]
  | cons b r ih =>
    cases i with
    | zero =>
      simp only [Memory.cells, Nat.add_zero, List.getD_cons_zero]
      split
      · rename_i h
        rw [Memory.get_none]
        · simpa [Memory.blank] using h.symm
        · exact fun c hc => by have := Memory.cells_range r _ c hc; omega
      · simp [Memory.get]
    | succ n =>
      have e : a + (n + 1) = a + 1 + n := by omega
      simp only [Memory.cells, List.getD_cons_succ]
      split
      · rw [e]; exact ih _ _
      · rw [Memory.get, if_neg (by omega), e]; exact ih _ _

/-- A byte of a write reads as written. -/
theorem Memory.get_write_in (m : List Cell) (a : Nat) (bs : List Byte) (i : Nat) (h : i < bs.length) :
    Memory.get (Memory.write m a bs) (a + i) = bs.getD i 0 := by
  unfold Memory.write
  rw [Memory.get_append_left, Memory.get_append, Memory.get_cells]
  · simp only [List.mem_filter, decide_eq_true_eq]; omega
  · simp only [List.mem_filter, decide_eq_true_eq]; omega

/-- A read gives the bytes of its addresses. -/
theorem Memory.read_eq (m : List Cell) (a n : Nat) : Memory.read m a n = (List.range n).map (fun i => Memory.get m (a + i)) := by
  unfold Memory.read
  refine List.map_congr_left (fun i hi => ?_)
  rw [List.mem_range] at hi
  exact Memory.get_filter (fun y => decide (a ≤ y ∧ y < a + n)) m (a + i) (by simp [hi])

/-- Every read has its length. -/
@[simp] theorem Memory.read_length (m : List Cell) (a n : Nat) : (Memory.read m a n).length = n := by
  simp [Memory.read]

/-- A state's write keeps its memory canonical. -/
theorem State.wr_wf (s : State) (a : Nat) (bs : List Byte) (h : Memory.wf s.mem = true) : Memory.wf (s.wr a bs).mem = true :=
  Memory.wf_write s.mem a bs h

end Sys2Proof.Machine
end

