-- ==== Sys2Proof/Laws/Queues.lean ====
section
/-! SUPPORT. What a write at a queue's position does, once: the bytes of its wrapped positions and no others, and no counter. -/

namespace Sys2Proof.Machine

open Host

/-- A core window is addressed by its offset. -/
theorem coreWin_add (core x y : Nat) : coreWin core (x + y) = coreWin core x + y := by simp [coreWin, Nat.add_assoc]

/-- Different offsets of a core window are different addresses. -/
theorem coreWin_inj (core x y : Nat) : coreWin core x = coreWin core y ↔ x = y := by simp [coreWin]

/-- What a write leaves of the state outside memory. -/
theorem State.wr_rest (s : State) (a : Nat) (bs : List Byte) :
    (s.wr a bs).tasks = s.tasks ∧ (s.wr a bs).cores = s.cores ∧ (s.wr a bs).cur = s.cur ∧ (s.wr a bs).turn = s.turn := ⟨rfl, rfl, rfl, rfl⟩

/-- What byte by byte writes at a queue's positions leave. -/
theorem State.wr_each (core : Nat) (f : Nat → Nat) (l : List (Byte × Nat)) (s : State) :
    let r := l.foldl (fun s (x : Byte × Nat) => s.wr (coreWin core (f x.2)) [x.1]) s
    r.tasks = s.tasks ∧ r.cores = s.cores ∧ r.cur = s.cur ∧ r.turn = s.turn ∧
      ∀ a, (∀ x ∈ l, a ≠ coreWin core (f x.2)) → Memory.get r.mem a = Memory.get s.mem a := by
  induction l generalizing s with
  | nil => simp
  | cons x r ih =>
    obtain ⟨h1, h2, h3, h4, h5⟩ := ih (s.wr (coreWin core (f x.2)) [x.1])
    refine ⟨h1, h2, h3, h4, fun a ha => ?_⟩
    refine (h5 a (fun y hy => ha y (List.mem_cons_of_mem _ hy))).trans ?_
    have := ha x (List.mem_cons_self ..)
    refine Memory.get_write_out _ _ _ _ ?_
    simp only [List.length_singleton]
    omega

/-- A write at a queue's position changes the bytes of its wrapped positions alone, and no task, core or counter. -/
theorem State.queueWrite_frame (s : State) (core : Nat) (q : Queue) (ctr : BitVec 32) (off : Nat) (bs : List Byte) :
    let r := s.queueWrite core q ctr off bs
    r.tasks = s.tasks ∧ r.cores = s.cores ∧ r.cur = s.cur ∧ r.turn = s.turn ∧
      ∀ a, (∀ i < bs.length, a ≠ coreWin core (q.pos ctr (off + i))) → Memory.get r.mem a = Memory.get s.mem a := by
  obtain ⟨cfg, hd, tl, rest⟩ := q
  cases cfg with
  | none => exact ⟨rfl, rfl, rfl, rfl, fun _ _ => rfl⟩
  | some c =>
    obtain ⟨b, e, n⟩ := c
    simp only [State.queueWrite, Queue.pos]
    split
    · have h := State.wr_each core (fun i => b + (ctr.toNat * 2 ^ e + (off + i)) % 2 ^ (e + n)) bs.zipIdx s
      refine ⟨h.1, h.2.1, h.2.2.1, h.2.2.2.1, fun a ha => h.2.2.2.2 a (fun x hx => ?_)⟩
      obtain ⟨y, i⟩ := x
      have := List.mem_zipIdx hx
      exact ha i (by omega)
    · rename_i hle
      generalize hp : (ctr.toNat * 2 ^ e + off) % 2 ^ (e + n) = p
      have hpos : 0 < 2 ^ (e + n) := Nat.two_pow_pos _
      have hlt : p < 2 ^ (e + n) := hp ▸ Nat.mod_lt _ hpos
      have hm (i : Nat) : (ctr.toNat * 2 ^ e + (off + i)) % 2 ^ (e + n) = (p + i) % 2 ^ (e + n) := by
        rw [← hp, Nat.mod_add_mod, Nat.add_assoc]
      simp only [hm]
      have hout (i : Nat) (hi : p + i < 2 ^ (e + n)) : (p + i) % 2 ^ (e + n) = p + i := Nat.mod_eq_of_lt hi
      have hwrap (i : Nat) (h1 : 2 ^ (e + n) ≤ p + i) (h2 : p + i < 2 * 2 ^ (e + n)) : (p + i) % 2 ^ (e + n) = p + i - 2 ^ (e + n) := by
        rw [Nat.mod_eq_sub_mod h1, Nat.mod_eq_of_lt (by omega)]
      have first (a : Nat) (ha : ∀ i < bs.length, a ≠ coreWin core (b + (p + i) % 2 ^ (e + n))) :
          Memory.get (Memory.write s.mem (coreWin core (b + p)) (bs.take (min bs.length (2 ^ (e + n) - p)))) a = Memory.get s.mem a := by
        refine Memory.get_write_out _ _ _ _ ?_
        simp only [List.length_take]
        by_contra hc
        have h1 : coreWin core (b + p) ≤ a := by omega
        refine ha (a - coreWin core (b + p)) (by omega) ?_
        rw [hout _ (by omega), ← Nat.add_assoc, coreWin_add]
        omega
      split
      · refine ⟨rfl, rfl, rfl, rfl, fun a ha => ?_⟩
        refine (Memory.get_write_out _ _ _ _ ?_).trans (first a ha)
        simp only [List.length_drop]
        by_contra hc
        have h1 : coreWin core b ≤ a := by omega
        refine ha (a - coreWin core b + (2 ^ (e + n) - p)) (by omega) ?_
        rw [hwrap _ (by omega) (by omega), coreWin_add]
        omega
      · exact ⟨rfl, rfl, rfl, rfl, first⟩

/-- The bytes that a write at a queue's position leaves at its wrapped positions, when they go round the buffer at most once. -/
theorem State.queueWrite_get (s : State) (core : Nat) (q : Queue) (ctr : BitVec 32) (off : Nat) (bs : List Byte) (b e n : Nat)
    (h : q.cfg = some (b, e, n)) (hle : bs.length ≤ 2 ^ (e + n)) (i : Nat) (hi : i < bs.length) :
    Memory.get (s.queueWrite core q ctr off bs).mem (coreWin core (q.pos ctr (off + i))) = bs.getD i 0 := by
  simp only [State.queueWrite, Queue.pos, h]
  rw [if_neg (by omega)]
  generalize hp : (ctr.toNat * 2 ^ e + off) % 2 ^ (e + n) = p
  have hpos : 0 < 2 ^ (e + n) := Nat.two_pow_pos _
  have hlt : p < 2 ^ (e + n) := hp ▸ Nat.mod_lt _ hpos
  have hm : (ctr.toNat * 2 ^ e + (off + i)) % 2 ^ (e + n) = (p + i) % 2 ^ (e + n) := by rw [← hp, Nat.mod_add_mod, Nat.add_assoc]
  rw [hm]
  by_cases hw : p + i < 2 ^ (e + n)
  · have ea : coreWin core (b + (p + i) % 2 ^ (e + n)) = coreWin core (b + p) + i := by
      rw [Nat.mod_eq_of_lt hw, ← Nat.add_assoc, coreWin_add]
    rw [ea]
    have first : Memory.get (Memory.write s.mem (coreWin core (b + p)) (bs.take (min bs.length (2 ^ (e + n) - p)))) (coreWin core (b + p) + i) =
        bs.getD i 0 := by
      rw [Memory.get_write_in _ _ _ _ (by simp only [List.length_take]; omega)]
      simp only [List.getD_eq_getElem?_getD, List.getElem?_take]
      rw [if_pos (by omega)]
    split
    · refine (Memory.get_write_out _ _ _ _ ?_).trans first
      simp only [List.length_drop, coreWin_add]
      omega
    · exact first
  · have ea : coreWin core (b + (p + i) % 2 ^ (e + n)) = coreWin core b + (i - min bs.length (2 ^ (e + n) - p)) := by
      rw [Nat.mod_eq_sub_mod (by omega), Nat.mod_eq_of_lt (by omega), coreWin_add]
      omega
    rw [ea, if_pos (by omega)]
    refine (Memory.get_write_in _ _ _ _ (by simp only [List.length_drop]; omega)).trans ?_
    simp only [List.getD_eq_getElem?_getD, List.getElem?_drop]
    congr 2
    omega

end Sys2Proof.Machine
end

