-- ==== Sys2Proof/Laws/Stores.lean ====
section
/-! SUPPORT. What issuing a store does, once: its parts wait behind the strand's earlier accesses, and together write its elements. -/

namespace Sys2Proof.Machine

open Host

/-- A byte after a write. -/
theorem Memory.get_write (m : List Cell) (a : Nat) (bs : List Byte) (x : Nat) :
    Memory.get (Memory.write m a bs) x = if a ≤ x ∧ x < a + bs.length then bs.getD (x - a) 0 else Memory.get m x := by
  split
  · rename_i h
    obtain ⟨i, rfl⟩ := Nat.exists_eq_add_of_le h.1
    rw [Memory.get_write_in _ _ _ _ (by omega), Nat.add_sub_cancel_left]
  · exact Memory.get_write_out _ _ _ _ (by omega)

/-- Memories that read alike read alike after the same writes. -/
theorem writeEach_congr {m m' : List Cell} (h : ∀ a, Memory.get m a = Memory.get m' a) (els : List (Nat × List Byte)) (a : Nat) :
    Memory.get (writeEach m els) a = Memory.get (writeEach m' els) a := by
  induction els generalizing m m' with
  | nil => exact h a
  | cons e r ih => exact ih (fun x => by simp only [Memory.get_write, h])

/-- Writes of two lists in turn. -/
theorem writeEach_append (m : List Cell) (k l : List (Nat × List Byte)) : writeEach m (k ++ l) = writeEach (writeEach m k) l := by
  simp [writeEach]

/-- Two writes of neighbouring runs read as one. -/
theorem write_join (m : List Cell) (pa : Nat) (x y : List Byte) (a : Nat) :
    Memory.get (Memory.write (Memory.write m pa x) (pa + x.length) y) a = Memory.get (Memory.write m pa (x ++ y)) a := by
  simp only [Memory.get_write, List.length_append, List.getD_eq_getElem?_getD, List.getElem?_append]
  by_cases h1 : a < pa + x.length
  · by_cases h2 : pa ≤ a
    · rw [if_neg (by omega), if_pos (by omega), if_pos (by omega), if_pos (by omega)]
    · rw [if_neg (by omega), if_neg (by omega), if_neg (by omega)]
  · by_cases h3 : a < pa + x.length + y.length
    · rw [if_pos (by omega), if_pos (by omega), if_neg (by omega), Nat.sub_sub]
    · rw [if_neg (by omega), if_neg (by omega), if_neg (by omega)]

/-- Runs cut at the sectors' ends read as the whole. -/
theorem sectorParts_get (fuel pa : Nat) (bs : List Byte) (h : bs.length / 128 + 2 ≤ fuel ∨ (bs.length < 128 * fuel ∧ pa % 128 = 0))
    (m : List Cell) (a : Nat) : Memory.get (writeEach m (sectorParts fuel pa bs)) a = Memory.get (Memory.write m pa bs) a := by
  induction fuel generalizing pa bs m with
  | zero => omega
  | succ n ih =>
    unfold sectorParts
    split
    · rename_i e
      have e : bs = [] := by simpa using e
      subst e
      simp [writeEach, Memory.get_write]
    · split
      · rfl
      · have hk : (bs.take (128 - pa % 128)).length = min (128 - pa % 128) bs.length := by simp
        by_cases hc : bs.length ≤ 128 - pa % 128
        · have e1 : bs.take (128 - pa % 128) = bs := List.take_of_length_le hc
          have e2 : bs.drop (128 - pa % 128) = [] := List.drop_of_length_le hc
          have e3 : ∀ p, sectorParts n p [] = [] := fun p => by cases n <;> simp [sectorParts]
          simp only [e1, e2, e3]
          rfl
        · show Memory.get (writeEach (Memory.write m pa (bs.take (128 - pa % 128))) _) a = _
          rw [ih _ _ (by simp only [List.length_drop]; omega)]
          have e := write_join m pa (bs.take (128 - pa % 128)) (bs.drop (128 - pa % 128)) a
          rw [hk, Nat.min_eq_left (by omega), List.take_append_drop] at e
          exact e

/-- Joined parts read as the parts. -/
theorem joinParts_get (l : List (Nat × List Byte × Nat)) (m : List Cell) (a : Nat) :
    Memory.get (writeEach m ((joinParts l).map (fun p => (p.1, p.2.1)))) a = Memory.get (writeEach m (l.map (fun p => (p.1, p.2.1)))) a := by
  induction l generalizing m with
  | nil => rfl
  | cons p r ih =>
    obtain ⟨b, x, k⟩ := p
    simp only [joinParts]
    have h := ih (Memory.write m b x)
    split
    · rename_i c y l r' e
      rw [e] at h
      split
      · rename_i hj
        refine Eq.trans ?_ h
        obtain ⟨rfl, -, -⟩ := hj
        exact writeEach_congr (fun z => (write_join m b x y z).symm) _ a
      · exact h
    · rename_i e
      rw [e] at h
      exact h

/-- Parts that no ordered task notes are issued one behind the other. -/
theorem issueParts (due : Option Nat) (l : List (Nat × List Byte × Nat)) (s : State) (t : Task)
    (h : (t.spec = false ∧ t.uncommitted = false) ∨ ∀ p ∈ l, isGlobal p.1 = false) :
    ∃ new : List Store, l.foldl (fun s p => s.issuePart p.2.2 due p.1 p.2.1) (s.setT t) =
        s.setT { t with stores := t.stores ++ new, nseq := t.nseq + new.length } ∧
      new.map (·.seq) = (List.range new.length).map (t.nseq + ·) ∧
      (∀ x ∈ new, x.due = due ∧ x.rel = .none ∧ x.tries = 0 ∧ x.num = none) ∧
      new.map (fun x => (x.pa, x.bytes)) = l.map (fun p => (p.1, p.2.1)) := by
  induction l generalizing t with
  | nil => exact ⟨[], by simp, rfl, by simp, rfl⟩
  | cons p r ih =>
    obtain ⟨pa, bs, k⟩ := p
    have e : (s.setT t).issuePart k due pa bs =
        s.setT { t with stores := t.stores ++ [⟨pa, bs, k, t.nseq, due, 0, none, .none⟩], nseq := t.nseq + 1 } := by
      rcases h with ⟨h1, h2⟩ | h
      · simp [State.issuePart, State.noteAll, h1, h2]
      · have := h _ (List.mem_cons_self ..)
        simp only at this
        simp [State.issuePart, this]
    obtain ⟨new, h1, h2, h3, h4⟩ := ih { t with stores := t.stores ++ [⟨pa, bs, k, t.nseq, due, 0, none, .none⟩], nseq := t.nseq + 1 }
      (h.imp (fun h => h) (fun h p hp => h p (List.mem_cons_of_mem _ hp)))
    refine ⟨⟨pa, bs, k, t.nseq, due, 0, none, .none⟩ :: new, ?_, ?_, ?_, ?_⟩
    · rw [List.foldl_cons, e, h1]
      simp [Nat.add_assoc, Nat.add_comm 1]
    · simp only [List.map_cons, h2, List.length_cons, List.range_succ_eq_map, List.map_map]
      refine congrArg₂ _ rfl (List.map_congr_left fun i _ => ?_)
      simp only [Function.comp, Nat.succ_eq_add_one]
      omega
    · intro x hx
      rcases List.mem_cons.1 hx with rfl | hx
      · exact ⟨rfl, rfl, rfl, rfl⟩
      · exact h3 x hx
    · simp [h4]

/-- Cut runs read as the runs. -/
theorem cutParts_get (l : List (Nat × List Byte × Nat)) (m : List Cell) (a : Nat) :
    Memory.get (writeEach m ((l.flatMap (fun p => (sectorParts (p.2.1.length / 128 + 2) p.1 p.2.1).map
      (fun x => (x.1, x.2, p.2.2)))).map (fun p => (p.1, p.2.1)))) a = Memory.get (writeEach m (l.map (fun p => (p.1, p.2.1)))) a := by
  induction l generalizing m with
  | nil => rfl
  | cons p r ih =>
    simp only [List.flatMap_cons, List.map_append, List.map_map, writeEach_append, Function.comp_def, List.map_cons]
    have e : (sectorParts (p.2.1.length / 128 + 2) p.1 p.2.1).map (fun x => (x.1, x.2)) = sectorParts (p.2.1.length / 128 + 2) p.1 p.2.1 := by
      simp
    rw [e]
    refine (ih _).trans ?_
    exact writeEach_congr (fun z => sectorParts_get _ _ _ (Or.inl (by omega)) m z) _ a

/-- What issuing a store leaves, when no ordered task notes or buffers its bytes. -/
theorem issueStore_issued (s : State) (parts : List (Nat × List Byte × Nat)) (due : Option Nat)
    (h : (s.t.spec = false ∧ s.t.uncommitted = false) ∨
      ∀ p ∈ parts, ∀ x ∈ sectorParts (p.2.1.length / 128 + 2) p.1 p.2.1, isGlobal x.1 = false) :
    Issued s (s.issueStore parts due) due (parts.map (fun p => (p.1, p.2.1))) := by
  obtain ⟨new, h1, h2, h3, h4⟩ := issueParts due
    (parts.flatMap (fun p => (sectorParts (p.2.1.length / 128 + 2) p.1 p.2.1).map (fun x => (x.1, x.2, p.2.2)))) s { s.t with stored := true }
    (h.imp (fun h => h) (fun h p hp => by
      simp only [List.mem_flatMap, List.mem_map] at hp
      obtain ⟨q, hq, x, hx, rfl⟩ := hp
      exact h q hq x hx))
  refine ⟨new, h1, h2, h3, fun m a => ?_⟩
  rw [h4]
  exact cutParts_get parts m a

/-- Elements issued after their neighbours are joined. -/
theorem issueStore_joined (s : State) (els : List (Nat × List Byte × Nat)) (due : Option Nat)
    (h : (s.t.spec = false ∧ s.t.uncommitted = false) ∨
      ∀ p ∈ joinParts els, ∀ x ∈ sectorParts (p.2.1.length / 128 + 2) p.1 p.2.1, isGlobal x.1 = false) :
    Issued s (s.issueStore (joinParts els) due) due (els.map (fun p => (p.1, p.2.1))) := by
  obtain ⟨new, h1, h2, h3, h4⟩ := issueStore_issued s (joinParts els) due h
  exact ⟨new, h1, h2, h3, fun m a => (h4 m a).trans (joinParts_get els m a)⟩

/-- Where a byte of a core's local store or tiles lies (R83). -/
theorem place_coreWin (core off : Nat) (hc : core < 512) (ho : off < 0xA0000) : place (coreWin core off) = .core core off := by
  have key : ∃ a b c, a < 8 ∧ b < 8 ∧ c < 8 ∧ core = a * 64 + b * 8 + c := ⟨core / 64, core / 8 % 8, core % 8, by omega, by omega, by omega, by omega⟩
  obtain ⟨a, b, c, ha, hb, hcc, rfl⟩ := key
  have e1 : (a * 64 + b * 8 + c) / 64 = a := by omega
  have e2 : (a * 64 + b * 8 + c) / 8 % 8 = b := by omega
  have e3 : (a * 64 + b * 8 + c) % 8 = c := by omega
  have A : coreWin (a * 64 + b * 8 + c) off = 0xE000000000000 + (a * 0x8000000 + b * 0x1000000 + c * 0x100000 + off) := by
    simp only [coreWin, dieOf, e1, e2, e3]; omega
  simp only [place, stackSize]
  rw [A]
  rw [if_neg (by omega), if_neg (by omega), if_neg (by omega), if_neg (by omega), if_neg (by omega), if_pos (by omega)]
  simp only [Nat.add_sub_cancel_left]
  have n1 : nbits (a * 0x8000000 + b * 0x1000000 + c * 0x100000 + off) 29 27 = a := by simp only [nbits]; omega
  have n2 : nbits (a * 0x8000000 + b * 0x1000000 + c * 0x100000 + off) 26 24 = b := by simp only [nbits]; omega
  have n3 : nbits (a * 0x8000000 + b * 0x1000000 + c * 0x100000 + off) 22 20 = c := by simp only [nbits]; omega
  have n4 : nbits (a * 0x8000000 + b * 0x1000000 + c * 0x100000 + off) 19 0 = off := by simp only [nbits]; omega
  have n5 : nbit (a * 0x8000000 + b * 0x1000000 + c * 0x100000 + off) 23 = false := by simp only [nbit]; simp; omega
  rw [n1, n2, n3, n4, n5, if_neg (by decide), if_pos ho]
  congr 1
  omega
/-- The addresses of a run's parts lie in the run. -/
theorem sectorParts_range (fuel pa : Nat) (bs : List Byte) : ∀ x ∈ sectorParts fuel pa bs, pa ≤ x.1 ∧ x.1 < pa + bs.length := by
  induction fuel generalizing pa bs with
  | zero => simp [sectorParts]
  | succ n ih =>
    unfold sectorParts
    split
    · simp
    · rename_i h
      have h : 0 < bs.length := by cases bs <;> simp_all
      split
      · simp; omega
      · intro x hx
        rcases List.mem_cons.1 hx with rfl | hx
        · simp; omega
        · have := ih _ _ x hx
          simp only [List.length_drop] at this
          omega

/-- Joined parts cover the bytes of their elements alone. -/
theorem joinParts_cover (good : Nat → Prop) (els : List (Nat × List Byte × Nat))
    (h : ∀ e ∈ els, ∀ a, e.1 ≤ a → a < e.1 + e.2.1.length → good a) :
    ∀ p ∈ joinParts els, ∀ a, p.1 ≤ a → a < p.1 + p.2.1.length → good a := by
  induction els with
  | nil => simp [joinParts]
  | cons e r ih =>
    obtain ⟨b, x, k⟩ := e
    have h0 := h _ (List.mem_cons_self ..)
    have h1 := ih (fun e he => h e (List.mem_cons_of_mem _ he))
    simp only [joinParts]
    split
    · rename_i c y l r' e
      rw [e] at h1
      split
      · rename_i hj
        obtain ⟨rfl, -, -⟩ := hj
        intro p hp a ha hb
        rcases List.mem_cons.1 hp with rfl | hp
        · simp only [List.length_append] at ha hb
          by_cases hc : a < b + x.length
          · exact h0 a ha hc
          · exact h1 _ (List.mem_cons_self ..) a (by simp only; omega) (by simp only; omega)
        · exact h1 p (List.mem_cons_of_mem _ hp) a ha hb
      · intro p hp
        rcases List.mem_cons.1 hp with rfl | hp
        · exact h0
        · exact h1 p hp
    · intro p hp
      simp only [List.mem_singleton] at hp
      subst hp
      exact h0

/-- What issuing elements of the strand's own local store leaves (R187, R193). -/
theorem lsIssue_issued (s : State) (els : List (Nat × List Byte)) (hc : s.t.core < 512) (h : ∀ e ∈ els, e.1 + e.2.length ≤ 0x80000) :
    Issued s (s.lsIssue els) (some (s.t.now + 4)) (els.map (fun e => (coreWin s.t.core e.1, e.2))) := by
  have e := issueStore_joined s (els.map (fun p => (coreWin s.t.core p.1, p.2, 0))) (some (s.t.now + 4)) (Or.inr ?_)
  · simpa [State.lsIssue, Function.comp_def] using e
  · intro p hp x hx
    have hx := sectorParts_range _ _ _ x hx
    refine joinParts_cover (fun a => isGlobal a = false) _ ?_ p hp x.1 hx.1 hx.2
    intro q hq a h1 h2
    obtain ⟨y, hy, rfl⟩ := List.mem_map.1 hq
    have := h y hy
    obtain ⟨d, rfl⟩ := Nat.exists_eq_add_of_le h1
    simp only at h2
    rw [← coreWin_add, isGlobal, place_coreWin _ _ hc (by omega)]

end Sys2Proof.Machine
end

