-- ==== Sys2Proof/Tests/Slice0.lean ====
section
/-! SUPPORT. The model's own tests: words written from the encoding tables of spec/, the ill-formed steps that the checks refuse,
small steps whose results the spec states, and for every statement with hypotheses a state and operands that meet them. -/

namespace Sys2Proof.Tests

open Host Sys2Proof Sys2Proof.Machine Sys2Proof.Arith

/-! ### Decoding (04 R135-R138, 05, 08 R244, 10 R310): the expected fields are those of the rule's own example, or of its table -/

/-- `16 -> sa.add`: unit 1, port 16, an immediate source. -/
theorem test_word_saAdd : decodeTableWord 48 0x040008005000 = some (.saAdd false ⟨none, .imm 16⟩) := by decide
theorem test_word_port : decodeTableWord 48 0x020400004200 = some (.move ⟨none, .reg 0 4 0⟩ (.port 1 2 false)) := by decide
theorem test_word_latch : decodeTableWord 48 0x000400205000 = some (.move ⟨none, .latch 1 false false⟩ (.reg 0 5 0)) := by decide
theorem test_word_null : decodeTableWord 48 0 = some (.move ⟨none, .null⟩ .null) := by decide
theorem test_word_brLoop : decodeTableWord 48 0x040002015400 = some (.brLoop 0 ⟨none, .imm 4⟩) := by decide
theorem test_word_brGo : decodeTableWord 48 0x8C0000015108 = some (.brGo 1 ⟨some ⟨false, 1⟩, .imm 0⟩) := by decide
theorem test_word_brEnd : decodeTableWord 48 0xE40000015600 = some (.brEnd ⟨some ⟨true, 4⟩, .imm 0⟩) := by decide
theorem test_word_brTret : decodeTableWord 48 0x040000015800 = some (.brTret ⟨none, .imm 0⟩) := by decide
theorem test_word_setk : decodeTableWord 48 0x00080000B3E8 = some (.saSetk true 3 5 ⟨none, .latch 2 false false⟩) := by decide
theorem test_word_vaFma : decodeTableWord 48 0x024400021348 = some (.vaFma false .bf16 ⟨none, .reg 1 4 0⟩) := by decide
theorem test_word_vbFma : decodeTableWord 48 0x024900025340 = some (.vaFma true .f16 ⟨none, .reg 1 9 0⟩) := by decide
theorem test_word_vxRed : decodeTableWord 48 0x024200029350 = some (.vxRed .f32 ⟨none, .reg 1 2 0⟩) := by decide
theorem test_word_mxMmz : decodeTableWord 48 0x040010031148 = some (.mxMmz .bf16 ⟨none, .imm 32⟩) := by decide
theorem test_word_mxMma : decodeTableWord 48 0x040010031048 = some (.mxMma .bf16 ⟨none, .imm 32⟩) := by decide
theorem test_word_mxDrain : decodeTableWord 48 0x040005031800 = some (.mxDrain ⟨none, .imm 10⟩) := by decide
theorem test_word_xfCb3 : decodeTableWord 48 0x040040039280 = some (.xfCb3 ⟨none, .imm 128⟩) := by decide
theorem test_word_cpRelay : decodeTableWord 48 0x04040003D300 = some (.cpRelay ⟨none, .imm 2048⟩) := by decide
theorem test_word_gmSt : decodeTableWord 48 0x02070001D338 = some (.gmSt .n64 ⟨none, .reg 0 7 0⟩) := by decide
theorem test_word_gmStt : decodeTableWord 48 0x02050001D500 = some (.gmStt ⟨none, .reg 0 5 0⟩) := by decide
theorem test_word_syQwait : decodeTableWord 48 0x040010042318 = some (.syQwait 3 ⟨none, .imm 32⟩) := by decide
theorem test_word_syAmoadd : decodeTableWord 48 0x040000041480 = some (.syAmoadd 4 0 ⟨none, .imm 0⟩) := by decide
theorem test_word_queuePop : decodeTableWord 48 0xAC0000842400 = some (.queuePop 0 ⟨some ⟨false, 5⟩, .imm 1⟩) := by decide
theorem test_word_tkSpawn : decodeTableWord 48 0x040002045000 = some (.tkSpawn ⟨none, .imm 4⟩) := by decide
theorem test_word_tkFinish : decodeTableWord 48 0x040000045300 = some (.tkFinish ⟨none, .imm 0⟩) := by decide
theorem test_word_ctWrc : decodeTableWord 48 0x04000F84D218 = some (.ctWrc 3 ⟨none, .imm 0x1F⟩) := by decide
theorem test_word_ctDsel : decodeTableWord 48 0x04000104D608 = some (.ctDsel 1 ⟨none, .imm 2⟩) := by decide
theorem test_word_dbRev : decodeTableWord 48 0x041000049200 = some (.dbRev ⟨none, .imm 8192⟩) := by decide
theorem test_word_key : decodeTableWord 48 0x03EA002C4000 = some (.move ⟨none, .reg 7 42 0⟩ (.reg 3 4 0)) := by decide
theorem test_word_land : decodeTableWord 48 0x071000610000 = some (.move ⟨none, .land 4⟩ (.queue 1 0)) := by decide
/-- The anchor's words of R244. -/
theorem test_word_anchor : decodeTableWord 32 0x18000000 = some (.anchorBias 0) ∧ decodeTableWord 32 0x30000000 = some .anchorRelu ∧
    decodeTableWord 32 0x60020000 = some (.anchorCvt 2 0) ∧ decodeTableWord 32 0x80000000 = some .anchorWrt ∧
    decodeTableWord 32 0xA8000000 = some .anchorEnd := by decide
/-- The stream words of R310. -/
theorem test_word_hx : decodeTableWord 32 0x04B5560B = some (.hxSld 2 12 10 11) ∧
    decodeTableWord 32 0x0473628B = some (.hxBsx 2 5 6 7) ∧ decodeTableWord 32 0x01F05F0B = some (.hxSld 0 30 0 31) := by decide
/-- Base words of the RISC-V manual (assumption 7): addi x1, x0, 5; add x3, x1, x2; ld x5, 8(x6); beq x1, x2, +8; ecall; fence iorw, iorw; c.li x10, 1. -/
theorem test_word_rv : decodeTableWord 32 0x00500093 = some (.helperBaseInstruction false (.opImm .add false 1 0 5)) ∧
    decodeTableWord 32 0x002081B3 = some (.helperBaseInstruction false (.op .add false 3 1 2)) ∧
    decodeTableWord 32 0x00833283 = some (.helperBaseInstruction false (.load 8 false 5 6 8)) ∧
    decodeTableWord 32 0x00208463 = some (.helperBaseInstruction false (.branch .eq 1 2 8)) ∧
    decodeTableWord 32 0x00000073 = some (.helperBaseInstruction false .ecall) ∧
    decodeTableWord 32 0x0FF0000F = some (.helperFence 0x3FC00) ∧
    decodeTableWord 16 0x4505 = some (.helperBaseInstruction true (.opImm .add false 10 0 1)) := by decide
/-- Words that the checks of R140 refuse: an unassigned destination field, a k index without its enable, an unassigned unit. -/
theorem test_word_refused : decodeTableWord 48 0x040008005001 = none ∧ decodeTableWord 48 0x080008005000 = none ∧
    decodeTableWord 48 0x0400080A5000 = none := by decide

/-- A move of an immediate, without a guard. -/
def imm (x : BitVec 18) : Mv := ⟨none, .imm x⟩

/-! The words of every slot form: SK 10 (an immediate, R136), DST unit × 2^11 + port × 2^5 + sub of the tables of R153-R166 and R261. -/

theorem test_words_scalar : ∀ p ∈ ([
    (0x040001009000, .saAdd true (imm 2)), (0x040001805100, .saSub false (imm 3)),
    (0x040002009200, .saRsub true (imm 4)), (0x040002805300, .saAddw false (imm 5)),
    (0x040003009400, .saSubw true (imm 6)), (0x040003805600, .saAnd false (imm 7)),
    (0x040004009700, .saOr true (imm 8)), (0x040004805800, .saXor false (imm 9)),
    (0x040005009900, .saAndn true (imm 10)), (0x040005805A00, .saOrn false (imm 11)),
    (0x040006009B00, .saShl true (imm 12)), (0x040006805C00, .saShr false (imm 13)),
    (0x040007009D00, .saSar true (imm 14)), (0x040007805E00, .saRol false (imm 15)),
    (0x040008009F00, .saRor true (imm 16)), (0x040008806000, .saSeq false (imm 17)),
    (0x04000900A100, .saSne true (imm 18)), (0x040009806200, .saSlt false (imm 19)),
    (0x04000A00A300, .saSle true (imm 20)), (0x04000A806400, .saSltn false (imm 21)),
    (0x04000B00A500, .saSlen true (imm 22)), (0x04000B806600, .saMin false (imm 23)),
    (0x04000C00A700, .saMax true (imm 24)), (0x04000C806800, .saMinn false (imm 25)),
    (0x04000D00A900, .saMaxn true (imm 26)), (0x04000D806A00, .saSel false (imm 27)),
    (0x04000E00AB00, .saClz true (imm 28)), (0x04000E806C00, .saCtz false (imm 29)),
    (0x04000F00AD00, .saPopc true (imm 30)), (0x04000F806E00, .saBswap false (imm 31)),
    (0x04001000B100, .saBfx true (imm 32)), (0x040010807200, .saBfi false (imm 33)),
    (0x040011009520, .saShladd true 3 (imm 34)), (0x040011805508, .saShladd false 0 (imm 35)),
    (0x040012006F08, .saSext false .w16 (imm 36)), (0x04001280B010, .saZext true .w32 (imm 37)),
    (0x0400130073A8, .saSetk false 2 5 (imm 38))] : List (Nat × Instr)),
    decodeTableWord 48 p.1 = some p.2 := by decide

theorem test_words_multiply : ∀ p ∈ ([
    (0x04001380D000, .smMul (imm 39)), (0x04001400D100, .smMulh (imm 40)),
    (0x04001480D200, .smMulhn (imm 41)), (0x04001500D300, .smMulw (imm 42)),
    (0x04001580D400, .smDiv (imm 43)), (0x04001600D500, .smDivn (imm 44)),
    (0x04001680D600, .smRem (imm 45)), (0x04001700D700, .smRemn (imm 46))] : List (Nat × Instr)),
    decodeTableWord 48 p.1 = some p.2 := by decide

theorem test_words_address : ∀ p ∈ ([
    (0x040017811000, .agA2d (imm 47)), (0x040018011118, .agSidx 3 (imm 48)),
    (0x040018811200, .agTaddr (imm 49)), (0x040019011338, .agBchk 7 (imm 50)),
    (0x040019811400, .agDpack (imm 51))] : List (Nat × Instr)),
    decodeTableWord 48 p.1 = some p.2 := by decide

theorem test_words_branch : ∀ p ∈ ([
    (0x04001A015018, .brPrep 3 (imm 52)), (0x04001A815110, .brGo 2 (imm 53)),
    (0x04001B015208, .brCall 1 (imm 54)), (0x04001B815300, .brRet (imm 55)),
    (0x04001C015418, .brLoop 3 (imm 56)), (0x04001C815500, .brYield (imm 57)),
    (0x04001D015600, .brEnd (imm 58)), (0x04001D815700, .brTrap (imm 59)),
    (0x04001E015800, .brTret (imm 60))] : List (Nat × Instr)),
    decodeTableWord 48 p.1 = some p.2 := by decide

theorem test_words_localStore : ∀ p ∈ ([
    (0x04001E819000, .lsLd .s8 (imm 61)), (0x040000819108, .lsSt .s16 (imm 1)),
    (0x040001019210, .lsLdv .s32 (imm 2)), (0x040001819318, .lsStv .s64 (imm 3)),
    (0x040002019420, .lsLdvs .n8 (imm 4)), (0x040002819528, .lsStvs .n16 (imm 5)),
    (0x040003019630, .lsGath .n32 (imm 6)), (0x040003819738, .lsScat .n64 (imm 7)),
    (0x040004019840, .lsLdvm .f16 (imm 8)), (0x040004819948, .lsStvm .bf16 (imm 9)),
    (0x040005019A50, .lsLdq .f32 (imm 10)), (0x040005819B58, .lsStq .f64 (imm 11)),
    (0x040006019C00, .lsLdvq .s8 (imm 12)), (0x040006819D08, .lsStvq .s16 (imm 13))] : List (Nat × Instr)),
    decodeTableWord 48 p.1 = some p.2 := by decide

theorem test_words_globalMemory : ∀ p ∈ ([
    (0x04000701D018, .gmLd .s64 (imm 14)), (0x04000781D120, .gmLdv .n8 (imm 15)),
    (0x04000801D200, .gmLdt (imm 16)), (0x04000881D330, .gmSt .n32 (imm 17)),
    (0x04000901D438, .gmStv .n64 (imm 18)), (0x04000981D500, .gmStt (imm 19)),
    (0x04000A01D648, .gmStg .bf16 (imm 20)), (0x04000A81D708, .gmPref true (imm 21)),
    (0x04000B01D800, .gmFlush (imm 22)), (0x04000B81D900, .gmInval (imm 23))] : List (Nat × Instr)),
    decodeTableWord 48 p.1 = some p.2 := by decide

theorem test_words_vector : ∀ p ∈ ([
    (0x04000C021040, .vaAdd false .f16 (imm 24)), (0x04000C825130, .vaSub true .n32 (imm 25)),
    (0x04000D021250, .vaMul false .f32 (imm 26)), (0x04000D825340, .vaFma true .f16 (imm 27)),
    (0x04000E021440, .vaFms false .f16 (imm 28)), (0x04000E825548, .vaFnma true .bf16 (imm 29)),
    (0x04000F021610, .vaMin false .s32 (imm 30)), (0x04000F825740, .vaMax true .f16 (imm 31)),
    (0x040010021810, .vaAbs false .s32 (imm 32)), (0x040010825948, .vaNeg true .bf16 (imm 33)),
    (0x040011021A50, .vaRcp false .f32 (imm 34)), (0x040011825B40, .vaRsqrt true .f16 (imm 35)),
    (0x040012021C40, .vaSqrt false .f16 (imm 36)), (0x040012825D48, .vaExp2 true .bf16 (imm 37)),
    (0x040013021E50, .vaLog2 false .f32 (imm 38)), (0x040013825F10, .vaCmp true .s32 (imm 39)),
    (0x040014022068, .vaCvt false .f8b (imm 40)), (0x040014826148, .vaRnd true .bf16 (imm 41)),
    (0x040015022210, .vaMulh false .s32 (imm 42)), (0x040015826310, .vaAnd true .s32 (imm 43)),
    (0x040016022410, .vaOr false .s32 (imm 44)), (0x040016826530, .vaXor true .n32 (imm 45)),
    (0x040017022610, .vaShl false .s32 (imm 46)), (0x040017826710, .vaShr true .s32 (imm 47)),
    (0x040018022810, .vaSar false .s32 (imm 48)), (0x040018826920, .vaSel true .n8 (imm 49)),
    (0x040019022A10, .vaClz false .s32 (imm 50)), (0x040019826B10, .vaPopc true .s32 (imm 51)),
    (0x04001A022C10, .vaAdds false .s32 (imm 52)), (0x04001A826D30, .vaSubs true .n32 (imm 53))] : List (Nat × Instr)),
    decodeTableWord 48 p.1 = some p.2 := by decide

theorem test_words_crossLane : ∀ p ∈ ([
    (0x04001B029010, .vxPerm .s32 (imm 54)), (0x04001B829130, .vxBcast .n32 (imm 55)),
    (0x04001C029210, .vxRot .s32 (imm 56)), (0x04001C829350, .vxRed .f32 (imm 57)),
    (0x04001D029410, .vxScan .s32 (imm 58)), (0x04001D829530, .vxCompact .n32 (imm 59)),
    (0x04001E029610, .vxExpand .s32 (imm 60)), (0x04001E829730, .vxMerge .n32 (imm 61)),
    (0x040000829810, .vxSort64 .s32 (imm 1)), (0x040001029930, .vxLidx .n32 (imm 2)),
    (0x040001829A30, .vxTrstep .n32 (imm 3))] : List (Nat × Instr)),
    decodeTableWord 48 p.1 = some p.2 := by decide

theorem test_words_random : ∀ p ∈ ([
    (0x04000202D000, .rgBits (imm 4)), (0x04000282D100, .rgKey (imm 5)),
    (0x04000302D200, .rgSeed (imm 6)), (0x04000382D300, .rgMode (imm 7))] : List (Nat × Instr)),
    decodeTableWord 48 p.1 = some p.2 := by decide

theorem test_words_matrix : ∀ p ∈ ([
    (0x040004031060, .mxMma .f8a (imm 8)), (0x040004831170, .mxMmz .gq4 (imm 9)),
    (0x040005031220, .mxMgrp .n8 (imm 10)), (0x040005831378, .mxTld .gq8 (imm 11)),
    (0x040006031408, .mxTst .s16 (imm 12)), (0x040006831500, .mxZero (imm 13)),
    (0x040007031668, .mxCvt .f8b (imm 14)), (0x040007831700, .mxBjoin (imm 15)),
    (0x040008031800, .mxDrain (imm 16))] : List (Nat × Instr)),
    decodeTableWord 48 p.1 = some p.2 := by decide

theorem test_words_anchorUnit : ∀ p ∈ ([
    (0x040008835000, .anRun (imm 17)), (0x040009035100, .anLoad (imm 18)),
    (0x040009835278, .anParam 15 (imm 19))] : List (Nat × Instr)),
    decodeTableWord 48 p.1 = some p.2 := by decide

theorem test_words_transform : ∀ p ∈ ([
    (0x04000A039000, .xfComp (imm 20)), (0x04000A839100, .xfDecomp (imm 21)),
    (0x04000B039280, .xfCb3 (imm 22)), (0x04000B839348, .xfCbtab (imm 23)),
    (0x04000C039480, .xfRepack .c3 (imm 24)), (0x04000C839570, .xfGq .gq4 (imm 25)),
    (0x04000D039678, .xfDeq .gq8 (imm 26)), (0x04000D839700, .xfStat (imm 27))] : List (Nat × Instr)),
    decodeTableWord 48 p.1 = some p.2 := by decide

theorem test_words_copy : ∀ p ∈ ([
    (0x04000E03D000, .cpStart (imm 28)), (0x04000E83D100, .cpChain (imm 29)),
    (0x04000F03D258, .cpRed .f64 (imm 30)), (0x04000F83D300, .cpRelay (imm 31)),
    (0x04001003D400, .cpCancel (imm 32)), (0x04001083D500, .cpStatus (imm 33)),
    (0x04001103D600, .cpResume (imm 34))] : List (Nat × Instr)),
    decodeTableWord 48 p.1 = some p.2 := by decide

theorem test_words_synchronisation : ∀ p ∈ ([
    (0x040011841028, .syFence 5 (imm 35)), (0x040012041120, .syXfence 4 (imm 36)),
    (0x040012841218, .syLdacq 3 (imm 37)), (0x040013041310, .syStrel 2 (imm 38)),
    (0x040013841408, .syAmoadd 0 1 (imm 39)), (0x040014041530, .syAmomin 1 2 (imm 40)),
    (0x040014841658, .syAmomax 2 3 (imm 41)), (0x040015041760, .syAmominn 3 0 (imm 42)),
    (0x040015841888, .syAmomaxn 4 1 (imm 43)), (0x0400160419B0, .syAmoand 5 2 (imm 44)),
    (0x040016841A18, .syAmoor 0 3 (imm 45)), (0x040017041B20, .syAmoxor 1 0 (imm 46)),
    (0x040017841C48, .syAmoswp 2 1 (imm 47)), (0x040018041D70, .syAmocas 3 2 (imm 48)),
    (0x040018841E28, .syWait 5 (imm 49)), (0x040019041F20, .syLock 4 (imm 50)),
    (0x040019842018, .syUnlock 3 (imm 51)), (0x04001A042108, .syArrive 1 (imm 52)),
    (0x04001A842220, .syBwait 4 (imm 53)), (0x04001B042378, .syQwait 15 (imm 54)),
    (0x04001C042448, .queuePop 9 (imm 56)), (0x04001C842560, .syQspace 12 (imm 57)),
    (0x04001D042600, .syTrig (imm 58)), (0x04001D842700, .syCombine (imm 59)),
    (0x04001E042810, .syBind 2 (imm 60))] : List (Nat × Instr)),
    decodeTableWord 48 p.1 = some p.2 := by decide

theorem test_words_task : ∀ p ∈ ([
    (0x04001E845000, .tkSpawn (imm 61)), (0x040000845100, .tkVdecl (imm 1)),
    (0x040001045200, .tkVaddr (imm 2)), (0x040001845300, .tkFinish (imm 3)),
    (0x040002045400, .tkJoin (imm 4)), (0x040002845500, .tkStamp (imm 5)),
    (0x040003045600, .tkAbort (imm 6))] : List (Nat × Instr)),
    decodeTableWord 48 p.1 = some p.2 := by decide

theorem test_words_block : ∀ p ∈ ([
    (0x040003849000, .dbBegin (imm 7)), (0x040004049100, .dbEnd (imm 8)),
    (0x040004849200, .dbRev (imm 9)), (0x040005049300, .dbZero (imm 10)),
    (0x040005849400, .dbPush (imm 11)), (0x040006049500, .dbPop (imm 12)),
    (0x040006849600, .dbSp (imm 13)), (0x040007049700, .dbMode (imm 14))] : List (Nat × Instr)),
    decodeTableWord 48 p.1 = some p.2 := by decide

theorem test_words_control : ∀ p ∈ ([
    (0x04000784D058, .ctRdc 11 (imm 15)), (0x04000804D118, .ctRdcHi 3 (imm 16)),
    (0x04000884D248, .ctWrc 9 (imm 17)), (0x04000904D308, .ctWrcHi 1 (imm 18)),
    (0x04000984D400, .ctCyc (imm 19)), (0x04000A04D500, .ctPerf (imm 20)),
    (0x04000A84D630, .ctDsel 6 (imm 21)), (0x04000B04D720, .ctWrs 4 (imm 22))] : List (Nat × Instr)),
    decodeTableWord 48 p.1 = some p.2 := by decide

/-- qadv by the operation that bits 63:62 of its value name (R277): publish 1, configure 2, as literals (R138). -/
theorem test_words_queue : decodeSlot 0x040002842418 (some 0x100000000000) = .ok (.queuePublish 3 ⟨none, .lit 0x4000000000000005⟩) ∧
    decodeSlot 0x040080042478 (some 0x2000000000D0) = .ok (.queueConfigure 15 ⟨none, .lit 0x8000000003400100⟩) := by decide

/-- The stream words of R310 and the anchor's of R244, by the fields of spec/opcode_table.json. -/
theorem test_words_stream : ∀ p ∈ ([
    (0x6A08800B, .hxSset 3 5 17), (0x0C00148B, .hxSget 6 9), (0x1B31200B, .hxQwr 13 2 19),
    (0x160AB20B, .hxQrd 11 4 21), (0x0E00CF0B, .hxQpub 7 30 1), (0x3C03428B, .hxQpop 14 5 6),
    (0x46084F8B, .hxQwd 3 31 16), (0x780C440B, .hxQws 12 8 24), (0x1231508B, .hxSld 9 1 2 3),
    (0x2C47DE0B, .hxSst 6 28 15 4), (0x1E556A0B, .hxBsx 15 20 10 5), (0x0806F00B, .hxLhint 4 13),
    (0x2A00700B, .hxFence 5), (0x400B700B, .hxStop 22)] : List (Nat × Instr)),
    decodeTableWord 32 p.1 = some p.2 := by decide

theorem test_words_anchor : ∀ p ∈ ([
    (0x00000000, .anchorNop), (0x0C800000, .anchorScale 9), (0x17000000, .anchorSscale 14),
    (0x19800000, .anchorBias 3), (0x22820000, .anchorAddres 5 2), (0x2D010000, .anchorMulres 10 1),
    (0x30000000, .anchorRelu), (0x38000000, .anchorGelu), (0x43800000, .anchorClamp 7),
    (0x4E000000, .anchorLeaky 12), (0x50000000, .anchorSigmoid), (0x5B5800C8, .anchorDrop 6 11 200),
    (0x60048000, .anchorCvt 4 2), (0x6E83004D, .anchorCvtsr 13 3 77), (0x77800000, .anchorRecm 15),
    (0x7C080000, .anchorRecs 8 1), (0x80000000, .anchorWrt), (0x88000000, .anchorWrl),
    (0x90000000, .anchorWrq), (0x99000000, .anchorRmax 2), (0xA000321B, .anchorLoop 100 27),
    (0xA8000000, .anchorEnd)] : List (Nat × Instr)),
    decodeTableWord 32 p.1 = some p.2 := by decide

/-! ### The ill-formed steps that each check refuses -/

theorem test_wf_source : Src.wfTo (.reg 4 5 0) (some .S) = false ∧ Src.wfTo (.reg 5 1 0) (some .S) = false := by decide
theorem test_wf_destination : Dst.wf (.reg 4 0 0) ⟨none, .imm 1⟩ = false ∧ Dst.wf (.reg 1 5 1) ⟨none, .imm 1⟩ = false := by decide
theorem test_wf_qadv : Instr.wf (.queuePublish 0 ⟨none, .imm 1⟩) = false ∧ Instr.wf (.queueConfigure 0 ⟨none, .imm 1⟩) = false ∧
    Instr.wf (.queuePop 0 ⟨none, .lit 0x4000000000000001⟩) = false := by decide
theorem test_wf_trigger : Instr.wf (.vaAdd false .s8 ⟨none, .null⟩) = false ∧ Instr.wf (.vxLidx .f32 ⟨none, .imm 0⟩) = false := by decide
theorem test_wf_immediate : Rv.wf (.jal 1 3) = false ∧ Rv.wf (.lui 1 1) = false ∧ Rv.wf (.jalr 1 2 4096) = false ∧
    Rv.wf (.branch .eq 1 2 1) = false := by decide
theorem test_wf_memory : Rv.wf (.load 8 true 1 2 0) = false ∧ Rv.wf (.store 3 1 2 0) = false := by decide
theorem test_wf_operation : Rv.wf (.opImm .mul false 1 2 0) = false ∧ Rv.wf (.opImm .sll true 1 2 32) = false ∧
    Rv.wf (.op .slt true 1 2 3) = false ∧ Rv.wf (.amo .lr true false false 1 2 3) = false := by decide
theorem test_wf_holds : Instr.wf (.saAdd false ⟨none, .imm 16⟩) = true ∧ Rv.wf (.jal 1 (-4)) = true ∧
    Instr.wf (.queuePublish 0 ⟨none, .lit 0x4000000000000001⟩) = true := by decide

/-! ### States for the witnesses: one strand on core 0, in a partition of the whole part, at slot 2 of a bundle -/

/-- A strand with shadow ports. -/
def strand (ports : Tab Val) : Task :=
  { (default : Task) with stage := .resident, started := true, pc := 0x1000, slot := 2, clock := 50, bank := { Bank.empty with shadow := ports } }

/-- The part with that strand at its slot. -/
def part (t : Task) : State :=
  { State.reset with running := true, cores := [(0, Core.init)], tasks := [(1, t)], ntasks := 2, groups := [(0, default)], cur := 1, core := 0, turn := some (.slot 1) }

/-- A move of an immediate. -/
def now (x : BitVec 18) : Mv := ⟨none, .imm x⟩

/-- The pages of virtual address 0 (HBM) and 0x200000 (the core's own window), as the core caches them. -/
def pages : List Tlb := [⟨0, 0, 21, 0, 0x4000007F⟩, ⟨0, 0x200000, 21, 0, 0xE00000000007F⟩]

/-- The part with the strand, the pages cached and bytes of memory. -/
def mapped (t : Task) (mem : List Cell) : State :=
  { part t with mem := mem, cores := [(0, { Core.init with tlb := pages, res := [(0, 1)] })] }

/-- An immediate is ready at a trigger port of class S. -/
theorem ready_now (s : State) (u : Nat) (x : BitVec 18) (h : s.t.cur.used.contains u = false) :
    ReadyW s s u (now x) (x.signExtend 64) := ⟨.w _, ⟨⟨.S, _, ⟨rfl, rfl, rfl, rfl⟩, rfl⟩, h⟩, rfl⟩

/-- An immediate is ready at a vector port, in every lane. -/
theorem ready_lanes (s : State) (u : Nat) (x : BitVec 18) (ty : ElemType) (h : s.t.cur.used.contains u = false) :
    Ready s s u (now x) (vecClass ty) (convertVal (.w (x.signExtend 64)) (vecClass ty)) := by
  refine ⟨⟨.S, _, ⟨?_, rfl, rfl, rfl⟩, rfl⟩, h⟩
  cases ty <;> rfl

/-! ### Witnesses: for every statement with hypotheses, a state and operands that meet them; for statements of several clauses, one for
each clause -/

/-- A strand with a store of eight bytes at offset 0x7F8 of its local store still to be performed. -/
def storing (r : Rel) (due : Option Nat) : Task := { strand [] with nseq := 1, stores := [⟨coreWin 0 0x7F8, toBytes 8 7, 0, 0, due, 0, none, r⟩] }

/-- Queue 3 of core 0, of entries of 8 bytes from offset 0x7F0, with that strand. -/
def withQueue (t : Task) : State :=
  { part t with cores := [(0, { Core.init with queues := [(3, ⟨some (0x7F0, 3, 2), 1, 5⟩)] })] }

theorem test_witness_SlotRules :
    (let i : Instr := .saAdd false ⟨some ⟨false, 1⟩, .imm 16⟩
     let m : Mv := ⟨some ⟨false, 1⟩, .imm 16⟩
     moveOf i = some (m, some .S) ∧ (part (strand [])).srcIllegal m.src (some .S) = false ∧ (part (strand [])).t.guardHolds m.guard = false) ∧
    (let s := part { strand [] with cur := { (default : Cur) with used := [1] } }
     moveOf (.saAdd false (now 16)) = some (now 16, some .S) ∧ unitOf (.saAdd false (now 16)) = some 1 ∧
      s.srcIllegal (now 16).src (some .S) = false ∧ s.t.guardHolds none = true ∧ s.t.cur.used.contains 1 = true ∧ s.t.cur.goB = none) ∧
    (let s := part { strand [] with cur := { (default : Cur) with used := [5], goB := some 2 } }
     moveOf (.brGo 2 (now 0)) = some (now 0, some .S) ∧ unitOf (.brGo 2 (now 0)) = some 5 ∧ s.srcIllegal (now 0).src (some .S) = false ∧
      s.t.guardHolds none = true ∧ s.t.cur.used.contains 5 = true ∧ s.t.cur.goB ≠ none ∧ ∀ n m', Instr.brGo 2 (now 0) ≠ .brPrep n m') ∧
    (let m : Mv := ⟨none, .land 8⟩
     moveOf (.saAdd false m) = some (m, some .S) ∧ (part { strand [] with sys := true }).srcIllegal m.src (some .S) = true) ∧
    (let s := part (strand [])
     let m : Mv := ⟨none, .queue 0 0⟩
     moveOf (.saAdd false m) = some (m, some .S) ∧ s.srcIllegal m.src (some .S) = false ∧ s.t.guardHolds m.guard = true ∧
      (∀ u, unitOf (.saAdd false m) = some u → s.unheld u) ∧ ∃ s1, Settled s (s.srcRuns 0 0 (some .S)) s1 ∧
      s1.readSrc m.src (some .S) = .trap 4 2 (wd (coreWin 0 0))) := by
  refine ⟨⟨rfl, rfl, rfl⟩, ⟨rfl, rfl, rfl, rfl, rfl, rfl⟩, ⟨rfl, rfl, rfl, rfl, rfl, by decide, by intro n m'; simp⟩, ⟨rfl, rfl⟩,
    ⟨rfl, rfl, rfl, ?_, _, ⟨rfl, by decide⟩, rfl⟩⟩
  intro u h
  cases h
  exact ⟨rfl, by simp, by simp, by simp⟩

theorem test_witness_SlotRules_waits :
    let s := withQueue (storing .store none)
    let m : Mv := ⟨none, .queue 3 0⟩
    moveOf (.saAdd false m) = some (m, some .S) ∧ s.srcIllegal m.src (some .S) = false ∧ s.t.guardHolds m.guard = true ∧
      (s.settle (s.srcRuns 3 0 (some .S))).t.inWalk = none ∧
      ∃ p ∈ s.srcRuns 3 0 (some .S), (s.settle (s.srcRuns 3 0 (some .S))).t.inOrder 1 p.1 p.2 = false :=
  ⟨rfl, rfl, rfl, rfl, (coreWin 0 0x7F8, 8), by decide, by decide⟩

theorem test_witness_ScalarResults : ReadyW (part (strand [])) (part (strand [])) (saUnit false) (now 16) 16 ∧
    ReadyW (part (strand [])) (part (strand [])) (saUnit true) (now (-1)) (-1) := ⟨ready_now _ _ 16 rfl, ready_now _ _ (-1) rfl⟩


/-- A strand whose division by zero traps. -/
def trapping : Task := { strand [] with ctl := { (default : Ctl) with fflags := 0x800 } }

theorem dz_traps : (part trapping).t.fpTraps DZ = true := by decide
theorem dz_off : (part (strand [])).t.fpTraps DZ = false := by decide

theorem test_witness_MultiplyDivideResults :
    (let s := part (strand [])
     ReadyW s s 3 (now 0) 0 ∧ s.t.bank.smFree ≤ s.t.now ∧ s.t.fpTraps DZ = false) ∧
    (let s := part trapping
     ReadyW s s 3 (now 0) 0 ∧ s.t.bank.smFree ≤ s.t.now ∧ s.t.fpTraps DZ = true) ∧
    (let s := part { strand [] with bank := { Bank.empty with smFree := 51 } }
     ReadyW s s 3 (now 7) 7 ∧ s.t.now < s.t.bank.smFree) :=
  ⟨⟨ready_now _ _ 0 rfl, by decide, dz_off⟩, ⟨ready_now _ _ 0 rfl, by decide, dz_traps⟩, ready_now _ _ 7 rfl, by decide⟩


theorem test_witness_AddressResults : ReadyW (part (strand [(70, .w 0x200)])) (part (strand [(70, .w 0x200)])) 4 (now 3) 3 := ready_now _ _ 3 rfl


theorem test_witness_BranchForms :
    (let s := part { strand [(82, .w 0x40)] with sys := true }
     ReadyW s s 5 (now 0x20) 0x20 ∧ (0x20 : Word).toNat % 32 = 0 ∧ canonical 0x20 = true ∧ (s.t.pw 5 2).toNat % 32 = 0 ∧
      canonical (s.t.pw 5 2) = true ∧ (0x20 : Word) ≠ 0 ∧ s.t.sys = true ∧ s.t.ctl.xpc.toNat % 32 = 0 ∧ canonical s.t.ctl.xpc = true) ∧
    (let s := part (strand [])
     ReadyW s s 5 (now 0) 0 ∧ s.t.sys = false) ∧
    (ReadyW (part (strand [])) (part (strand [])) 5 (now 0x1F) 0x1F ∧ (0x1F : Word).toNat % 32 ≠ 0) ∧
    (let m : Mv := ⟨none, .lit 0x7800000000000000⟩
     ReadyW (part (strand [])) (part (strand [])) 5 m 0x7800000000000000 ∧ (0x7800000000000000 : Word).toNat % 32 = 0 ∧ canonical 0x7800000000000000 = false) ∧
    (let s := part { strand [] with cur := { (default : Cur) with used := [5], goB := some 1 } }
     Delivers s (now 0x20) (some .S) s .S (.w 0x20) ∧ s.t.cur.goB ≠ none ∧ s.t.cur.used.count 5 = 1) ∧
    (let b : Bank := { Bank.empty with lc := [(1, 4), (3, 1)], le := [(1, 0x1000), (3, 0x1000)] }
     b.lc.get 1 0 ≠ 0 ∧ b.le.get 1 0 = 0x1000 ∧ (∀ j < 1, ¬ (b.lc.get j 0 ≠ 0 ∧ b.le.get j 0 = 0x1000)) ∧ 1 < (b.lc.get 1 0).toNat) ∧
    (let b : Bank := { Bank.empty with lc := [(3, 1)], le := [(3, 0x1000)] }
     b.lc.get 3 0 ≠ 0 ∧ b.le.get 3 0 = 0x1000 ∧ (∀ j < 3, ¬ (b.lc.get j 0 ≠ 0 ∧ b.le.get j 0 = 0x1000)) ∧ b.lc.get 3 0 = 1 ∧
      ∀ n < 4, ¬ (b.lc.get n 0 ≠ 0 ∧ b.le.get n 0 = 0x2000)) := by
  refine ⟨⟨ready_now _ _ 0x20 rfl, by decide⟩, ⟨ready_now _ _ 0 rfl, rfl⟩, ⟨ready_now _ _ 0x1F rfl, by decide⟩,
    ⟨⟨_, ⟨⟨.S, _, ⟨rfl, rfl, rfl, rfl⟩, rfl⟩, rfl⟩, rfl⟩, by decide⟩, ⟨⟨rfl, rfl, rfl, rfl⟩, by decide⟩, by decide, by decide⟩


theorem test_witness_TrapTaking :
    (let w : BitVec 256 := 0
     let s := part { strand [] with cur := { (default : Cur) with word := some w } }
     ReadyW s s 5 (now 3) 3 ∧ s.t.cur.word = some w ∧ (∃ b, decodeBundle w = some b) ∧ s.t.slot < 5) ∧
    (let s := part { strand [] with ctl := { (default : Ctl) with tvec := 0x40 } }
     ownRoute 3 1 = true ∧ s.t.sys = false ∧ s.t.ctl.tvec ≠ 0 ∧ s.t.walk = none ∧ s.t.slot ≤ 5) ∧
    (part { strand [] with sys := true }).t.sys = true ∧ (part (strand [])).t.ctl.tvec = 0 ∧ ownRoute 4 1 = false :=
  ⟨⟨ready_now _ _ 3 rfl, rfl, ⟨_, rfl⟩, by decide⟩, by decide, by decide, by decide, by decide⟩


theorem test_witness_TrapReturn : (part { strand [] with ctl := { (default : Ctl) with xst := 0x800 } }).t.ctl.xst.getLsbD 11 = true ∧
    (part (strand [])).t.ctl.xst.getLsbD 11 = false := by decide


theorem test_witness_ControlForms : ReadyW (part (strand [])) (part (strand [])) 19 (now 2) 2 ∧ ReadyW (part (strand [])) (part (strand [])) 19 (now 7) 7 ∧
    (part (strand [])).t.sys = false ∧
    (ReadyW (part { strand [] with sys := true }) (part { strand [] with sys := true }) 19 (now 2) 2 ∧ (part { strand [] with sys := true }).t.sys = true) ∧
    ((2 : Word).toNat < 5 ∧ (2 : Word).toNat % 4 ≠ 3) :=
  ⟨ready_now _ _ 2 rfl, ready_now _ _ 7 rfl, rfl, ⟨ready_now _ _ 2 rfl, rfl⟩, by decide⟩


theorem test_witness_FlagRules : ∃ f g : Flight, f.val = some (.w 5) ∧ f.k = some (7, true) ∧ g.k = none :=
  ⟨⟨8, false, 1, some (.w 5), 3, some (7, true), false, false⟩, ⟨8, true, 1, none, 3, none, false, false⟩, rfl, rfl, rfl⟩


theorem noImport_strand (s : State) (h : s.t.block = none) : NoImport s := by
  intro b hb
  simp [h] at hb

theorem test_witness_MoveForms :
    (∀ d ∈ [Dst.reg 0 3 0, .reg 0 0 0, .reg 2 1 0, .reg 3 1 0, .reg 1 4 0, .reg 1 4 64, .reg 1 4 127, .reg 1 4 128, .reg 1 4 191, .null,
        .port 1 2 false],
      Delivers (part (strand [])) (now 5) (Dst.cls d) (part (strand [])) .S (.w 5)) ∧ NoImport (part (strand [])) ∧
    Dst.cls (.port 1 2 false) = some .S ∧
    (let s := part { strand [] with v := [(4, zeroLanes)] }
     Delivers s ⟨none, .reg 1 4 0⟩ (Dst.cls (.reg 1 6 0)) s .V (.v zeroLanes) ∧
      ∃ l, Delivers s ⟨none, .reg 1 4 1⟩ (Dst.cls (.reg 1 6 1)) s .P (.v l)) ∧
    (let s := withQueue (storing .none none)
     let y := s.queue s.t.core 3
     Delivers s (now 5) none s .S (.w 5) ∧ (8 : Nat) % queueWidth .S = 0 ∧ y.cfg.isSome = true ∧ queueWidth .S ≤ y.cap * y.entry ∧
      ∃ s1, Settled s (Machine.queueRuns s.t.core y y.tail 0 8) s1 ∧ s1.t.stores = []) :=
  ⟨by intro d h; fin_cases h <;> exact ⟨rfl, rfl, rfl, rfl⟩, noImport_strand _ rfl, rfl,
    ⟨⟨rfl, rfl, rfl, rfl⟩, _, rfl, rfl, rfl, rfl⟩, ⟨rfl, rfl, rfl, rfl⟩, by decide, by decide, by decide, _, ⟨rfl, by decide⟩, by decide⟩


theorem test_witness_LocalScalarForms :
    (let s := part (storing .none none)
     let run := [(coreWin s.t.core 0x7F8, 8)]
     ReadyW s s 6 (now 0x7F8) 0x7F8 ∧ (0x7F8 : Word).toNat + ElemType.s64.bytes ≤ 0x80000 ∧ (0x7F8 : Word).toNat % ElemType.s64.bytes = 0 ∧
      s.t.core < 512 ∧ ∃ s1, Settled s run s1 ∧ s1.bad (coreWin s1.t.core 0x7F8) 8 = false) ∧
    (let s : State := { part (strand []) with poison := [coreWin 0 0x780 / 128] }
     ReadyW s s 6 (now 0x7F8) 0x7F8 ∧ ∃ s1, Settled s [(coreWin s.t.core 0x7F8, 8)] s1 ∧ s1.bad (coreWin s1.t.core 0x7F8) 8 = true) ∧
    (let s := part (storing .store none)
     let s1 := s.settle [(coreWin s.t.core 0x7F8, 8)]
     ReadyW s s 6 (now 0x7F8) 0x7F8 ∧ s1.t.inWalk = none ∧ ∃ p ∈ [(coreWin s.t.core 0x7F8, 8)], s1.t.inOrder s1.t.nseq p.1 p.2 = false) ∧
    (let x : Word := 0x7FFF9
     ReadyW (part (strand [])) (part (strand [])) 6 ⟨none, .lit x⟩ x ∧ 0x80000 < x.toNat + ElemType.s64.bytes) ∧
    (ReadyW (part (strand [])) (part (strand [])) 6 (now 0x101) 0x101 ∧ (0x101 : Word).toNat + ElemType.n16.bytes ≤ 0x80000 ∧
      (0x101 : Word).toNat % ElemType.n16.bytes ≠ 0) ∧
    (let s := part (storing .none (some 50))
     s.t.core < 512 ∧ (∃ x, s.t.stores = [x] ∧ x.rel = .none ∧ x.attr = 0 ∧ x.pa = coreWin s.t.core 0x7F8 ∧ 0x7F8 + x.bytes.length ≤ 0x80000 ∧
      overlap x.pa x.bytes.length (coreWin 0 0x7FF) 1 = true ∧ x.seq < s.t.nseq ∧ x.due = some 50) ∧ s.t.waitingLoads = [] ∧ 50 ≤ s.t.now) :=
  ⟨⟨ready_now _ _ 0x7F8 rfl, by decide, by decide, by decide, _, ⟨rfl, by decide⟩, by decide⟩,
    ⟨ready_now _ _ 0x7F8 rfl, _, ⟨rfl, by decide⟩, by decide⟩, ⟨ready_now _ _ 0x7F8 rfl, rfl, by decide⟩,
    ⟨⟨_, ⟨⟨.S, _, ⟨rfl, rfl, rfl, rfl⟩, rfl⟩, rfl⟩, rfl⟩, by decide⟩, ⟨ready_now _ _ 0x101 rfl, by decide, by decide⟩,
    ⟨by decide, ⟨_, rfl, rfl, rfl, rfl, by decide, by decide, by decide, rfl⟩, rfl, by decide⟩⟩


theorem test_witness_LocalVectorResults :
    (let s := part (strand [(102, .w 3), (103, .w 1), (101, .w 8)])
     let on (i : Nat) : Bool := (!false && !(s.t.pw 6 7).getLsbD 0) || (s.t.pw 6 6).getLsbD i
     let off (i : Nat) : Nat := ((0x100 : Word) + wd (i * ElemType.f32.bytes)).toNat
     ReadyW s s 6 (now 0x100) 0x100 ∧ (List.range 64).filter on = [0, 1] ∧
      (∀ i ∈ [0, 1], ¬ 0x80000 < off i + ElemType.f32.bytes ∧ off i % ElemType.f32.bytes = 0) ∧ s.t.core < 512 ∧
      ∃ s1, Settled s ([0, 1].map (fun i => (coreWin s.t.core (off i), 4))) s1 ∧
        ∀ i ∈ [0, 1], s1.bad (coreWin s1.t.core (off i)) 4 = false) ∧
    (let s := part (strand [(102, .w 3), (103, .w 1)])
     let off (i : Nat) : Nat := ((0x7FFFC : Word) + wd (i * ElemType.f32.bytes)).toNat
     ReadyW s s 6 ⟨none, .lit 0x7FFFC⟩ 0x7FFFC ∧ 0x80000 < off 1 + 4 ∧ ¬ 0x80000 < off 0 + 4) ∧
    (let s := part (strand [(102, .w 2), (103, .w 1), (101, .w 6)])
     let off (i : Nat) : Nat := ((0x100 : Word) + wd i * s.t.pw 6 5).toNat
     ReadyW s s 6 (now 0x100) 0x100 ∧ ¬ 0x80000 < off 1 + 4 ∧ off 1 % 4 ≠ 0) := by
  refine ⟨⟨ready_now _ _ 0x100 rfl, by decide, by decide, by decide, _, ⟨rfl, by decide⟩, by decide⟩,
    ⟨⟨_, ⟨⟨.S, _, ⟨rfl, rfl, rfl, rfl⟩, rfl⟩, rfl⟩, rfl⟩, by decide⟩, ready_now _ _ 0x100 rfl, by decide⟩


theorem test_witness_LocalQueueResults :
    (let s := part (strand [(104, .w 16)])
     ReadyW s s 6 (now 0) 0 ∧ 15 < (s.t.pw 6 8).toNat) ∧
    (let s := part (strand [(104, .w 15)])
     ReadyW s s 6 (now 0) 0 ∧ (s.t.pw 6 8).toNat ≤ 15 ∧ (s.queue s.t.core 15).cfg = none) ∧
    (let s : State := withQueue (strand [(104, .w 3), (103, .w 1), (102, .w 1)])
     let q := s.queue s.t.core 3
     ReadyW s s 6 (now 8) 8 ∧ (s.t.pw 6 8).toNat = 3 ∧ q.cfg ≠ none ∧ q.pos q.head 8 + 8 ≤ 0x80000 ∧ q.pos q.head 8 % 8 = 0 ∧
      q.pos q.tail 8 + 8 ≤ 0x80000 ∧ q.pos q.tail 8 % 8 = 0 ∧ s.t.core < 512 ∧
      ∃ s1, Settled s [(coreWin s.t.core (q.pos q.head 8), 8)] s1 ∧ s1.bad (coreWin s1.t.core (q.pos q.head 8)) 8 = false) := by
  refine ⟨⟨ready_now _ _ 0 rfl, by decide⟩, ⟨ready_now _ _ 0 rfl, by decide, rfl⟩, ready_now _ _ 8 rfl, rfl, by decide, by decide, by decide,
    by decide, by decide, by decide, _, ⟨rfl, by decide⟩, by decide⟩


theorem test_witness_VectorLaneResults :
    (let s := part (strand [])
     Ready s s 8 (now 1) (vecClass .f32) (convertVal (.w 1) (vecClass .f32)) ∧ s.t.recording = false ∧ ElemType.f32.isFloat = true ∧
      s.t.fpTraps 0x1F = false) ∧
    (let s := part (strand [])
     Ready s s 9 (now 1) (vecClass .s64) (convertVal (.w 1) (vecClass .s64)) ∧ ElemType.s64.isFloat = false) :=
  ⟨⟨ready_lanes _ _ 1 .f32 rfl, rfl, rfl, rfl⟩, ready_lanes _ _ 1 .s64 rfl, rfl⟩


theorem test_witness_VectorSelectForms :
    (let s := part (strand [(133, .w 7)])
     Ready s s 8 (now 1) (vecClass .f32) (convertVal (.w 1) (vecClass .f32)) ∧ s.t.recording = false ∧ 6 < (s.t.pw 8 5).toNat) ∧
    (let s := part (strand [(133, .w 6)])
     Ready s s 8 (now 1) (vecClass .f32) (convertVal (.w 1) (vecClass .f32)) ∧ (s.t.pw 8 5).toNat = 6 ∧ s.t.fpTraps 0x1F = false ∧
      Ready s s 8 (now 1) (vecClass .s32) (convertVal (.w 1) (vecClass .s32))) ∧
    (let s := part (strand [(134, .w 13)])
     Ready s s 8 (now 1) (vecClass .f32) (convertVal (.w 1) (vecClass .f32)) ∧ ElemType.f8b.code = (s.t.pw 8 6).toNat ∧
      ElemType.f8b.code < 14 ∧ (s.t.pw 8 5).toNat ≤ 5) ∧
    (let s := part { strand [(135, .w 1), (136, .w 1), (130, .v [0x7F800000])] with ctl := { (default : Ctl) with fflags := 0x1000 } }
     let m : Mv := ⟨none, .lit 0xFF800000⟩
     Ready s s 8 m (vecClass .f32) (convertVal (.w 0xFF800000) (vecClass .f32)) ∧ s.t.inWalk = none ∧
      (Arith.addRound .f32 (s.t.env 0) [laneEx .f32 (s.t.port 8 2).lanes 0,
        laneEx .f32 (convertVal (.w 0xFF800000) (vecClass .f32)).lanes 0]).flags &&& BitVec.ofNat 6 (wbits s.t.ctl.fflags 12 8) ≠ 0) :=
  ⟨⟨ready_lanes _ _ 1 .f32 rfl, rfl, by decide⟩, ⟨ready_lanes _ _ 1 .f32 rfl, rfl, rfl, ready_lanes _ _ 1 .s32 rfl⟩,
    ⟨ready_lanes _ _ 1 .f32 rfl, rfl, by decide, by decide⟩, ⟨⟨.S, _, ⟨rfl, rfl, rfl, rfl⟩, rfl⟩, rfl⟩, rfl, by decide⟩


theorem test_witness_CrossLaneResults :
    (let s := part (strand [(165, .w 4), (167, .w 1)])
     Ready s s 10 (now 1) (vecClass .f32) (convertVal (.w 1) (vecClass .f32)) ∧ s.t.recording = false ∧ (s.t.pw 10 5).toNat ≤ 4 ∧
      (s.t.pw 10 7).toNat ≤ 1) ∧
    (let s := part (strand [(165, .w 5)])
     Ready s s 10 (now 1) (vecClass .f32) (convertVal (.w 1) (vecClass .f32)) ∧ 4 < (s.t.pw 10 5).toNat) :=
  ⟨⟨ready_lanes _ _ 1 .f32 rfl, rfl, by decide, by decide⟩, ready_lanes _ _ 1 .f32 rfl, by decide⟩


theorem test_witness_FoldSortResults :
    (let s := part (strand [(165, .w 3)])
     Ready s s 10 (now 1) (vecClass .f32) (convertVal (.w 1) (vecClass .f32)) ∧ s.t.recording = false ∧ 2 < (s.t.pw 10 5).toNat) ∧
    (let s := part (strand [(165, .w 2), (167, .w 1)])
     Ready s s 10 (now 1) (vecClass .f32) (convertVal (.w 1) (vecClass .f32)) ∧ (s.t.pw 10 5).toNat ≤ 2 ∧ s.t.fpTraps 0x1F = false ∧
      (s.t.pw 10 7).toNat ≤ 1) ∧
    (let s := part (strand [(167, .w 2)])
     Ready s s 10 (now 1) (vecClass .n32) (convertVal (.w 1) (vecClass .n32)) ∧ 1 < (s.t.pw 10 7).toNat) :=
  ⟨⟨ready_lanes _ _ 1 .f32 rfl, rfl, by decide⟩, ⟨ready_lanes _ _ 1 .f32 rfl, by decide, rfl, by decide⟩, ready_lanes _ _ 1 .n32 rfl, by decide⟩


theorem test_witness_RandomResults : ReadyW (part (strand [])) (part (strand [])) 11 (now 1) 1 ∧ ReadyW (part (strand [])) (part (strand [])) 11 (now 2) 2 ∧
    ∃ v, Ready (part (strand [])) (part (strand [])) 11 (now 1) .V v :=
  ⟨ready_now _ _ 1 rfl, ready_now _ _ 2 rfl, _, ⟨⟨.S, _, ⟨rfl, rfl, rfl, rfl⟩, rfl⟩, rfl⟩⟩


/-- A strand's landing entries all free (R128). -/
theorem land_free (t : Task) (mem : List Cell) (pair : Bool) (n d : Nat) (hl : t.bank.land = []) (hs : t.sys = false)
    (hn : (t.pw 7 5).toNat = n) (hd : (t.pw 7 6).toNat = d) (h : n ≤ 63 ∧ 1 ≤ d ∧ d ≤ 65535 ∧ n % 2 = 0)
    (hb : (mapped t mem).loadBusy pair = false) : LandFree (mapped t mem) (mapped t mem) pair n d := by
  refine ⟨hb, hn, hd, h.1, h.2.1, h.2.2.1, fun hh => ?_, fun _ => h.2.2.2, fun k _ p hp => ?_⟩
  · exact absurd (hs.symm.trans hh) (by decide)
  · have hl' : (mapped t mem).t.bank.land = [] := hl
    rw [hl'] at hp
    cases hp

theorem test_witness_GlobalLoadResults :
    (let s := mapped (strand [(117, .w 4), (118, .w 12)]) []
     ReadyW s s 7 (now 0x100) 0x100 ∧ LandFree s s false 4 12 ∧ Reached s 8 .read [(0x100, 8)] [(0x40000100, 8)] s ∧ s.t.spec = false) ∧
    (let s := mapped (strand [(117, .w 4), (118, .w 1), (121, .w 3), (122, .w 1)]) []
     ReadyW s s 7 (now 0x100) 0x100 ∧ LandFree s s true 4 1 ∧
      (List.range 64).filter (fun i => !(s.t.pw 7 10).getLsbD 0 || (s.t.pw 7 9).getLsbD i) = [0, 1] ∧
      Reached s 8 .read [(0x100, 8), (0x108, 8)] [(0x40000100, 8), (0x40000108, 8)] s) ∧
    (let s := mapped { strand [(117, .w 4), (118, .w 65535), (119, .w 160)] with tmap := [(160, 3)] } []
     ReadyW s s 7 (now 0x100) 0x100 ∧ LandFree s s false 4 65535 ∧ (s.t.port 7 7).word.toNat = 160 ∧ s.t.tmap.find? 160 = some 3 ∧
      Reached s 128 .read (pagePieces 3 0x100 (tileSize 5)) [(0x40000100, 0x800)] s) := by
  refine ⟨⟨ready_now _ _ 0x100 rfl, land_free _ _ _ _ _ rfl rfl rfl rfl (by decide) rfl, ⟨by decide, rfl⟩, rfl⟩,
    ⟨ready_now _ _ 0x100 rfl, land_free _ _ _ _ _ rfl rfl rfl rfl (by decide) rfl, by decide, ⟨by decide, rfl⟩⟩,
    ready_now _ _ 0x100 rfl, land_free _ _ _ _ _ rfl rfl rfl rfl (by decide) rfl, rfl, rfl, ⟨by decide, rfl⟩⟩


theorem test_witness_GlobalStoreResults :
    (let s := mapped (strand [(114, .w 5)]) []
     ReadyW s s 7 (now 0x100) 0x100 ∧ s.t.spec = false ∧ Reached s 8 .write [(0x100, 8)] [(0x40000100, 8)] s ∧
      gmPushOk s (joinParts [(0x40000100, toBytes 8 5, storeAttr (s.pageAttr 0x100) 0)]) = true ∧ s.t.uncommitted = false ∧ wbits (s.t.pw 7 8) 1 0 ≠ 3) ∧
    (let s := mapped (strand [(120, .w 3)]) []
     ReadyW s s 7 (now 0x100) 0x100 ∧ wbits (s.t.pw 7 8) 1 0 = 3) ∧
    (let s := mapped (strand [(121, .w 1), (122, .w 1)]) []
     ReadyW s s 7 (now 0x100) 0x100 ∧ Reached s 4 .write [(0x100, 4)] [(0x40000100, 4)] s) ∧
    (let s := mapped { strand [(119, .w 160)] with tmap := [(160, 3)] } []
     ReadyW s s 7 (now 0x100) 0x100 ∧ (s.t.port 7 7).word.toNat = 160 ∧ s.t.tmap.find? 160 = some 3 ∧
      Reached s 128 .write (pagePieces 3 0x100 (tileSize 5)) [(0x40000100, 0x800)] s ∧ s.bad (coreWin 0 (tileOff 5 3)) 0x800 = false) := by
  refine ⟨⟨ready_now _ _ 0x100 rfl, rfl, ⟨by decide, rfl⟩, by decide, rfl, by decide⟩, ⟨ready_now _ _ 0x100 rfl, by decide⟩,
    ⟨ready_now _ _ 0x100 rfl, ⟨by decide, rfl⟩⟩, ready_now _ _ 0x100 rfl, rfl, rfl, ⟨by decide, rfl⟩, rfl⟩


theorem test_witness_CacheFormsAndFaults :
    (let s := mapped (strand [(117, .w 63), (118, .w 65535)]) []
     ReadyW s s 7 (now 0x100) 0x100 ∧ s.t.spec = false ∧ LandFree s s false 63 65535 ∧ Reached s 1 .read [(0x100, 1)] [(0x40000100, 1)] s) ∧
    (let s := part (strand [(117, .w 64)])
     ReadyW s s 7 (now 8) 8 ∧ s.loadBusy true = false ∧ 63 < (s.t.pw 7 5).toNat) ∧
    (let s := part { strand [(117, .w 8), (118, .w 1)] with sys := true }
     ReadyW s s 7 (now 8) 8 ∧ s.loadBusy true = false ∧ 8 ≤ (s.t.pw 7 5).toNat ∧ (s.t.pw 7 5).toNat ≤ 63 ∧ 1 ≤ (s.t.pw 7 6).toNat) ∧
    (let s := part (strand [(117, .w 63), (118, .w 65535)])
     ReadyW s s 7 (now 8) 8 ∧ s.loadBusy true = false ∧ (s.t.pw 7 5).toNat % 2 = 1 ∧ (s.t.pw 7 6).toNat ≤ 65535) ∧
    (let s := part { strand [] with bank := { Bank.empty with
        shadow := [(117, .w 4), (118, .w 1)], land := [(4, { (default : Land) with pend := some { (default : LandPend) with due := 90 } })] } }
     ReadyW s s 7 (now 8) 8 ∧ (s.t.pw 7 5).toNat ≤ 63 ∧
      ∃ p, (s.t.bank.land.get (s.t.pw 7 5).toNat default).pend = some p ∧ s.t.now < p.due) ∧
    (ReadyW (part (strand [])) (part (strand [])) 7 (now 3) 3 ∧ (3 : Word).toNat % ElemType.n64.bytes ≠ 0) ∧
    (let m : Mv := ⟨none, .lit 0x7800000000000000⟩
     ReadyW (part (strand [])) (part (strand [])) 7 m 0x7800000000000000 ∧ canonical 0x7800000000000000 = false) := by
  have free (s : State) (n : Nat) (h : s.t.bank.land = []) (hs : s.t.sys = false) (hb : s.loadBusy false = false)
      (hn : (s.t.pw 7 5).toNat = n) (hd : (s.t.pw 7 6).toNat = 65535) (h63 : n ≤ 63) : LandFree s s false n 65535 :=
    ⟨hb, hn, hd, h63, by decide, by decide, fun hh => absurd (hs.symm.trans hh) (by decide), fun hp => absurd hp (by decide),
      fun k _ p hp => by rw [h] at hp; cases hp⟩
  refine ⟨⟨ready_now _ _ 0x100 rfl, rfl, free _ 63 rfl rfl rfl rfl rfl (by decide), ⟨by decide, rfl⟩⟩,
    ⟨ready_now _ _ 8 rfl, rfl, by decide⟩, ⟨ready_now _ _ 8 rfl, rfl, by decide, by decide, by decide⟩,
    ⟨ready_now _ _ 8 rfl, rfl, by decide, by decide⟩, ⟨ready_now _ _ 8 rfl, by decide, _, rfl, by decide⟩,
    ⟨ready_now _ _ 3 rfl, by decide⟩, ⟨⟨_, ⟨⟨.S, _, ⟨rfl, rfl, rfl, rfl⟩, rfl⟩, rfl⟩, rfl⟩, by decide⟩⟩


/-- A strand with a store to HBM of a line that its die does not own, still to be performed, and shadow ports. -/
def waitingStore (r : Rel) (ports : Tab Val) : Task :=
  { strand ports with nseq := 1, stores := [⟨0x40000100, toBytes 8 7, 0, 0, none, 0, none, r⟩] }

theorem test_witness_FenceResults :
    (let s := mapped (strand [(261, .w 0), (262, .w 5)]) []
     ReadyW s s 16 (now 0x100) 0x100 ∧ s.t.spec = false ∧ (s.settleAll s.cur).t.memIdle = true ∧ (s.t.pw 16 5).toNat = 0 ∧
      (s.t.pw 16 6).toNat ≤ 5 ∧ (1 : BitVec 3) ≠ 0 ∧ s.t.trigged = false ∧ s.t.stores = [] ∧ s.t.waitingLoads = []) ∧
    (let s := mapped (waitingStore .none [(261, .w 0), (262, .w 0)]) []
     ReadyW s s 16 (now 0x100) 0x100 ∧ (s.settleAll s.cur).t.memIdle = false ∧ (s.settleAll s.cur).t.inWalk = none) ∧
    (let s := mapped (strand [(261, .w 6), (262, .w 5)]) []
     ReadyW s s 16 (now 0x100) 0x100 ∧ 5 < (s.t.pw 16 5).toNat) ∧
    (let s := mapped (strand [(261, .w 5), (262, .w 5)]) []
     ReadyW s s 16 (now 0x100) 0x100 ∧ 1 ≤ (s.t.pw 16 5).toNat ∧ (s.t.pw 16 5).toNat ≤ 5) ∧
    (let s := mapped (waitingStore .trig []) []
     s.t.spec = false ∧ ∃ y ∈ s.t.stores, y.rel = .trig) := by
  refine ⟨⟨ready_now _ _ 0x100 rfl, rfl, by decide, by decide, by decide, by decide, rfl, rfl, rfl⟩,
    ⟨ready_now _ _ 0x100 rfl, by decide, by decide⟩, ⟨ready_now _ _ 0x100 rfl, by decide⟩,
    ⟨ready_now _ _ 0x100 rfl, by decide, by decide⟩, rfl, _, List.mem_cons_self, rfl⟩

theorem test_witness_FenceResults_releases :
    (let s := mapped { strand [] with ctl := { (default : Ctl) with otag := 7 } } [(0x40000108, 7)]
     ∃ s1, SyReached s 64 16 0x100 0x40000100 s1 ∧ SyReached s 64 8 0x100 0x40000100 s1 ∧ s1.t.spec = false ∧
      ∃ s2, s2 = s1.performWhere s1.cur (fun a => a / 256 == 0x40000100 / 256) ∧ s2.t.stores = [] ∧ s2.t.inOrder s2.t.nseq 0x40000100 16 = true ∧
       s2.loadBad 0x40000100 16 = false ∧ s2.syncRead (0x40000100 + 8) = s2.t.ctl.otag) ∧
    (let s := mapped { waitingStore .none [] with nseq := 2, stores := [⟨0x40000400, toBytes 8 7, 0, 0, none, 0, none, .none⟩,
        ⟨0x40000100, List.replicate 16 0, 0, 1, none, 0, none, .unlock⟩] } []
     ∃ s1, SyReached s 64 16 0x100 0x40000100 s1 ∧ s1.t.spec = false ∧
      ∃ y ∈ (s1.performWhere s1.cur (fun a => a / 256 == 0x40000100 / 256)).t.stores, y.rel = .unlock ∧ y.pa = 0x40000100) ∧
    (let s := mapped (waitingStore .none []) []
     ∃ s1, SyReached s 64 16 0x100 0x40000100 s1 ∧
      (s1.performWhere s1.cur (fun a => a / 256 == 0x40000100 / 256)).t.inOrder 1 0x40000100 16 = false ∧
      (s1.performWhere s1.cur (fun a => a / 256 == 0x40000100 / 256)).t.inWalk = none) ∧
    (let s : State := { mapped (strand []) [] with poison := [0x40000100 / 128] }
     ∃ s1, SyReached s 64 16 0x100 0x40000100 s1 ∧
      (s1.performWhere s1.cur (fun a => a / 256 == 0x40000100 / 256)).loadBad 0x40000100 16 = true) := by
  refine ⟨⟨_, ⟨by decide, by decide, _, _, rfl⟩, ⟨by decide, by decide, _, _, rfl⟩, rfl, _, rfl, rfl, rfl, rfl, by decide⟩,
    ⟨_, ⟨by decide, by decide, _, _, rfl⟩, rfl, by decide⟩, ⟨_, ⟨by decide, by decide, _, _, rfl⟩, by decide, by decide⟩,
    ⟨_, ⟨by decide, by decide, _, _, rfl⟩, by decide⟩⟩


theorem test_witness_RequestForms :
    (∀ port ∈ [18, 20, 29, 30, 31, 39, 40], Answered (part { strand [] with await := some ⟨port, 2, 0x40000000, [], some 5⟩ }) port 5) ∧
    (ReadyW (part (strand [])) (part (strand [])) 16 (now 0x100) 0x100 ∧ ((part (strand [])).t.pw 16 2).toNat % 64 = 0 ∧ (5 : BitVec 3).toNat ≤ 5 ∧
      ((part (strand [])).t.pw 16 7).toNat ≤ 3) ∧
    (let s := mapped (strand []) []
     ReadyW s s 16 (now 0x100) 0x100 ∧ s.t.await = none ∧ ∃ s1, SyReached s 8 8 0x100 0x40000100 s1 ∧ s1.t.spec = false ∧ s1.t.inWalk = none) := by
  refine ⟨fun port h => ?_, ⟨ready_now _ _ 0x100 rfl, by decide, by decide, by decide⟩, ready_now _ _ 0x100 rfl, rfl,
    ⟨_, ⟨by decide, by decide, _, _, rfl⟩, rfl, rfl⟩⟩
  exact ⟨_, rfl, rfl, rfl, rfl, rfl⟩


theorem test_witness_AtomicAtSite :
    (∀ port ∈ [20, 29], let a : Await := ⟨port, 2, 0x40000100, [0, 0, 0, 0, 0, 5, 6], none⟩
      let s := mapped { strand [] with await := some a } []
      (s.task 1).pick Await.atSite = some (false, a) ∧ 20 ≤ a.port ∧ a.port ≤ 29 ∧ (s.task 1).stores = [] ∧ (s.task 1).waitingLoads = [] ∧
        (∀ l ∈ linesOf a.addr 16, (s.homeLine l).st = 0 ∧ (s.homeLine l).wait = []) ∧
        ∃ s1, ({ s with cur := 1 } : State).siteReady 1 a = (s1, true) ∧ s1.loadBad a.addr 8 = false ∧ s1.t.uncommitted = false ∧
          ∃ o, place a.addr = .hbm o) ∧
    (let a : Await := ⟨20, 2, 0x40000100, [0, 0, 0, 0, 0, 5, 6], none⟩
     let s := mapped { waitingStore .none [] with await := some a } []
     (s.task 1).pick Await.atSite = some (false, a) ∧ ∃ s1, ({ s with cur := 1 } : State).siteReady 1 a = (s1, false)) ∧
    (let a : Await := ⟨20, 2, 0x40000100, [0, 0, 0, 0, 0, 5, 6], none⟩
     let s : State := { mapped { strand [] with await := some a } [] with poison := [0x40000100 / 128] }
     ∃ s1, ({ s with cur := 1 } : State).siteReady 1 a = (s1, true) ∧ s1.loadBad a.addr 8 = true) ∧
    (let s := mapped (strand []) []
     s.held = [] ∧ s.t.uncommitted = false ∧ (∃ o, place (0x40000100 + 8) = .hbm o) ∧ s.nextOwner (s.syncAt 0x40000100) = none) ∧
    (let s : State := { mapped { strand [] with ctl := { (default : Ctl) with otag := 7 } } [] with syncs := [(0x40000100, ⟨none, [(1, 8, 0)]⟩)] }
     s.nextOwner (s.syncAt 0x40000100) = some 1 ∧ (s.task 1).stage ≠ .preempted) := by
  refine ⟨fun port h => ?_, ⟨rfl, _, rfl⟩, ⟨_, rfl, by decide⟩, ⟨rfl, rfl, ⟨_, rfl⟩, by decide⟩, by decide, by decide⟩
  fin_cases h <;> exact ⟨rfl, by decide, by decide, rfl, rfl, by decide, _, rfl, by decide, rfl, _, rfl⟩


theorem test_witness_BarrierResults :
    (let s := part (strand [])
     ReadyW s s 16 (now 0x10005) 0x10005 ∧ s.t.spec = false ∧ wbits 0x10005 31 16 ≠ 0 ∧ (s.group 0).barriers.find? 5 = none ∧
      s.liveBarriers 0 0 < 64 ∧ s.t.stores = [] ∧ s.t.waitingLoads = [] ∧ ((s.group 0).barriers.get 5 (0, 0)) = (0, 0)) ∧
    ReadyW (part (strand [])) (part (strand [])) 16 (now 5) 5 ∧
    (let s : State := { part (strand []) with groups := [(0, { (default : Group) with
        barriers := (List.range 64).map (fun i => (levelNode 1 0 * 2 ^ 16 + 100 + i, (0, 0))) })] }
     ReadyW s s 16 (now 0x10005) 0x10005 ∧ (s.group s.t.group).barriers.find? (levelNode 1 s.t.core * 2 ^ 16 + 5) = none ∧
      64 ≤ s.liveBarriers (s.group s.t.group).part (levelNode 1 s.t.core)) ∧
    (let s := part (strand [(258, .w 0)])
     ReadyW s s 16 (now 5) 5 ∧ wd (s.phase s.t.group 4 s.t.core 5) = s.t.pw 16 2 ∧ s.t.inWalk = none) ∧
    (let s := part (strand [(258, .w 1)])
     ReadyW s s 16 (now 5) 5 ∧ wd (s.phase s.t.group 4 s.t.core 5) ≠ s.t.pw 16 2) :=
  ⟨⟨ready_now _ _ 0x10005 rfl, rfl, by decide, by decide, by decide, rfl, rfl, rfl⟩, ready_now _ _ 5 rfl,
    ⟨ready_now _ _ 0x10005 rfl, by decide, by decide⟩, ⟨ready_now _ _ 5 rfl, by decide, rfl⟩, ready_now _ _ 5 rfl, by decide⟩


theorem test_witness_QueueResults :
    (let s : State := { part (strand []) with cores := [(0, { Core.init with queues := [(3, ⟨some (0x100, 3, 4), 3, 9⟩)] })] }
     let y := s.queue s.t.core 3
     (ReadyW s s 16 (now 6) 6 ∧ s.t.spec = false ∧ s.t.await = none ∧ s.outstanding s.t.core 3 = false ∧ wbits 6 63 62 = 0 ∧ wbits 6 31 0 ≤ y.count) ∧
     (ReadyW s s 16 (now 7) 7 ∧ y.count < wbits 7 31 0 ∧ wbits 7 31 0 ≤ y.cap ∧ y.cfg ≠ none ∧ wbits 7 31 0 ≤ y.cap - y.count ∧ s.t.inWalk = none) ∧
     (ReadyW s s 16 (now 17) 17 ∧ y.cap < wbits 17 31 0) ∧ (ReadyW s s 16 (now 16) 16 ∧ wbits 16 31 0 ≤ y.cap ∧ y.cap - y.count < wbits 16 31 0) ∧
     (s.queue s.t.core 4).cfg = none ∧
     ReadyW s s 16 ⟨none, .lit 0x400000000000000A⟩ 0x400000000000000A ∧ wbits 0x400000000000000A 63 62 = 1 ∧
     ReadyW s s 16 ⟨none, .lit 0x8000000003400100⟩ 0x8000000003400100 ∧ wbits 0x8000000003400100 63 62 = 2 ∧
     ReadyW s s 16 ⟨none, .lit 0x8000000002400100⟩ 0x8000000002400100 ∧ ReadyW s s 16 ⟨none, .lit 0xC000000000000000⟩ 0xC000000000000000) :=
  ⟨⟨ready_now _ _ 6 rfl, rfl, rfl, by decide, by decide, by decide⟩, ⟨ready_now _ _ 7 rfl, by decide, by decide, by decide, by decide, rfl⟩,
    ⟨ready_now _ _ 17 rfl, by decide⟩, ⟨ready_now _ _ 16 rfl, by decide, by decide⟩, by decide,
    ⟨_, ⟨⟨.S, _, ⟨rfl, rfl, rfl, rfl⟩, rfl⟩, rfl⟩, rfl⟩, by decide, ⟨_, ⟨⟨.S, _, ⟨rfl, rfl, rfl, rfl⟩, rfl⟩, rfl⟩, rfl⟩, by decide,
    ⟨_, ⟨⟨.S, _, ⟨rfl, rfl, rfl, rfl⟩, rfl⟩, rfl⟩, rfl⟩, ⟨_, ⟨⟨.S, _, ⟨rfl, rfl, rfl, rfl⟩, rfl⟩, rfl⟩, rfl⟩⟩


/-- Ports of a matrix operation: token 7, B type of code 0, a tile of class 6 at port 5, of class 5 at ports 6 and 7. -/
def mxPorts : Tab Val := [(206, .w 7), (197, .w 194), (198, .w 163), (199, .w 163)]

/-- The part with a strand that owns tiles 163, 194 and 224. -/
def tiled (ports : Tab Val) : State := part { strand ports with tmap := [(163, 3), (194, 2), (224, 5)] }

theorem test_witness_MatrixForms :
    (let s := tiled mxPorts
     let flag (i : Nat) : Bool := (s.t.pw 12 12).getLsbD i
     ReadyW s s 12 (now 5) 5 ∧ TokFree s s 12 14 7 ∧ s.t.replaying = false ∧ s.t.recording = false ∧ NoImport s ∧
      (s.t.pw 12 13).toNat = 0 ∧ ElemType.ofCode 0 = some .s8 ∧ pairOk .s8 .s8 = true ∧ flag 2 = false ∧ flag 3 = false ∧
      flag 4 = false ∧ flag 0 = false ∧ flag 7 = false ∧ (s.t.tileAt 12 6 [5]).isSome = true ∧ (s.t.tileAt 12 7 [5]).isSome = true ∧
      (s.t.tileAt 12 5 [6]).isSome = true ∧ (s.t.tileAt 12 5 [6, 7]).isSome = true ∧ (s.t.tileAt 12 5 [5, 6]).isSome = true ∧
      (s.t.tileAt 12 6 [5, 6, 7]).isSome = true) ∧
    (let s := tiled ((204, .w 128) :: mxPorts)
     ReadyW s s 12 (now 5) 5 ∧ TokFree s s 12 14 7 ∧ (s.t.pw 12 12).getLsbD 7 = true ∧ (s.t.tileAt 12 5 [6]).isSome = true) ∧
    (ReadyW (tiled [(206, .w 8)]) (tiled [(206, .w 8)]) 12 (now 5) 5 ∧ (tiled [(206, .w 8)]).tokenBusy 12 14 = false ∧ 7 < ((tiled [(206, .w 8)]).t.pw 12 14).toNat) ∧
    (let s := part { strand [(206, .w 7)] with toks := [(7, ⟨.pending, 12, 0, 0, [], false⟩)] }
     ReadyW s s 12 (now 5) 5 ∧ (s.t.pw 12 14).toNat ≤ 7 ∧ (s.t.tok (s.t.pw 12 14).toNat).holds = true) ∧
    (let s := part (strand [(206, .w 7), (205, .w 1)])
     ReadyW s s 12 (now 5) 5 ∧ TokFree s s 12 14 7 ∧ (s.t.pw 12 13).toNat ∉ [0, 4, 8, 9, 12, 13, 14, 15] ∧
      s.t.tileAt 12 5 [5, 6] = none ∧ s.t.tileAt 12 5 [6, 7] = none ∧ s.t.tileAt 12 6 [5, 6, 7] = none) ∧
    (ElemType.ofCode 0 = some .s8 ∧ pairOk .f32 .s8 = false) := by
  refine ⟨⟨ready_now _ _ 5 rfl, ⟨rfl, rfl, by decide, rfl⟩, rfl, rfl, noImport_strand _ rfl, by decide⟩, ⟨ready_now _ _ 5 rfl, ⟨rfl, rfl, by decide, rfl⟩, by decide⟩,
    ⟨ready_now _ _ 5 rfl, rfl, by decide⟩, ⟨ready_now _ _ 5 rfl, by decide⟩, ⟨ready_now _ _ 5 rfl, ⟨rfl, rfl, by decide, rfl⟩, by decide⟩, by decide⟩


/-- An operation of a token engine of core 0. -/
def engineOp (unit form : Nat) : EngOp := { (default : EngOp) with task := 1, tok := 2, unit := unit, form := form }

/-- The part whose matrix unit of core 0 has that operation at its head. -/
def heading (o : EngOp) : State := { part (strand []) with cores := [(0, { Core.init with mxq := [o] })] }

theorem test_witness_EngineOrder :
    (let o : EngOp := { engineOp 12 21 with run := true, regs := [(5, coreWin 0 0x80000), (8, 5)] }
     ((heading o).coreAt 0).mxq = o :: [] ∧ o.run = true ∧ o.unit = 12 ∧ o.form = 21 ∧ o.err = 0 ∧ o.out = [] ∧ o.reg 20 = 0 ∧ o.reg 4 = 0) ∧
    (∀ err ∈ [0, 255], let o : EngOp := { engineOp 12 23 with run := true, err := err, detail := 2 ^ 32 - 1, regs := [(20, 1)] }
     ((heading o).coreAt 0).mxq = o :: [] ∧ o.run = true ∧ o.unit = 12 ∧ o.form ∈ [16, 17, 19, 20, 21, 22, 23] ∧ o.recs = [] ∧ o.out = [] ∧
      o.reg 20 = 1 ∧ ((heading o).task o.task).stage ≠ .preempted ∧ o.err < 256 ∧ o.detail < 2 ^ 32) ∧
    (let o : EngOp := { engineOp 12 16 with run := true, out := [(coreWin 0 0x80040, List.replicate 0x80 1)] }
     ((heading o).coreAt 0).mxq = o :: [] ∧ o.run = true ∧ o.unit = 12 ∧ o.form ∈ [16, 17, 19, 20, 21, 22] ∧
      o.out = [(coreWin 0 0x80040, List.replicate 0x80 1)] ∧ o.reg 4 = 0) ∧
    (let o : EngOp := engineOp 12 16
     ((heading o).coreAt 0).mxq = o :: [] ∧ o.unit = 12 ∧ o.run = false ∧ o.form ≠ 24 ∧ o.isBroadcast = false) := by
  refine ⟨by decide, by decide, by decide, by decide⟩

/-- A part whose cores 0 and 1, both in group 0 of their cluster, hold these broadcasts. -/
def joined (o o' : EngOp) : State :=
  { part (strand []) with cores := [(0, { Core.init with mxq := [o], bgroup := some 24 }), (1, { Core.init with mxq := [o'], bgroup := some 24 })] }

/-- A broadcast of K = k. -/
def bcast (k : Word) : EngOp := { engineOp 12 16 with ports := [(12, .w 16)], trig := k }

theorem joined_members : ∀ k ∈ [5, 6], (joined (bcast 5) (bcast k)).members 0 0 = [(0, 24, some (bcast 5)), (1, 24, some (bcast k))] := by
  intro k hk
  fin_cases hk <;> rfl

/-- Two members that agree, and two that do not. -/
theorem test_witness_EngineOrder_broadcast :
    (∀ k ∈ [5, 6], let ms := (joined (bcast 5) (bcast k)).members 0 0
     (ms.headD (0, 0, none)).2.2 = some (bcast 5) ∧
      (∀ x ∈ ms, ((joined (bcast 5) (bcast k)).coreAt (0 * 8 + x.1)).freeze = none ∧
        (∃ o, x.2.2 = some o ∧ o.unit = 12 ∧ o.reg 23 = 0 ∧ o.agrees (bcast 5) = decide (o.trig = 5)) ∧
        Tab.get ((joined (bcast 5) (bcast k)).cluster 0).joins x.1 0 = 0 ∧ x.2.1 = 24 ∧
        ∀ i < 8, ((24 : Nat) / 8).testBit i = true → ∃ y ∈ ms, y.1 = i)) := by
  intro k hk
  rw [joined_members k hk]
  have hf : ∀ i < 2, ((joined (bcast 5) (bcast k)).coreAt (0 * 8 + i)).freeze = none := by
    intro i hi
    fin_cases hk <;> interval_cases i <;> rfl
  refine ⟨rfl, fun x hx => ?_⟩
  simp only [List.mem_cons, List.not_mem_nil, or_false] at hx
  have hm : ∀ i < 8, ((24 : Nat) / 8).testBit i = true → i = 0 ∨ i = 1 := by decide
  have hb : ∀ i < 8, ((24 : Nat) / 8).testBit i = true →
      ∃ y ∈ [(0, 24, some (bcast 5)), (1, 24, some (bcast k))], y.1 = i := by
    intro i hi h
    rcases hm i hi h with rfl | rfl
    · exact ⟨_, List.mem_cons_self, rfl⟩
    · exact ⟨_, List.mem_cons_of_mem _ List.mem_cons_self, rfl⟩
  rcases hx with rfl | rfl
  · exact ⟨hf 0 (by decide), ⟨_, rfl, rfl, rfl, by decide⟩, rfl, rfl, hb⟩
  · refine ⟨hf 1 (by decide), ⟨_, rfl, rfl, rfl, ?_⟩, rfl, rfl, hb⟩
    fin_cases hk <;> decide


/-- The part with a strand whose ports name free tokens, a tile and the window of queue 0 of core 0. -/
def engines : State := tiled [(213, .w 7), (215, .w 194), (229, .w 7), (251, .w 7), (255, .w 0)]

/-- The window that a relay names is permitted where its core is not fused off. -/
theorem relay_permitted : engines.permits (engines.accOf engines.t) (coreWin 0 0xA0000) = !Config.fusedOff 0 := by
  have h : place (coreWin 0 0xA0000) = .push 0 0 := by decide
  rw [State.permits, h]
  dsimp only
  cases Config.fusedOff 0 <;> rfl

theorem test_witness_EngineForms :
    (let s := engines
     (ReadyW s s 13 (now 5) 5 ∧ TokFree s s 13 5 7 ∧ (s.t.tileAt 13 7 [6, 7]).isSome = true) ∧
     (ReadyW s s 14 (now 5) 5 ∧ s.t.spec = false ∧ TokFree s s 14 5 7 ∧ xModeOk 18 (s.t.pw 14 10) = true)) ∧
    (let s := part (strand [])
     ReadyW s s 13 (now 5) 5 ∧ TokFree s s 13 5 0 ∧ s.t.tileAt 13 7 [6, 7] = none) ∧
    (let s := part (strand [(213, .w 8), (229, .w 8)])
     (ReadyW s s 13 (now 5) 5 ∧ s.tokenBusy 13 5 = false ∧ 7 < (s.t.pw 13 5).toNat) ∧
     (ReadyW s s 14 (now 5) 5 ∧ s.t.spec = false ∧ s.tokenBusy 14 5 = false ∧ 7 < (s.t.pw 14 5).toNat)) ∧
    (let s := part { strand [(213, .w 7), (229, .w 7)] with toks := [(7, ⟨.pending, 12, 0, 0, [], false⟩)] }
     (s.t.pw 13 5).toNat ≤ 7 ∧ (s.t.tok (s.t.pw 13 5).toNat).holds = true ∧ (s.t.tok (s.t.pw 14 5).toNat).holds = true) ∧
    (let s := part (strand [(234, .w 3)])
     ReadyW s s 14 (now 5) 5 ∧ xModeOk 16 (s.t.pw 14 10) = false ∧ s.tokenBusy 14 5 = false) := by
  refine ⟨⟨⟨ready_now _ _ 5 rfl, ⟨rfl, rfl, by decide, rfl⟩, rfl⟩, ⟨ready_now _ _ 5 rfl, rfl, ⟨rfl, rfl, by decide, rfl⟩, by decide⟩⟩,
    ⟨ready_now _ _ 5 rfl, ⟨rfl, rfl, by decide, rfl⟩, rfl⟩, ⟨⟨ready_now _ _ 5 rfl, rfl, by decide⟩, ready_now _ _ 5 rfl, rfl, rfl, by decide⟩,
    by decide, ready_now _ _ 5 rfl, by decide, rfl⟩

/-- Both outcomes of a relay's check have states: a core is fused off or not (R85). -/
theorem test_witness_CopyForms :
    (let s := engines
     ReadyW s s 15 (now 5) 5 ∧ s.t.spec = false ∧ TokFree s s 15 11 7 ∧
      coreWin (relayPeer (s.t.pw 15 15)).1 (0xA0000 + (relayPeer (s.t.pw 15 15)).2 * 0x1000) = coreWin 0 0xA0000 ∧
      s.permits (s.accOf s.t) (coreWin 0 0xA0000) = !Config.fusedOff 0) ∧
    (let s := part (strand [(251, .w 8)])
     ReadyW s s 15 (now 5) 5 ∧ s.tokenBusy 15 11 = false ∧ 7 < (s.t.pw 15 11).toNat) ∧
    (let s := part { strand [(251, .w 7)] with toks := [(7, ⟨.pending, 12, 0, 0, [], false⟩)] }
     ReadyW s s 15 (now 5) 5 ∧ (s.t.pw 15 11).toNat ≤ 7 ∧ (s.t.tok (s.t.pw 15 11).toNat).holds = true) ∧
    (ReadyW (part (strand [])) (part (strand [])) 15 (now 0x602) 0x602 ∧ wbits 0x602 10 8 = 4 + 2 ∧ wbits 0x702 10 8 = 7 ∧ wbits 0x102 10 8 = 1 ∧
      wbits 0x2 10 8 = 0) := by
  refine ⟨⟨ready_now _ _ 5 rfl, rfl, ⟨rfl, rfl, by decide, rfl⟩, by decide, relay_permitted⟩, ⟨ready_now _ _ 5 rfl, rfl, by decide⟩,
    ⟨ready_now _ _ 5 rfl, by decide⟩, ready_now _ _ 0x602 rfl, by decide⟩


/-- An anchor operation of core 0: parameters, a destination and the rows of its run. -/
def anchorOp : EngOp := { engineOp 13 16 with
  run := true
  aparam := [(1, 0x3F800000), (2, 0x100), (3, 0x4000000100)]
  ports := [(8, .w 0x100)]
  regs := [(12, 4), (16, coreWin 0 0x80000 + 1), (17, 6)] }

/-- The part whose core 0 executes a row of an anchor operation. -/
def anchored (r : ARow) (width : Nat := 4) : State :=
  { part (strand []) with
    turn := some (.anchor 0)
    cores := [(0, { Core.init with anq := [anchorOp], row := some r, queues := [(0, ⟨some (0x100, width, 4), 0, 0⟩)] })] }

/-- A row of 32 lanes of 0. -/
def anchorRow : ARow := ⟨0, List.replicate 32 0, 0, 0, 0, 1022, 1023, [(coreWin 0 0x100, [1])], 0⟩

theorem test_witness_AnchorLaneWords :
    let s := anchored anchorRow
    s.anHead s.core = some anchorOp ∧ (s.coreAt s.core).row = some anchorRow ∧ anchorRow.count < 1024 ∧ anchorRow.word < 1023 ∧
      anchorRow.x.length = 32 ∧
      (let off := wbits (anchorOp.param 2) 18 0
       off % 4 = 0 ∧ off + 128 ≤ 0x80000 ∧ s.bad (coreWin anchorOp.core off) 128 = false) ∧
      (let off := wbits (anchorOp.param 3) 18 0 + anchorRow.row * wbits (anchorOp.param 3) 37 24
       off % (anType 2).bytes = 0 ∧ off + 32 * (anType 2).bytes ≤ 0x80000 ∧ s.bad (coreWin anchorOp.core off) (32 * (anType 2).bytes) = false) := by
  exact ⟨rfl, rfl, by decide, by decide, by decide, by decide, by decide⟩


theorem test_witness_AnchorRowWrites :
    (let s := anchored anchorRow
     let o := anchorOp
     s.anHead s.core = some o ∧ (s.coreAt s.core).row = some anchorRow ∧ anchorRow.count < 1024 ∧ anchorRow.word < 1023 ∧ o.reg 19 ≠ 1 ∧
      o.core = s.core ∧ (wbits (o.param 2) 18 0 + 4 * anchorRow.row) % 4 = 0 ∧ anchorRow.row = 0 ∧ wbits (o.param 2) 18 0 % 8 = 0 ∧
      o.reg 16 ≠ 0 ∧ o.reg 18 = 0 ∧ 32 * (anType anchorRow.ty).bytes ≤ 128 ∧ wbits (o.pw 8) 18 0 % (anType anchorRow.ty).bytes = 0 ∧
      (1 : Nat) ≤ anchorRow.word ∧ ∀ p ∈ anchorRow.pend, p.1 < 2 ^ 60) ∧
    (let r : ARow := { anchorRow with row := 3 }
     ((anchored r).coreAt 0).row = some r ∧ r.row ≠ 0 ∧ anchorOp.reg 12 ≤ r.row + 1) ∧
    (let s := anchored anchorRow 7
     (s.queue anchorOp.core (wbits (anchorOp.pw 8) 3 0)).entry = 32 * (anType anchorRow.ty).bytes) ∧
    (let r : ARow := { anchorRow with count := 1024, word := 1023 }
     ((anchored r).coreAt 0).row = some r ∧ (anchored r).anHead 0 = some anchorOp ∧ anchorOp.unit = 13 ∧ 1024 ≤ r.count ∧
      r.row * 1024 + r.word < 2 ^ 32) ∧
    (let r : ARow := { anchorRow with word := 1023 }
     ((anchored r).coreAt 0).row = some r ∧ r.count < 1024 ∧ r.word = 1023) := by
  exact ⟨⟨rfl, rfl, by decide, by decide, by decide, by decide, by decide, by decide, by decide, by decide, by decide, by decide, by decide, by decide, by decide⟩,
    ⟨rfl, by decide⟩, by decide, ⟨rfl, rfl, by decide⟩, ⟨rfl, by decide⟩⟩


theorem test_witness_SpawnAndStart :
    (let s := part (strand [(279, .w 3), (280, .w 0x800000000000002F), (277, .w 0x40)])
     ReadyW s s 17 (now 0) 0 ∧ (s.t.pw 17 7).toNat ≤ 3 ∧ s.cur < s.ntasks ∧ wbits (s.t.pw 17 8) 5 0 ≤ 47 ∧ ReadyW s s 17 (now 0x10001) 0x10001 ∧
      (s.t.pw 17 5).toNat % 32 = 0 ∧ canonical (s.t.pw 17 5) = true ∧ s.spawnFault 0x10001 = some 2) ∧
    (let s := part { strand [(279, .w 3), (282, .w 0x100810)] with await := some ⟨16, 2, 0, [], some 0⟩ }
     ReadyW s s 17 (now 0x10000) 0x10000 ∧ s.spawnFault 0x10000 = none ∧ Answered s 16 0) ∧
    (let s := part (strand [(277, .w 1)])
     ReadyW s s 17 (now 2) 2 ∧ (s.t.pw 17 5).toNat % 32 ≠ 0) :=
  ⟨⟨ready_now _ _ 0 rfl, by decide, by decide, by decide, ready_now _ _ 0x10001 rfl, by decide, by decide, rfl⟩,
    ⟨ready_now _ _ 0x10000 rfl, rfl, _, rfl, rfl, rfl, rfl, rfl⟩, ready_now _ _ 2 rfl, by decide⟩


theorem test_witness_ViewForms :
    (let s := part (strand [(283, .w 0xA00), (284, .w 0x100), (285, .w 0x1000000)])
     ReadyW s s 17 (now 15) 15 ∧ ElemType.ofCode (wbits (s.t.pw 17 11) 12 8) = some .f32 ∧ viewOpOk (wbits (s.t.pw 17 11) 3 0) 10 = true ∧
      (s.t.pw 17 13).toNat % ElemType.f32.bytes = 0 ∧ (s.t.pw 17 13).toNat ≤ 2 ^ 24 ∧ s.viewHeld s.t 15 = false ∧
      wbit (s.t.pw 17 12) 63 = false ∧ (s.t.pw 17 12).toNat % 256 = 0 ∧ canonical (s.t.pw 17 12) = true ∧
      (s.t.views.get 31 default).st = 0 ∧ ReadyW s s 17 (now 16) 16) ∧
    (let s := tiled [(283, .w 0xA00), (284, .w 0x80000000000000E0), (285, .w 4096)]
     ReadyW s s 17 (now 3) 3 ∧ wbit (s.t.pw 17 12) 63 = true ∧ s.t.hasTile (wbits (s.t.pw 17 12) 7 0) = true ∧
      (s.t.pw 17 13).toNat = tileSize (wbits (s.t.pw 17 12) 7 0 / 32)) ∧
    (let s := part { strand [(283, .w 0xA06), (285, .w 0x1000001)] with views := [(16 + 3, ⟨0x100, 64, 0, 10, 1, 0, 0⟩)] }
     ReadyW s s 17 (now 3) 3 ∧ (s.t.views.get 19 default).st ≠ 0 ∧ viewOpOk (wbits (s.t.pw 17 11) 3 0) 10 = false ∧
      2 ^ 24 < (s.t.pw 17 13).toNat) :=
  ⟨⟨ready_now _ _ 15 rfl, rfl, by decide, by decide, by decide, rfl, by decide, by decide, by decide, rfl, ready_now _ _ 16 rfl⟩,
    ⟨ready_now _ _ 3 rfl, by decide, by decide, by decide⟩, ready_now _ _ 3 rfl, by decide, by decide, by decide⟩


theorem test_witness_TaskEndForms :
    (let s : State := { part { strand [] with kids := [5] } with tasks := [(1, { strand [] with kids := [5] }), (5, { strand [] with stage := .retired })] }
     ReadyW s s 17 (now 9) 9 ∧ s.t.ord = false ∧ s.t.waitMask 255 = 0 ∧ s.t.redo = 0 ∧ s.t.inWalk = none ∧
      ∀ k ∈ s.t.kids, k ≠ s.cur ∧ (s.task k).settled = true) ∧
    (let s : State := { part { strand [] with kids := [5] } with tasks := [(1, { strand [] with kids := [5] }), (5, strand [])] }
     ReadyW s s 17 (now 9) 9 ∧ s.t.ord = false ∧ s.t.redo = 0 ∧ ∃ k ∈ s.t.kids, k ≠ s.cur ∧ (s.task k).settled = false) ∧
    (part { strand [] with toks := [(7, ⟨.pending, 12, 0, 0, [], false⟩)] }).t.waitMask 255 ≠ 0 ∧
    (let s := part { strand [] with setup := { (default : Setup) with mode := 1 }, stamp := 9 }
     ReadyW s s 17 (now 8) 8 ∧ s.t.ord = true ∧ (8 : Word).toNat < s.t.stamp ∧ s.t.stamp ≤ (9 : Word).toNat ∧ s.t.stored = false ∧ s.t.ordered = []) ∧
    (part { strand [] with setup := { (default : Setup) with mode := 1 }, stored := true }).t.stored = true := by
  refine ⟨⟨ready_now _ _ 9 rfl, rfl, by decide, rfl, rfl, by decide⟩, ⟨ready_now _ _ 9 rfl, rfl, rfl, 5, by decide⟩, by decide,
    ⟨ready_now _ _ 8 rfl, by decide, by decide, by decide, rfl, rfl⟩, rfl⟩


theorem test_witness_BlockAndPartnerForms :
    (let s := part { strand [] with block := some ⟨0x40, 0xFE0, 1, 17, 0, false, []⟩ }
     ReadyW s s 18 (now 0x40) 0x40 ∧ (∃ b, s.t.block = some b ∧ b.desc = 0x40 ∧ s.t.pc = b.entry + wd (32 * b.nb)) ∧ s.t.drain = none) ∧
    (let s := part { strand [] with block := some ⟨0x40, 0xFE0, 2, 17, 0, false, []⟩ }
     ReadyW s s 18 (now 0x40) 0x40 ∧ ∃ b, s.t.block = some b ∧ s.t.pc ≠ b.entry + wd (32 * b.nb)) ∧
    (let s := mapped (strand []) [(0x40000040, 0x20), (0x40000041, 0x10), (0x40000048, 1), (0x40000065, 1)]
     ReadyW s s 18 (now 0x40) 0x40 ∧ s.t.block = none ∧ s.t.ctl.dbmode ≠ 1 ∧ ∃ ps s1,
      s.reach s.t.core (s.asidOf s.t) (s.accOf s.t) .read 0x40 64 = (s1, .ok ps) ∧ s1.badAll ps = false ∧ s1.t = s.t ∧
        blockDescOk (s1.loadAll ps) = true ∧ (blockDesc (s1.loadAll ps)).entry = s.t.pc + 32) ∧
    (let s := part (strand [])
     ReadyW s s 18 (now 1) 1 ∧ s.t.waitMask 255 = 0 ∧ ReadyW s s 18 (now 2) 2 ∧ ReadyW s s 18 (now 16) 16) ∧
    (let s := part { strand [] with toks := [(7, ⟨.pending, 12, 0, 0, [], false⟩)] }
     ReadyW s s 18 (now 0) 0 ∧ s.t.block = none ∧ s.t.waitMask 255 ≠ 0 ∧ s.t.inWalk = none) ∧
    (let s := tiled []
     (ReadyW s s 18 (now 3) 3 ∧ (3 : Word).getLsbD 1 = true ∧ s.t.hasTile 225 = false) ∧
      (ReadyW s s 18 (now 1) 1 ∧ ∀ n < 16, (1 : Word).getLsbD n = true → s.t.hasTile (224 + n) = true)) := by
  refine ⟨⟨ready_now _ _ 0x40 rfl, ⟨_, rfl, by decide⟩, rfl⟩, ⟨ready_now _ _ 0x40 rfl, ⟨_, rfl, by decide⟩⟩,
    ⟨ready_now _ _ 0x40 rfl, rfl, by decide, _, _, rfl, rfl, rfl, rfl, rfl⟩,
    ⟨ready_now _ _ 1 rfl, by decide, ready_now _ _ 2 rfl, ready_now _ _ 16 rfl⟩, ⟨ready_now _ _ 0 rfl, rfl, by decide, rfl⟩,
    ⟨ready_now _ _ 3 rfl, by decide, by decide⟩, ready_now _ _ 1 rfl, by decide⟩


/-- A strand with a reverse stack of four chunks in local store, at a stack pointer. -/
def stacked (rsp : Word) : Task :=
  { strand [] with
    setup := { (default : Setup) with resid := [4, 0x10000, 0, 0, 0, 0] }
    ctl := { (default : Ctl) with rsp := rsp }
    chunks := [(0, 2), (3, 8)] }

theorem test_witness_RecordForms :
    (let s := part (stacked 16352)
     let r := recordBytes 0 0 0 0 0 (toBytes 8 0)
     ReadyW s s 18 (now 0) 0 ∧ ReadyW s s 18 (now 2) 2 ∧ s.t.inWalk = none ∧ s.t.drain = none ∧ s.t.cur.pushed = 0 ∧ s.t.top = 16352 ∧
      s.t.top + r.length ≤ s.t.residCap ∧ (chunksOf 16352 r.length).length ≤ s.t.seg 0 ∧ ∀ c ∈ chunksOf 16352 r.length, s.t.resident c = true) ∧
    (let s := part (stacked 16353)
     ReadyW s s 18 (now 0) 0 ∧ s.t.residCap < s.t.top + (recordBytes 0 0 0 0 0 (toBytes 8 0)).length) ∧
    (let s := part (stacked 15)
     ReadyW s s 18 (now 1) 1 ∧ s.t.top < 16) ∧
    (let s := mapped (stacked 16) [(coreWin 0 0x10004, 1)]
     ReadyW s s 18 (now 1) 1 ∧ s.t.top = 16 ∧ ∃ trb, s.residSee (16 - 16) 16 = .ok (trb, false) ∧ (trailerOf trb).kind = 1 ∧
      (trailerOf trb).size = 16 ∧ (∃ p, s.residSee (16 - 16) (trailerOf trb).plen = .ok (p, false)) ∧
      ∀ c ∈ (chunksOf 0 16).take (s.t.seg 0), s.t.resident c = true) ∧
    (let s := mapped (stacked 16) [(coreWin 0 0x10004, 2)]
     ∃ trb, s.residSee (16 - 16) 16 = .ok (trb, false) ∧ (trailerOf trb).kind = 2) :=
  ⟨⟨ready_now _ _ 0 rfl, ready_now _ _ 2 rfl, rfl, rfl, rfl, by decide, by decide, by decide, by decide⟩, ⟨ready_now _ _ 0 rfl, by decide⟩,
    ⟨ready_now _ _ 1 rfl, by decide⟩, ⟨ready_now _ _ 1 rfl, by decide, _, rfl, by decide, by decide, ⟨_, rfl⟩, by decide⟩, _, rfl, by decide⟩


/-- A retriever of core 0 that runs task 1, with its registers, on a part with memory and queues. -/
def assisted (x : Tab Word) (queues : Tab Queue) (h : Helper := default) (mem : List Cell := []) : State :=
  { part (strand []) with
    mem := mem
    cores := [(0, { Core.init with tlb := pages, res := [(0, 1)], queues := queues, ret := { h with st := 1, task := 1, x := x, stat := 0x7FFF8 } })] }

theorem test_witness_HelperBaseForms :
    (let s := assisted [(1, 0x7FF8), (2, 0x17FFF8), (3, 0x17FFF9), (4, 0x7FF9)] []
     ((s.h.r 1 + 0).toNat + 8 ≤ 0x8000) ∧ (0x100000 ≤ (s.h.r 2 + 0).toNat ∧ (s.h.r 2 + 0).toNat + 8 ≤ 0x180000 ∧
      s.bad (coreWin s.core ((s.h.r 2 + 0).toNat - 0x100000)) 8 = false) ∧ 0x180000 < (s.h.r 3 + 0).toNat + 8 ∧
      (0x8000 < (s.h.r 4 + 0).toNat + 8 ∧ (s.h.r 4 + 0).toNat < 0x100000) ∧ (5 : BitVec 5) ≠ 0 ∧ s.h.r 5 = 0) ∧
    ((63 : Nat) < 64 ∧ (assisted [] []).core < 512 ∧ (assisted [] []).h.stat < 0x80000 ∧ (assisted [] []).h.wr = [] ∧ (assisted [] []).h.out = []) ∧
    ((assisted [] []).settleH.h.wr = [] ∧ (assisted [] []).settleH.h.out = [] ∧
      (assisted [] [] { (default : Helper) with out := [(3, 0, 0, 0)] }).settleH.h.out ≠ []) := by
  decide


theorem test_witness_HelperAtomics :
    (let s : State := { assisted [(1, 0x7FF8), (2, 4)] [] with lrs := [(2 ^ 60 + 0x7FF8, 8, 0)] }
     (s.h.r 1).toNat % 8 = 0 ∧ (s.h.r 1).toNat + 8 ≤ 0x8000 ∧ (2 ^ 60 + s.hid * 2 ^ 20 + (s.h.r 1).toNat, 8, s.hid) ∈ s.lrs ∧
      (s.h.r 2).toNat % 8 ≠ 0) ∧
    (let s := assisted [(1, 0)] []
     (s.h.r 1).toNat % 8 = 0 ∧ (2 ^ 60 + s.hid * 2 ^ 20 + (s.h.r 1).toNat, 8, s.hid) ∉ s.lrs ∧ s.h.wr = [] ∧ s.h.out = []) ∧
    (assisted [] [] { (default : Helper) with out := [(3, 0, 0, 0)] }).settleH.h.out ≠ [] := by
  decide


theorem test_witness_HelperForms :
    (let s := assisted [(1, 4), (2, 8), (3, 10), (4, 11), (5, 6), (6, 7), (7, 16), (8, 17)] [(3, ⟨some (0x100, 3, 4), 3, 9⟩)]
     let y := s.queue s.core 3
     let n (r : BitVec 5) : Nat := wbits (s.h.r r) 31 0
     (s.queue s.core 4).cfg = none ∧ y.cfg ≠ none ∧ (s.h.r 1).toNat % 8 ≠ 0 ∧ (s.h.r 2).toNat % 8 = 0 ∧ 8 ≤ y.cap * y.entry ∧
      s.badAll (s.queueRuns y y.head (s.h.r 2).toNat 8) = false ∧ s.settleOver (coreWin s.core 0x100) (2 ^ 7) = s ∧ s.outstanding s.core 3 = false ∧
      (n 3 ≤ y.cap - y.count ∧ y.cap - y.count < n 4) ∧ (n 5 ≤ y.count ∧ y.count < n 6) ∧ (n 7 ≤ y.cap ∧ y.cap - y.count < n 7 ∧ y.cap < n 8) ∧
      s.settleH.h.out = [] ∧ s.settleH.h.wr = []) ∧
    (let s : State := { assisted [(2, 8)] [(3, ⟨some (0x100, 3, 4), 3, 9⟩)] with poison := [coreWin 0 0x100 / 128] }
     let y := s.queue s.core 3
     s.badAll (s.queueRuns y y.head (s.h.r 2).toNat 8) = true) ∧
    (let s := assisted [(1, 320), (2, 64), (3, 65)] [(3, ⟨some (0x100, 3, 4), 3, 9⟩)]
     let y := s.queue s.core 3
     wbits (s.h.r 4) 6 0 = 0 ∧ 64 < wbits (s.h.r 3) 6 0 ∧ wbits (s.h.r 2) 6 0 = 64 ∧ y.cfg ≠ none ∧ (s.h.r 1).toNat + 64 ≤ y.count * y.entry * 8 ∧
      y.count ≤ y.cap ∧
      s.badAll (s.queueRuns y y.head ((s.h.r 1).toNat / 8) 8) = false) ∧
    ((6 : BitVec 3).toNat = 6 ∧ (assisted [] [] { (default : Helper) with out := [(3, 0, 0, 0)] }).settleH.h.out ≠ []) ∧
    (assisted [] [(3, ⟨some (0x100, 3, 4), 3, 9⟩)] { (default : Helper) with out := [(3, 0, 0, 0)] }).outstanding 0 3 = true := by
  decide


/-- Two sectors of virtual address 0, as one row. -/
def twoSectors : Helper := { (default : Helper) with desc := [(0, ⟨0, 128, 0x200000001, 0⟩)] }

theorem test_witness_HelperBulkAndEvents :
    (let s := assisted [(2, 2)] [(3, ⟨some (0x100, 7, 1), 0, 0⟩)] twoSectors
     let d := s.h.stream (wbits (s.h.r 1) 2 0)
     let y := s.queue s.core 3
     let left := min ((s.h.r 2).toNat - s.h.moved) d.left
     (d.base.toNat % 128 = 0 ∧ d.pitch.toNat % 128 = 0) ∧
      (y.cfg = some (0x100, 7, 1) ∧ 128 % y.entry = 0 ∧ 128 * (s.h.moved + left) ≤ y.cap * y.entry) ∧ left = 2 ∧
      s.settleOver (coreWin s.core 0x100) (2 ^ 8) = s ∧ (s.helper s.core (1 - s.hsel)).outOn 3 = 0 ∧
      ceilDiv (128 * s.h.outOn 3) y.entry * y.entry + 128 * left ≤ (y.cap - y.count) * y.entry ∧ s.h.out.length + left ≤ 64 ∧
      y.count * y.entry < 128 * left) ∧
    (let s := assisted [(2, 2)] [(3, ⟨some (0x100, 7, 1), 0, 0⟩)] { twoSectors with out := List.replicate 63 (4, 0, 0, 0) }
     let left := min ((s.h.r 2).toNat - s.h.moved) (s.h.stream (wbits (s.h.r 1) 2 0)).left
     s.h.out.length < 64 ∧ 64 < s.h.out.length + left ∧ s.h.outOn 3 = 0 ∧ (s.helper s.core (1 - s.hsel)).outOn 3 = 0) ∧
    (let s := assisted [(2, 2)] [(3, ⟨some (0x100, 7, 1), 0, 2⟩)] twoSectors
     let d := s.h.stream (wbits (s.h.r 1) 2 0)
     let y := s.queue s.core 3
     (y.cap - y.count) * y.entry < ceilDiv (128 * s.h.outOn 3) y.entry * y.entry + 128 * 2 ∧ 128 * 2 ≤ y.count * y.entry ∧
      (s.task s.h.task).spec = false ∧ (s.task s.h.task).uncommitted = false ∧ (s.bulkPieces s.h.task d 2 0).2.2 = none) ∧
    (let s := assisted [] [(3, ⟨some (0x100, 7, 1), 0, 0⟩)] { (default : Helper) with desc := [(0, ⟨4, 0, 0, 0⟩)] }
     ¬ ((s.h.stream 0).base.toNat % 128 = 0)) := by
  refine ⟨by decide, by decide, ⟨by decide, by decide, rfl, rfl, rfl⟩, by decide⟩

theorem test_witness_HelperBulkAndEvents_events :
    (let s := assisted [] [(3, ⟨some (0x100, 7, 1), 0, 0⟩)] { twoSectors with out := [(3, 0, 0, 0)] }
     let u : State := { s with core := 0, setter := false }
     u.h.out = (3, 0, 0, 0) :: [] ∧ u.h.wr = [] ∧ (s.task u.h.task).spec = false ∧ (s.queue 0 3).cfg.isSome = true ∧
      ∃ s1 ps, u.sectorReach u.h.task .read (wd 0) = (s1, .ok ps)) ∧
    (let s : State := { assisted [] [] with cores := [(0, { Core.init with ret := { (default : Helper) with st := 2 } })] }
     ({ s with core := 0, setter := false } : State).h.st = 2) := by
  exact ⟨⟨rfl, rfl, rfl, rfl, _, _, rfl⟩, rfl⟩


/-- A queue's QCFG block (R445): a ring of 2^16 records at 0x100, ASID 5. -/
def queueBlock : List Byte := [0, 1, 0, 0, 0, 0, 0, 0, 16, 5, 2, 0]

/-- The part after boot, with host queue 63 of partition 0. -/
def served (st : Nat) (held : Bool) : State :=
  { part (strand []) with
    hqs := [(63, { (default : HQueue) with st := st, log2n := 4, ring := 0x100 })]
    groups := if held then [(0, { (default : Group) with queue := 63 })] else [(0, { (default : Group) with stage := 1 })] }

theorem test_witness_HandlerCommands :
    (let s := served 1 false
     s.running = true ∧ s.leads 0 = true ∧ (queueOf queueBlock).isSome = true ∧ queueOf [] = none ∧ (63 : Nat) ≤ 63 ∧ (63 : Nat) < 64 ∧ (s.hq 0 63).st = 1 ∧
      s.queueHeld 0 63 = false) ∧
    (let s := served 1 true
     s.running = true ∧ s.leads 0 = true ∧ (s.hq 0 63).st = 1 ∧ s.queueHeld 0 63 = true) ∧
    ((255 : Nat) ≤ 255 ∧ (0x1000 : Nat) % 4096 = 0 ∧ (255 : Nat) < 256 ∧ (0x1234 : Nat) % 4096 ≠ 0 ∧ (12 : Nat) ≤ 12 ∧ (12 : Nat) ≤ 24 ∧ (11 : Nat) < 12 ∧
      (600 : Nat) ≤ 600 ∧ (600 : Nat) ≤ 2400 ∧ (2400 : Nat) < 2401 ∧ (4095 : Nat) ≤ 4095 ∧ (1 ≤ (5 : Nat) ∧ (5 : Nat) ≤ 5) ∧ (4095 : Nat) < 4096) := by
  decide


theorem test_witness_CommandAnswers :
    (part (strand [])).running = true ∧ (part (strand [])).leads 1 = false ∧ State.reset.running = false ∧ (1 : Nat) ≠ 0 ∧
    (let s : State := { part (strand []) with cores := [(63, { Core.init with trace := { (default : Trace) with frozen := true } })] }
     (s.coreAt (0 * 64 + 63)).trace.frozen = true ∧ (s.coreAt (0 * 64 + 62)).trace.frozen = false ∧ (63 : Nat) < 64) := by
  decide


/-- A suspended task with a tag, resident on core 0. -/
def suspended (t : Task) (merge : Bool) : State :=
  part { t with tagged := true, ctl := { (default : Ctl) with otag := 0x70, tvec := 0x40 }, susp := some { (default : Susp) with cls := 4, code := 2, info := 77, merge := merge } }

theorem test_witness_FaultActions :
    (let s := suspended (strand []) false
     s.running = true ∧ s.factTask 0x71 = none ∧ s.factTask 0x70 = some 1 ∧ s.t.susp.isSome = true ∧ s.t.stage = .resident ∧ s.t.sys = false ∧
      s.t.ctl.tvec ≠ 0 ∧ s.t.stage ≠ .waiting ∧ s.t.walk = none ∧ s.tagged 0x70 = some 1 ∧ s.t.stage ≠ .preempted) ∧
    (let s := suspended { strand [] with stage := .preempted, image := 0x100 } false
     s.factTask 0x70 = some 1 ∧ (∀ x, s.t.susp = some x → x.merge = false) ∧ s.t.stage = .preempted ∧ s.t.image ≠ 0 ∧ s.t.sys = false ∧ s.t.ctl.tvec ≠ 0) ∧
    (let s := suspended { strand [] with stage := .preempted, sys := true } false
     s.factTask 0x70 = some 1 ∧ s.t.susp.isSome = true ∧ s.t.stage = .preempted ∧ s.t.sys = true) ∧
    (let s := suspended { strand [] with stage := .preempted } true
     s.factTask 0x70 = some 1 ∧ (∀ x, s.t.susp = some x → x.merge = true) ∧ s.t.stage ≠ .resident) ∧
    (let s := part { strand [] with stage := .preempted, tagged := true, ctl := { (default : Ctl) with otag := 0x70 } }
     s.tagged 0x70 = some 1 ∧ (s.task 1).stage = .preempted ∧ (s.task 1).susp = none ∧ ∀ w ∈ s.waitq, w.1 ≠ 1) := by
  refine ⟨by decide, ⟨by decide, fun x h => ?_, by decide⟩, by decide, ⟨by decide, fun x h => ?_, by decide⟩, by decide⟩ <;> (cases h; rfl)

theorem test_witness_FaultActions_evict : ((suspended (strand []) false).vacate 1).isSome = true := by rfl


theorem test_witness_TranslationAndPartition :
    (let s : State := { part (strand []) with invals := [(0, 9, 5, 0x1FFF0, 0x20)] }
     s.invals[0]? = some (0, 9, 5, 0x1FFF0, 0x20) ∧ s.inSpace (s.partOf 0) 5 = []) ∧
    (let s : State := { State.reset with running := true }
     let new : Tab Nat := (List.range 8).map (fun d => (d, leAt [0, 0, 0, 0, 1, 1, 2, 3] d 1))
     s.running = true ∧ (∀ d < 8, rectangle ((List.range 8).filter (fun e => Tab.get new e 0 == Tab.get new d 0)) = true) ∧
      (∀ d < 8, s.quiet d = true) ∧ leAt [1, 1] 0 1 ≤ 1 ∧ leAt [1, 1] 1 1 ≤ 1 ∧ 1 < leAt [2, 0] 0 1 ∧ s.leads 0 = true ∧
      leAt [0xFF, 0xFF] 0 4 ≤ 65535 ∧ leAt [0xFF, 0xFF] 4 4 ≤ 65535 ∧ leAt [0xFF, 0xFF] 8 8 = 0 ∧
      (∀ i < 14, (sliceBytes [0xFF, 0xFF] (16 + 16 * i) 16).all (· == 0) = true) ∧ 65535 < leAt [0, 0, 1] 0 4) := by
  decide


theorem test_witness_ResetAndPower :
    (State.reset.bootImage = none ∧ State.reset.running = false ∧ State.reset.boot = none ∧ (part (strand [])).running = true) ∧
    (let s : State := { State.reset with mem := [(bootBase, 16), (bootBase + 4, 1)] }
     ∃ b, s.bootImage = some b ∧ (Config.imageValid b = true ∧ s.boot.isSome = true ∨ Config.imageValid b = false)) ∧
    (([1, 2] : List Byte).length % 16 ≠ 0 ∧ bootSize < bootSize + ([] : List Byte).length + 1 ∧
      (bootSize - 16) + (List.replicate 16 (1 : Byte)).length ≤ bootSize) ∧
    (let s : State := { State.reset with cores := [(0, { Core.init with power := 0, trace := { (default : Trace) with en := true, hit := true } })] }
     s.idle 0 = true ∧ (s.coreAt 0).power < islandState (s.die (dieOf 0)).waketol ∧ islandState (s.die (dieOf 0)).waketol < 2 ∧
      (s.coreAt 0).trace.full = true) ∧
    (let s : State := { State.reset with
        cores := [(0, { Core.init with power := 0, l1 := [(8, 7)] })]
        dies := [(0, { (default : Die) with waketol := 2000 })] }
     s.idle 0 = true ∧ (s.coreAt 0).power < islandState (s.die (dieOf 0)).waketol ∧ 2 ≤ islandState (s.die (dieOf 0)).waketol) ∧
    (let s : State := { part (strand []) with cores := [(0, { Core.init with res := [(0, 1)] })] }
     s.idle 0 = false) := by
  refine ⟨⟨by rfl, rfl, by rfl, rfl⟩, ⟨_, rfl, ?_⟩, by decide, by decide, by decide, by decide⟩
  generalize hb : Config.imageValid _ = v
  cases v
  · exact .inr rfl
  · refine .inl ⟨rfl, ?_⟩
    unfold State.boot
    rw [show State.bootImage _ = some _ from rfl]
    simp only [hb, if_true, Option.isSome]


theorem test_witness_HostAndRings :
    (bar2Ok 0x100 8 = true ∧ bar2Ok (8 * stackSize - 7) 8 = false ∧ 8 * stackSize - 7 < extBase ∧ State.reset.leader (State.reset.partOf 0) = 0 ∧
      0x100 % 256 + [(1 : Byte)].length ≤ 256 ∧ ∀ l ∈ linesOf 0x100 [(1 : Byte)].length, (State.reset.homeLine l).st = 0 ∧
        (State.reset.homeLine l).shr = 0 ∧ (State.reset.homeLine l).wait = [] ∧ ∀ w ∈ State.reset.hostWs, l ∉ w.lines) ∧
    (let s : State := { State.reset with dies := [(0, { (default : Die) with home := [(1, ⟨5, 2 ^ 3, 3, 0, 0, []⟩)] })] }
     let h := s.homeLine (0x100 / 256)
     h.st = 5 ∧ h.own < 8 ∧ h.shr = 2 ^ h.own ∧ h.wait = []) ∧
    (let s := part (strand [])
     let e := s.ep 0 0
     e.hold = [] ∧ e.inHead = e.inTail ∧ e.outHead = e.outTail ∧ e.stopped = false ∧ e.bad = 0 ∧ s.running = true) ∧
    (let s : State := { part (strand []) with dies := [(0, { (default : Die) with eps := [(0, { (default : Endpoint) with ring := 4, inTail := 1 })] })] }
     let e := s.ep 0 0
     e.inHead ≠ e.inTail ∧ e.stopped = false ∧ ringSize e.ring ≠ 0 ∧ e.bad = 0 ∧ 1 % 2 ^ 32 = (e.inHead + 1) % 2 ^ 32 ∧ e.inHead < 2 ^ 32 ∧
      leAt (Memory.read s.mem (ringSlot e.ring e.inHead) 256) 4 4 = e.inSeq) ∧
    (let s : State := { part (strand []) with dies := [(0, { (default : Die) with
        eps := [(0, { (default : Endpoint) with ring := 4, inTail := 1, inSeq := 7, bad := 8 }), (1, { (default : Endpoint) with stopped := true })] })] }
     let e := s.ep 0 0
     (s.ep 0 1).stopped = true ∧ e.stopped = false ∧ ringSize e.ring ≠ 0 ∧ e.bad ≠ 0 ∧ e.bad < 9 ∧ e.inHead ≠ e.inTail ∧ e.inTail < 2 ^ 32 ∧
      leAt (Memory.read s.mem (ringSlot e.ring e.inHead) 256) 4 4 ≠ e.inSeq) := by
  decide


theorem test_witness_StepKeepsInv : State.reset.Inv ∧ step State.reset = .next State.reset.wake.endHolds := ⟨rfl, by rfl⟩


theorem test_witness_DecodeEncode :
    (let i : Instr := .brGo 1 ⟨some ⟨true, 4⟩, .imm 0⟩
     i.wf = true ∧ (encodeSlot i).isSome = true ∧ (moveOf i).isSome = true) ∧
    (let i : Instr := .anchorLoop 127 127
     i.wf = true ∧ (encodeAnchor i).isSome = true) ∧
    (let i : Instr := .hxQwr 15 31 31
     i.wf = true ∧ (encodeHelper i).isSome = true) := by
  decide


/-- A strand at a slot of a bundle. -/
def inBundle (w : BitVec 256) (slot : Nat) : State := part { strand [] with cur := { (default : Cur) with word := some w }, slot := slot }

theorem test_witness_StepRunsDecoded :
    (let w : BitVec 256 := 0x040008005000
     let s := inBundle w 4
     s.turn = some (.slot 1) ∧ (s.tasks.find? 1).isSome = true ∧ s.t.cur.word = some w ∧ (∃ b, decodeBundle w = some b ∧ s.t.slot < 5 ∧
      s.t.inWalk = none ∧ b.isLit s.t.slot = false ∧ b.decode s.t.slot = .ok (.saAdd false ⟨none, .imm 16⟩))) ∧
    (let w : BitVec 256 := BitVec.ofNat 256 (3 * 2 ^ 244 + 2 * 2 ^ (96 + 41))
     ∃ b, decodeBundle w = some b ∧ b.isLit 3 = true) ∧
    (∀ p ∈ [((1 : Nat), SlotErr.slot), (2 ^ 41 + 2 ^ 11 * 8, .port), (2 ^ 41 + (6 * 2 ^ 11 + 16 * 32 + 31) * 8, .type)],
      ∃ b, decodeBundle (BitVec.ofNat 256 p.1) = some b ∧ b.isLit 4 = false ∧ b.decode 4 = .error p.2) ∧
    (inBundle 0 5).t.slot = 5 ∧
    (let s := part { strand [] with walk := some default }
     s.t.inWalk.isSome = true ∧ s.t.slot < 5) ∧
    (let s (pc : Word) (store : List Cell) : State := { assisted [] [] { (default : Helper) with pc := pc, store := store } with turn := some (.helper 0 false) }
     (let u := s 0x7FFC [(0x7FFC, 0x13)]
      u.turn = some (.helper 0 false) ∧ (u.cores.find? 0).isSome = true ∧ u.helperParcel u.h.pc = some 0x13 ∧ 0x13 % 4 = 3 ∧
        u.helperParcel (u.h.pc + 2) = some 0 ∧ (decodeHelper (BitVec.ofNat 32 (0x13 + 0 * 65536))).isSome = true) ∧
     (let u := s 0x7FFE [(0x7FFE, 1)]
      u.helperParcel u.h.pc = some 1 ∧ 1 % 4 ≠ 3 ∧ (decodeRv16 (BitVec.ofNat 16 1)).isSome = true) ∧
     (s 0x8000 []).helperParcel (s 0x8000 []).h.pc = none ∧ (0x7FFFE : Nat) + 2 ≤ 0x80000 ∧ (s 0 []).bad (coreWin 0 0x7FFFE) 2 = false) ∧
    (let s := anchored anchorRow
     s.turn = some (.anchor 0) ∧ (s.cores.find? 0).isSome = true ∧ (s.coreAt 0).row = some anchorRow ∧
      (decodeAnchor (BitVec.ofNat 32 ((s.coreAt 0).prog.get anchorRow.word 0))).isSome = true) ∧
    ({ State.reset with turn := some (.event .powerOnReset) } : State).turn = some (.event .powerOnReset) ∧
    (State.reset.turn = none ∧ State.reset.moves = []) := by
  refine ⟨⟨rfl, rfl, rfl, _, rfl, by decide⟩, ⟨_, rfl, by decide⟩, fun p h => ?_, rfl, by decide, by decide, ⟨rfl, rfl, rfl, by decide⟩, rfl, rfl, by rfl⟩
  fin_cases h
  · exact ⟨_, rfl, by decide⟩
  · exact ⟨_, rfl, by decide⟩
  · exact ⟨_, rfl, by decide⟩


theorem test_witness_RegisterFormFrame :
    let s := part (strand [])
    let i : Instr := .saAdd false (now 16)
    slotForm i = some (1, 16, 0, now 16) ∧ Delivers s (now 16) (some (trigClass 1 16 0)) s .S (.w 16) ∧ s.t.recording = false ∧ s.turn.isSome = true ∧ ∃ t, exec i s = .next t ∧ t.turn = s.turn :=
  ⟨rfl, ⟨rfl, rfl, rfl, rfl⟩, rfl, rfl, _, rfl, rfl⟩


theorem test_witness_StoreFrame :
    (let s := part (strand [])
     ReadyW s s 6 (now 0x7F8) 0x7F8 ∧ s.t.core < 512 ∧ s.turn.isSome = true ∧ ∃ t, exec (.lsSt .s64 (now 0x7F8)) s = .next t ∧ t.turn = s.turn) ∧
    (let s := part (storing .none none)
     ∀ x ∈ s.t.stores, coreWin 0 0x7F7 < x.pa ∨ x.pa + x.bytes.length ≤ coreWin 0 0x7F7) :=
  ⟨⟨ready_now _ _ 0x7F8 rfl, by decide, rfl, _, rfl, rfl⟩, by decide⟩


/-- The part whose core 0 issues task 1 from strand 1. -/
def issuing (t : Task) (c : Machine.Core) : State := { part t with cores := [(0, { c with tlb := pages, res := [(1, 1)] })] }

/-- A reverse stack that misses chunk 4, with chunk 0 in its place in local store. -/
def missing (rsp : Word) (outer : Bool) : Task :=
  { strand [] with
    setup := { (default : Setup) with resid := [4, 0x10000, 8, 0x4000, 0, 0] }
    ctl := { (default : Ctl) with rsp := rsp }
    chunks := if outer then [(2 ^ 20 + 4, 1)] else [(0, 2)] }

/-- A load of eight bytes that waits in entry 63. -/
def loading : Task :=
  let p : LandPend := ⟨90, 16, 3, none, [⟨0x40000100, 8, 0, none⟩], 1, 0x100, 0, none⟩
  { strand [] with bank := { Bank.empty with land := [(63, { (default : Land) with pend := some p })] } }

theorem test_witness_CoreIssue :
    (let s := issuing (strand []) Core.init
     (s.coreAt 0).issuing = none ∧ (s.coreAt 0).gap = 0 ∧ (s.nextStrand 0).isSome = true) ∧
    (let s := issuing (strand []) { Core.init with gap := 1 }
     (s.coreAt 0).gap = 0 + 1) ∧
    (∀ k ∈ [0, 3, 4], let s := issuing (strand []) { Core.init with issuing := some 1, freeze := some ⟨k, 63, 0⟩ }
     (s.coreAt 0).gap = 0 ∧ (s.coreAt 0).issuing = some 1 ∧ (s.coreAt 0).res.find? 1 = some 1 ∧ (s.coreAt 0).freeze = some ⟨k, 63, 0⟩) ∧
    (let s := issuing { strand [] with slot := 5 } { Core.init with issuing := some 1 }
     let u : State := { s with core := 0, cur := 1 }
     (s.coreAt 0).freeze = none ∧ u.t.slot = 5 ∧ u.t.inWalk = none ∧ s.t.stage = .resident ∧ u.t.cur = default ∧ u.t.stores = [] ∧
      ∀ k < 4, u.t.bank.lc.get k 0 = 0) ∧
    (let s := issuing { strand [] with cur := { (default : Cur) with word := some 0 } } { Core.init with issuing := some 1 }
     let u : State := { s with core := 0, cur := 1 }
     u.t.slot < 5 ∧ u.t.inWalk = none ∧ u.t.cur.word.isSome = true) := by
  exact ⟨⟨rfl, rfl, by rfl⟩, rfl, by decide, ⟨rfl, rfl, rfl, rfl, rfl, rfl, by decide⟩, by decide⟩

theorem test_witness_CoreIssue_fetch :
    (let s := issuing { strand [] with slot := 0 } { Core.init with issuing := some 1, fetched := some 0x1000 }
     let u : State := { s with core := 0, cur := 1 }
     let u1 := u.setC { (s.coreAt 0) with cycles := (s.coreAt 0).cycles + 1 }
     let u2 := u1.setT u1.t.landDue.expireFmt.landEntries
     u.t.slot = 0 ∧ u.t.copyTrapDue = false ∧ u.t.cur.word = none ∧ canonical u.t.pc = true ∧ (s.coreAt 0).fetched = some (va57 u.t.pc) ∧
      (u2.cached u2.t.core (u2.partOfTask u2.t) (u2.asidOf u2.t) (va57 u.t.pc)).isSome = true ∧ ∃ r ps,
      u2.reach u2.t.core (u2.asidOf u2.t) (u2.accOf u2.t) .fetch u.t.pc 32 = (r, .ok ps) ∧ r.badAll ps = false ∧
      BitVec.ofNat 256 (ofBytes (r.loadAll ps)) = 0 ∧ r.t.slot = 0 ∧ r.t.inWalk = none ∧ r.t.waitMask 0 = 0 ∧
      (r.t.observe 0).lateEntry = none) ∧
    (decodeBundle 0).isSome = true := by
  exact ⟨⟨rfl, rfl, rfl, rfl, rfl, rfl, _, _, rfl, rfl, by rfl, rfl, rfl, rfl, rfl⟩, by rfl⟩

theorem test_witness_CoreIssue_arrivals :
    (let s := issuing loading { Core.init with issuing := some 1, freeze := some ⟨0, 63, 0⟩ }
     ∃ p u, ((s.task 1).landAt 63).pend = some p ∧ p.got = none ∧ p.form = 16 ∧ p.pas = [⟨0x40000100, 8, 0, none⟩] ∧
      (s.task 1).inOrder p.seq 0x40000100 8 = true ∧ s.issuer (s.task 1).core = some u ∧ u.cur = 1) ∧
    (∀ k ∈ [0, 1, 2, 3], let s := issuing (strand []) { Core.init with issuing := some 1, freeze := some ⟨k, 0x1000, 2 ^ 18⟩, watch := 18 }
     (s.coreAt 0).freeze = some ⟨k, 0x1000, 2 ^ 18⟩ ∧ (s.issuer 0).isSome = true ∧ 2 ^ (s.coreAt 0).watch ≤ 2 ^ 18) ∧
    (2 * 2 ^ 57 + 0x1000) / 2 ^ 57 = 2 ∧ (0x1000 : Nat) / 2 ^ 57 ≠ 2 ∧
    (let s := issuing { strand [] with sys := true, entering := true } { Core.init with issuing := some 1, freeze := some ⟨1, 0x1000, 2 ^ 18⟩ }
     ∃ u, s.issuer 0 = some u ∧ u.t.sys = true ∧ u.t.entering = true) ∧
    (let s := issuing { strand [] with slot := 0, copyTr := [7, 3] } { Core.init with issuing := some 1 }
     ∃ u, s.issuer (s.task 1).core = some u ∧ u.cur = 1 ∧ u.c.gap = 0 ∧ u.c.freeze = none ∧ u.t.copyTrapDue = true) := by
  exact ⟨⟨_, _, rfl, rfl, rfl, rfl, rfl, rfl, rfl⟩, by decide, by decide, by decide, ⟨_, rfl, rfl, rfl⟩, _, rfl, rfl, rfl, rfl, rfl⟩

theorem test_witness_CoreIssue_chunks :
    (let s := issuing (missing 0x3000 false) { Core.init with issuing := some 1, freeze := some ⟨3, 4, 0⟩ }
     ∃ s1, s.chunkWait 1 = some (s1, 4) ∧ s1.t.need 4 = .spill 0 ∧ s1.t.spec = false) ∧
    (let s := issuing (missing 0x5000 true) { Core.init with issuing := some 1, freeze := some ⟨3, 4, 0⟩ }
     ∃ s1, s.chunkWait 1 = some (s1, 4) ∧ s1.t.need 4 = .fill) ∧
    (let s := issuing (missing 0x3000 false) Core.init
     ∃ s1, s.chunkWait 1 = none ∧ s.unitFree 1 = some s1 ∧ s1.t.oldest = some 0) ∧
    (let s := issuing { missing 0x5000 true with walk := some default } Core.init
     ∃ s1, s.chunkWait 1 = none ∧ s.unitFree 1 = some s1 ∧ s1.t.ahead = some 4) := by
  refine ⟨⟨_, rfl, ?_, rfl⟩, ⟨_, rfl, ?_⟩, ⟨_, rfl, rfl, ?_⟩, ⟨_, rfl, rfl, ?_⟩⟩
  · decide
  · decide
  · decide
  · decide


/-- The part whose core 0 waits for the translation of virtual address 0x1000, whose tables map it, or whose tables are empty. -/
def walking (mem : List Cell) : State :=
  { issuing (strand []) { Core.init with issuing := some 1, freeze := some ⟨2, 0x1000, 0⟩ } with
    asids := [(0, 0x40000000)]
    mem := mem }

theorem test_witness_CoreIssue_walk :
    (let s := walking [(0x40000000, 1), (0x40000001, 0x10), (0x40000003, 0x40), (0x40001000, 1), (0x40001001, 0x20), (0x40001003, 0x40),
        (0x40002000, 0x1F), (0x40002003, 0x40)]
     ∃ u s1 pa, s.issuer 0 = some u ∧
      u.unfreeze.walkCache 0 (u.unfreeze.partOfTask u.unfreeze.t) (u.unfreeze.asidOf u.unfreeze.t) (0x1000 % 2 ^ 57) (permOf (0x1000 / 2 ^ 57)) =
        (s1, .ok pa)) ∧
    (∃ u s1 reason level, (walking []).issuer 0 = some u ∧
      u.unfreeze.walkCache 0 (u.unfreeze.partOfTask u.unfreeze.t) (u.unfreeze.asidOf u.unfreeze.t) (0x1000 % 2 ^ 57) (permOf (0x1000 / 2 ^ 57)) =
        (s1, .bad reason level)) ∧ permOf (0x1000 / 2 ^ 57) ≠ .fetch := ⟨⟨_, _, _, rfl, rfl⟩, ⟨_, _, _, _, rfl, rfl⟩, by decide⟩


/-- A task that waits for a site's answer to combine (R279), with its staging descriptor at 0x40000000, of free order. -/
def combining (arrived type : Byte) : State :=
  { part { strand [] with await := some ⟨39, 2, 0x40000000, [0, 0, 1], none⟩ } with
    mem := [(0x40000001, 1), (0x40000009, 0x10), (0x40000010, 8), (0x40000014, type), (0x40000016, 3), (0x40000017, 1), (0x40000020, arrived)] }

theorem test_witness_SiteEvents :
    (let s := part { strand [] with await := some ⟨20, 2, 0x40000000, [1, 1], none⟩ }
     ∃ a, (s.task 1).await = some a ∧ a.value = none ∧ a.arg 0 = 1) ∧
    (let s := part { strand [] with stores := [⟨coreWin 0 0xA0000, toBytes 8 7, 0, 0, none, 1, none, .none⟩] }
     (s.task 1).await = none ∧ (s.task 1).hawait = none ∧ ((s.task 1).stores.find? (fun x => decide (0 < x.tries))).isSome = true) ∧
    (let s := combining 7 10
     ∃ a d, (s.task 1).await = some a ∧ a.value = none ∧ a.arg 0 = 0 ∧ a.port = 39 ∧ (∃ o, place a.addr = .hbm o) ∧ (s.task 1).uncommitted = false ∧
      (s.task 1).stage = .resident ∧ stagingOf (s.load a.addr 64) = .ok d ∧ arrivedAll (s.load a.addr 64) d.n = true ∧ d.free = true ∧
      ∀ l ∈ linesOf a.addr 64, (s.homeLine l).st = 0 ∧ (s.homeLine l).wait = []) ∧
    (let s := combining 3 10
     ∃ a d, (s.task 1).await = some a ∧ stagingOf (s.load a.addr 64) = .ok d ∧ arrivedAll (s.load a.addr 64) d.n = false) ∧
    (let s := combining 3 15
     ∃ a b, (s.task 1).await = some a ∧ stagingOf (s.load a.addr 64) = .error b) :=
  ⟨⟨_, rfl, rfl, rfl⟩, ⟨rfl, rfl, rfl⟩, ⟨_, _, rfl, rfl, rfl, rfl, ⟨_, rfl⟩, by decide, by decide, rfl, by rfl, rfl, by decide⟩, ⟨_, _, rfl, rfl, by rfl⟩,
    _, _, rfl, rfl⟩


/-- The part with line 0 in a state at its home, die 0, and in a state at die 1. -/
def sharing (h : Home) (x : DieLine) : State :=
  { part (strand []) with dies := [(0, { (default : Die) with home := [(0, h)] }), (1, { (default : Die) with lines := [(0, x)] })] }

theorem test_witness_CoherenceMessages :
    (∀ h ∈ [(⟨0, 0, 0, 0, 0, []⟩ : Home), ⟨2, 2, 0, 0, 0, []⟩, ⟨5, 2, 1, 0, 0, []⟩, ⟨4, 2, 1, 0, 0, []⟩, ⟨1, 0, 0, 17, 0, []⟩, ⟨7, 0, 0, 0, 0, []⟩,
        ⟨10, 0, 0, 0, 0, []⟩, ⟨3, 0, 0, 17, 1, []⟩, ⟨3, 0, 0, 17, 2, []⟩],
      let s := sharing h default
      homeOf 0 = 0 ∧ s.region 0 = none ∧ (s.homeLine 0).st = h.st ∧ (s.homeLine 0).shr = h.shr ∧ (s.homeLine 0).own = h.own ∧
        (s.homeLine 0).who = h.who ∧ (s.homeLine 0).acks = h.acks ∧ (s.homeLine 0).wait = [] ∧ s.net = [] ∧
        (s.takeMsg (fun m => m.kind == 3 && m.src == 1 && m.line == 0)).2 = 0) ∧
    (∀ x ∈ [(⟨0, 0, false, 0⟩ : DieLine), ⟨1, 0, false, 0⟩, ⟨2, 0, false, 0⟩, ⟨3, 0, false, 0⟩, ⟨4, 0, false, 0⟩, ⟨6, 0, false, 0⟩, ⟨7, 0, false, 0⟩,
        ⟨8, 0, false, 0⟩],
      let s := sharing ⟨0, 0, 0, 0, 0, []⟩ x
      s.region 0 = none ∧ (s.dieLine 1 0).st = x.st ∧ (s.dieLine 1 0).want = 0 ∧ (s.homeLine 0).who % 16 ≠ 1) ∧
    (let s : State := { sharing ⟨13, 0, 0, 8, 1, []⟩ default with hostWs := [⟨[0], [(0x10, [1])], false, false⟩] }
     let h := s.homeLine 0
     h.st = 13 ∧ h.acks = 1 ∧ h.who % 16 = 8 ∧ s.region 0 = none ∧ h.wait = [] ∧ s.hostWs = [⟨[0], [(0x10, [1])], false, false⟩]) ∧
    (7 : Nat) < 8 := by
  refine ⟨fun h hh => ?_, fun x hx => ?_, by decide, by decide⟩
  · fin_cases hh <;> decide
  · fin_cases hx <;> decide


/-- The part with a running host queue of partition 0 that has one record to fetch, at virtual address 0. -/
def queued (nseq : BitVec 32) (retries : Nat) : State :=
  { part (strand []) with
    hqs := [(0, { (default : HQueue) with st := 1, log2n := 4, tail := 1, nseq := nseq, retries := retries })]
    groups := [(0, { (default : Group) with stage := 1 })]
    cores := [(0, { Core.init with tlb := pages })] }

/-- A record of a group of one task on a core, with a dependence word. -/
def oneTask (dep : List Byte) : List Byte :=
  [0, 0, 0, 0, 0, 0x80, 0, 0, 0, 0, 0, 0, 0, 0, 0, 0, 1, 0, 0, 0, 1] ++ List.replicate 51 0 ++ dep

/-- A group of such a record, behind a group in a stage. -/
def launched (dep : List Byte) (before : Nat) : State :=
  { part (strand []) with
    groups := [(0, { (default : Group) with stage := before }), (1, { (default : Group) with seq := 1, record := oneTask dep })] }

theorem test_witness_LaunchEvents :
    (let s := queued 0 0
     s.canFetch 0 0 = true ∧ (s.hq 0 0).retries = 0 ∧ ∃ s1 ps, s.reach (s.leader 0 * 64) (s.hq 0 0).asid ⟨0, false, false, false⟩ .read
        ((s.hq 0 0).ring + wd ((s.hq 0 0).head.toNat % 2 ^ (s.hq 0 0).log2n * 256)) 256 = (s1, .ok ps) ∧ s1.badAll ps = false ∧
      leAt (s1.loadAll ps) 0 4 = (s.hq 0 0).nseq.toNat ∧ s1.recordCode 0 (s1.loadAll ps) = 0) ∧
    (let s : State := { queued 0 0 with poison := [0x40000000 / 128] }
     ∃ s1 ps, s.reach (s.leader 0 * 64) (s.hq 0 0).asid ⟨0, false, false, false⟩ .read
        ((s.hq 0 0).ring + wd ((s.hq 0 0).head.toNat % 2 ^ (s.hq 0 0).log2n * 256)) 256 = (s1, .ok ps) ∧ s1.badAll ps = true) ∧
    (part (strand [])).canFetch 0 0 = false ∧
    (∀ r ∈ [0, 8], let s := queued 1 r
      s.canFetch 0 0 = true ∧ (s.hq 0 0).retries = r ∧ (s.hq 0 0).nseq.toNat ≠ leAt (s.loadAll [(0x40000000, 256)]) 0 4) ∧
    (let s := queued 0 0
     s.running = true ∧ s.leader (s.partOf 0) = 0 ∧ (s.hq 0 0).st = 1 ∧ ((16 : BitVec 32) - (s.hq 0 0).head).toNat ≤ 2 ^ (s.hq 0 0).log2n ∧
      2 ^ (s.hq 0 0).log2n < ((17 : BitVec 32) - (s.hq 0 0).head).toNat) ∧
    (∀ p ∈ [(3, Deps.refused), (1, .wait), (2, .hold)], let s := launched [1, 0, 0, 0x80] p.1
      (s.groups.find? 1).isSome = true ∧ (s.group 1).stage = 0 ∧ s.deps 1 = p.2) ∧
    (let s := launched [] 1
     let g := s.group 1
     s.deps 1 = .hold ∧ g.flag 0 = false ∧ g.at_ 104 4 = 0 ∧ g.at_ 128 4 = 0 ∧ s.imageReads g = true ∧ g.span ≠ 3 ∧ nbit (g.at_ 5 1) 7 = true ∧
      0 < min (g.at_ 20 4) (g.at_ 16 4)) := by
  refine ⟨⟨rfl, rfl, _, _, rfl, by rfl, by rfl, by rfl⟩, ⟨_, _, rfl, by rfl⟩, by decide, fun r h => ?_, by decide, fun p h => ?_, by decide⟩
  · fin_cases h <;> decide
  · fin_cases h <;> decide


/-- Core 0 idle and task 1 waiting in the dispatch queue, or pre-empted. -/
def waiting (t : Task) (power : Nat) : State :=
  { State.reset with
    running := true
    cores := [(0, { Core.init with power := power })]
    tasks := [(1, t)]
    ntasks := 2
    groups := [(0, { (default : Group) with stage := 1 })]
    waitq := [(1, 0)] }

/-- A task that has not started and asks for no storage. -/
def fresh : Task := { (default : Task) with stage := .waiting }

/-- A core that is not fused off takes a task by seating it on strand 0 (R24, R424). -/
theorem place_waiting (h : Config.fusedOff 0 = false) : (waiting fresh 0).seatAt 1 0 = (waiting fresh 0).admitAt 1 0 0 := by
  have h1 : (waiting fresh 0).takes 1 0 = true := by
    have h2 : (waiting fresh 0).permitsCore ((waiting fresh 0).task 1) 0 = !Config.fusedOff 0 := by
      simp only [State.permitsCore]
      cases Config.fusedOff 0 <;> rfl
    simp only [State.takes, h2, h]
    rfl
  simp only [State.seatAt, h1]
  rfl

/-- A core that is not fused off and awake takes a task whose limit is that core (R24, R480). -/
theorem takes_core (s : State) (id : Nat) (h : Config.fusedOff 0 = false) (hl : (s.task id).limit = 0) (hn : (s.task id).near = 0)
    (hp : (s.coreAt 0).power = 0) : s.takes id 0 = true := by
  simp [State.takes, State.permitsCore, h, hl, hn, hp]

theorem first_waiting (h : Config.fusedOff 0 = false) : (waiting fresh 0).firstFor 0 = some 1 := by
  have h1 : (waiting fresh 0).waitq = [(1, 0)] := rfl
  have h2 : ((waiting fresh 0).seatAt 1 0).isSome = true := by rw [place_waiting h]; rfl
  simp only [State.firstFor, h1, List.mergeSort_singleton, List.find?, h2]
  rfl

/-- Strands 0-3 of core 0 run tasks of which task 1 is less urgent than task 2, which waits. -/
def crowded : State :=
  let busy (n : Nat) : Task := { (default : Task) with stage := .resident, started := true, bprio := if n = 0 then 0 else 9, strand := n }
  { waiting (busy 0) 0 with
    cores := [(0, { Core.init with power := 0, res := [(0, 1), (1, 3), (2, 4), (3, 5)] })]
    tasks := [(1, busy 0), (2, { fresh with bprio := 1 }), (3, busy 1), (4, busy 2), (5, busy 3)]
    waitq := [(2, 1)] }

theorem victim_crowded (h : Config.fusedOff 0 = false) : crowded.victimFor 2 0 = some 1 := by
  have h1 : crowded.seatAt 2 0 = none := by
    simp only [State.seatAt, takes_core crowded 2 h rfl rfl rfl]
    rfl
  have h2 : crowded.vacate 1 = some ((crowded.vacate 1).getD State.reset) := rfl
  have h3 : crowded.removalAdmits 1 2 = true := by
    unfold State.removalAdmits
    rw [h2]
    simp only [State.seatAt, takes_core ((crowded.vacate 1).getD State.reset) 2 h rfl rfl rfl, show (crowded.task 1).core = 0 from rfl]
    rfl
  have h4 : crowded.residents 0 = [1, 3, 4, 5] := rfl
  have h5 : crowded.effPrio 2 = 1 ∧ crowded.effPrio 1 = 0 ∧ crowded.effPrio 3 = 9 ∧ crowded.effPrio 4 = 9 ∧ crowded.effPrio 5 = 9 := by decide
  have h6 : (crowded.task 2).startable = true := rfl
  simp [State.victimFor, takes_core crowded 2 h rfl rfl rfl, h1, h3, h4, h5, h6]

theorem test_witness_SchedulerAndEnds_place (h : Config.fusedOff 0 = false) :
    (let u := waiting fresh 0
     u.requeue = u ∧ (u.task 1).stage = .waiting ∧ u.firstFor 0 = some 1 ∧ ∃ s1 s3, u.seatAt 1 0 = some s1 ∧ s1.fillFault 1 = none ∧
      (u.task 1).started = false ∧ ((s1.setTask 1 (s1.task 1).begun).blankCopies 1).startHelpers 1 = some s3) ∧
    ((waiting fresh 3).wakes 0 = true) ∧
    (crowded.requeue = crowded ∧ (crowded.task 1).stage = .resident ∧ crowded.wanted 1 = true ∧ (crowded.vacate 1).isSome = true) := by
  refine ⟨⟨rfl, rfl, first_waiting h, ?_⟩, ?_, rfl, rfl, ?_, rfl⟩
  · rw [place_waiting h]
    exact ⟨_, _, rfl, rfl, rfl, rfl⟩
  · have h1 : (waiting fresh 3).setCore 0 { (waiting fresh 3).coreAt 0 with power := 0 } = waiting fresh 0 := rfl
    simp only [State.wakes, h1, first_waiting h]
    rfl
  · have h1 : crowded.waitq = [(2, 1)] := rfl
    have h2 : (crowded.task 1).core = 0 := rfl
    simp [State.wanted, h1, h2, victim_crowded h]


/-- A pre-empted task whose image and storage are where it left them. -/
def gone : Task := { (default : Task) with stage := .preempted, started := true }

theorem place_gone (h : Config.fusedOff 0 = false) : (waiting gone 0).seatAt 1 0 = (waiting gone 0).restoreAt 1 0 0 := by
  simp only [State.seatAt, takes_core (waiting gone 0) 1 h rfl rfl rfl]
  rfl

theorem test_witness_SchedulerAndEnds_restore (h : Config.fusedOff 0 = false) :
    let u := waiting gone 0
    u.requeue = u ∧ u.wantsBack (u.task 1) = false ∧ (u.task 1).stage = .preempted ∧ u.firstFor 0 = some 1 ∧ u.shapeFault 1 = none ∧
      (u.seatAt 1 0).isSome = true := by
  have h2 : ((waiting gone 0).seatAt 1 0).isSome = true := by rw [place_gone h]; rfl
  refine ⟨rfl, rfl, rfl, ?_, rfl, h2⟩
  have h1 : (waiting gone 0).waitq = [(1, 0)] := rfl
  simp only [State.firstFor, h1, List.mergeSort_singleton, List.find?, h2]
  rfl


/-- Task 1 has ended, a child of task 2, which has ended too: task 1 holds a copy of view 0 of one f32, which task 2 declared; what the dies own, and the poisoned sectors, are given. -/
def families (dies : Tab Die) (poison : List Nat) (at_ : Word := 0x100) : State :=
  let v (a : Word) : View := ⟨a, 4, 0, 10, 1, 0, 0⟩
  let t : Task := { strand [] with stage := .ended, parent := some 2, views := [(16, v at_)] }
  { part t with
    dies := dies
    poison := poison
    cores := [(0, { Core.init with tlb := pages })]
    tasks := [(1, t), (2, { strand [] with stage := .ended, kids := [1], sibset := 1, views := [(0, v 0x200)] })] }

theorem commit_nothing (s : State) (id : Nat) (h : (s.task id).ordered = []) : (s.commitBytes id).2 = true := by
  simp [State.commitBytes, h]

theorem test_witness_SchedulerAndEnds :
    (let s := waiting { fresh with commit := 1, after := 2 } 0
     let s : State := { s with tasks := s.tasks ++ [(2, { (default : Task) with stage := .retired })] }
     (s.task 1).commit = 1 ∧ (s.task (s.task 1).after).stage = .retired ∧ (s.task 1).stage = .waiting) ∧
    (let s := part { strand [] with stage := .ended, views := [] }
     let v : State := { s with cur := 1 }.settleAll 1
     (s.task 1).stage = .ended ∧ (v.task 1).memIdle = true ∧ v.checked (v.task 1) = true ∧ v.canRetire 1 = true) ∧
    (let s := families [(0, { (default : Die) with lines := [(0x400002, ⟨4, 0, false, 0⟩)] })] []
     let T := (s.task 2).views.get 0 default
     let S := (s.task 1).views.get 16 default
     s.mergeTarget 1 0 = some (2, 0) ∧ T.st ≠ 3 ∧ T.st ≠ 2 ∧ (s.task 1).status = 0 ∧ (0 : Nat) < 16 ∧ S.len / T.elem.bytes = 1 ∧
      (∃ s1, s.mergeFrom 2 1 T S (S.len / T.elem.bytes) 0 = (s1, .done)) ∧ s.mergeTarget 2 0 = none) ∧
    (∀ p ∈ [(([] : List Nat), MergeEnd.wait 0), ([0x40000100 / 128], .trap 0 2)], let s := families [] p.1
     let T := (s.task 2).views.get 0 default
     let S := (s.task 1).views.get 16 default
     s.mergeTarget 1 0 = some (2, 0) ∧ ∃ s1, s.mergeFrom 2 1 T S (S.len / T.elem.bytes) 0 = (s1, p.2)) ∧
    (let s := families [] [] 0x10000000
     let T := (s.task 2).views.get 0 default
     let S := (s.task 1).views.get 16 default
     ∃ s1 code va, s.mergeFrom 2 1 T S (S.len / T.elem.bytes) 0 = (s1, .memory 0 code va)) ∧
    (let s := part { strand [] with stage := .ended, setup := { (default : Setup) with mode := 1 } }
     let w : State := { s with cur := 1 }.settleAll 1
     s.committer 0 = some 1 ∧ (w.commitBytes 1).2 = true ∧ (w.task 1).memIdle = true ∧ s.committer 1 = none) ∧
    ((waiting gone 0).requeue.task 1).stage ≠ .waiting := by
  refine ⟨⟨rfl, rfl, rfl⟩, ⟨rfl, rfl, rfl, rfl⟩, ⟨rfl, by decide, by decide, rfl, by decide, by decide, ⟨_, rfl⟩, rfl⟩, fun p h => ?_, ⟨_, _, _, rfl⟩, ⟨rfl, commit_nothing _ 1 rfl, rfl, rfl⟩, by decide⟩
  fin_cases h <;> exact ⟨rfl, _, rfl⟩


/-! ### Single steps with results that the spec states -/

/-- R170: addition wraps modulo 2^64. -/
theorem test_step_add_wraps : ∃ t, exec (.saAdd false (now (-1))) (part (strand [(18, .w 5)])) = .next t ∧
    t.t.bank.flight.map (·.val) = [some (.w 4)] := ⟨_, rfl, rfl⟩

/-- R174: −2^63 / −1 is −2^63 with remainder 0. -/
theorem test_step_divide_minimum : ∃ t, exec (.smDiv (now (-1))) (part (strand [(50, .w 0x8000000000000000)])) = .next t ∧
    t.t.bank.flight.map (·.val) = [some (.w 0x8000000000000000), some (.w 0)] := ⟨_, rfl, rfl⟩

/-- R188, R193: a scalar store, once it is performed, has written its low bytes, the least significant at the lowest address. -/
theorem test_step_store_order : ∃ t, exec (.lsSt .n16 (now 0x100)) (part (strand [(98, .w 0x11223344)])) = .next t ∧
    (t.settle [(coreWin 0 0x100, 2)]).mem = [(coreWin 0 0x100, 0x44), (coreWin 0 0x101, 0x33)] := ⟨_, rfl, by decide⟩

/-- R185, R403: a trap taken to the task's own handler saves the bundle's address and goes to tvec in system mode. -/
theorem test_step_trap : ∃ t, exec (.brTrap (now 3)) (part { strand [] with
    ctl := { (default : Ctl) with tvec := 0x4000 }, cur := { (default : Cur) with word := some 0 } }) = .next t ∧
    t.t.pc = 0x4000 ∧ t.t.ctl.xpc = 0x1000 ∧ t.t.sys = true ∧ t.t.ctl.xinfo = 3 := ⟨_, rfl, by decide⟩

end Sys2Proof.Tests
end

section
/-! SUPPORT. What the caches do when an agent reads or writes a line (R446, R450, R451, R456-R459): they move lines between the dies and the
L1s of the cores, and everything else stays. -/

namespace Sys2Proof

/-- A value of a table to every value of which a function was applied. -/
theorem Tab.find?_mapVals {α : Type} (t : Tab α) (f : Nat → α → α) (k : Nat) : (t.mapVals f).find? k = (t.find? k).map (f k) := by
  induction t with
  | nil => rfl
  | cons h r ih =>
    obtain ⟨j, x⟩ := h
    by_cases hj : j = k
    · simp [Tab.mapVals, Tab.find?, hj]
    · simpa [Tab.mapVals, Tab.find?, hj] using ih

/-- A read with a default is the value found, or the default. -/
theorem Tab.get_eq_find? {α : Type} (t : Tab α) (k : Nat) (d : α) : t.get k d = (t.find? k).getD d := by
  induction t with
  | nil => rfl
  | cons h r ih =>
    obtain ⟨j, x⟩ := h
    by_cases hj : j = k <;> simp [Tab.get, Tab.find?, hj, ih]

end Sys2Proof

namespace Sys2Proof.Machine

open Host

/-- One state is another but for the caches: the L1s of the cores, the dies' tables, the messages on the package network and the counter of
free values. -/
structure CachesMoved (s t : State) : Prop where
  tasks : t.tasks = s.tasks
  mem : t.mem = s.mem
  held : t.held = s.held
  poison : t.poison = s.poison
  cur : t.cur = s.cur
  core : t.core = s.core
  cores : ∀ n, ∃ l, t.coreAt n = { s.coreAt n with l1 := l }

namespace CachesMoved

theorem refl (s : State) : CachesMoved s s := ⟨rfl, rfl, rfl, rfl, rfl, rfl, fun n => ⟨(s.coreAt n).l1, rfl⟩⟩

theorem trans {s t u : State} (h : CachesMoved s t) (k : CachesMoved t u) : CachesMoved s u where
  tasks := k.tasks.trans h.tasks
  mem := k.mem.trans h.mem
  held := k.held.trans h.held
  poison := k.poison.trans h.poison
  cur := k.cur.trans h.cur
  core := k.core.trans h.core
  cores n := by
    obtain ⟨l, hl⟩ := h.cores n
    obtain ⟨m, hm⟩ := k.cores n
    exact ⟨m, by rw [hm, hl]⟩

/-- Operations in turn, each of which moves the caches alone. -/
theorem foldl {α : Type} {f : State → α → State} (hf : ∀ s a, CachesMoved s (f s a)) (l : List α) (s : State) :
    CachesMoved s (l.foldl f s) := by
  induction l generalizing s with
  | nil => exact refl s
  | cons a r ih => exact (hf s a).trans (ih _)

theorem setDie (s : State) (d : Nat) (x : Die) : CachesMoved s (s.setDie d x) :=
  ⟨rfl, rfl, rfl, rfl, rfl, rfl, fun n => ⟨(s.coreAt n).l1, rfl⟩⟩

theorem post (s : State) (kind src dst line arg : Nat) : CachesMoved s (s.post kind src dst line arg) :=
  ⟨rfl, rfl, rfl, rfl, rfl, rfl, fun n => ⟨(s.coreAt n).l1, rfl⟩⟩

theorem choose (s : State) (n : Nat) : CachesMoved s (s.choose n).2 :=
  ⟨rfl, rfl, rfl, rfl, rfl, rfl, fun n => ⟨(s.coreAt n).l1, rfl⟩⟩

/-- A core's L1 alone changes. -/
theorem setL1 (s : State) (n : Nat) (l : Tab Nat) : CachesMoved s (s.setCore n { s.coreAt n with l1 := l }) where
  tasks := rfl
  mem := rfl
  held := rfl
  poison := rfl
  cur := rfl
  core := rfl
  cores m := by
    by_cases h : m = n
    · exact ⟨l, by rw [h, State.coreAt_setCore]⟩
    · exact ⟨(s.coreAt m).l1, Tab.get_set_ne _ _ _ _ _ h⟩

theorem l1Recall (s : State) (die line : Nat) (keep : Option Nat) : CachesMoved s (s.l1Recall die line keep) where
  tasks := rfl
  mem := rfl
  held := rfl
  poison := rfl
  cur := rfl
  core := rfl
  cores n := by
    simp only [State.l1Recall, State.coreAt, Tab.get_eq_find?, Tab.find?_mapVals]
    cases s.cores.find? n with
    | none => exact ⟨Core.init.l1, rfl⟩
    | some c =>
      simp only [Option.map_some, Option.getD_some]
      split
      · exact ⟨c.l1.del line, rfl⟩
      · exact ⟨c.l1, rfl⟩

theorem dropLine (s : State) (die line : Nat) : CachesMoved s (s.dropLine die line) :=
  ((l1Recall ..).trans (setDie ..)).trans (setDie ..)

/-- Bringing a die's line to state MI_A with a write-back on its way. -/
theorem writeBackLine (s : State) (die line : Nat) (x : DieLine) (dst arg : Nat) :
    CachesMoved s ((((s.l1Recall die line none).dropSize die line).setLine die line x).post 3 die dst line arg) :=
  (((l1Recall ..).trans (setDie ..)).trans (setDie ..)).trans (post ..)

theorem evict (s : State) (die line : Nat) : CachesMoved s (s.evict die line) := by
  unfold State.evict
  split
  · exact dropLine ..
  · exact (dropLine ..).trans (post ..)
  · exact writeBackLine ..
  · exact writeBackLine ..
  · exact refl s

theorem fit (die keep pool tags : Nat) (l : List Nat) (s : State) : CachesMoved s (s.fit die keep pool tags l) := by
  induction l generalizing s with
  | nil => exact refl s
  | cons b r ih =>
    have he := foldl (fun s i => evict s die (4 * b + i)) (List.range 4) s
    simp only [State.fit]
    split
    · exact refl s
    · split
      · exact ih s
      · refine he.trans (CachesMoved.trans ?_ (ih _))
        split
        · exact setDie ..
        · exact refl _

theorem storeImage (s : State) (die line : Nat) : CachesMoved s (s.storeImage die line) := by
  simp only [State.storeImage]
  split
  · exact refl s
  · refine CachesMoved.trans ?_ (fit ..)
    split
    · exact setDie ..
    · exact (setDie ..).trans (setDie ..)

theorem l1Fill (s : State) (core line mask : Nat) : CachesMoved s (s.l1Fill core line mask) := by
  simp only [State.l1Fill]
  split
  · exact setL1 ..
  · split
    · exact setL1 ..
    · have h : CachesMoved s ((s.choose (s.coreAt core).l1.length).2.setCore core
          { s.coreAt core with l1 := ((s.coreAt core).l1.del (((s.coreAt core).l1.map (·.1)).getD
            (s.choose (s.coreAt core).l1.length).1 0)).set line mask }) := (choose s _).trans (setL1 ..)
      split
      · exact h.trans (storeImage ..)
      · exact h

theorem takeLine (s : State) (core line : Nat) (x : DieLine) : CachesMoved s (s.takeLine core line x) := by
  have h : ∀ t, CachesMoved t (((t.l1Recall (dieOf core) line (some core))).setLine (dieOf core) line
      { x with st := 4, vec := 2 ^ (clusterOf core % 8) }) := fun t => (l1Recall ..).trans (setDie ..)
  simp only [State.takeLine]
  split
  · exact (storeImage ..).trans (h _)
  · exact h s

/-- An access of a core to a line (R450, R451). -/
theorem touchLine (s : State) (core line : Nat) (write : Bool) : CachesMoved s (s.touchLine core line write) := by
  have ask : ∀ (u : State) (x : DieLine) (k dst : Nat),
      CachesMoved u ((u.setLine (dieOf core) line x).post k (dieOf core) dst line 0) := fun u x k dst => (setDie ..).trans (post ..)
  refine (setDie s (dieOf core) _ : CachesMoved s (s.useBlock (dieOf core) line)).trans ?_
  simp only [State.touchLine]
  split
  · exact ask ..
  · exact ask ..
  · exact takeLine ..
  · exact takeLine ..
  · exact (ask ..).trans (setDie ..)
  · exact (ask ..).trans (setDie ..)
  · exact setDie ..
  · exact setDie ..
  · exact refl _
  · exact refl _
  · exact setDie ..

theorem touch (s : State) (core : Nat) (ps : List (Nat × Nat)) (write : Bool) : CachesMoved s (s.touch core ps write) :=
  foldl (fun s l => touchLine s core l write) _ s

theorem noteL1 (s : State) (core pa n attr write : Nat) : CachesMoved s (s.noteL1 core pa n attr write) := by
  unfold State.noteL1
  split
  · exact refl s
  · refine foldl (fun s l => ?_) _ s
    split
    · exact l1Fill ..
    · exact refl s

end CachesMoved

/-- Global memory is HBM or the CXL tier (R331). -/
theorem place_of_isGlobal {pa : Nat} (h : isGlobal pa = true) : (∃ d, place pa = .hbm d) ∨ ∃ c, place pa = .cxl c := by
  unfold isGlobal at h
  split at h
  · exact .inl ⟨_, ‹_›⟩
  · exact .inr ⟨_, ‹_›⟩
  · cases h

/-- Global memory reads the same, under a task's own buffered bytes. -/
theorem CachesMoved.ownLoad {s t : State} (h : CachesMoved s t) {pa : Nat} (hg : isGlobal pa = true) (u : Task) (n : Nat) :
    t.ownLoad u pa n = s.ownLoad u pa n := by
  have hl : t.load pa n = s.load pa n := by
    obtain ⟨d, hd⟩ | ⟨c, hc⟩ := place_of_isGlobal hg
    · simp [State.load, State.key, State.see, State.seen, State.rd, hd, h.mem, h.held]
    · simp [State.load, State.key, State.see, State.seen, State.rd, hc, h.mem, h.held]
  simp only [State.ownLoad, hl]

/-- Global memory carries the same poison. -/
theorem CachesMoved.loadBad {s t : State} (h : CachesMoved s t) {pa : Nat} (hg : isGlobal pa = true) (n : Nat) :
    t.loadBad pa n = s.loadBad pa n := by
  obtain ⟨d, hd⟩ | ⟨c, hc⟩ := place_of_isGlobal hg
  · simp [State.loadBad, State.key, State.bad, hd, h.poison]
  · simp [State.loadBad, State.key, State.bad, hc, h.poison]

end Sys2Proof.Machine
end

section
/-! SUPPORT. A load of one piece is performed and its data arrives at its landing entry (R97, R128, R263). -/

namespace Sys2Proof.Machine

open Host

/-! ### Landing entries -/

/-- A written landing entry reads back. -/
@[simp] theorem Task.landAt_setLandAt (t : Task) (n : Nat) (e : Land) : (t.setLandAt n e).landAt n = e := by
  by_cases h : n < 64 <;> simp [Task.setLandAt, Task.landAt, h]

/-- A second write of a landing entry replaces the first. -/
@[simp] theorem Task.setLandAt_setLandAt (t : Task) (n : Nat) (e f : Land) : (t.setLandAt n e).setLandAt n f = t.setLandAt n f := by
  by_cases h : n < 64 <;> simp [Task.setLandAt, h]

/-- A second write of a task replaces the first. -/
@[simp] theorem State.setTask_setTask (s : State) (id : Nat) (t u : Task) : (s.setTask id t).setTask id u = s.setTask id u := by
  simp [State.setTask]

/-! ### Performing the load -/

/-- What the caches do when a core reads a piece (R434, R450). -/
def State.cachePiece (s : State) (core : Nat) (q : Piece) : State :=
  if q.attr = 2 then s else (s.touch core [(q.pa, q.n)] false).noteL1 core q.pa q.n q.attr 0

/-- Reading a piece moves the caches alone. -/
theorem State.cachePiece_moved (s : State) (core : Nat) (q : Piece) : CachesMoved s (s.cachePiece core q) := by
  unfold State.cachePiece
  split
  · exact .refl s
  · exact (CachesMoved.touch ..).trans (CachesMoved.noteL1 ..)

/-- Reading a piece outside global memory leaves the caches alone. -/
theorem State.cachePiece_of_local (s : State) (core : Nat) (q : Piece) (h : isGlobal q.pa = false) : s.cachePiece core q = s := by
  simp [State.cachePiece, State.touch, State.noteL1, h]

/-- The bytes of a piece are the same after the caches have served it. -/
theorem State.ownLoad_cachePiece (s : State) (core : Nat) (q : Piece) (u : Task) :
    (s.cachePiece core q).ownLoad u q.pa q.n = s.ownLoad u q.pa q.n := by
  by_cases h : isGlobal q.pa = true
  · exact (s.cachePiece_moved core q).ownLoad h u q.n
  · rw [s.cachePiece_of_local core q (Bool.eq_false_iff.2 h)]

/-- The poison of a piece is the same after the caches have served it. -/
theorem State.loadBad_cachePiece (s : State) (core : Nat) (q : Piece) : (s.cachePiece core q).loadBad q.pa q.n = s.loadBad q.pa q.n := by
  by_cases h : isGlobal q.pa = true
  · exact (s.cachePiece_moved core q).loadBad h q.n
  · rw [s.cachePiece_of_local core q (Bool.eq_false_iff.2 h)]

/-- The load of one piece once its bytes have been read, before they arrive at its entry. -/
def LandPend.taken (p : LandPend) (s : State) (t : Task) (q : Piece) : LandPend :=
  { p with pas := [{ q with got := some (s.ownLoad t q.pa q.n, s.loadBad q.pa q.n) }] }

/-- The value that a load delivers does not depend on what its pieces hold in the entry. -/
theorem landValue_of_pas (p : LandPend) (ps : List Piece) (x : Option (Val × Bool)) (bs : List (List Byte)) :
    landValue { p with pas := ps, got := x } bs = landValue p bs := rfl

/-- The load of one piece whose bytes have arrived. -/
def LandPend.arrived (p : LandPend) (s : State) (t : Task) (q : Piece) : LandPend :=
  { p.taken s t q with got := some (landValue p [s.ownLoad t q.pa q.n], s.loadBad q.pa q.n) }

section
variable {s : State} {id n : Nat} {p : LandPend} {q : Piece}

/-- A load of one piece that nothing keeps waiting is performed as one access (R88, R97). -/
theorem State.performPieces_one (hp : ((s.task id).landAt n).pend = some p) (hf : p.form = 16 ∨ p.form = 17) (hq : p.pas = [q])
    (hn : q.got = none) (ho : (s.task id).inOrder p.seq q.pa q.n = true) :
    s.performPieces id n = (s.cachePiece (s.task id).core q).setTask id
      ((s.task id).setLandAt n { (s.task id).landAt n with pend := some (p.taken s (s.task id) q) }) := by
  have hform : ¬(p.form = 24 ∨ p.form = 25) := by omega
  have ht : (s.cachePiece (s.task id).core q).task id = s.task id := by
    rw [State.task, (s.cachePiece_moved ..).tasks, State.task]
  have hsec : p.sectors = [q.pa / 128] := by simp [LandPend.sectors, hq, List.eraseDups_cons]
  have hv : s.performSector id n (q.pa / 128) = (s.cachePiece (s.task id).core q).takePieces id n
      (fun x => x.got.isNone && x.pa / 128 == q.pa / 128)
      (fun x => ((s.cachePiece (s.task id).core q).ownLoad (s.task id) x.pa x.n, (s.cachePiece (s.task id).core q).loadBad x.pa x.n)) := by
    simp [State.performSector, hp, hq, hn, ho, hform, State.cachePiece]
  rw [State.performPieces, hp]
  simp only [hsec, List.foldl_cons, List.foldl_nil, hv]
  simp [State.takePieces, ht, hp, hq, hn, LandPend.taken, State.ownLoad_cachePiece, State.loadBad_cachePiece]

/-- The data of a load of one piece arrives at its entry (R128, R263). -/
theorem State.performLoad_one (hp : ((s.task id).landAt n).pend = some p) (hf : p.form = 16 ∨ p.form = 17) (hq : p.pas = [q])
    (hn : q.got = none) (hg : p.got = none) (ho : (s.task id).inOrder p.seq q.pa q.n = true) :
    s.performLoad id n = (s.cachePiece (s.task id).core q).setTask id
      ((s.task id).setLandAt n { (s.task id).landAt n with pend := some (p.arrived s (s.task id) q) }) := by
  have hform : (p.form != 18) = true := by simp only [bne_iff_ne]; omega
  have hne : p.form ≠ 18 := by omega
  rw [State.performLoad, State.performPieces_one hp hf hq hn ho]
  simp [State.arriveLoad, LandPend.taken, LandPend.arrived, hg, hne, hform, landValue_of_pas]

end

/-! ### The arrival -/

/-- The current core is the core of its number. -/
theorem State.c_eq_coreAt (s : State) : s.c = s.coreAt s.core := rfl

@[simp] theorem State.coreAt_setTask (s : State) (id : Nat) (t : Task) (n : Nat) : (s.setTask id t).coreAt n = s.coreAt n := rfl

/-- A core issues a strand when one is chosen and holds a task. -/
theorem State.issuer_eq_some {s u : State} {n : Nat} : s.issuer n = some u ↔
    ∃ r i, (s.coreAt n).issuing = some r ∧ (s.coreAt n).res.find? r = some i ∧ u = { s with core := n, cur := i } := by
  constructor
  · intro h
    obtain ⟨i, hi, rfl⟩ := Option.map_eq_some_iff.1 h
    obtain ⟨r, hr, hi⟩ := Option.bind_eq_some_iff.1 hi
    exact ⟨r, i, hr, hi, rfl⟩
  · rintro ⟨r, i, hr, hi, rfl⟩
    simp [State.issuer, hr, hi]

/-- LANDING_ARRIVAL leaves what performing the load leaves, but for the freeze of the core, which ends where it waits for this entry
(R129). -/
theorem execLandingArrival_ends {s v : State} {id n : Nat}
    (hv : State.performLoad { s with cur := id, core := (s.task id).core } id n = v)
    (here : ∃ p, ((v.task id).landAt n).pend = some p ∧ p.got.isSome = true) :
    ∃ z, execLandingArrival id n s = .next z ∧ (z = v ∨ z = v.unfreeze) ∧
      ∀ f u, v.c.freeze = some f → v.issuer v.core = some u → f.kind = 0 → f.arg = n → u.cur = id → z = v.unfreeze := by
  obtain ⟨p, hp, hg⟩ := here
  simp only [execLandingArrival, hv, hp, hg, true_and]
  cases hf : v.c.freeze with
  | none => exact ⟨v, rfl, .inl rfl, by simp⟩
  | some f =>
    cases hi : v.issuer v.core with
    | none => exact ⟨v, rfl, .inl rfl, by simp⟩
    | some u =>
      by_cases hw : f.kind = 0 ∧ f.arg = n ∧ u.cur = id
      · exact ⟨v.unfreeze, by simp [hw], .inr rfl, fun _ _ _ _ _ _ _ => rfl⟩
      · refine ⟨v, by simp only [if_neg hw], .inl rfl, ?_⟩
        rintro _ _ ⟨rfl⟩ ⟨rfl⟩ h0 h1 h2
        exact absurd ⟨h0, h1, h2⟩ hw

/-- The freeze of the current core has ended. -/
theorem State.unfreeze_c_freeze (s : State) : s.unfreeze.c.freeze = none := by simp [State.unfreeze]

/-- LANDING_ARRIVAL of a load of one piece that nothing keeps waiting: its data stands at its entry, and a freeze that waits for the
entry ends (R128, R129). -/
theorem execLandingArrival_one {s : State} {id n : Nat} {p : LandPend} {q : Piece} (hp : ((s.task id).landAt n).pend = some p)
    (hf : p.form = 16 ∨ p.form = 17) (hq : p.pas = [q]) (hn : q.got = none) (hg : p.got = none)
    (ho : (s.task id).inOrder p.seq q.pa q.n = true) :
    ∃ z, execLandingArrival id n s = .next z ∧
      (z.task id).landAt n = { (s.task id).landAt n with pend := some (p.arrived s (s.task id) q) } ∧ z.mem = s.mem ∧
      ∀ f u, (s.coreAt (s.task id).core).freeze = some f → s.issuer (s.task id).core = some u → f.kind = 0 → f.arg = n →
        u.cur = id → (z.coreAt (s.task id).core).freeze = none := by
  let s0 : State := { s with cur := id, core := (s.task id).core }
  have moved : CachesMoved s0 (s0.cachePiece (s.task id).core q) := State.cachePiece_moved ..
  obtain ⟨l, hl⟩ := moved.cores (s.task id).core
  obtain ⟨v, hv, entry, mem, core, here⟩ : ∃ v, s0.performLoad id n = v ∧
      (v.task id).landAt n = { (s.task id).landAt n with pend := some (p.arrived s (s.task id) q) } ∧ v.mem = s.mem ∧
      v.core = (s.task id).core ∧ v.coreAt (s.task id).core = { s.coreAt (s.task id).core with l1 := l } :=
    ⟨_, State.performLoad_one (s := s0) hp hf hq hn hg ho, by rw [State.task_setTask, Task.landAt_setLandAt]; rfl, moved.mem,
      moved.core, hl⟩
  obtain ⟨z, hz, hor, thawed⟩ := execLandingArrival_ends hv ⟨_, by rw [entry], rfl⟩
  have same : z.mem = v.mem ∧ z.task id = v.task id := by rcases hor with rfl | rfl <;> exact ⟨rfl, rfl⟩
  refine ⟨z, hz, by rw [same.2, entry], by rw [same.1, mem], fun f u hfr hu h0 h1 h2 => ?_⟩
  obtain ⟨r, i, hr, hi, rfl⟩ := State.issuer_eq_some.1 hu
  have hiss : v.issuer v.core = some { v with core := v.core, cur := i } :=
    State.issuer_eq_some.2 ⟨r, i, by rw [core, here, ← hr], by rw [core, here, ← hi], rfl⟩
  rw [thawed f _ (by rw [State.c_eq_coreAt, core, here, ← hfr]) hiss h0 h1 h2, ← core]
  exact v.unfreeze_c_freeze

end Sys2Proof.Machine
end

section
/-! SUPPORT. The cycles of a core (R33, R35, R126-R131, R139, R402): what BUNDLE_ISSUE does in each case of a cycle, and what the end of a
bundle does that has nothing left for it. -/

namespace Sys2Proof.Machine

open Host

/-! ### Choosing a strand -/

/-- After the gap the core issues from the strand chosen (R33, R35). -/
theorem execStrandSelect_chosen {s : State} {core r id p : Nat} (hi : (s.coreAt core).issuing = none) (hg : (s.coreAt core).gap = 0)
    (hn : s.nextStrand core = some (r, id, p)) :
    execStrandSelect core s = .next ((s.setCore core { s.coreAt core with issuing := some r, last := (s.coreAt core).last.set p r }).setTask
      id { s.task id with head := .ready }) := by
  simp only [execStrandSelect, hi, hg, hn, Option.isSome_none, Bool.false_eq_true, ne_eq, not_true, or_self, if_false]
  rfl

/-- A core that issues a strand, or is in its gap, chooses none. -/
theorem execStrandSelect_idle {s : State} {core : Nat} (h : (s.coreAt core).issuing ≠ none ∨ (s.coreAt core).gap ≠ 0) :
    execStrandSelect core s = .next s := by
  rw [← Option.isSome_iff_ne_none] at h
  exact if_pos h

/-! ### The cases of a cycle -/

/-- A core with one more cycle counted. -/
def Core.tick (c : Core) : Core := { c with cycles := c.cycles + 1 }

/-- The current core just replaced reads back under its number. -/
@[simp] theorem State.coreAt_setC (s : State) (c : Core) : (s.setC c).coreAt s.core = c := s.c_setC c

/-- A cycle of the gap only counts (R33). -/
theorem execBundleIssue_gap {s : State} {core : Nat} (h : (s.coreAt core).gap ≠ 0) :
    execBundleIssue core s = .next (State.setC { s with core := core }
      { (s.coreAt core).tick with gap := (s.coreAt core).gap - 1 }) := if_pos h

section
variable {s : State} {core r id : Nat} (hg : (s.coreAt core).gap = 0) (hi : (s.coreAt core).issuing = some r)
  (hr : (s.coreAt core).res.find? r = some id)
include hg hi hr

/-- After the gap a cycle is the issuing strand's: of its freeze, of the end of a bundle that a trap left complete, or of its issue. -/
theorem execBundleIssue_strand (u : State) (hu : u = { s with core := core, cur := id }) :
    execBundleIssue core s = match (s.coreAt core).freeze with
      | some f => .next (u.setC (if f.kind = 4 then (s.coreAt core).tick
          else { (s.coreAt core).tick with frozen := (s.coreAt core).frozen + 1, freeze := some { f with count := f.count + 1 } }))
      | none =>
        if decide (5 ≤ u.t.slot) && (match u.t.inWalk with | some w => w.replay | none => true) then .next u.endBundle
        else .next (u.setC (s.coreAt core).tick).issueStrand := by
  subst hu
  have hg' : ¬ (State.c { s with core := core }).gap ≠ 0 := not_not.2 hg
  have hb : (State.c { s with core := core }).issuing.bind (fun r => (State.c { s with core := core }).res.find? r) = some id := by
    rw [show (State.c { s with core := core }).issuing = some r from hi]
    exact hr
  simp only [execBundleIssue, if_neg hg', hb]
  rfl

/-- A cycle of a freeze only counts (R129). -/
theorem execBundleIssue_frozen {f : Freeze} (hf : (s.coreAt core).freeze = some f) (hk : f.kind ≠ 4) :
    execBundleIssue core s = .next (State.setC { s with core := core, cur := id }
      { (s.coreAt core).tick with frozen := (s.coreAt core).frozen + 1, freeze := some { f with count := f.count + 1 } }) := by
  simp only [execBundleIssue_strand hg hi hr _ rfl, hf, if_neg hk]

/-- A cycle of a walk's own wait for a chunk counts as no frozen cycle (R364). -/
theorem execBundleIssue_walkWait {f : Freeze} (hf : (s.coreAt core).freeze = some f) (hk : f.kind = 4) :
    execBundleIssue core s = .next (State.setC { s with core := core, cur := id } (s.coreAt core).tick) := by
  simp only [execBundleIssue_strand hg hi hr _ rfl, hf, if_pos hk]

/-- A bundle that a trap left complete ends first (R139). -/
theorem execBundleIssue_ends {u : State} (hu : u = { s with core := core, cur := id }) (hf : (s.coreAt core).freeze = none)
    (hs : u.t.slot = 5) (hw : u.t.inWalk = none) : execBundleIssue core s = .next u.endBundle := by
  simp [execBundleIssue_strand hg hi hr u hu, hf, hs, hw]

/-- Otherwise the cycle is one of the strand's issue (R126). -/
theorem execBundleIssue_issues {u : State} (hu : u = { s with core := core, cur := id }) (hf : (s.coreAt core).freeze = none)
    (hs : u.t.slot < 5) : execBundleIssue core s = .next (u.setC (s.coreAt core).tick).issueStrand := by
  simp [execBundleIssue_strand hg hi hr u hu, hf, hs]

end

/-! ### The issue of a strand -/

/-- A strand inside a bundle takes no COPY trap (R402). -/
theorem Task.copyTrapDue_of_word {t : Task} (h : t.cur.word.isSome = true) : t.copyTrapDue = false := by
  simp only [Task.copyTrapDue, Option.isNone_eq_false_iff.2 h, Bool.and_false]

/-- With no COPY trap due, a strand outside a walk issues at its pc. -/
theorem State.issueStrand_outsideWalk {s : State} (hc : s.t.copyTrapDue = false) (hw : s.t.inWalk = none) :
    s.issueStrand = s.issueAt s.t.pc := by
  simp [State.issueStrand, hc, hw]

/-- A bundle that has been issued goes on with its slots. -/
theorem State.issueAt_entered {s : State} (pc : Word) (h : s.t.cur.word.isSome = true) :
    s.issueAt pc = { s with turn := some (.slot s.cur) } := if_pos h

/-- What a strand outside a walk makes of a fetch: its bundle is issued, the core waits, or the strand takes the fault. -/
def FetchEnd.next (e : FetchEnd) : State :=
  match e with
  | .word s w => (s.setT { s.t with entering := false }).issueWord w
  | .wait s => s
  | .fault s code va => s.fetchFault 4 code va

/-- The state in which a strand outside a walk fetches: results and landing data that are due have landed, and a written fmt has taken
effect (R127, R128, R131). -/
def State.landed (s : State) : State := s.setT s.t.landDue.expireFmt.landEntries

@[simp] theorem State.landed_c (s : State) : s.landed.c = s.c := rfl

/-- A strand outside a walk that has no bundle fetches one. -/
theorem State.issueAt_fetches {s : State} (pc : Word) (h : s.t.cur.word = none) (hw : s.t.inWalk = none) :
    s.issueAt pc = (s.landed.fetch pc).next := by
  simp only [State.issueAt, State.landed, h, hw, Option.isSome_none, Bool.false_eq_true, if_false]
  generalize State.fetch _ pc = e
  cases e <;> rfl

/-- A strand inside a bundle goes on with its slots. -/
theorem State.issueStrand_entered {s : State} (hw : s.t.inWalk = none) (h : s.t.cur.word.isSome = true) :
    s.issueStrand = { s with turn := some (.slot s.cur) } := by
  rw [State.issueStrand_outsideWalk (Task.copyTrapDue_of_word h) hw, State.issueAt_entered _ h]

/-- A strand between bundles fetches the one at its pc. -/
theorem State.issueStrand_fetches {s : State} (hc : s.t.copyTrapDue = false) (hw : s.t.inWalk = none) (h : s.t.cur.word = none) :
    s.issueStrand = (s.landed.fetch s.t.pc).next := by
  rw [State.issueStrand_outsideWalk hc hw, State.issueAt_fetches _ h hw]

/-- A bundle that has arrived, at a cached address that is reached without poison, is fetched (R126, R435). -/
theorem State.fetch_arrived {s t : State} {pc : Word} {ps : List (Nat × Nat)} (hc : canonical pc = true)
    (hf : s.c.fetched = some (va57 pc)) (ht : (s.cached s.t.core (s.partOfTask s.t) (s.asidOf s.t) (va57 pc)).isSome = true)
    (hr : s.reach s.t.core (s.asidOf s.t) (s.accOf s.t) .fetch pc 32 = (t, .ok ps)) (hb : t.badAll ps = false) :
    s.fetch pc = .word t (BitVec.ofNat 256 (ofBytes (t.loadAll ps))) := by
  have hn := Option.isNone_eq_false_iff.2 ht
  simp [State.fetch, hc, hn, hf, hr, hb]

/-- A bundle whose tokens have completed, with no landing entry late, starts its slots (R30, R129). -/
theorem State.issueWord_starts {s : State} {w : BitVec 256} {b : Bundle} (hs : s.t.slot = 0)
    (hm : s.t.waitMask (w.extractLsb 255 248).toNat = 0) (hl : (s.t.observe (w.extractLsb 255 248).toNat).lateEntry = none)
    (hd : decodeBundle w = some b) : s.issueWord w = (s.setT (s.t.observe (w.extractLsb 255 248).toNat)).startSlots w := by
  simp only [State.issueWord, hs, hm, hl, hd, if_true, ne_eq, not_true, and_false, if_false, State.t_setT, Option.isNone_some,
    Bool.false_eq_true]

/-! ### The issue cycle -/

section
variable {s u : State} {core r id : Nat} (hg : (s.coreAt core).gap = 0) (hi : (s.coreAt core).issuing = some r)
  (hr : (s.coreAt core).res.find? r = some id) (hu : u = { s with core := core, cur := id }) (hf : (s.coreAt core).freeze = none)
  (hw : u.t.inWalk = none)
include hg hi hr hu hf hw

/-- The cycle of a strand inside a bundle goes on with its slots. -/
theorem execBundleIssue_entered (hs : u.t.slot < 5) (h : u.t.cur.word.isSome = true) :
    execBundleIssue core s = .next { u.setC (s.coreAt core).tick with turn := some (.slot u.cur) } := by
  rw [execBundleIssue_issues hg hi hr hu hf hs, State.issueStrand_entered (s := u.setC _) hw h]
  rfl

/-- The cycle of a strand between bundles fetches one (R126). -/
theorem execBundleIssue_fetches (hs : u.t.slot < 5) (hc : u.t.copyTrapDue = false) (h : u.t.cur.word = none) :
    execBundleIssue core s = .next ((u.setC (s.coreAt core).tick).landed.fetch u.t.pc).next := by
  rw [execBundleIssue_issues hg hi hr hu hf hs, State.issueStrand_fetches (s := u.setC _) hc hw h, State.t_setC]

/-- The cycle of a strand whose next bundle has arrived, and waits for no token and no landing entry, starts its slots (R126, R129,
R139). -/
theorem execBundleIssue_starts {v x y : State} {ps : List (Nat × Nat)} {w : BitVec 256} {b : Bundle} (hs : u.t.slot = 0)
    (hc : u.t.copyTrapDue = false) (h : u.t.cur.word = none) (hpc : canonical u.t.pc = true)
    (hfe : (s.coreAt core).fetched = some (va57 u.t.pc)) (hv : v = (u.setC (s.coreAt core).tick).landed)
    (hca : (v.cached v.t.core (v.partOfTask v.t) (v.asidOf v.t) (va57 u.t.pc)).isSome = true)
    (hre : v.reach v.t.core (v.asidOf v.t) (v.accOf v.t) .fetch u.t.pc 32 = (x, .ok ps)) (hbad : x.badAll ps = false)
    (hy : y = x.setT { x.t with entering := false }) (hword : w = BitVec.ofNat 256 (ofBytes (x.loadAll ps))) (hys : y.t.slot = 0)
    (hm : y.t.waitMask (w.extractLsb 255 248).toNat = 0) (hl : (y.t.observe (w.extractLsb 255 248).toNat).lateEntry = none)
    (hd : decodeBundle w = some b) :
    execBundleIssue core s = .next ((y.setT (y.t.observe (w.extractLsb 255 248).toNat)).startSlots w) := by
  have hvc : v.c.fetched = some (va57 u.t.pc) := by rw [hv, State.landed_c, State.c_setC, Core.tick, hfe]
  have hfetch : v.fetch u.t.pc = .word x w := by rw [hword, State.fetch_arrived hpc hvc hca hre hbad]
  rw [execBundleIssue_fetches hg hi hr hu hf hw (by omega) hc h, ← hv, hfetch, FetchEnd.next, ← hy,
    State.issueWord_starts hys hm hl hd]

end

/-! ### The end of a bundle -/

/-- A bundle that has left nothing for its end (R139): no write, return, end, walk, yield, branch, loop or top of the residual stack. -/
structure Cur.Plain (c : Cur) : Prop where
  fin : c.fin = none
  ends : c.ends = []
  ret : c.ret = false
  rev : c.rev = none
  yield : c.yield = false
  target : c.target = none
  goB : c.goB = none
  loop : c.loop = none
  still : c.still = false
  top : c.top = none

/-- Without a running loop the next bundle follows (R182). -/
theorem Bank.loopStep_of_idle {b : Bank} (h : ∀ k < 4, b.lc.get k 0 = 0) (pc : Word) : b.loopStep pc = (b, pc + 32) := by
  have hn : (List.range 4).find? (fun n => b.lc.get n 0 != 0 && b.le.get n 0 == pc) = none := by
    simp only [List.find?_eq_none, List.mem_range]
    intro k hk
    simp only [h k hk, bne_self_eq_false, Bool.false_and, Bool.false_eq_true, not_false_eq_true]
  simp only [Bank.loopStep, hn]

/-- A bundle that has left nothing for its end is followed by the next one. -/
theorem Task.following_of_plain {t : Task} (h : t.cur.Plain) (hl : ∀ k < 4, t.bank.lc.get k 0 = 0) :
    t.following = (t.bank, t.pc + 32) := by
  simp [Task.following, h.target, h.goB, h.ret, h.fin, h.loop, Bank.loopStart, Bank.loopStep_of_idle hl]

/-- What such a bundle writes at its end: nothing but that its record holds no push. -/
theorem State.bundleWrites_of_plain {s : State} (h : s.t.cur.Plain) :
    s.bundleWrites = s.setT { s.t with cur := { s.t.cur with pushed := 0 } } := by
  simp [State.bundleWrites, Task.flushTop, State.endWrites, State.setCur, h.top, h.ends]

/-- Setting the clock changes the two clocks alone. -/
theorem Task.setNow_eq (t : Task) (n : Nat) :
    t.setNow n = { t with clock := if t.sys then t.clock else n, hclock := if t.sys then n else t.hclock } := by
  cases h : t.sys <;> simp [Task.setNow, h]

@[simp] theorem Task.setNow_stores (t : Task) (n : Nat) : (t.setNow n).stores = t.stores := by rw [Task.setNow_eq]

/-- With no store pending none is performed (R193). -/
theorem State.performDue_of_noStore {s : State} (h : s.t.stores = []) : s.performDue = s := by
  simp [State.performDue, h]

/-- What such a bundle, with no store pending, leaves of its task: one instant passes on the clock that it issues on, and the next bundle
follows (R139, R397). -/
def Task.passed (t : Task) : Task := { ({ t with slot := 0 } : Task).setNow (t.now + 1) with pc := t.pc + 32, cur := default }

/-- The strand clock is held in system mode (R397). -/
theorem Task.passed_clock (t : Task) : t.passed.clock = if t.sys then t.clock else t.clock + 1 := by
  cases h : t.sys <;> simp [Task.passed, Task.setNow_eq, Task.now, h]

/-- The registers stay, and the next bundle begins at its first slot. -/
theorem Task.passed_frame (t : Task) : t.passed.pc = t.pc + 32 ∧ t.passed.slot = 0 ∧ t.passed.cur = default ∧ t.passed.g = t.g ∧
    t.passed.ctl = t.ctl := by
  simp [Task.passed, Task.setNow_eq]

/-- A bundle that has left nothing for its end goes on at the next (R139). -/
theorem State.endBundle_of_plain {s : State} (hw : s.t.inWalk = none) (h : s.t.cur.Plain) (hst : s.t.stores = [])
    (hl : ∀ k < 4, s.t.bank.lc.get k 0 = 0) : s.endBundle = { s.setT s.t.passed with turn := none } := by
  obtain ⟨t, ht⟩ : ∃ t : Task, t = { s.t with cur := { s.t.cur with pushed := 0 } } := ⟨_, rfl⟩
  have hp : t.cur.Plain := by subst ht; exact ⟨h.fin, h.ends, h.ret, h.rev, h.yield, h.target, h.goB, h.loop, h.still, h.top⟩
  have hb : s.bundleWrites = s.setT t := by rw [ht, State.bundleWrites_of_plain h]
  have hf : t.following = (t.bank, t.pc + 32) := Task.following_of_plain hp (by subst ht; exact hl)
  have hd : (s.setT (({ t with slot := 0 } : Task).setNow (t.now + 1))).performDue =
      s.setT (({ t with slot := 0 } : Task).setNow (t.now + 1)) := by
    refine State.performDue_of_noStore ?_
    rw [State.t_setT, Task.setNow_stores]
    subst ht
    exact hst
  have he : t.passed = s.t.passed := by
    simp only [ht, Task.passed, Task.setNow_eq, Task.now]
  simp only [State.endBundle, hw, hb, hf, hd, hp.fin, hp.ret, hp.rev, hp.yield, hp.still, State.t_setT, State.setT_setT, ne_eq,
    not_true, false_and, if_false, Option.isSome_none, Bool.false_eq_true, ← he]
  rfl

end Sys2Proof.Machine
end

section
/-! SUPPORT. The arrivals that end a core's freeze (R126, R129, R364, R436), the limit of a freeze (R130), the COPY trap (R288, R402),
and the residual unit (R363, R364). -/

namespace Sys2Proof.Machine

open Host

/-! ### The watchdog (R130) -/

/-- A fault of the Handler's route suspends the strand (R408). -/
theorem State.raise_of_handlerRoute {cls code : Nat} (h : ownRoute cls code = false) (s : State) (info : Word) :
    s.raise cls code info = s.suspend cls code info := by
  simp [State.raise, h]

/-- The virtual address that a fetch's freeze names. -/
def Freeze.va (f : Freeze) : Word := (BitVec.ofNat 57 f.arg).signExtend 64

/-- Whether a freeze waits for a fetch: for its bytes, or for its translation. -/
def Freeze.OfFetch (f : Freeze) : Prop := f.kind = 1 ∨ (f.kind = 2 ∧ f.arg / 2 ^ 57 = 2)

/-- A late landing reports its entry. -/
theorem State.lateTrap_landing {f : Freeze} (h : f.kind = 0) (s : State) : s.lateTrap f = s.suspend 11 1 (wd f.arg) := by
  simp [State.lateTrap, h]

/-- A late fetch is a fault of the fetch (R406). -/
theorem State.lateTrap_ofFetch {f : Freeze} (h : f.OfFetch) (s : State) : s.lateTrap f = { s.fetchFault 11 2 f.va with turn := none } :=
  if_pos h

/-- A late fetch reports its address (R401). -/
theorem State.lateTrap_fetch {f : Freeze} (h : f.OfFetch) {s : State} (hs : s.t.sys = false ∨ s.t.entering = false) :
    s.lateTrap f = { s.suspend 11 2 f.va with turn := none } := by
  have he : ¬(s.t.sys = true ∧ s.t.entering = true) := by
    rintro ⟨h1, h2⟩
    simp [h1, h2] at hs
  rw [State.lateTrap_ofFetch h, State.fetchFault, if_neg he, State.raise_of_handlerRoute rfl]

/-- A late fetch of a handler's first bundle is a double fault (R406). -/
theorem State.lateTrap_entering {f : Freeze} (h : f.OfFetch) {s : State} (hs : s.t.sys = true) (he : s.t.entering = true) :
    s.lateTrap f = { s.doubleFault with turn := none } := by
  rw [State.lateTrap_ofFetch h, State.fetchFault, if_pos ⟨hs, he⟩]

/-- Any other late freeze reports a free value (notes/assumptions/22.md). -/
theorem State.lateTrap_other {f : Freeze} (h : ¬f.OfFetch) (h0 : f.kind ≠ 0) (s : State) :
    s.lateTrap f = State.suspend { s with free := s.free + 1 } 11 1 (Config.freeWord s.free) :=
  (if_neg h).trans (if_neg h0)

section
variable {s u : State} {core : Nat} {f : Freeze}

/-- At the limit the strand takes the late-landing trap and the core goes on (R130). -/
theorem execFreezeWatchdogExpiry_late (hf : (s.coreAt core).freeze = some f) (hu : s.issuer core = some u) (hk : f.kind ≤ 3)
    (hc : 2 ^ (s.coreAt core).watch ≤ f.count) : execFreezeWatchdogExpiry core s = .next (u.unfreeze.lateTrap f) := by
  simp only [execFreezeWatchdogExpiry, hf, hu, if_pos (And.intro hk hc)]

/-- Before the limit the watchdog does nothing. -/
theorem execFreezeWatchdogExpiry_early (hf : (s.coreAt core).freeze = some f) (hu : s.issuer core = some u)
    (hc : f.count < 2 ^ (s.coreAt core).watch) : execFreezeWatchdogExpiry core s = .next s := by
  have h : ¬(f.kind ≤ 3 ∧ 2 ^ (s.coreAt core).watch ≤ f.count) := by omega
  simp only [execFreezeWatchdogExpiry, hf, hu, if_neg h]

/-! ### The other arrivals -/

/-- A fetched bundle has arrived (R126). -/
theorem execFetchArrival_arrives (hf : (s.coreAt core).freeze = some f) (hk : f.kind = 1) :
    execFetchArrival core s = .next (s.setCore core { s.coreAt core with freeze := none, fetched := some f.arg }) := by
  simp only [execFetchArrival, hf, if_pos hk]

/-- The walk that a freeze waits for (R436): of the strand's address space, at the address and for the access that the freeze names. -/
def State.frozenWalk (s : State) (core : Nat) (f : Freeze) : State × Tr :=
  s.walkCache core (s.partOfTask s.t) (s.asidOf s.t) (f.arg % 2 ^ 57) (permOf (f.arg / 2 ^ 57))

/-- A walk that finds its leaf ends the freeze with the leaf cached (R436, R439). -/
theorem execTranslationWalkComplete_ok (hf : (s.coreAt core).freeze = some f) (hu : s.issuer core = some u) (hk : f.kind = 2)
    {pa : Nat} (hr : (u.unfreeze.frozenWalk core f).2 = .ok pa) :
    execTranslationWalkComplete core s = .next (u.unfreeze.frozenWalk core f).1 := by
  obtain ⟨v, h⟩ : ∃ v, u.unfreeze.frozenWalk core f = (v, .ok pa) := ⟨_, Prod.ext rfl hr⟩
  have hw := h
  unfold State.frozenWalk at hw
  simp only [execTranslationWalkComplete, hf, hu, if_pos hk, hw, h]

/-- A walk that fails raises the fault of the access that asked for it (R436). -/
theorem execTranslationWalkComplete_bad (hf : (s.coreAt core).freeze = some f) (hu : s.issuer core = some u) (hk : f.kind = 2)
    {reason level : Nat} (hr : (u.unfreeze.frozenWalk core f).2 = .bad reason level) (hp : permOf (f.arg / 2 ^ 57) ≠ .fetch) :
    execTranslationWalkComplete core s = .next { (u.unfreeze.frozenWalk core f).1.raise 4
      (trCode (permOf (f.arg / 2 ^ 57)) reason level) f.va with turn := none } := by
  obtain ⟨v, h⟩ : ∃ v, u.unfreeze.frozenWalk core f = (v, .bad reason level) := ⟨_, Prod.ext rfl hr⟩
  have hw := h
  unfold State.frozenWalk at hw
  simp only [execTranslationWalkComplete, hf, hu, if_pos hk, hw, h, if_neg hp, Freeze.va]

end

/-- A COPY trap that is due at the strand's bundle boundary is taken (R288, R402). -/
theorem execCopyTrap_due {s u : State} {task : Nat} (hu : s.issuer (s.task task).core = some u) (hc : u.cur = task) (hg : u.c.gap = 0)
    (hf : u.c.freeze = none) (hd : u.t.copyTrapDue = true) : execCopyTrap task s = .next u.copyTrap := by
  simp [execCopyTrap, hu, hc, hg, hf, hd]

/-! ### The residual unit (R363, R364, R366) -/

/-- A task that is not speculative need not serialise (R334). -/
theorem State.serialised_of_plain {s : State} (h : s.t.spec = false) (ok : State → Eff) : s.serialised ok = ok s := by
  simp [State.serialised, State.serialisedAs, h]

/-- What writing out chunk m for a strand that waits for chunk n leaves: the slot is freed, or another chunk has moved on first, or a fault
ends the freeze, and the slot that needs the chunk meets it. -/
def spillEnd (m n : Nat) (r : State × TierEnd) : State :=
  match r with
  | (s, .ok true) => (s.setT (s.t.freeSlot m)).chunkDone n
  | (s, .ok false) => s
  | (s, .error _) => s.unfreeze

/-- What an early write of chunk m leaves: its slot equals its copy outside, once it is written. -/
def earlySpillEnd (m : Nat) (r : State × TierEnd) : State :=
  match r with
  | (s, .ok true) => s.setT (s.t.cleanSlot m)
  | (s, _) => s

/-- What bringing in the chunk that a strand waits for leaves. -/
def fillEnd (n : Nat) (r : State × TierEnd) : State :=
  match r with
  | (s, .ok _) => s.chunkDone n
  | (s, .error _) => s.unfreeze

section
variable {s u : State} {task n m : Nat}

/-- The chunk in the slot that the awaited one needs is written to its tier (R363, R364). -/
theorem execResidualSpill_awaited (hw : s.chunkWait task = some (u, n)) (hn : u.t.need n = .spill m) (hs : u.t.spec = false) :
    execResidualSpill task s = .next (spillEnd m n (u.spillChunk m)) := by
  simp only [execResidualSpill, hw, hn, State.serialised_of_plain hs]
  obtain ⟨v, e | (_ | _)⟩ := u.spillChunk m <;> rfl

/-- With nothing waiting the unit writes out its oldest full chunk (R364). -/
theorem execResidualSpill_early (hw : s.chunkWait task = none) (hu : s.unitFree task = some u) (ho : u.t.oldest = some m) :
    execResidualSpill task s = .next (earlySpillEnd m (u.spillChunk m)) := by
  simp only [execResidualSpill, hw, hu, ho]
  obtain ⟨v, e | (_ | _)⟩ := u.spillChunk m <;> rfl

/-- The awaited chunk is brought into its slot (R364). -/
theorem execResidualFill_awaited (hw : s.chunkWait task = some (u, n)) (hn : u.t.need n = .fill) :
    execResidualFill task s = .next (fillEnd n (u.fillChunk n)) := by
  simp only [execResidualFill, hw, hn]
  obtain ⟨v, e | b⟩ := u.fillChunk n <;> rfl

/-- With nothing waiting the unit brings in a walk's next chunk (R364). -/
theorem execResidualFill_ahead (hw : s.chunkWait task = none) (hu : s.unitFree task = some u) (ha : u.t.ahead = some m) :
    execResidualFill task s = .next (u.fillChunk m).1 := by
  simp only [execResidualFill, hw, hu, ha]

end

end Sys2Proof.Machine
end

section
/-! The cycles of a core and the arrivals that it waits for: obligation O56. -/

namespace Sys2Proof.Machine

open Host

/-- A started bundle's slots come next, and its word stands in the strand's record. -/
theorem State.startSlots_spec (s : State) (w : BitVec 256) :
    (s.startSlots w).turn = some (.slot s.cur) ∧ (s.startSlots w).t.cur.word = some w ∧ (s.startSlots w).mem = s.mem := by
  refine ⟨rfl, ?_, rfl⟩
  show (State.t (State.setT _ _)).cur.word = some w
  rw [State.t_setT]

/-- What a fetch gives is issued, waited for or raised. -/
theorem FetchEnd.next_eq (e : FetchEnd) : e.next = match e with
    | .word s w => (s.setT { s.t with entering := false }).issueWord w
    | .wait s => s
    | .fault s code va => s.fetchFault 4 code va := rfl

/-- Settles O56: each case of a cycle and each arrival is one equation of the move that it is. -/
theorem coreIssue : Obligations.CoreIssue := by
  unfold Obligations.CoreIssue
  refine ⟨fun s core id r p n b => ⟨?select, fun h => execStrandSelect_idle h, ?gap, ?strand, State.startSlots_spec, ?plain⟩,
    fun s core task n f s1 u => ⟨?landing, fun hf hk => execFetchArrival_arrives hf hk, ?watchdog, ?results, ?walk,
      fun hu hc hg hf hd => execCopyTrap_due hu hc hg hf hd, fun m hw hn hs => execResidualSpill_awaited hw hn hs,
      fun hw hu => ⟨fun m ho => execResidualSpill_early hw hu ho, fun m ha => execResidualFill_ahead hw hu ha⟩,
      fun hw hn => execResidualFill_awaited hw hn⟩⟩
  case select =>
    intro hi hg hn
    exact ⟨_, execStrandSelect_chosen hi hg hn, by simp, by simp, by simp, rfl⟩
  case gap =>
    intro hg
    refine ⟨_, execBundleIssue_gap (by omega), ?_⟩
    rw [show ∀ x, (State.setC { s with core := core } x).coreAt core = x from fun x => State.coreAt_setC _ x]
    exact ⟨by rw [hg]; rfl, rfl, rfl, rfl⟩
  case strand =>
    intro hg hi hr
    refine ⟨?_, fun f hf hk => execBundleIssue_walkWait hg hi hr hf hk, fun hf hs hw => execBundleIssue_ends hg hi hr rfl hf hs hw,
      fun hf hs hw h => execBundleIssue_entered hg hi hr rfl hf hw hs h, fun hf hs hc hw h => ?_, ?_⟩
    · intro f hf hk
      refine ⟨_, execBundleIssue_frozen hg hi hr hf hk, ?_⟩
      rw [show ∀ x, (State.setC { s with core := core, cur := id } x).coreAt core = x from fun x => State.coreAt_setC _ x]
      exact ⟨rfl, rfl, rfl, rfl, rfl⟩
    · exact (execBundleIssue_fetches hg hi hr rfl hf hw hs hc h).trans (congrArg _ (FetchEnd.next_eq _))
    · intro ps hf hs hc hw h hpc hfe hca hre y w tw hb hys _ hm hl hd
      exact execBundleIssue_starts hg hi hr rfl hf hw hs hc h hpc hfe rfl hca (Prod.ext rfl hre) hb rfl rfl hys hm hl hd
  case plain =>
    intro v hw fin ends ret rev yield target goB loop still top hst hl
    refine ⟨_, State.endBundle_of_plain hw ⟨fin, ends, ret, rev, yield, target, goB, loop, still, top⟩ hst hl, ?_⟩
    obtain ⟨pc, slot, cur, g, ctl⟩ := v.t.passed_frame
    rw [show State.t { v.setT v.t.passed with turn := none } = v.t.passed from v.t_setT _]
    exact ⟨pc, slot, cur, rfl, v.t.passed_clock, g, ctl, rfl⟩
  case landing =>
    intro p pa k a hp hg hf hq ho
    obtain ⟨z, hz, entry, mem, thawed⟩ := execLandingArrival_one hp hf hq rfl hg ho
    exact ⟨z, hz, entry, mem, fun hfr h0 h1 hu h2 => thawed f u hfr hu h0 h1 h2⟩
  case watchdog =>
    refine fun hf hu hk => ⟨fun hc => ?_, fun hc => execFreezeWatchdogExpiry_early hf hu hc⟩
    rw [show exec (.freezeWatchdogExpiry core) s = _ from execFreezeWatchdogExpiry_late hf hu hk hc]
    refine ⟨fun h0 => ?_, fun hof => ⟨fun hs => ?_, fun hs he => ?_⟩, fun hor => ?_⟩
    · rw [State.lateTrap_landing h0]
    · rw [State.lateTrap_fetch (s := u.unfreeze) hof hs]; rfl
    · rw [State.lateTrap_entering (s := u.unfreeze) hof hs he]
    · obtain ⟨_, _, _, _, rfl⟩ := State.issuer_eq_some.1 hu
      rw [State.lateTrap_other (by unfold Freeze.OfFetch; omega) (by omega)]; rfl
  case results => exact fun h => ⟨congrArg _ (if_pos h), fun hw => congrArg _ (if_pos ⟨h, Option.isNone_iff_eq_none.2 hw⟩)⟩
  case walk =>
    exact fun hf hu hk => ⟨fun pa hr => execTranslationWalkComplete_ok hf hu hk hr,
      fun reason level hr hp => execTranslationWalkComplete_bad hf hu hk hr hp⟩

end Sys2Proof.Machine
end

section
/-! The exception flags and the latches, obligation O9: what a write of fflags stores, and what a landing result writes (R58, R59, R127,
R169). -/

namespace Sys2Proof.Machine

open Host

/-! ### A write of fflags (R58, R195) -/

/-- The enables' mask takes bits 12:8. -/
theorem enablesMask_getLsbD : ∀ i < 64, (0x1F00 : Word).getLsbD i = decide (8 ≤ i ∧ i ≤ 12) := by decide

/-- The flags' mask takes bits 5:0. -/
theorem flagsMask_getLsbD : ∀ i < 64, (0x3F : Word).getLsbD i = decide (i < 6) := by decide

/-- A write of fflags clears the flags written as 1, stores the enables, and leaves the reserved bits 0. -/
theorem fflagsWrite_getLsbD (old x : Word) {i : Nat} (hi : i < 64) : (fflagsWrite old x).getLsbD i =
    if i < 6 then old.getLsbD i && !x.getLsbD i else decide (8 ≤ i ∧ i ≤ 12) && x.getLsbD i := by
  simp only [fflagsWrite, BitVec.getLsbD_or, BitVec.getLsbD_and, BitVec.getLsbD_not, enablesMask_getLsbD i hi,
    flagsMask_getLsbD i hi, hi, decide_true, Bool.true_and]
  by_cases flag : i < 6
  · have noEnable : ¬(8 ≤ i ∧ i ≤ 12) := by omega
    simp [flag, noEnable]
  · simp [flag, Bool.and_comm]

/-- The write that ct.wrc asks of the end of a bundle stores what the field map of fflags gives. -/
theorem Task.fflags_endWrite (t : Task) (x : Word) : (t.endWrite 3 x).ctl.fflags = fflagsWrite t.ctl.fflags x := rfl

/-! ### A landing result (R59, R127, R169) -/

section
variable (t : Task) {f : Flight}

/-- A result that carries a value is read in its latch. -/
theorem Task.latch_landOne {x : Val} (h : f.val = some x) : (t.landOne f).latch f.unit f.h = x := by
  simp [Task.landOne, Task.latch, h]

/-- The other latches read as before. -/
theorem Task.latch_landOne_ne {u : Nat} {h : Bool} (ne : u * 2 + (if h then 1 else 0) ≠ f.unit * 2 + (if f.h then 1 else 0)) :
    (t.landOne f).latch u h = t.latch u h := by
  unfold Task.landOne Task.latch
  cases f.val with
  | none => rfl
  | some x => exact Tab.get_set_ne _ _ _ _ _ ne

/-- A result with a guard bit writes it. -/
theorem Task.k_landOne {n : Nat} {b : Bool} (h : f.k = some (n, b)) : (t.landOne f).k = t.k.set n b := by
  simp only [Task.landOne, h]

/-- A result without a guard bit writes none. -/
theorem Task.k_landOne_none (h : f.k = none) : (t.landOne f).k = t.k := by
  simp only [Task.landOne, h]

/-- A landing result raises its flags. -/
theorem Task.fflags_landOne : (t.landOne f).ctl.fflags = t.ctl.fflags ||| f.flags.setWidth 64 := rfl

end

/-- Settles O9: a write of fflags by the bits of its field map, a landing result by the latch, flags and guard bit that it writes. -/
theorem flagRules : Obligations.FlagRules := by
  unfold Obligations.FlagRules
  refine ⟨fun t x i hi => ?write, fun t f => ⟨fun x => t.latch_landOne, t.fflags_landOne, ?guard, t.k_landOne_none,
    fun u h => t.latch_landOne_ne, rfl, rfl, rfl, rfl, rfl, rfl, rfl, rfl, rfl⟩⟩
  case write => rw [Task.fflags_endWrite, fflagsWrite_getLsbD _ _ hi]
  case guard =>
    intro n b h
    rw [t.k_landOne h]
    exact ⟨Tab.get_set_self _ _ _ _, fun j hj => Tab.get_set_ne _ _ _ _ _ hj⟩

end Sys2Proof.Machine
end

section
/-! Random draws, obligation O18: the 64 generators of a task, lane by lane, and what the rg forms do when they are ready (R77, R298, R299). -/

namespace Sys2Proof.Machine

open Host

/-- A lane's generator after all 64 were replaced. -/
theorem Task.gen_mapGens (t : Task) (f : Nat → Gen → Gen) {i : Nat} (hi : i < 64) : (t.mapGens f).gen i = f i (t.gen i) := by
  simp [Task.mapGens, Task.gen, List.getD_eq_getElem?_getD, hi]

/-- A draw in every lane advances every generator (R77). -/
theorem Task.gen_drawn_all (t : Task) {i : Nat} (hi : i < 64) : (t.drawn (List.range 64)).gen i = (t.gen i).next t.keyed := by
  have all : t.drawn (List.range 64) =
      t.mapGens (fun i g => if (List.range 64).contains i then g.next t.keyed else g) := rfl
  rw [all, t.gen_mapGens _ hi, if_pos (by simpa using hi)]

/-- A reseed sets the generators in free-running mode only (R77). -/
theorem Task.gen_reseed (t : Task) (x : Word) {i : Nat} (hi : i < 64) :
    (t.reseed x).gen i = if t.keyed then t.gen i else { t.gen i with fs := mix (x + wd i) } :=
  t.gen_mapGens (fun i g => if t.keyed then g else { g with fs := mix (x + wd i) }) hi

/-- The low 32 bits of a word, by mask and by width. -/
theorem low32_eq_setWidth (x : Word) : low32 x = (x.setWidth 32).setWidth 64 := by
  refine BitVec.eq_of_toNat_eq ?_
  have mask : x.toNat &&& (0xFFFFFFFF : Word).toNat = x.toNat % 2 ^ 32 := Nat.and_two_pow_sub_one_eq_mod _ 32
  simp only [low32, BitVec.toNat_and, BitVec.toNat_setWidth, mask]
  omega

/-- The word that rg.bits draws in every lane (R77, R298). -/
def Task.drawnBits (t : Task) : Lanes := (List.range 64).map (fun i => (t.peek i).setWidth 64)

/-- A lane of the drawn words. -/
theorem Task.drawnBits_getD (t : Task) {i : Nat} (hi : i < 64) : t.drawnBits.getD i 0 = (t.peek i).setWidth 64 := by
  simp [Task.drawnBits, List.getD_eq_getElem?_getD, hi]

/-- The task whose generators rg.key has set: ECO by the lane, TAG and STEP from the ports (R298). -/
def Task.keyedGens (t : Task) (l : Lanes) : Task := t.mapGens (fun i g =>
  { g with eco := low32 (l.getD i 0), tag := wbits (t.pw 11 5) 7 0, step := wbits (t.pw 11 6) 31 0 })

section
variable {s0 s : State} {m : Mv} {x : Word}

/-- A ready rg.bits draws in every lane. -/
theorem execRgBits_ready (h : ReadyW s0 s 11 m x) : exec (.rgBits m) s0 =
    .next (s.ends 11 ((s.t.drawn (List.range 64)).result 11 false 2 (.v s.t.drawnBits) 0)) :=
  (show execRgBits m s0 = _ from trigW_free h _)

/-- A ready rg.seed reseeds. -/
theorem execRgSeed_ready (h : ReadyW s0 s 11 m x) : exec (.rgSeed m) s0 = .next (s.ends 11 (s.t.reseed x)) :=
  (show execRgSeed m s0 = _ from trigW_free h _)

/-- rg.mode of a value other than 0 and 1 is an illegal port (R298). -/
theorem execRgMode_illegal (h : ReadyW s0 s 11 m x) (hx : 1 < x.toNat) : exec (.rgMode m) s0 = .next (s.raise 1 3 0) := by
  rw [show exec (.rgMode m) s0 = execRgMode m s0 from rfl, show execRgMode m s0 = _ from trigW_free h _, if_pos hx]
  rfl

/-- rg.mode holds its value and whether draws are keyed, which in ordered mode they stay (R79, R299). -/
theorem execRgMode_legal (h : ReadyW s0 s 11 m x) (hx : x.toNat ≤ 1) : exec (.rgMode m) s0 = .next (s.ends 11
    { s.t with ctl := { s.t.ctl with rgm := x ||| (if x = 1 ∨ s.t.ctl.mode.getLsbD 0 = true then 2 else 0) } }) := by
  rw [show exec (.rgMode m) s0 = execRgMode m s0 from rfl, show execRgMode m s0 = _ from trigW_free h _, if_neg (Nat.not_lt.2 hx)]
  rfl

/-- A ready rg.key keys every generator. -/
theorem execRgKey_ready {v : Val} (h : Ready s0 s 11 m .V v) : exec (.rgKey m) s0 = .next (s.ends 11 (s.t.keyedGens v.lanes)) :=
  (show execRgKey m s0 = _ from slotTrig_ready h _ _ h.2)

end

/-- Settles O18: each rg form by what it does when ready, and its generators lane by lane. -/
theorem randomResults : Obligations.RandomResults := by
  unfold Obligations.RandomResults
  refine fun s0 s m x => ⟨fun h => ⟨?bits, ?seed, execRgMode_illegal h, execRgMode_legal h⟩, fun v h => ?key⟩
  case bits =>
    exact ⟨s.t.drawnBits, by simp [Task.drawnBits], fun i => s.t.drawnBits_getD, s.t.drawn (List.range 64),
      fun i => s.t.gen_drawn_all, rfl, execRgBits_ready h⟩
  case seed => exact ⟨s.t.reseed x, fun i => s.t.gen_reseed x, rfl, execRgSeed_ready h⟩
  case key =>
    refine ⟨s.t.keyedGens v.lanes, fun i hi => ?_, rfl, execRgKey_ready h⟩
    rw [Task.keyedGens, Task.gen_mapGens _ _ hi, low32_eq_setWidth]

end Sys2Proof.Machine
end

section
/-! The events of a site that refused or holds a request, obligation O59: a refused request or push is offered again (R94), and a combine is
folded once its sources have arrived (R281). -/

namespace Sys2Proof.Machine

open Host

/-! ### The request that an event takes up -/

/-- The request of the task's present mode comes first. -/
theorem Task.pick_await {t : Task} {a : Await} {f : Await → Bool} (ha : t.await = some a) (open_ : a.value = none) (hf : f a = true) :
    t.pick f = some (false, a) := by
  simp [Task.pick, Task.awaits, ha, open_, hf]

/-- A task without requests has none to take up. -/
theorem Task.pick_none {t : Task} (ha : t.await = none) (hh : t.hawait = none) (f : Await → Bool) : t.pick f = none := by
  simp [Task.pick, Task.awaits, ha, hh]

/-! ### NACK_RETRY (R94) -/

section
variable {s : State} {task : Nat}

/-- A refused request is offered again, and the task holds what it was answered. -/
theorem execNackRetry_request {a : Await} (ha : (s.task task).await = some a) (open_ : a.value = none) (refused : a.arg 0 = 1) :
    exec (.nackRetry task) s = .next
      ((({ s with cur := task } : State).submit (s.task task).core a).1.setOut task
        ((({ s with cur := task } : State).submit (s.task task).core a).1.t.setAwait false
          (({ s with cur := task } : State).submit (s.task task).core a).2)) := by
  have pick : (s.task task).pick (fun a => a.arg 0 == 1) = some (false, a) := Task.pick_await ha open_ (by simp [refused])
  show execNackRetry task s = _
  simp only [execNackRetry, pick]

/-- With no request waiting, a refused push is offered again. -/
theorem execNackRetry_push {x : Store} (ha : (s.task task).await = none) (hh : (s.task task).hawait = none)
    (hx : (s.task task).stores.find? (fun x => decide (0 < x.tries)) = some x) :
    exec (.nackRetry task) s = .next (({ s with cur := task } : State).performStore task x.seq) := by
  show execNackRetry task s = _
  simp only [execNackRetry, Task.pick_none ha hh, hx]

end

/-! ### Memory at the home of HBM lines (R91) -/

/-- An address in HBM lies below its end. -/
theorem lt_of_place_hbm {pa o : Nat} (h : place pa = .hbm o) : pa < 8 * stackSize := by
  unfold place at h
  dsimp only at h
  split_ifs at h
  assumption

/-- Near the end of HBM no address is of a strand's registers. -/
theorem place_ne_regs_of_hbm {pa o : Nat} (h : place pa = .hbm o) {k : Nat} (hk : k < 2 ^ 40) (c st off : Nat) :
    place (pa + k) ≠ .regs c st off := by
  have inHbm := lt_of_place_hbm h
  have low : pa + k < 0x1000000000000 := by unfold stackSize at inHbm; omega
  unfold place
  split
  · simp
  · rw [if_neg (by omega), if_neg (by omega), if_neg (by omega), if_neg (by omega), if_neg (by omega)]
    simp

/-- A write of memory leaves the tasks and which is current, unless it is of a strand's registers. -/
theorem State.store_tasks_cur (s : State) {pa : Nat} (h : ∀ c st off, place pa ≠ .regs c st off) (bs : List Byte) :
    (s.store pa bs).tasks = s.tasks ∧ (s.store pa bs).cur = s.cur := by
  have kept (l : List Nat) (s : State) : (l.foldl State.keepBack s).tasks = s.tasks ∧ (l.foldl State.keepBack s).cur = s.cur := by
    induction l generalizing s with
    | nil => exact ⟨rfl, rfl⟩
    | cons a r ih =>
      rw [List.foldl_cons, (ih _).1, (ih _).2]
      unfold State.keepBack
      split <;> exact ⟨rfl, rfl⟩
  unfold State.store
  split
  · exact absurd ‹_› (h _ _ _)
  · exact ⟨rfl, rfl⟩
  · exact kept _ s
  · exact kept _ s
  · exact ⟨rfl, rfl⟩

/-- A write at the home of its lines leaves the tasks and which is current, unless it is of a strand's registers. -/
theorem State.homeStore_tasks_cur (s : State) {pa : Nat} (h : ∀ c st off, place pa ≠ .regs c st off) (bs : List Byte) :
    (s.homeStore pa bs).tasks = s.tasks ∧ (s.homeStore pa bs).cur = s.cur := by
  have taken (l : List Nat) (s : State) : (l.foldl State.writeBack s).tasks = s.tasks ∧ (l.foldl State.writeBack s).cur = s.cur := by
    induction l generalizing s with
    | nil => exact ⟨rfl, rfl⟩
    | cons a r ih => exact ih _
  unfold State.homeStore
  split
  · rw [(taken _ _).1, (taken _ _).2]
    exact s.store_tasks_cur h bs
  · exact s.store_tasks_cur h bs

/-- With no cache holding a line of a run and nothing waiting at their homes, the run is clear and nothing changes. -/
theorem State.homeClear_clear {s : State} {pa n : Nat} (h : ∀ l ∈ linesOf pa n, (s.homeLine l).st = 0 ∧ (s.homeLine l).wait = []) :
    s.homeClear pa n = (s, true) := by
  unfold State.homeClear
  split
  · rfl
  · generalize linesOf pa n = lines at h
    induction lines with
    | nil => rfl
    | cons l r ih =>
      rw [List.foldl_cons, if_pos (h l (List.mem_cons_self ..))]
      exact ih (fun x hx => h x (List.mem_cons_of_mem _ hx))

/-- A task that need not note its accesses notes none. -/
theorem State.noteAll_of_committed {s : State} (h : s.t.uncommitted = false) (ps : List (Nat × Nat)) : s.noteAll ps = s := by
  simp [State.noteAll, h]

/-- A task on its strand has no image to change. -/
theorem State.setOut_of_resident (s : State) (id : Nat) {t : Task} (h : t.stage = .resident) : s.setOut id t = s.setTask id t := by
  simp [State.setOut, h]

/-! ### COMBINE_FOLD (R281) -/

section
variable {s : State} {task : Nat} {a : Await} {d : Staging}

/-- A descriptor that is no longer well formed is answered with the staging fault. -/
theorem execCombineFold_malformed {b : Nat} (ha : (s.task task).await = some a) (open_ : a.value = none) (h0 : a.arg 0 = 0)
    (hp : a.port = 39) (hb : stagingOf (s.load a.addr 64) = .error b) :
    exec (.combineFold task) s =
      .next (({ s with cur := task } : State).setOut task ((s.task task).setAwait false (a.failed 5 6))) := by
  have pick : (s.task task).pick (fun a => a.port == 39 && a.arg 0 == 0) = some (false, a) :=
    Task.pick_await ha open_ (by simp [h0, hp])
  have read : stagingOf (State.load { s with cur := task } a.addr 64) = .error b := hb
  show execCombineFold task s = _
  simp only [execCombineFold, pick, read]
  rfl

/-- Until every source has arrived the combine waits. -/
theorem execCombineFold_waits (ha : (s.task task).await = some a) (open_ : a.value = none) (h0 : a.arg 0 = 0) (hp : a.port = 39)
    (hd : stagingOf (s.load a.addr 64) = .ok d) (missing : arrivedAll (s.load a.addr 64) d.n = false) :
    exec (.combineFold task) s = .next { s with cur := task } := by
  have pick : (s.task task).pick (fun a => a.port == 39 && a.arg 0 == 0) = some (false, a) :=
    Task.pick_await ha open_ (by simp [h0, hp])
  have read : stagingOf (State.load { s with cur := task } a.addr 64) = .ok d := hd
  have arrived : arrivedAll (State.load { s with cur := task } a.addr 64) d.n = false := missing
  show execCombineFold task s = _
  simp [execCombineFold, pick, read, arrived]

/-- A combine of free order whose sources have arrived, of a descriptor in no cache: ARRIVED is cleared and the combine answered. -/
theorem execCombineFold_free (ha : (s.task task).await = some a) (open_ : a.value = none) (h0 : a.arg 0 = 0) (hp : a.port = 39)
    (hd : stagingOf (s.load a.addr 64) = .ok d) (all : arrivedAll (s.load a.addr 64) d.n = true) (free : d.free = true) {o : Nat}
    (hbm : place a.addr = .hbm o) (committed : (s.task task).uncommitted = false) (resident : (s.task task).stage = .resident)
    (idle : ∀ l ∈ linesOf a.addr 64, (s.homeLine l).st = 0 ∧ (s.homeLine l).wait = []) :
    ∃ z, exec (.combineFold task) s = .next z ∧
      z.mem = (({ s with cur := task } : State).homeStore (a.addr + 32) (toBytes 32 0)).mem ∧
      (z.task task).await = some (a.answered 0) := by
  obtain ⟨u, hu⟩ : ∃ u : State, ({ s with cur := task } : State) = u := ⟨_, rfl⟩
  have pick : (s.task task).pick (fun a => a.port == 39 && a.arg 0 == 0) = some (false, a) :=
    Task.pick_await ha open_ (by simp [h0, hp])
  have load : u.load a.addr 64 = s.load a.addr 64 := by rw [← hu]; rfl
  have cleared : u.homeClear a.addr 64 = (u, true) := State.homeClear_clear (by rw [← hu]; exact idle)
  have note : u.noteAll [(a.addr + 32, 32)] = u := State.noteAll_of_committed (by rw [← hu]; exact committed) _
  obtain ⟨tasks, cur⟩ := u.homeStore_tasks_cur (place_ne_regs_of_hbm hbm (k := 32) (by decide)) (toBytes 32 0)
  rw [hu]
  generalize hv : u.homeStore (a.addr + 32) (toBytes 32 0) = v at tasks cur ⊢
  have here : v.t = s.task task := by rw [State.t, tasks, cur, ← hu]; rfl
  refine ⟨(v.setT (v.t.orFlags 0)).setTask task ((v.t.orFlags 0).setAwait false (a.answered 0)), ?_, rfl, ?_⟩
  · show execCombineFold task s = _
    simp [execCombineFold, pick, hu, load, hd, all, cleared, note, free, hv]
    exact State.setOut_of_resident _ _ (by rw [here]; exact resident)
  · rw [State.task_setTask]; rfl

end

/-- Settles O59: a retry offers what was refused, and a fold is one of its three cases. -/
theorem siteEvents : Obligations.SiteEvents := by
  unfold Obligations.SiteEvents
  refine fun s task a d x => ⟨execNackRetry_request, execNackRetry_push, fun ha hv h0 hp => ⟨fun hd => ⟨?_, ?_⟩, fun b => ?_⟩⟩
  · exact execCombineFold_waits ha hv h0 hp hd
  · exact fun all free ⟨o, ho⟩ hc hr => execCombineFold_free ha hv h0 hp hd all free ho hc hr
  · exact execCombineFold_malformed ha hv h0 hp

end Sys2Proof.Machine
end

section
/-! SUPPORT for O50. What it means that an operation keeps memory in canonical form, for each shape of result: the states at a slot's
end, at a refused or accepted offer, at a fetch, in an outcome and in an option; and how sequences and choices keep it. Memory is
written in two places only, `State.wr` and `State.reboot`; the lemmas that follow carry the form from there to `step`, one for each
function of the model that answers a state, in the model's order. Each goes through the branches of its function and cites the lemmas
of the functions that it calls; a continuation enters as a hypothesis that it keeps the form too. -/

namespace Sys2Proof.Machine

open Host Arith

/-- The states that an operation leaves at its slot keep memory canonical. -/
def Eff.Inv : Eff → Prop
  | .done s => s.Inv
  | .trap s _ _ _ => s.Inv
  | .block s _ => s.Inv
  | .stay s => s.Inv

/-- The state after a push is offered, whatever the answer, keeps memory canonical. -/
def Offer.Inv : Offer → Prop
  | .ok s => s.Inv
  | .refused s _ _ => s.Inv
  | .discard s => s.Inv

/-- The state after a fetch, however it ends, keeps memory canonical. -/
def FetchEnd.Inv : FetchEnd → Prop
  | .word s _ => s.Inv
  | .wait s => s.Inv
  | .fault s _ _ => s.Inv

/-- The next state, where the outcome has one, keeps memory canonical. -/
def Out.Inv (o : Out) : Prop := ∀ t, o = .next t → t.Inv

/-- The state, where there is one, keeps memory canonical. -/
def OptInv (o : Option State) : Prop := ∀ t, o = some t → t.Inv

theorem Out.Inv.next {s : State} (h : s.Inv) : Out.Inv (.next s) := fun _ e => Outcome.next.inj e ▸ h

theorem OptInv.of_none : OptInv none := fun _ e => nomatch e

theorem OptInv.of_some {s : State} (h : s.Inv) : OptInv (some s) := fun _ e => Option.some.inj e ▸ h

theorem OptInv.bind {o : Option State} {f : State → Option State} (h : OptInv o) (hf : ∀ s (_ : s.Inv), OptInv (f s)) :
    OptInv (o.bind f) := by
  cases o with
  | none => exact .of_none
  | some s => exact hf s (h s rfl)

theorem OptInv.map {o : Option State} {f : State → State} (h : OptInv o) (hf : ∀ s (_ : s.Inv), (f s).Inv) : OptInv (o.map f) := by
  cases o with
  | none => exact .of_none
  | some s => exact .of_some (hf s (h s rfl))

theorem OptInv.getD {o : Option State} {s : State} (h : OptInv o) (hs : s.Inv) : (o.getD s).Inv := by
  cases o with
  | none => exact hs
  | some t => exact h t rfl

theorem OptInv.ite {c : Prop} [Decidable c] {a b : Option State} (ha : OptInv a) (hb : OptInv b) : OptInv (if c then a else b) := by
  split
  · exact ha
  · exact hb

theorem OptInv.findSome? {α : Type} {f : α → Option State} {l : List α} (h : ∀ a, OptInv (f a)) : OptInv (l.findSome? f) := by
  intro t e
  obtain ⟨a, -, e⟩ := List.exists_of_findSome?_eq_some e
  exact h a t e

theorem State.Inv.foldl {α : Type} {f : State → α → State} {l : List α} {s : State} (h : s.Inv)
    (hf : ∀ s a (_ : s.Inv), (f s a).Inv) :
    (l.foldl f s).Inv := by
  induction l generalizing s with
  | nil => exact h
  | cons a r ih => exact ih (hf s a h)

theorem State.Inv.foldl_fst {α β : Type} {f : State × β → α → State × β} {l : List α} {s : State × β} (h : s.1.Inv)
    (hf : ∀ s a (_ : s.1.Inv), (f s a).1.Inv) : (l.foldl f s).1.Inv := by
  induction l generalizing s with
  | nil => exact h
  | cons a r ih => exact ih (hf s a h)

end Sys2Proof.Machine
end

section
/-! SUPPORT for O50: the named operations over the state, the accesses of the physical map, translation, records and operands keep
memory canonical. -/

namespace Sys2Proof.Machine

open Host Arith

variable {s : State}

/-! ### Named operations (Machine/Ops.lean) -/

theorem State.Inv.setT {t} (h : s.Inv) : (s.setT t).Inv := h
theorem State.Inv.setTask {id t} (h : s.Inv) : (s.setTask id t).Inv := h
theorem State.Inv.setC {c} (h : s.Inv) : (s.setC c).Inv := h
theorem State.Inv.setCore {n c} (h : s.Inv) : (s.setCore n c).Inv := h
theorem State.Inv.setDie {d x} (h : s.Inv) : (s.setDie d x).Inv := h
theorem State.Inv.setGroup {g x} (h : s.Inv) : (s.setGroup g x).Inv := h
theorem State.Inv.freeWord (h : s.Inv) : s.freeWord.2.Inv := h
theorem State.Inv.choose {n} (h : s.Inv) : (s.choose n).2.Inv := h
theorem State.Inv.wr {a bs} (h : s.Inv) : (s.wr a bs).Inv := Memory.wf_write _ _ _ h
theorem State.Inv.wrN {a n x} (h : s.Inv) : (s.wrN a n x).Inv := h.wr
theorem State.Inv.mark {sector} (h : s.Inv) : (s.mark sector).Inv := h

theorem State.Inv.flushOut {die ep n} (h : s.Inv) : (s.flushOut die ep n).Inv := by
  induction n generalizing s with
  | zero => exact h
  | succ n ih =>
    unfold State.flushOut
    dsimp only
    split
    · exact h
    split
    · exact ih h.wr.setDie
    · exact h

theorem State.Inv.outward {die ep m} (h : s.Inv) : (s.outward die ep m).Inv := by
  unfold State.outward
  grind [setDie, flushOut]

theorem State.Inv.send {die ep ty aux data} (h : s.Inv) : (s.send die ep ty aux data).Inv := h.setDie.outward

theorem State.Inv.trace {ty slot ttag data} (h : s.Inv) : (s.trace ty slot ttag data).Inv := by
  unfold State.trace
  grind [setCore]

theorem State.Inv.endBlock {h'} (h : s.Inv) : (s.endBlock h').Inv := by
  unfold State.endBlock
  grind [State.Inv, setC, setT]

theorem State.Inv.suspend {cls code info} (h : s.Inv) : (s.suspend cls code info).Inv := h.setT.endBlock.send

theorem State.Inv.raise {cls code info} (h : s.Inv) : (s.raise cls code info).Inv := by
  unfold State.raise
  grind [State.Inv, setC, setT, trace, suspend]

theorem State.Inv.trapReturn (h : s.Inv) : s.trapReturn.Inv := by
  unfold State.trapReturn
  grind [State.Inv, setC, setT]

theorem State.Inv.commit (h : s.Inv) : s.commit.Inv := h.setT

theorem Eff.out_inv {e : Eff} (he : e.Inv) : Out.Inv (Eff.out e) := by
  unfold Eff.out
  grind [State.Inv, Eff.Inv, Out.Inv, State.Inv.raise, State.Inv.endBlock, State.Inv.commit]

theorem Eff.illSlot_inv (h : s.Inv) : (Eff.illSlot s).Inv := h
theorem Eff.illPort_inv (h : s.Inv) : (Eff.illPort s).Inv := h
theorem Eff.illType_inv (h : s.Inv) : (Eff.illType s).Inv := h

theorem Eff.andThen_inv {e : Eff} {f} (he : e.Inv) (hf : ∀ s (_ : s.Inv), (f s).Inv) : (Eff.andThen e f).Inv := by
  unfold Eff.andThen
  grind [Eff.Inv]

/-! ### Exception flags (Machine/Flags.lean) -/

theorem fpGuard_inv {f ok} (h : s.Inv) (hok : ∀ s (_ : s.Inv), (ok s).Inv) : (fpGuard s f ok).Inv := by
  unfold fpGuard
  grind [Eff.Inv, State.Inv.setT]

/-! ### Context images (Machine/Image.lean) -/

theorem State.Inv.windowWrite {core strand off bs} (h : s.Inv) : (s.windowWrite core strand off bs).Inv := by
  unfold State.windowWrite
  grind [setTask]

/-! ### The physical map (Machine/Phys.lean) -/

theorem State.Inv.setQueue {core q x} (h : s.Inv) : (s.setQueue core q x).Inv := h.setCore

theorem State.Inv.queueWrite {core q ctr off bs} (h : s.Inv) : (s.queueWrite core q ctr off bs).Inv := by
  unfold State.queueWrite
  grind [wr, foldl]

theorem State.Inv.keepBack {line} (h : s.Inv) : (s.keepBack line).Inv := by
  unfold State.keepBack
  grind [State.Inv]

theorem State.Inv.writeBack {line} (h : s.Inv) : (s.writeBack line).Inv := h

theorem State.Inv.store {pa bs} (h : s.Inv) : (s.store pa bs).Inv := by
  unfold State.store
  grind [windowWrite, wr, keepBack, foldl]

theorem State.Inv.homeStore {pa bs} (h : s.Inv) : (s.homeStore pa bs).Inv := by
  unfold State.homeStore
  grind [store, writeBack, foldl]

theorem State.Inv.refuse {core} (h : s.Inv) : (s.refuse core).Inv := h.setCore

/-! ### Translation (Machine/Translate.lean) -/

theorem State.Inv.cacheLeaf {core e} (h : s.Inv) : (s.cacheLeaf core e).Inv := h.setCore.setDie

theorem State.Inv.walkCache {core part asid va p} (h : s.Inv) : (s.walkCache core part asid va p).1.Inv := by
  unfold State.walkCache
  grind [cacheLeaf, homeStore]

theorem State.Inv.translate {core part asid va p} (h : s.Inv) : (s.translate core part asid va p).1.Inv := by
  unfold State.translate
  grind [walkCache]

theorem State.Inv.reachPieces {core asid a p ps} (h : s.Inv) : (s.reachPieces core asid a p ps).1.Inv := by
  induction ps generalizing s with
  | nil => exact h
  | cons x r ih => unfold State.reachPieces; grind [translate]

theorem State.Inv.reach {core asid a p va n} (h : s.Inv) : (s.reach core asid a p va n).1.Inv := by
  unfold State.reach
  grind [reachPieces]

theorem State.Inv.storeAll {ps bs} (h : s.Inv) : (s.storeAll ps bs).Inv := by
  induction ps generalizing s bs with
  | nil => exact h
  | cons x r ih => exact ih h.store

theorem State.Inv.homeAll {ps bs} (h : s.Inv) : (s.homeAll ps bs).Inv := by
  induction ps generalizing s bs with
  | nil => exact h
  | cons x r ih => exact ih h.homeStore

/-! ### Accesses still to be performed (Machine/Pending.lean) -/

theorem State.Inv.setResv {key r} (h : s.Inv) : (s.setResv key r).Inv := h

theorem State.Inv.giveUp {key num} (h : s.Inv) : (s.giveUp key num).Inv := by
  unfold State.giveUp
  grind [setResv]

theorem State.Inv.setOut {id t'} (h : s.Inv) : (s.setOut id t').Inv := by
  unfold State.setOut
  grind [wr, setTask, foldl]

theorem State.Inv.forget {id} (h : s.Inv) : (s.forget id).Inv := by
  unfold State.forget
  grind [State.Inv, giveUp, setTask]

theorem State.Inv.takePieces {id n mine f} (h : s.Inv) : (s.takePieces id n mine f).Inv := h.setTask
theorem State.Inv.dropStore {id seq} (h : s.Inv) : (s.dropStore id seq).Inv := h.setTask

theorem State.Inv.performOwn {seq} (h : s.Inv) : (s.performOwn seq).Inv := by
  unfold State.performOwn
  grind [takePieces, dropStore, store]

theorem State.Inv.settle {ps} (h : s.Inv) : (s.settle ps).Inv := by
  unfold State.settle
  grind [performOwn, foldl]

/-! ### The residual stack (Machine/Record.lean) -/

theorem revTrap_inv {cause} (h : s.Inv) : (revTrap s cause).Inv := by
  unfold revTrap
  grind [Eff.Inv]

theorem State.Inv.firstFault {ps} (h : s.Inv) : (s.firstFault ps).1.Inv := by
  induction ps generalizing s with
  | nil => exact h
  | cons x r ih => unfold State.firstFault; grind [reach]

theorem State.Inv.withChunks {cs ok} (h : s.Inv) (hok : ∀ s (_ : s.Inv), (ok s).Inv) : (s.withChunks cs ok).Inv := by
  unfold State.withChunks
  grind [Eff.Inv, setC, setT, firstFault]

theorem State.Inv.popTo {top ok} (h : s.Inv) (hok : ∀ s (_ : s.Inv), (ok s).Inv) : (s.popTo top ok).Inv := by
  unfold State.popTo
  grind [setT, withChunks]

theorem State.Inv.residPut {off bs} (h : s.Inv) : (s.residPut off bs).Inv := h.wr.setT

theorem State.Inv.layDown {bs ok n} (h : s.Inv) (hok : ∀ s (_ : s.Inv), (ok s).Inv) : (s.layDown bs ok n).Inv := by
  induction n generalizing s with
  | zero => exact hok s h
  | succ n ih =>
    unfold State.layDown
    dsimp only
    split
    · exact hok s h
    · exact h.withChunks fun _ h => ih h.residPut.setT

theorem State.Inv.pushBytes {bytes ok} (h : s.Inv) (hok : ∀ x s (_ : s.Inv), (ok x s).Inv) : (s.pushBytes bytes ok).Inv := by
  unfold State.pushBytes
  grind [setT, layDown, revTrap_inv]

theorem State.Inv.pushRecords {kind rs ok} (h : s.Inv) (hok : ∀ x s (_ : s.Inv), (ok x s).Inv) : (s.pushRecords kind rs ok).Inv :=
  h.pushBytes hok

theorem State.Inv.settleDrain {ok} (h : s.Inv) (hok : ∀ s (_ : s.Inv), (ok s).Inv) : (s.settleDrain ok).Inv := by
  unfold State.settleDrain
  grind [Eff.Inv, setT, pushRecords]

theorem State.Inv.recorded {items ok} (h : s.Inv) (hok : ∀ x s (_ : s.Inv), (ok x s).Inv) : (s.recorded items ok).Inv := by
  unfold State.recorded
  grind [settleDrain, pushRecords]

theorem State.Inv.recordImport {vals ok} (h : s.Inv) (hok : ∀ x s (_ : s.Inv), (ok x s).Inv) : (s.recordImport vals ok).Inv := by
  unfold State.recordImport
  grind [pushRecords]

/-! ### Operand forms (Machine/Operands.lean) -/

theorem State.Inv.whenOrdered {ps ok} (h : s.Inv) (hok : ∀ s (_ : s.Inv), (ok s).Inv) : (s.whenOrdered ps ok).Inv := by
  unfold State.whenOrdered
  grind [Eff.Inv, settle]

theorem State.Inv.ready {src d ok} (h : s.Inv) (hok : ∀ s (_ : s.Inv), (ok s).Inv) : (s.ready src d ok).Inv := by
  unfold State.ready
  grind [whenOrdered]

theorem State.Inv.writeDst {d c x} (h : s.Inv) : (s.writeDst d c x).Inv := by
  unfold State.writeDst
  grind [Eff.Inv, setT, queueWrite, whenOrdered]

theorem slotRun_inv {m d f busy} (h : s.Inv) (hf : ∀ x y s (_ : s.Inv), (f x y s).Inv) : Out.Inv (slotRun m d f s busy) := by
  unfold slotRun
  grind [Eff.Inv, Out.Inv, State.Inv.ready, Eff.out_inv, State.Inv.commit, Eff.illSlot_inv]

theorem State.Inv.useUnit {unit} (h : s.Inv) : (s.useUnit unit).Inv := h.setT

theorem trigEff_inv {unit f} (h : s.Inv) (hf : ∀ s (_ : s.Inv), (f s).Inv) : (trigEff unit f s).Inv := by
  unfold trigEff
  grind [Eff.Inv, State.Inv.useUnit]

theorem slotTrig_inv {unit m d f busy} (h : s.Inv) (hf : ∀ x s (_ : s.Inv), (f x s).Inv) : Out.Inv (slotTrig unit m d f s busy) := by
  unfold slotTrig
  grind [slotRun_inv, trigEff_inv]

theorem trigW_inv {unit m f busy} (h : s.Inv) (hf : ∀ x s (_ : s.Inv), (f x s).Inv) : Out.Inv (trigW unit m f s busy) := by
  unfold trigW
  grind [slotTrig_inv]

theorem State.Inv.moveTo {src d c x} (h : s.Inv) : (s.moveTo src d c x).Inv := by
  unfold State.moveTo
  grind [setT, trace, recordImport, writeDst]

end Sys2Proof.Machine
end

section
/-! SUPPORT for O50: the forms that compute in registers, a group's records and events, a task's life, and the caches and their
protocol keep memory canonical. -/

namespace Sys2Proof.Machine

open Host Arith

variable {s : State}

/-! ### Random generation (Machine/Random.lean) -/

theorem execRgMode_inv {m} (h : s.Inv) : Out.Inv (execRgMode m s) := by
  unfold execRgMode
  grind [Eff.Inv, State.Inv.setT, Eff.illPort_inv, trigW_inv]

/-! ### Branches and control registers (Machine/Control.lean) -/

theorem withTarget_inv {x f} (h : s.Inv) (hf : ∀ s (_ : s.Inv), (f s).Inv) : (withTarget s x f).Inv := by
  unfold withTarget
  grind [Eff.Inv]

theorem State.Inv.setCur {f} (h : s.Inv) : (s.setCur f).Inv := h.setT
theorem State.Inv.branched {x} (h : s.Inv) : (s.branched x).Inv := h.trace

theorem execBrLoop_inv {bi m} (h : s.Inv) : Out.Inv (execBrLoop bi m s) := by
  unfold execBrLoop
  grind [Eff.Inv, withTarget_inv, trigW_inv, State.Inv.branched, State.Inv.setCur]

theorem execBrTret_inv {m} (h : s.Inv) : Out.Inv (execBrTret m s) := by
  unfold execBrTret
  grind [Eff.Inv, withTarget_inv, trigW_inv, State.Inv.setCur]

theorem ctRead_inv {n m} (h : s.Inv) : Out.Inv (ctRead n m s) := by
  unfold ctRead
  grind [Eff.Inv, State.Inv.setT, Eff.illPort_inv, trigW_inv]

theorem State.Inv.atEnd {key x} (h : s.Inv) : (s.atEnd key x).Inv := h.setCur

theorem ctTake_inv {n x} (h : s.Inv) : (ctTake n x s).Inv := by
  unfold ctTake
  grind [Eff.Inv, State.Inv.setT, Eff.illPort_inv, State.Inv.atEnd, Eff.illType_inv]

theorem ctWrite_inv {n m} (h : s.Inv) : Out.Inv (ctWrite n m s) := trigW_inv h fun _ _ h => ctTake_inv h

theorem execCtWrs_inv {r m} (h : s.Inv) : Out.Inv (execCtWrs r m s) := by
  unfold execCtWrs
  grind [Eff.Inv, ctTake_inv, trigW_inv]

/-! ### Elementwise forms (Machine/Vector.lean) -/

theorem vecDone_inv {u lat h' o fl drew items} (h : s.Inv) : (vecDone s u lat h' o fl drew items).Inv :=
  fpGuard_inv h fun _ h => h.recorded fun _ _ h => h.setT

theorem vaForm_inv {b ty m f items} (h : s.Inv) : Out.Inv (vaForm b ty m f items s) := slotTrig_inv h fun _ _ h => vecDone_inv h
theorem vaArith_inv {b ty m ff fi items} (h : s.Inv) : Out.Inv (vaArith b ty m ff fi items s) := vaForm_inv h
theorem vaFused_inv {negP negC b ty m} (h : s.Inv) : Out.Inv (vaFused negP negC b ty m s) := vaForm_inv h
theorem vaExtreme_inv {isMax b ty m} (h : s.Inv) : Out.Inv (vaExtreme isMax b ty m s) := vaForm_inv h
theorem vaFun_inv {f items b ty m} (h : s.Inv) : Out.Inv (vaFun f items b ty m s) := vaForm_inv h

theorem execVaCmp_inv {b ty m} (h : s.Inv) : Out.Inv (execVaCmp b ty m s) := by
  unfold execVaCmp
  grind [slotTrig_inv, Eff.illPort_inv, vecDone_inv]

theorem execVaCvt_inv {b ty m} (h : s.Inv) : Out.Inv (execVaCvt b ty m s) := by
  unfold execVaCvt
  grind [slotTrig_inv, Eff.illPort_inv, vecDone_inv, Eff.illType_inv]

theorem vaBits_inv {f b ty m} (h : s.Inv) : Out.Inv (vaBits f b ty m s) := vaForm_inv h

/-! ### Cross-lane forms (Machine/CrossLane.lean) -/

theorem vxPermute_inv {ty m f items} (h : s.Inv) : Out.Inv (vxPermute ty m f items s) := slotTrig_inv h fun _ _ h => vecDone_inv h

theorem execVxRed_inv {ty m} (h : s.Inv) : Out.Inv (execVxRed ty m s) := by
  unfold execVxRed
  grind [slotTrig_inv, Eff.illPort_inv, vecDone_inv]

theorem execVxScan_inv {ty m} (h : s.Inv) : Out.Inv (execVxScan ty m s) := by
  unfold execVxScan
  grind [slotTrig_inv, Eff.illPort_inv, vecDone_inv]

theorem pairsDone_inv {ty lat l} (h : s.Inv) : (pairsDone ty lat l s).Inv := h.setT

theorem execVxMerge_inv {ty m} (h : s.Inv) : Out.Inv (execVxMerge ty m s) := by
  unfold execVxMerge
  grind [slotTrig_inv, Eff.illPort_inv, pairsDone_inv]

theorem execVxTrstep_inv {ty m} (h : s.Inv) : Out.Inv (execVxTrstep ty m s) := by
  unfold execVxTrstep
  grind [slotTrig_inv, Eff.illPort_inv, vecDone_inv]

/-! ### Events and interrupts (Machine/Events.lean) -/

theorem State.Inv.interrupt {v} (h : s.Inv) : (s.interrupt v).Inv := by
  unfold State.interrupt
  grind [State.Inv]

theorem State.Inv.groupRead {g p va n} (h : s.Inv) : (s.groupRead g p va n).1.Inv := h.reach

theorem State.Inv.groupWrite {g va bs} (h : s.Inv) : (s.groupWrite g va bs).Inv := by
  unfold State.groupWrite
  grind [homeAll, groupRead]

theorem State.Inv.writeRecord {g node ref} (h : s.Inv) : (s.writeRecord g node ref).Inv := by
  unfold State.writeRecord
  grind [groupWrite]

theorem State.Inv.addEvent {g node} (h : s.Inv) : (s.addEvent g node).Inv := by
  unfold State.addEvent
  grind [homeAll, groupRead]

theorem State.Inv.fire {gid node} (h : s.Inv) : (s.fire gid node).Inv := by
  unfold State.fire
  grind [writeRecord, addEvent, interrupt]

theorem State.Inv.countAt {g ks up} (h : s.Inv) : (s.countAt g ks up).Inv := h.setGroup
theorem State.Inv.countStatus {gid ks status up} (h : s.Inv) : (s.countStatus gid ks status up).Inv := h.setGroup

theorem State.Inv.leaveBelow {gid node} (h : s.Inv) : (s.leaveBelow gid node).Inv := by
  unfold State.leaveBelow
  grind [fire, countAt]

/-! ### A task's life (Machine/Lifecycle.lean) -/

theorem State.Inv.releaseClaims {id} (h : s.Inv) : (s.releaseClaims id).Inv := h.setCore

theorem State.Inv.releaseStrand {id} (h : s.Inv) : (s.releaseStrand id).Inv := by
  unfold State.releaseStrand
  grind [setCore]

theorem State.Inv.helperStatus {core h' st cause detail} (h : s.Inv) : (s.helperStatus core h' st cause detail).Inv := h.wr
theorem State.Inv.setHelper {core h' x} (h : s.Inv) : (s.setHelper core h' x).Inv := h.setCore

theorem State.Inv.settleHelper {core h'} (h : s.Inv) : (s.settleHelper core h').Inv := by
  unfold State.settleHelper
  grind [setHelper, store, foldl]

theorem State.Inv.haltHelpers {id} (h : s.Inv) : (s.haltHelpers id).Inv := by
  unfold State.haltHelpers
  grind [setHelper, foldl]

theorem State.Inv.stopHelpers {id} (h : s.Inv) : (s.stopHelpers id).Inv := by
  unfold State.stopHelpers
  grind [helperStatus, settleHelper, setHelper, foldl]

theorem State.Inv.dropHelpers {id} (h : s.Inv) : (s.dropHelpers id).Inv := by
  unfold State.dropHelpers
  grind [settleHelper, setHelper, foldl]

theorem State.Inv.setCluster {k x} (h : s.Inv) : (s.setCluster k x).Inv := h

theorem State.Inv.leaveGroup {n w} (h : s.Inv) : (s.leaveGroup n w).Inv := by
  unfold State.leaveGroup
  grind [setCluster, setCore, foldl]

theorem State.Inv.leaveGroups {id} (h : s.Inv) : (s.leaveGroups id).Inv := by
  unfold State.leaveGroups
  grind [leaveGroup, foldl]

theorem State.Inv.viewPieces {t loc len p} (h : s.Inv) : (s.viewPieces t loc len p).1.Inv := by
  unfold State.viewPieces
  grind [reach]

theorem State.Inv.blankView {id n} (h : s.Inv) : (s.blankView id n).Inv := by
  unfold State.blankView
  grind [viewPieces, storeAll]

theorem State.Inv.blankCopies {id} (h : s.Inv) : (s.blankCopies id).Inv := by
  unfold State.blankCopies
  grind [blankView, foldl]

theorem State.Inv.passBaton {g} (h : s.Inv) : (s.passBaton g).Inv := h
theorem State.Inv.tally {die sel} (h : s.Inv) : (s.tally die sel).Inv := h.setDie
theorem State.Inv.dropOps {id} (h : s.Inv) : (s.dropOps id).Inv := h

theorem State.Inv.keepWrites {id} (h : s.Inv) : (s.keepWrites id).Inv := by
  unfold State.keepWrites
  grind [homeStore, giveUp, setTask, foldl]

theorem State.Inv.dropTask {id} (h : s.Inv) : (s.dropTask id).Inv := by
  unfold State.dropTask
  grind [State.Inv, leaveGroups, releaseStrand, stopHelpers, leaveBelow, forget, setTask, countStatus, keepWrites, releaseClaims,
    haltHelpers, dropOps, foldl]

theorem State.Inv.abortTask {id blocker} (h : s.Inv) : (s.abortTask id blocker).Inv := by
  unfold State.abortTask
  grind [leaveGroups, passBaton, dropHelpers, dropTask, forget, tally, setTask, setCore, blankCopies, keepWrites, releaseClaims, dropOps,
    foldl]

theorem State.Inv.endTask {id status detail} (h : s.Inv) : (s.endTask id status detail).Inv := by
  unfold State.endTask
  grind [releaseStrand, forget, setTask, blankCopies, haltHelpers]

theorem State.Inv.endCurrent {status detail} (h : s.Inv) : (s.endCurrent status detail).Inv := by
  unfold State.endCurrent
  grind [State.Inv, setC, endTask]

/-! ### Caches (Machine/Lines.lean) -/

theorem State.Inv.post {kind src dst line arg} (h : s.Inv) : (s.post kind src dst line arg).Inv := h
theorem State.Inv.setLine {die line x} (h : s.Inv) : (s.setLine die line x).Inv := h.setDie
theorem State.Inv.useBlock {die line} (h : s.Inv) : (s.useBlock die line).Inv := h.setDie
theorem State.Inv.dropSize {die line} (h : s.Inv) : (s.dropSize die line).Inv := h.setDie
theorem State.Inv.l1Recall {die line keep} (h : s.Inv) : (s.l1Recall die line keep).Inv := h
theorem State.Inv.dropLine {die line} (h : s.Inv) : (s.dropLine die line).Inv := h.l1Recall.setLine.dropSize

theorem State.Inv.evict {die line} (h : s.Inv) : (s.evict die line).Inv := by
  unfold State.evict
  grind [post, setLine, dropSize, l1Recall, dropLine]

theorem execL2Eviction_inv {die line} (h : s.Inv) : Out.Inv (execL2Eviction die line s) := .next h.evict

theorem State.Inv.fit {die keep pool tags l} (h : s.Inv) : (s.fit die keep pool tags l).Inv := by
  induction l generalizing s with
  | nil => exact h
  | cons b r ih => unfold State.fit; grind [evict, tally, State.Inv.foldl]

theorem State.Inv.storeImage {die line} (h : s.Inv) : (s.storeImage die line).Inv := by
  unfold State.storeImage
  grind [setDie, tally, fit]

theorem State.Inv.reserveWays {die} (h : s.Inv) : (s.reserveWays die).Inv := by
  unfold State.reserveWays
  split
  · exact h
  · exact List.foldrRecOn (motive := State.Inv) _ _ h fun _ h _ _ => h.fit

theorem execSegmentFree_inv {die n} (h : s.Inv) : Out.Inv (execSegmentFree die n s) := .next h.setDie

theorem State.Inv.l1Fill {core line mask} (h : s.Inv) : (s.l1Fill core line mask).Inv := by
  unfold State.l1Fill
  grind [setCore, storeImage, choose]

theorem State.Inv.takeLine {core line x} (h : s.Inv) : (s.takeLine core line x).Inv := by
  unfold State.takeLine
  grind [setLine, storeImage, l1Recall]

theorem State.Inv.touchLine {core line write} (h : s.Inv) : (s.touchLine core line write).Inv := by
  unfold State.touchLine
  grind [post, useBlock, setLine, tally, takeLine]

theorem State.Inv.touch {core ps write} (h : s.Inv) : (s.touch core ps write).Inv := by
  unfold State.touch
  grind [touchLine, foldl]

theorem State.Inv.put {core pa bs} (h : s.Inv) : (s.put core pa bs).1.Inv := by
  unfold State.put
  grind [touch, store]

theorem State.Inv.putAll {core ps bs} (h : s.Inv) : (s.putAll core ps bs).1.Inv := by
  unfold State.putAll
  grind [touch, storeAll]

/-! ### Coherence between dies (Machine/Coherence.lean) -/

theorem State.Inv.setHome {line h'} (h : s.Inv) : (s.setHome line h').Inv := h.setDie

theorem State.Inv.takeMsg {p} (h : s.Inv) : (s.takeMsg p).1.Inv := by
  unfold State.takeMsg
  grind [State.Inv]

theorem State.Inv.onRegion {line f} (h : s.Inv) : (s.onRegion line f).Inv := by
  unfold State.onRegion
  grind [setDie]

theorem State.Inv.countRead {die line} (h : s.Inv) : (s.countRead die line).Inv := by
  unfold State.countRead
  grind [onRegion, setDie]

theorem State.Inv.countWrite {line} (h : s.Inv) : (s.countWrite line).Inv := h.onRegion

theorem State.Inv.countCollapse {line mask} (h : s.Inv) : (s.countCollapse line mask).Inv := by
  unfold State.countCollapse
  grind [onRegion, tally]

theorem State.Inv.hostDone {line} (h : s.Inv) : (s.hostDone line).Inv := by
  unfold State.hostDone
  grind [State.Inv, wr, mark, writeBack, foldl]

theorem State.Inv.emptied {line who} (h : s.Inv) : (s.emptied line who).Inv := by
  unfold State.emptied
  grind [hostDone, writeBack]

theorem State.Inv.toDie {kind die line arg} (h : s.Inv) : (s.toDie kind die line arg).Inv := h.post

theorem State.Inv.invalidate {line mask} (h : s.Inv) : (s.invalidate line mask).Inv := by
  unfold State.invalidate
  grind [countCollapse, toDie, foldl]

theorem State.Inv.serve {line kind die} (h : s.Inv) : (s.serve line kind die).Inv := by
  unfold State.serve
  extract_lets _ _ _ _ u _ memory
  have hu : u.Inv := by grind [tally]
  have hmemory (s : State) (hd : Home) (h : s.Inv) : (memory s hd).Inv := h.setHome.post
  clear_value u memory
  grind (splits := 20) [invalidate, toDie, setHome, emptied, State.Inv.foldl]

theorem State.Inv.nextRequest {line n} (h : s.Inv) : (s.nextRequest line n).Inv := by
  induction n generalizing s with
  | zero => exact h
  | succ n ih => unfold State.nextRequest; grind [serve, setHome]

theorem State.Inv.settleHome {line h'} (h : s.Inv) : (s.settleHome line h').Inv := by
  unfold State.settleHome
  grind [nextRequest, setHome]

theorem State.Inv.homeM {line h'} (h : s.Inv) : (s.homeM line h').Inv := h.settleHome

theorem State.Inv.arrive {line kind die arg} (h : s.Inv) : (s.arrive line kind die arg).Inv := by
  unfold State.arrive
  grind [post, serve, nextRequest, setResv, setHome]

theorem execRs_inv {die line} (h : s.Inv) : Out.Inv (execRs die line s) := by
  unfold execRs
  grind [Out.Inv, State.Inv.arrive, State.Inv.takeMsg, State.Inv.countRead]

theorem execRx_inv {die line} (h : s.Inv) : Out.Inv (execRx die line s) := by
  unfold execRx
  grind [Out.Inv, State.Inv.arrive, State.Inv.takeMsg, State.Inv.countWrite]

theorem execUp_inv {die line} (h : s.Inv) : Out.Inv (execUp die line s) := by
  unfold execUp
  grind [State.Inv, Out.Inv, State.Inv.serve, State.Inv.nextRequest, State.Inv.setHome, State.Inv.arrive, State.Inv.tally,
    State.Inv.choose, State.Inv.takeMsg, State.Inv.countWrite, State.Inv.foldl]

theorem execMemoryData_inv {line} (h : s.Inv) : Out.Inv (execMemoryData line s) := by
  unfold execMemoryData
  grind [Out.Inv, State.Inv.homeM, State.Inv.takeMsg, State.Inv.toDie, State.Inv.settleHome]

theorem State.Inv.ownerData {die line back} (h : s.Inv) : (s.ownerData die line back).Inv := by
  unfold State.ownerData
  grind [emptied, homeM, setHome, tally, toDie, settleHome]

theorem execWb_inv {die line} (h : s.Inv) : Out.Inv (execWb die line s) := by
  unfold execWb
  grind [Out.Inv, State.Inv.ownerData, State.Inv.takeMsg, State.Inv.writeBack]

theorem execEvc_inv {die line} (h : s.Inv) : Out.Inv (execEvc die line s) := by
  unfold execEvc
  grind [Out.Inv, State.Inv.ownerData, State.Inv.takeMsg]

theorem execFmiss_inv {die line} (h : s.Inv) : Out.Inv (execFmiss die line s) := by
  unfold execFmiss
  grind [Out.Inv, State.Inv.homeM, State.Inv.setHome, State.Inv.takeMsg, State.Inv.settleHome]

theorem State.Inv.fall {die line a} (h : s.Inv) : (s.fall die line a).Inv := by
  unfold State.fall
  grind [tally]

theorem execInv_inv {die line} (h : s.Inv) : Out.Inv (execInv die line s) := by
  unfold execInv
  grind [Out.Inv, State.Inv.fall, State.Inv.post, State.Inv.setLine, State.Inv.takeMsg, State.Inv.dropSize, State.Inv.l1Recall,
    State.Inv.dropLine]

theorem execAck_inv {die line toHome} (h : s.Inv) : Out.Inv (execAck die line toHome s) := by
  unfold execAck
  grind [Out.Inv, State.Inv.post, State.Inv.emptied, State.Inv.homeM, State.Inv.setLine, State.Inv.setHome, State.Inv.takeMsg,
    State.Inv.toDie, State.Inv.settleHome]

theorem execFws_inv {die line req} (h : s.Inv) : Out.Inv (execFws die line req s) := by
  unfold execFws
  grind [Out.Inv, State.Inv.post, State.Inv.setLine, State.Inv.setHome, State.Inv.storeImage, State.Inv.takeMsg]

theorem execFwx_inv {die line req} (h : s.Inv) : Out.Inv (execFwx die line req s) := by
  unfold execFwx
  grind [Out.Inv, State.Inv.post, State.Inv.setLine, State.Inv.takeMsg, State.Inv.dropSize, State.Inv.l1Recall, State.Inv.dropLine]

theorem execData_inv {die line grant} (h : s.Inv) : Out.Inv (execData die line grant s) := by
  unfold execData
  grind [Out.Inv, State.Inv.post, State.Inv.homeM, State.Inv.setLine, State.Inv.tally, State.Inv.storeImage, State.Inv.takeMsg,
    State.Inv.settleHome]

theorem execGrant_inv {die line} (h : s.Inv) : Out.Inv (execGrant die line s) := by
  unfold execGrant
  grind [Out.Inv, State.Inv.setLine, State.Inv.takeMsg]

theorem State.Inv.collapse {home region gone} (h : s.Inv) : (s.collapse home region gone).Inv := by
  unfold State.collapse
  grind [arrive, foldl]

theorem State.Inv.setDegree {home region deg set} (h : s.Inv) : (s.setDegree home region deg set).Inv := by
  unfold State.setDegree
  grind [collapse, setDie]

theorem State.Inv.windowEnd {home region r} (h : s.Inv) : (s.windowEnd home region r).Inv := by
  unfold State.windowEnd
  grind [setDegree, setDie, tally]

theorem execReplicationWindowEnd_inv {die} (h : s.Inv) : Out.Inv (execReplicationWindowEnd die s) := by
  unfold execReplicationWindowEnd
  grind [Out.Inv, State.Inv.windowEnd, State.Inv.setDie, State.Inv.foldl]

theorem State.Inv.hostLines {pa bs relaxed bad} (h : s.Inv) : (s.hostLines pa bs relaxed bad).Inv := by
  unfold State.hostLines
  grind [State.Inv, arrive, countWrite, foldl]

theorem State.Inv.homeClear {pa n} (h : s.Inv) : (s.homeClear pa n).1.Inv := by
  unfold State.homeClear
  grind [arrive, countWrite, foldl_fst]

theorem State.Inv.flushLine {line} (h : s.Inv) : (s.flushLine line).1.Inv := by
  unfold State.flushLine
  grind [setLine, setHome, writeBack]

theorem State.Inv.invalLine {line} (h : s.Inv) : (s.invalLine line).1.Inv := by
  unfold State.invalLine
  grind [homeClear, writeBack]

/-! ### Ordered mode (Machine/Ordered.lean) -/

theorem State.Inv.noteRead {k} (h : s.Inv) : (s.noteRead k).1.Inv := by
  unfold State.noteRead
  grind [setT, abortTask]

theorem State.Inv.noteWrite {k} (h : s.Inv) : (s.noteWrite k).Inv := by
  unfold State.noteWrite
  grind [setT, abortTask, foldl]

theorem State.Inv.noteAll {ps} (h : s.Inv) : (s.noteAll ps).Inv := by
  unfold State.noteAll
  grind [noteWrite, foldl]

theorem State.Inv.commitBytes {id} (h : s.Inv) : (s.commitBytes id).1.Inv := by
  unfold State.commitBytes
  grind [touch, setTask, put, foldl_fst]

theorem State.Inv.serialisedAs {sel ok} (h : s.Inv) (hok : ∀ s (_ : s.Inv), (ok s).Inv) : (s.serialisedAs sel ok).Inv := by
  unfold State.serialisedAs
  grind [Eff.Inv, setT, tally, commitBytes]

theorem State.Inv.serialised {ok} (h : s.Inv) (hok : ∀ s (_ : s.Inv), (ok s).Inv) : (s.serialised ok).Inv := h.serialisedAs hok

/-! ### Sync objects (Machine/Objects.lean) -/

theorem State.Inv.setSync {pa o} (h : s.Inv) : (s.setSync pa o).Inv := h
theorem State.Inv.syncWrite {pa x} (h : s.Inv) : (s.syncWrite pa x).Inv := h.noteAll.homeStore

theorem State.Inv.release {id pa cond x} (h : s.Inv) : (s.release id pa cond x).Inv := by
  unfold State.release
  grind [setOut]

theorem State.Inv.wake (h : s.Inv) : s.wake.Inv := by
  unfold State.wake
  grind [setSync, release, foldl]

theorem State.Inv.handOver {pa} (h : s.Inv) : (s.handOver pa).Inv := by
  unfold State.handOver
  grind [setSync, syncWrite, release]

theorem State.Inv.arrived {group key phase} (h : s.Inv) : (s.arrived group key phase).Inv := by
  unfold State.arrived
  grind [setGroup]

end Sys2Proof.Machine
end

section
/-! SUPPORT for O50: a strand's accesses, the memory and synchronisation forms, and the engines keep memory canonical. -/

namespace Sys2Proof.Machine

open Host Arith

variable {s : State}

/-! ### A strand's accesses (Machine/Access.lean) -/

theorem State.Inv.offer {key core free tries num ok} (h : s.Inv) (hok : ∀ s (_ : s.Inv), (ok s).Inv) :
    (s.offer key core free tries num ok).Inv := by
  unfold State.offer
  grind [Offer.Inv, setResv, refuse]

theorem State.Inv.offerPush {from' core q bs tries num} (h : s.Inv) : (s.offerPush from' core q bs tries num).Inv := by
  unfold State.offerPush
  grind [Offer.Inv, setQueue, offer, giveUp, queueWrite]

theorem State.Inv.noteL1 {core pa n attr write} (h : s.Inv) : (s.noteL1 core pa n attr write).Inv := by
  unfold State.noteL1
  grind [l1Fill, foldl]

theorem State.Inv.performSector {id n sector} (h : s.Inv) : (s.performSector id n sector).Inv := by
  unfold State.performSector
  grind [takePieces, touch, flushLine, noteL1, invalLine, foldl]

theorem State.Inv.performPieces {id n} (h : s.Inv) : (s.performPieces id n).Inv := by
  unfold State.performPieces
  grind [performSector, foldl]

theorem State.Inv.fillTile {dst ps} (h : s.Inv) : (s.fillTile dst ps).Inv := by
  unfold State.fillTile
  grind [wr, mark, foldl]

theorem State.Inv.arriveLoad {id n} (h : s.Inv) : (s.arriveLoad id n).Inv := by
  unfold State.arriveLoad
  grind [fillTile, setTask]

theorem State.Inv.performLoad {id n} (h : s.Inv) : (s.performLoad id n).Inv := h.performPieces.arriveLoad

theorem State.Inv.performStore {id seq} (h : s.Inv) : (s.performStore id seq).Inv := by
  unfold State.performStore
  grind [State.Inv, Offer.Inv, homeClear, dropStore, noteL1, handOver, homeStore, offerPush, setTask, put, arrived]

theorem State.Inv.performWhere {id f} (h : s.Inv) : (s.performWhere id f).Inv := by
  unfold State.performWhere
  grind [performSector, performStore, foldl]

theorem State.Inv.settleAll {id} (h : s.Inv) : (s.settleAll id).Inv := h.performWhere

theorem State.Inv.drained {ok} (h : s.Inv) (hok : ∀ s (_ : s.Inv), (ok s).Inv) : (s.drained ok).Inv := by
  unfold State.drained
  grind [Eff.Inv, settleAll]

theorem State.Inv.performLoadsOf {pa n} (h : s.Inv) : (s.performLoadsOf pa n).Inv := by
  unfold State.performLoadsOf
  grind [performPieces, foldl]

theorem State.Inv.issuePart {attr due pa bs} (h : s.Inv) : (s.issuePart attr due pa bs).Inv := by
  unfold State.issuePart
  grind [noteAll, setT, performLoadsOf]

theorem State.Inv.issueRelease {rel pa bs attr} (h : s.Inv) : (s.issueRelease rel pa bs attr).Inv := h.setT.settleAll

theorem State.Inv.issueStore {parts due} (h : s.Inv) : (s.issueStore parts due).Inv := by
  unfold State.issueStore
  grind [issuePart, setT, foldl]

theorem State.Inv.performDue (h : s.Inv) : s.performDue.Inv := by
  unfold State.performDue
  grind [performWhere]

/-! ### Local-store forms (Machine/LocalStore.lean) -/

theorem lsGuard_inv {z write a f} (h : s.Inv) (hf : ∀ x s (_ : s.Inv), (f x s).Inv) : (lsGuard s z write a f).Inv := by
  unfold lsGuard
  grind [Eff.Inv, Eff.illPort_inv, State.Inv.whenOrdered]

theorem lsClean_inv {z l f} (h : s.Inv) (hf : ∀ s (_ : s.Inv), (f s).Inv) : (lsClean s z l f).Inv := by
  unfold lsClean
  grind [Eff.Inv]

theorem lsLoad_inv {ty m addr} (h : s.Inv) : Out.Inv (lsLoad ty m addr s) :=
  trigW_inv h fun _ _ h => lsGuard_inv h fun _ _ h => lsClean_inv h fun _ h => h.setT

theorem State.Inv.lsIssue {l} (h : s.Inv) : (s.lsIssue l).Inv := h.issueStore

theorem lsStore_inv {ty m addr} (h : s.Inv) : Out.Inv (lsStore ty m addr s) :=
  trigW_inv h fun _ _ h => lsGuard_inv h fun _ _ h => h.lsIssue

theorem lsLoadV_inv {ty m addrs} (h : s.Inv) : Out.Inv (lsLoadV ty m addrs s) :=
  trigW_inv h fun _ _ h => lsGuard_inv h fun _ _ h => lsClean_inv h fun _ h => h.setT

theorem lsStoreV_inv {ty m addrs} (h : s.Inv) : Out.Inv (lsStoreV ty m addrs s) :=
  trigW_inv h fun _ _ h => lsGuard_inv h fun _ _ h => h.lsIssue

/-! ### Global-memory forms (Machine/Global.lean) -/

theorem gmCached_inv {p ps ok} (h : s.Inv) (hok : ∀ s (_ : s.Inv), (ok s).Inv) : (gmCached s p ps ok).Inv := by
  unfold gmCached
  grind [Eff.Inv, State.Inv.setC]

theorem gmReach_inv {align p ps ok} (h : s.Inv) (hok : ∀ x s (_ : s.Inv), (ok x s).Inv) : (gmReach s align p ps ok).Inv := by
  unfold gmReach
  grind [Eff.Inv, gmCached_inv, State.Inv.reachPieces]

theorem gmLand_inv {pair ok} (h : s.Inv) (hok : ∀ x y, (ok x y).Inv) : (gmLand s pair ok).Inv := by
  unfold gmLand
  grind [Eff.illPort_inv, Eff.illSlot_inv]

theorem gmIssueLoad_inv {n d form ty tile pas attrs lanes va pair} (h : s.Inv) :
    (gmIssueLoad s n d form ty tile pas attrs lanes va pair).Inv := by
  unfold gmIssueLoad
  grind [Eff.Inv, State.Inv.setT, State.Inv.trace, State.Inv.noteRead, State.Inv.foldl_fst]

theorem gmWhen_inv {b pas ok} (h : s.Inv) (hok : ∀ s (_ : s.Inv), (ok s).Inv) : (gmWhen b pas s ok).Inv := by
  unfold gmWhen
  grind [State.Inv.serialised, State.Inv.serialisedAs]

theorem gmTile_inv {ok} (h : s.Inv) (hok : ∀ x y, (ok x y).Inv) : (gmTile s ok).Inv := by
  unfold gmTile
  grind [Eff.illSlot_inv]

theorem execGmLdt_inv {m} (h : s.Inv) : Out.Inv (execGmLdt m s) := by
  unfold execGmLdt
  grind [gmWhen_inv, gmReach_inv, trigW_inv, State.Inv.setCore, gmTile_inv, gmIssueLoad_inv, gmLand_inv]

theorem gmIssueStore_inv {va ttag alloc els} (h : s.Inv) : (gmIssueStore s va ttag alloc els).Inv := by
  unfold gmIssueStore
  grind [Eff.Inv, State.Inv.setT, State.Inv.trace, State.Inv.issueStore]

theorem gmStoreOne_inv {ty x ttag alloc} (h : s.Inv) : (gmStoreOne ty x ttag alloc s).Inv :=
  gmReach_inv h fun _ _ h => gmWhen_inv h fun _ h => gmIssueStore_inv h

theorem execGmStg_inv {ty m} (h : s.Inv) : Out.Inv (execGmStg ty m s) := by
  unfold execGmStg
  grind [Eff.illPort_inv, gmStoreOne_inv, trigW_inv]

theorem execGmStt_inv {m} (h : s.Inv) : Out.Inv (execGmStt m s) := by
  unfold execGmStt
  grind [Eff.Inv, gmWhen_inv, gmReach_inv, trigW_inv, gmIssueStore_inv, gmTile_inv]

theorem execGmPref_inv {l2 m} (h : s.Inv) : Out.Inv (execGmPref l2 m s) := by
  unfold execGmPref
  grind [Eff.Inv, State.Inv.touch, State.Inv.noteL1, trigW_inv, State.Inv.reachPieces]

theorem gmLine_inv {form m} (h : s.Inv) : Out.Inv (gmLine form m s) :=
  trigW_inv h fun _ _ h => gmLand_inv h fun _ _ => gmReach_inv h fun _ _ h => h.serialised fun _ h => gmIssueLoad_inv h

/-! ### Synchronisation forms (Machine/Sync.lean) -/

theorem State.Inv.configure {core q x} (h : s.Inv) : (s.configure core q x).Inv := h.setQueue

theorem State.Inv.publish {core q n} (h : s.Inv) : OptInv (s.publish core q n) := by
  unfold State.publish
  grind [OptInv, setQueue]

theorem State.Inv.room {core a} (h : s.Inv) : (s.room core a).2.Inv := by
  unfold State.room
  grind [choose]

theorem State.Inv.submit {core a} (h : s.Inv) : (s.submit core a).1.Inv := by
  unfold State.submit
  grind [Offer.Inv, OptInv, configure, room, offer, publish]

theorem State.Inv.request {port pa va ops} (h : s.Inv) : (s.request port pa va ops).Inv := by
  unfold State.request
  grind [Eff.Inv, setT, submit]

theorem State.Inv.requesting {port send fin} (h : s.Inv) (hsend : ∀ s (_ : s.Inv), (send s).Inv)
    (hfin : ∀ x s (_ : s.Inv), (fin x s).Inv) : (s.requesting port send fin).Inv := by
  unfold State.requesting
  grind [Eff.Inv, setT]

theorem syResult_inv {x} (h : s.Inv) : (syResult x s).Inv := h.setT
theorem syDone_inv {x} (h : s.Inv) : (syDone x s).Inv := h

theorem syReach_inv {align n p x ok} (h : s.Inv) (hok : ∀ x s (_ : s.Inv), (ok x s).Inv) : (syReach s align n p x ok).Inv := by
  unfold syReach
  grind [Eff.Inv, State.Inv.reachPieces]

theorem State.Inv.keepWait {id pa cond x a} (h : s.Inv) : (s.keepWait id pa cond x a).1.Inv := h.setSync

theorem State.Inv.perform {id a} (h : s.Inv) : (s.perform id a).1.Inv := by
  unfold State.perform
  grind [setSync, syncWrite, keepWait]

theorem State.Inv.siteReady {id a} (h : s.Inv) : (s.siteReady id a).1.Inv := by
  unfold State.siteReady
  grind [touch, homeClear, performWhere]

theorem execResponseReturn_inv {task} (h : s.Inv) : Out.Inv (execResponseReturn task s) := by
  unfold execResponseReturn
  grind [State.Inv, Out.Inv, State.Inv.siteReady, State.Inv.setOut, State.Inv.perform]

theorem execNackRetry_inv {task} (h : s.Inv) : Out.Inv (execNackRetry task s) := by
  unfold execNackRetry
  grind [State.Inv, Out.Inv, State.Inv.performStore, State.Inv.setOut, State.Inv.submit]

theorem syForm_inv {m f} (h : s.Inv) (hf : ∀ x s (_ : s.Inv), (f x s).Inv) : Out.Inv (syForm m f s) := by
  unfold syForm
  grind [trigW_inv]

theorem execSyFence_inv {scope m} (h : s.Inv) : Out.Inv (execSyFence scope m s) := by
  unfold execSyFence
  grind [Eff.Inv, syForm_inv, State.Inv.drained]

theorem execSyXfence_inv {x m} (h : s.Inv) : Out.Inv (execSyXfence x m s) := by
  unfold execSyXfence
  grind [Eff.Inv, Eff.illPort_inv, syForm_inv, State.Inv.drained]

theorem syRequest_inv {port align p x rel ops fin} (h : s.Inv) (hfin : ∀ x s (_ : s.Inv), (fin x s).Inv) :
    (syRequest s port align p x rel ops fin).Inv :=
  h.requesting (fun _ h => syReach_inv h fun _ _ h => h.serialised fun _ h => h.request) hfin

theorem syAmo_inv {port scope ord m} (h : s.Inv) : Out.Inv (syAmo port scope ord m s) := by
  unfold syAmo
  grind [syRequest_inv, syResult_inv, Eff.illPort_inv, syForm_inv]

theorem execSyWait_inv {x m} (h : s.Inv) : Out.Inv (execSyWait x m s) := by
  unfold execSyWait
  grind [syRequest_inv, syDone_inv, Eff.illPort_inv, syForm_inv]

theorem execSyUnlock_inv {x m} (h : s.Inv) : Out.Inv (execSyUnlock x m s) := by
  unfold execSyUnlock
  grind [Eff.Inv, State.Inv.issueRelease, State.Inv.serialised, State.Inv.performWhere, syForm_inv, syReach_inv]

theorem execSyBind_inv {x m} (h : s.Inv) : Out.Inv (execSyBind x m s) := by
  unfold execSyBind
  grind [Eff.Inv, syRequest_inv, syDone_inv, syForm_inv]

theorem execSyArrive_inv {level m} (h : s.Inv) : Out.Inv (execSyArrive level m s) := by
  unfold execSyArrive
  grind [Eff.Inv, syResult_inv, State.Inv.issueRelease, State.Inv.setGroup, Eff.illPort_inv, State.Inv.serialised, syForm_inv]

theorem execSyBwait_inv {level m} (h : s.Inv) : Out.Inv (execSyBwait level m s) := by
  unfold execSyBwait
  grind [Eff.Inv, Eff.illPort_inv, State.Inv.serialised, syForm_inv]

theorem queueWait_inv {q count ok} (h : s.Inv) (hok : ∀ x, (ok x).Inv) : (queueWait s q count ok).Inv := by
  unfold queueWait
  grind [Eff.Inv]

theorem execSyQwait_inv {q m} (h : s.Inv) : Out.Inv (execSyQwait q m s) := by
  unfold execSyQwait
  grind [Eff.Inv, State.Inv.serialised, queueWait_inv, syForm_inv]

theorem execSyQspace_inv {q m} (h : s.Inv) : Out.Inv (execSyQspace q m s) := by
  unfold execSyQspace
  grind [Eff.Inv, syResult_inv, State.Inv.serialised, queueWait_inv, syForm_inv]

theorem State.Inv.popQueue {q n} (h : s.Inv) : (s.popQueue q n).Inv := by
  unfold State.popQueue
  grind [Eff.Inv, setQueue]

theorem State.Inv.publishQueue {q x} (h : s.Inv) : (s.publishQueue q x).Inv := by
  unfold State.publishQueue
  grind [Eff.Inv, OptInv, syDone_inv, requesting, publish, request]

theorem State.Inv.configureQueue {q x} (h : s.Inv) : (s.configureQueue q x).Inv := by
  unfold State.configureQueue
  grind [Eff.Inv, configure, syDone_inv, requesting, request]

theorem syQadv_inv {q m} (h : s.Inv) : Out.Inv (syQadv q m s) := by
  unfold syQadv
  grind [State.Inv.publishQueue, State.Inv.configureQueue, Eff.illPort_inv, State.Inv.popQueue, State.Inv.serialised, syForm_inv]

theorem execSyTrig_inv {m} (h : s.Inv) : Out.Inv (execSyTrig m s) := by
  unfold execSyTrig
  grind [Eff.Inv, State.Inv.issueRelease, State.Inv.serialised, syForm_inv]

theorem execSyCombine_inv {m} (h : s.Inv) : Out.Inv (execSyCombine m s) := by
  unfold execSyCombine
  grind [Eff.Inv, syDone_inv, State.Inv.requesting, State.Inv.serialised, State.Inv.request, syForm_inv, syReach_inv]

theorem State.Inv.engineReach {p va n} (h : s.Inv) : (s.engineReach p va n).1.Inv := h.reach

theorem State.Inv.foldStaged {u : State} {d k acc f} (h : s.Inv) : (u.foldStaged d k s acc f).1.Inv := by
  induction k generalizing s acc f with
  | zero => exact h
  | succ k ih => unfold State.foldStaged; grind [engineReach]

theorem execCombineFold_inv {task} (h : s.Inv) : Out.Inv (execCombineFold task s) := by
  unfold execCombineFold
  split
  · exact .next h
  extract_lets u b answer
  have hu : u.Inv := h
  have hanswer (s : State) (a : Await) (h : s.Inv) : Out.Inv (answer s a) := .next h.setOut
  clear_value answer u
  split
  · exact hanswer u _ hu
  grind [State.Inv.homeClear, State.Inv.noteAll, State.Inv.homeStore, State.Inv.setT, State.Inv.engineReach, State.Inv.foldStaged,
    State.Inv.putAll, Out.Inv.next]

/-! ### Token engines (Machine/Engine.lean) -/

theorem State.Inv.setOps {core unit l} (h : s.Inv) : (s.setOps core unit l).Inv := by
  unfold State.setOps
  grind [setCluster, setCore]

theorem withToken_inv {unit port ok} (h : s.Inv) (hok : ∀ x s (_ : s.Inv), (ok x s).Inv) : (withToken s unit port ok).Inv := by
  unfold withToken
  grind [Eff.illPort_inv, Eff.illSlot_inv]

theorem State.Inv.startToken {unit n} (h : s.Inv) : (s.startToken unit n).Inv := h.setT
theorem State.Inv.start {o} (h : s.Inv) : (s.start o).Inv := h.startToken.setOps
theorem State.Inv.putOp {core o} (h : s.Inv) : (s.putOp core o).Inv := h.setOps
theorem State.Inv.dropOp {core o} (h : s.Inv) : (s.dropOp core o).Inv := h.setOps
theorem State.Inv.endToken {o status} (h : s.Inv) : (s.endToken o status).Inv := h.setOut
theorem State.Inv.faultToken {o cause detail handle coord} (h : s.Inv) : (s.faultToken o cause detail handle coord).Inv := h.setOut
theorem State.Inv.freeBytes {n} (h : s.Inv) : (s.freeBytes n).2.Inv := h

theorem State.Inv.enginePut {ps bs} (h : s.Inv) : (s.enginePut ps bs).1.Inv := by
  unfold State.enginePut
  grind [noteAll, putAll]

theorem State.Inv.engineLoad {ps} (h : s.Inv) : (s.engineLoad ps).1.Inv := by
  unfold State.engineLoad
  grind [noteRead, foldl_fst]

theorem State.Inv.engineSerial (h : s.Inv) : s.engineSerial.1.Inv := by
  unfold State.engineSerial
  grind [Eff.Inv, serialised]

theorem State.Inv.markAll {a n} (h : s.Inv) : (s.markAll a n).Inv := by
  unfold State.markAll
  grind [mark, foldl]

theorem State.Inv.markPieces {ps} (h : s.Inv) : (s.markPieces ps).Inv := by
  unfold State.markPieces
  grind [markAll, foldl]

theorem State.Inv.markMask {mask off ps} (h : s.Inv) : (s.markMask mask off ps).Inv := by
  induction ps generalizing s off with
  | nil => exact h
  | cons p r ih => unfold State.markMask; grind [mark, State.Inv.foldl]

theorem State.Inv.tierPut {va bs mask} (h : s.Inv) : (s.tierPut va bs mask).1.Inv := by
  unfold State.tierPut
  grind [enginePut, reach, markMask]

theorem State.Inv.toTier {n tier bs mask} (h : s.Inv) : (s.toTier n tier bs mask).1.Inv := by
  unfold State.toTier
  grind [setT, tierPut]

theorem State.Inv.residFill {off bs} (h : s.Inv) : (s.residFill off bs).1.Inv := by
  unfold State.residFill
  grind [toTier, residPut, foldl_fst]

theorem State.Inv.setTag {core n code} (h : s.Inv) : (s.setTag core n code).Inv := h.setCore

/-! ### The copy engine (Machine/Copy.lean) -/

theorem State.Inv.copyReach {p va n} (h : s.Inv) : (s.copyReach p va n).1.Inv := h.reach

theorem State.Inv.boxRead {o l k n} (h : s.Inv) : (s.boxRead o l k n).1.Inv := by
  induction k generalizing s n with
  | zero => exact h
  | succ k ih => unfold State.boxRead; grind [copyReach, engineLoad]

theorem State.Inv.boxSlice {o l off n} (h : s.Inv) : (s.boxSlice o l off n).1.Inv := by
  unfold State.boxSlice
  grind [boxRead]

theorem State.Inv.noteCopy {o} (h : s.Inv) : (s.noteCopy o).Inv := h.setTask

theorem State.Inv.dropNumber {o} (h : s.Inv) : (s.dropNumber o).Inv := by
  unfold State.dropNumber
  grind [giveUp]

theorem State.Inv.copyFault {o cause} (h : s.Inv) : (s.copyFault o cause).1.Inv := h.dropNumber.faultToken

theorem State.Inv.copyPoison {o ps n} (h : s.Inv) : (s.copyPoison o ps n).1.Inv := by
  unfold State.copyPoison
  grind [freeBytes, markPieces, enginePut, copyFault]

theorem State.Inv.badEntry {core q n} (h : s.Inv) : (s.badEntry core q n).Inv := by
  unfold State.badEntry
  grind [freeBytes, queueWrite, mark, foldl]

theorem State.Inv.copyPush {o core q bs bad} (h : s.Inv) : (s.copyPush o core q bs bad).1.Inv := by
  unfold State.copyPush
  grind [Offer.Inv, setQueue, copyFault, offerPush, badEntry]

theorem State.Inv.copySector {o} (h : s.Inv) : (s.copySector o).1.Inv := by
  unfold State.copySector
  extract_lets l total va
  split
  · grind [copyReach, copyFault]
  · grind [copyReach]
  next u pa _ _ e =>
  have hu : u.Inv := by grind [copyReach]
  split
  · exact hu.copyPush
  extract_lets n odd near
  clear_value n odd near
  have hready : (if near = true then (u, true) else u.engineSerial).1.Inv := by grind [engineSerial]
  generalize (if near = true then (u, true) else u.engineSerial) = r at hready ⊢
  obtain ⟨u, ready⟩ := r
  dsimp only
  split
  · exact hready
  split
  · exact hready.copyFault
  split
  · grind [boxSlice, copyFault]
  · grind [boxSlice]
  next v bs bad e =>
  have hv : v.Inv := by grind [boxSlice]
  split
  · exact hv.copyPush
  split
  · exact hv.copyPoison
  · grind [enginePut, copyFault, homeClear, noteAll, homeStore]

theorem State.Inv.copyRead {va} (h : s.Inv) : (s.copyRead va).1.Inv := by
  unfold State.copyRead
  grind [copyReach]

theorem State.Inv.chainStep {o} (h : s.Inv) : (s.chainStep o).1.Inv := by
  unfold State.chainStep
  grind [copySector, copyReach, enginePut, copyFault, copyRead]

theorem State.Inv.redStep {o} (h : s.Inv) : (s.redStep o).1.Inv := by
  unfold State.redStep
  grind [noteAll, homeClear, copySector, homeStore, copyReach, copyFault, copyRead]

theorem State.Inv.relayStep {o} (h : s.Inv) : (s.relayStep o).1.Inv := by
  unfold State.relayStep
  grind [copyPush, dropNumber]

theorem State.Inv.copyStep {o} (h : s.Inv) : (s.copyStep o).1.Inv := by
  unfold State.copyStep
  grind [relayStep, copySector, chainStep, redStep]

theorem State.Inv.copyAdvance {core n} (h : s.Inv) : (s.copyAdvance core n).Inv := by
  unfold State.copyAdvance
  grind [State.Inv, noteCopy, copyStep, putOp]

theorem State.Inv.copyEnd {core o} (h : s.Inv) : (s.copyEnd core o).Inv := by
  unfold State.copyEnd
  grind [dropNumber, endToken, dropOp]

theorem cpForm_inv {form sub m f} (h : s.Inv) : Out.Inv (cpForm form sub m f s) := by
  unfold cpForm
  grind [Eff.Inv, State.Inv.noteCopy, State.Inv.start, withToken_inv, trigW_inv, State.Inv.serialised]

theorem execCpRelay_inv {m} (h : s.Inv) : Out.Inv (execCpRelay m s) := by
  refine trigW_inv h fun _ s h => withToken_inv h fun _ s h => ?_
  dsimp only
  split
  · exact h
  · exact h.serialised fun _ h => h.start.noteCopy

theorem cpControl_inv {m f} (h : s.Inv) (hf : ∀ x y s (_ : s.Inv), (f x y s).Inv) : Out.Inv (cpControl m f s) := by
  unfold cpControl
  grind [trigW_inv]

theorem execCpStatus_inv {m} (h : s.Inv) : Out.Inv (execCpStatus m s) := by
  unfold execCpStatus
  grind [Eff.Inv, State.Inv.setT, Eff.illPort_inv, cpControl_inv]

theorem State.Inv.cancelToken {n} (h : s.Inv) : (s.cancelToken n).Inv := by
  unfold State.cancelToken
  grind [dropNumber, putOp, endToken, dropOp]

theorem State.Inv.resumeToken {n} (h : s.Inv) : (s.resumeToken n).Inv := by
  unfold State.resumeToken
  grind [setT, putOp]

theorem State.Inv.endWrite {key x} (h : s.Inv) : (s.endWrite key x).Inv := by
  unfold State.endWrite
  grind [setT, cancelToken, resumeToken]

/-! ### The anchor (Machine/Anchor.lean) -/

theorem State.Inv.setRow {core r} (h : s.Inv) : (s.setRow core r).Inv := h.setCore

theorem State.Inv.startRow {o row} (h : s.Inv) : (s.startRow o row).Inv := by
  unfold State.startRow
  grind [setRow, putOp]

theorem State.Inv.rowFail {o err detail} (h : s.Inv) : (s.rowFail o err detail).Inv := h.putOp.setRow

theorem State.Inv.anExec {core i} (h : s.Inv) : (s.anExec core i).Inv := by
  unfold State.anExec
  grind [setRow, putOp, rowFail]

theorem State.Inv.flushRow {o l} (h : s.Inv) : (s.flushRow o l).1.Inv := by
  induction l generalizing s o with
  | nil => exact h
  | cons x r ih => unfold State.flushRow; grind [setTag, wr, offerPush, Offer.Inv]

theorem State.Inv.anEnd {core} (h : s.Inv) : (s.anEnd core).Inv := by
  unfold State.anEnd
  grind [setRow, flushRow, putOp, rowFail, startRow]

theorem State.Inv.anBad {core} (h : s.Inv) : (s.anBad core).Inv := by
  unfold State.anBad
  grind [rowFail]

theorem anForm_inv {i} (h : s.Inv) : Out.Inv (anForm i s) := by
  unfold anForm
  grind [State.Inv, Out.Inv, State.Inv.anExec]

theorem execAnchorEnd_inv (h : s.Inv) : Out.Inv (execAnchorEnd s) := by
  unfold execAnchorEnd
  grind [State.Inv, Out.Inv, State.Inv.anEnd]

theorem State.Inv.anLoadRun {o} (h : s.Inv) : (s.anLoadRun o).1.Inv := by
  unfold State.anLoadRun
  grind [setCore]

theorem State.Inv.startAn {o} (h : s.Inv) : (s.startAn o).Inv := by
  unfold State.startAn
  grind [putOp, startRow, anLoadRun]

theorem State.Inv.anRunAll {core n} (h : s.Inv) : (s.anRunAll core n).Inv := by
  induction n generalizing s with
  | zero => exact h
  | succ n ih => unfold State.anRunAll; grind [anEnd, anExec, anBad]

theorem State.Inv.anNow {o} (h : s.Inv) : (s.anNow o).1.Inv := by
  unfold State.anNow
  grind [setRow, startAn, setOps, anRunAll]

theorem execAnRun_inv {m} (h : s.Inv) : Out.Inv (execAnRun m s) := by
  unfold execAnRun
  grind [Eff.Inv, State.Inv.start, withToken_inv, trigW_inv, Eff.illSlot_inv]

/-! ### The matrix unit (Machine/Matrix.lean) -/

theorem State.Inv.commitSector {k ws} (h : s.Inv) : (s.commitSector k ws).Inv := by
  unfold State.commitSector
  grind [wr, foldl]

theorem State.Inv.leaveTag {o} (h : s.Inv) : (s.leaveTag o).Inv := by
  unfold State.leaveTag
  grind [setTag]

theorem State.Inv.commitNext {o} (h : s.Inv) : (s.commitNext o).1.Inv := by
  unfold State.commitNext
  grind [leaveTag, commitSector]

theorem State.Inv.commitAll {o} (h : s.Inv) : (s.commitAll o).1.Inv := by
  unfold State.commitAll
  grind [leaveTag, commitSector, foldl]

theorem State.Inv.mgrpAll {o n} (h : s.Inv) : (s.mgrpAll o n).1.Inv := by
  induction n generalizing s o with
  | zero => exact h
  | succ n ih => unfold State.mgrpAll; grind [commitAll, anNow]

theorem State.Inv.joinGroup {o} (h : s.Inv) : (s.joinGroup o).1.Inv := by
  unfold State.joinGroup
  grind [setCluster, setCore]

theorem State.Inv.stageMx {o} (h : s.Inv) : (s.stageMx o).1.Inv := by
  unfold State.stageMx
  grind [joinGroup]

theorem State.Inv.runMx {o} (h : s.Inv) : (s.runMx o).1.Inv := by
  unfold State.runMx
  grind [commitAll, stageMx, mgrpAll]

theorem State.Inv.fillRecords {o} (h : s.Inv) : (s.fillRecords o).1.Inv := by
  unfold State.fillRecords
  grind [residFill, foldl_fst]

theorem mxTile_inv {o need port reg classes ok} (h : s.Inv) (hok : ∀ x, (ok x).Inv) : (mxTile s o need port reg classes ok).Inv := by
  unfold mxTile
  grind [Eff.illSlot_inv]

theorem mxStart_inv {o} (h : s.Inv) : (mxStart s o).Inv := by
  unfold mxStart
  grind [Eff.Inv, State.Inv.start, State.Inv.setT, State.Inv.setOps, State.Inv.fillRecords, State.Inv.runMx]

theorem mxForm_inv {form sub m f} (h : s.Inv) (hf : ∀ x y s (_ : s.Inv), (f x y s).Inv) : Out.Inv (mxForm form sub m f s) := by
  unfold mxForm
  grind [withToken_inv, trigW_inv]

theorem mxTypes_inv {o} {ok : Eff} (h : s.Inv) (hok : ok.Inv) : (mxTypes s o ok).Inv := by
  unfold mxTypes
  grind [Eff.illPort_inv, Eff.illType_inv]

theorem mxProduct_inv {m x o k grp} (h : s.Inv) : (mxProduct m x o k grp s).Inv := by
  unfold mxProduct
  grind [State.Inv.recorded, mxStart_inv]

theorem mxMm_inv {form ty m} (h : s.Inv) : Out.Inv (mxMm form ty m s) :=
  mxForm_inv h fun _ _ _ h => mxTypes_inv h (mxTile_inv h fun _ => mxTile_inv h fun _ => mxTile_inv h fun _ => mxProduct_inv h)

theorem mxTransfer_inv {form ty m} (h : s.Inv) : Out.Inv (mxTransfer form ty m s) := by
  unfold mxTransfer
  grind [State.Inv.recordImport, mxForm_inv, mxTile_inv, mxStart_inv, Eff.illType_inv]

theorem execMxDrain_inv {m} (h : s.Inv) : Out.Inv (execMxDrain m s) := by
  unfold execMxDrain
  grind [Eff.Inv, State.Inv.anNow, State.Inv.start, State.Inv.setT, State.Inv.setOps, mxForm_inv, mxTile_inv, State.Inv.settleDrain]

theorem State.Inv.beginMember {cluster group err detail bus x} (h : s.Inv) : (s.beginMember cluster group err detail bus x).Inv := by
  unfold State.beginMember
  grind [setCluster, putOp]

theorem execBroadcastStart_inv {cluster group} (h : s.Inv) : Out.Inv (execBroadcastStart cluster group s) := by
  unfold execBroadcastStart
  grind [Out.Inv, State.Inv.beginMember, State.Inv.foldl]

theorem State.Inv.startMx {core} (h : s.Inv) : (s.startMx core).Inv := by
  unfold State.startMx
  grind [putOp]

theorem State.Inv.mxEnd {core o} (h : s.Inv) : (s.mxEnd core o).Inv := by
  unfold State.mxEnd
  grind [endToken, setOps, fillRecords, dropOp]

theorem State.Inv.mxAdvance {core} (h : s.Inv) : (s.mxAdvance core).Inv := by
  unfold State.mxAdvance
  grind [State.Inv, commitNext, putOp, setOps, stageMx, fillRecords]

theorem State.Inv.startAnchor {core} (h : s.Inv) : (s.startAnchor core).Inv := by
  unfold State.startAnchor
  grind [startAn]

theorem State.Inv.anEndOp {core o} (h : s.Inv) : (s.anEndOp core o).Inv := by
  unfold State.anEndOp
  grind [setRow, putOp, endToken, setTask, dropOp]

end Sys2Proof.Machine
end

section
/-! SUPPORT for O50: blocks and the reverse walk, the task forms, merges and the helper cores keep memory canonical. -/

namespace Sys2Proof.Machine

open Host Arith

variable {s : State}

/-! ### Differentiable blocks (Machine/Block.lean) -/

theorem State.Inv.readDesc {x ok} (h : s.Inv) (hok : ∀ x s (_ : s.Inv), (ok x s).Inv) : (s.readDesc x ok).Inv := by
  unfold State.readDesc
  grind [Eff.Inv, reach, revTrap_inv]

theorem execDbBegin_inv {m} (h : s.Inv) : Out.Inv (execDbBegin m s) := by
  unfold execDbBegin
  grind [Eff.Inv, State.Inv.setT, State.Inv.pushBytes, State.Inv.readDesc, trigW_inv, revTrap_inv]

theorem execDbEnd_inv {m} (h : s.Inv) : Out.Inv (execDbEnd m s) := by
  unfold execDbEnd
  grind [Eff.Inv, State.Inv.setT, trigW_inv, State.Inv.settleDrain, revTrap_inv]

theorem execDbRev_inv {m} (h : s.Inv) : Out.Inv (execDbRev m s) := by
  unfold execDbRev
  grind [Eff.Inv, State.Inv.setT, trigW_inv, revTrap_inv, State.Inv.setCur]

theorem State.Inv.zeroPartners {x} (h : s.Inv) : (s.zeroPartners x).Inv := by
  unfold State.zeroPartners
  grind [setT, wr, foldl]

theorem execDbZero_inv {m} (h : s.Inv) : Out.Inv (execDbZero m s) := by
  unfold execDbZero
  grind [Eff.Inv, trigW_inv, State.Inv.zeroPartners, revTrap_inv]

theorem execDbPush_inv {m} (h : s.Inv) : Out.Inv (execDbPush m s) := by
  unfold execDbPush
  grind [Eff.Inv, State.Inv.pushBytes, Eff.illPort_inv, trigW_inv, State.Inv.settleDrain]

theorem withSeen_inv {off n ok} (h : s.Inv) (hok : ∀ x, (ok x).Inv) : (withSeen s off n ok).Inv := by
  unfold withSeen
  grind [Eff.Inv, revTrap_inv]

theorem execDbPop_inv {m} (h : s.Inv) : Out.Inv (execDbPop m s) := by
  unfold execDbPop
  grind [Eff.Inv, State.Inv.popTo, State.Inv.setT, Eff.illPort_inv, withSeen_inv, trigW_inv, revTrap_inv]

theorem execDbSp_inv {m} (h : s.Inv) : Out.Inv (execDbSp m s) := by
  unfold execDbSp
  grind [Eff.Inv, State.Inv.setT, State.Inv.atEnd, trigW_inv]

theorem execDbMode_inv {m} (h : s.Inv) : Out.Inv (execDbMode m s) := by
  unfold execDbMode
  grind [Eff.Inv, Eff.illPort_inv, State.Inv.atEnd, trigW_inv, revTrap_inv]

/-! ### The reverse walk (Machine/Reverse.lean) -/

theorem WalkErr.trap_inv {e} (h : s.Inv) : (WalkErr.trap e s).Inv := by
  unfold WalkErr.trap
  grind [Eff.Inv, revTrap_inv]

theorem withOk_inv {α : Type} {r : Except WalkErr α} {ok : α → Eff} (h : s.Inv) (hok : ∀ x, (ok x).Inv) : (withOk s r ok).Inv := by
  unfold withOk
  grind [WalkErr.trap_inv]

theorem State.Inv.setGrad {k l} (h : s.Inv) : (s.setGrad k l).Inv := by
  unfold State.setGrad
  grind [setT]

theorem State.Inv.zeroGrad {k} (h : s.Inv) : (s.zeroGrad k).Inv := h.setGrad
theorem State.Inv.raiseFlags {f} (h : s.Inv) : (s.raiseFlags f).Inv := h.setT

theorem State.Inv.addGrad {k ty e} (h : s.Inv) : (s.addGrad k ty e).Inv := by
  unfold State.addGrad
  grind [raiseFlags, setGrad]

theorem State.Inv.vecAdjoint {c bid u p sub m} (h : s.Inv) : (s.vecAdjoint c bid u p sub m).Inv := by
  unfold State.vecAdjoint
  grind [Eff.Inv, popTo, addGrad, zeroGrad, withOk_inv, foldl]

theorem State.Inv.zeroPartner {code} (h : s.Inv) : (s.zeroPartner code).Inv := by
  unfold State.zeroPartner
  grind [wr]

theorem State.Inv.dotGrad {pa els} (h : s.Inv) : (s.dotGrad pa els).Inv := by
  unfold State.dotGrad
  grind [raiseFlags, wrN, foldl]

theorem State.Inv.productGrad {o gacc k first n move} (h : s.Inv) : (s.productGrad o gacc k first n move).Inv := by
  unfold State.productGrad
  grind [dotGrad]

theorem State.Inv.scrapTiles (h : s.Inv) : s.scrapTiles.Inv := by
  unfold State.scrapTiles
  grind [freeBytes, wr, foldl]

theorem State.Inv.matrixAdjoint {c bid p sub m} (h : s.Inv) : (s.matrixAdjoint c bid p sub m).Inv := by
  unfold State.matrixAdjoint
  grind [Eff.Inv, popTo, scrapTiles, zeroPartner, wr, withOk_inv, productGrad, foldl_fst]

theorem State.Inv.cvtAdjoint {c bid} (h : s.Inv) : (s.cvtAdjoint c bid).Inv := by
  unfold State.cvtAdjoint
  grind [Eff.Inv, popTo, raiseFlags, zeroPartner, wrN, withOk_inv, foldl]

theorem anReverse_inv {d r i rec x} (h : s.Inv) : (anReverse s d r i rec x).1.Inv := by
  cases i with
  | anchorWrt => unfold anReverse; grind [State.Inv.wr, State.Inv.raiseFlags]
  | anchorScale | anchorSscale | anchorBias | anchorAddres | anchorCvt | anchorCvtsr | anchorMulres | anchorRelu | anchorClamp |
      anchorLeaky | anchorGelu | anchorSigmoid | anchorDrop => exact h.raiseFlags
  | _ => exact h

theorem State.Inv.drainAdjoint {c bid m} (h : s.Inv) : (s.drainAdjoint c bid m).Inv := by
  unfold State.drainAdjoint
  grind [Eff.Inv, popTo, raiseFlags, wr, withOk_inv, anReverse_inv, foldl, foldl_fst]

theorem State.Inv.relayAdjoint {rh n} (h : s.Inv) : (s.relayAdjoint rh n).Inv := by
  unfold State.relayAdjoint
  grind [Eff.Inv, Offer.Inv, setT, zeroGrad, offerPush, revTrap_inv]

theorem State.Inv.moveAdjoint {c rh m d} (h : s.Inv) : (s.moveAdjoint c rh m d).Inv := by
  unfold State.moveAdjoint
  grind [Eff.Inv, addGrad, relayAdjoint, zeroGrad, setGrad]

theorem State.Inv.slotAdjoint {c d a} (h : s.Inv) : (s.slotAdjoint c d a).Inv := by
  unfold State.slotAdjoint
  grind [Eff.Inv, vecAdjoint, cvtAdjoint, moveAdjoint, zeroPartner, drainAdjoint, matrixAdjoint]

theorem State.Inv.startWalk {desc next} (h : s.Inv) : (s.startWalk desc next).Inv := h.setT
theorem State.Inv.setWalk {w} (h : s.Inv) : (s.setWalk w).Inv := h.setT

theorem State.Inv.walkPhase1 {w} (h : s.Inv) : (s.walkPhase1 w).Inv := by
  unfold State.walkPhase1
  grind [Eff.Inv, readDesc, setWalk, withOk_inv, revTrap_inv]

theorem State.Inv.restoreInputs {d ins rest} {t : State} (h : s.Inv) (e : s.restoreInputs d ins = some (t, rest)) : t.Inv := by
  unfold State.restoreInputs at e
  dsimp only at e
  split at e
  · cases e
  · obtain ⟨rfl, -⟩ := Prod.mk.inj (Option.some.inj e)
    refine h.setT.foldl fun _ _ h => ?_
    split
    · exact h.wr
    · exact h

theorem State.Inv.startReplay {w f imports} (h : s.Inv) : (s.startReplay w f imports).Inv := h.setT

theorem State.Inv.useFrame {w off r ok} (h : s.Inv) (hok : ∀ x, (ok x).Inv) : (s.useFrame w off r ok).Inv := by
  unfold State.useFrame
  grind [withOk_inv, revTrap_inv]

theorem State.Inv.walkPhase2 {w} (h : s.Inv) : (s.walkPhase2 w).Inv := by
  refine withOk_inv h fun r => ?_
  split
  · exact revTrap_inv h
  refine h.useFrame fun f => ?_
  split
  · exact h.setWalk
  refine withOk_inv h fun r => ?_
  split
  · exact revTrap_inv h
  split
  · split
    · exact revTrap_inv h
    · exact State.Inv.startReplay (h.restoreInputs ‹_›)
  split
  · exact revTrap_inv h
  · exact withOk_inv h fun _ => h.popTo fun _ h => h.setWalk

theorem State.Inv.walkPhase3 {w} (h : s.Inv) : (s.walkPhase3 w).Inv := by
  unfold State.walkPhase3
  grind [Eff.Inv, Eff.andThen_inv, setWalk, withOk_inv, slotAdjoint, revTrap_inv]

theorem State.Inv.walkPhase4 {w} (h : s.Inv) : (s.walkPhase4 w).Inv := by
  unfold State.walkPhase4
  grind [Eff.Inv, setT, withOk_inv, revTrap_inv]

theorem State.Inv.walkStep {w} (h : s.Inv) : (s.walkStep w).Inv := by
  unfold State.walkStep
  grind [walkPhase1, walkPhase2, walkPhase4, walkPhase3]

theorem State.Inv.endReplay {w} (h : s.Inv) : (s.endReplay w).Inv := h.settleDrain fun _ h => h.setT

theorem State.Inv.nextImports {n ok} (h : s.Inv) (hok : ∀ x s (_ : s.Inv), (ok x s).Inv) : (s.nextImports n ok).Inv := by
  unfold State.nextImports
  grind [Eff.Inv, setWalk, revTrap_inv]

theorem State.Inv.replaySlot {i o} (h : s.Inv) (e : s.replaySlot i = some o) : Out.Inv o := by
  unfold State.replaySlot at e
  grind [Eff.out_inv, nextImports, State.Inv.setT, useUnit, commit, wr, Eff.illSlot_inv, Eff.Inv, Out.Inv.next]

/-! ### Completion and digests (Machine/Complete.lean) -/

theorem State.Inv.firePackage {gid ref} (h : s.Inv) : (s.firePackage gid ref).Inv := by
  unfold State.firePackage
  grind [writeRecord, addEvent, interrupt]

theorem State.Inv.report {id cls code info} (h : s.Inv) : (s.report id cls code info).Inv := h.send

theorem State.Inv.writeDigests {gid} (h : s.Inv) : (s.writeDigests gid).Inv := by
  unfold State.writeDigests
  grind [groupWrite, report]

theorem State.Inv.completeGroup {gid} (h : s.Inv) : (s.completeGroup gid).Inv := by
  unfold State.completeGroup
  grind [setGroup, firePackage, writeDigests]

theorem State.Inv.leaveNode {gid node} (h : s.Inv) : (s.leaveNode gid node).Inv := by
  unfold State.leaveNode
  grind [completeGroup, leaveBelow]

theorem State.Inv.leaveNodes {gid ks} (h : s.Inv) : (s.leaveNodes gid ks).Inv := by
  unfold State.leaveNodes
  grind [leaveNode, foldl]

/-! ### Task forms (Machine/Tasks.lean) -/

theorem tkForm_inv {m f} (h : s.Inv) (hf : ∀ x s (_ : s.Inv), (f x s).Inv) : Out.Inv (tkForm m f s) := trigW_inv h hf
theorem State.Inv.enqueue {ids} (h : s.Inv) : (s.enqueue ids).Inv := h

theorem State.Inv.takeOver {id} (h : s.Inv) : (s.takeOver id).Inv := by
  unfold State.takeOver
  grind [setTask, countStatus]

theorem State.Inv.spawnTasks {prio n} (h : s.Inv) : (s.spawnTasks prio n).Inv := by
  unfold State.spawnTasks
  grind [State.Inv, passBaton, takeOver, countAt, enqueue, setT, setTask, foldl]

theorem State.Inv.holdViews (h : s.Inv) : s.holdViews.Inv := h
theorem State.Inv.spawn {prio n} (h : s.Inv) : (s.spawn prio n).Inv := h.spawnTasks.holdViews

theorem execTkSpawn_inv {m} (h : s.Inv) : Out.Inv (execTkSpawn m s) := by
  refine tkForm_inv h fun n s h => ?_
  dsimp only
  split
  · exact h
  split
  · exact h
  split
  · exact h.setT
  refine withTarget_inv h fun s h => ?_
  split
  · exact h
  refine h.requesting (fun _ h => h.drained fun s h => ?_) fun _ _ h => h.spawn.setT
  have asked {a} := h.submit (core := s.t.core) (a := a)
  split
  · exact asked.spawn.setT
  · exact asked.setT

theorem execTkVdecl_inv {m} (h : s.Inv) : Out.Inv (execTkVdecl m s) := by
  unfold execTkVdecl
  grind [Eff.Inv, State.Inv.setT, tkForm_inv, Eff.illPort_inv]

theorem execTkVaddr_inv {m} (h : s.Inv) : Out.Inv (execTkVaddr m s) := by
  unfold execTkVaddr
  grind [Eff.Inv, State.Inv.setT, tkForm_inv, Eff.illPort_inv]

theorem execTkJoin_inv {m} (h : s.Inv) : Out.Inv (execTkJoin m s) := by
  unfold execTkJoin
  grind [Eff.Inv, State.Inv.setT, tkForm_inv]

theorem execTkStamp_inv {m} (h : s.Inv) : Out.Inv (execTkStamp m s) := by
  unfold execTkStamp
  grind [Eff.Inv, State.Inv.passBaton, State.Inv.setT, tkForm_inv, State.Inv.abortTask]

/-! ### Merges (Machine/Merge.lean) -/

theorem State.Inv.endHold {h'} (h : s.Inv) : (s.endHold h').Inv := by
  unfold State.endHold
  grind [State.Inv, store, freeWord, foldl]

theorem State.Inv.endHolds (h : s.Inv) : s.endHolds.Inv := by
  unfold State.endHolds
  grind [endHold, foldl]

theorem State.Inv.moveHolds {id} (h : s.Inv) : (s.moveHolds id).Inv := h

theorem State.Inv.mergeTrap {id code info} (h : s.Inv) : (s.mergeTrap id code info).Inv := by
  unfold State.mergeTrap
  grind [enqueue, setTask, send]

theorem State.Inv.mergeSuspend {id code va info} (h : s.Inv) : (s.mergeSuspend id code va info).Inv := h.setTask.send

theorem State.Inv.mergeFrom {dst src T S n e} (h : s.Inv) : (s.mergeFrom dst src T S n e).1.Inv := by
  induction n generalizing s e with
  | zero => exact h
  | succ n ih => unfold State.mergeFrom; grind [State.Inv, setTask, viewPieces, putAll]

theorem State.Inv.setView {id n f} (h : s.Inv) : (s.setView id n f).Inv := h.setTask

theorem State.Inv.blankEnded {id n} (h : s.Inv) : (s.blankEnded id n).Inv := by
  unfold State.blankEnded
  grind [blankView]

theorem execMerge_inv {task view} (h : s.Inv) : Out.Inv (execMerge task view s) := by
  unfold execMerge
  grind [Out.Inv, State.Inv.setView, State.Inv.mergeSuspend, State.Inv.mergeFrom, State.Inv.mergeTrap, State.Inv.blankEnded]

theorem State.Inv.reexecute {id} (h : s.Inv) : (s.reexecute id).Inv := by
  unfold State.reexecute
  grind [leaveGroups, passBaton, stopHelpers, enqueue, setTask, blankCopies, releaseClaims, foldl]

theorem State.Inv.checkTask {id} (h : s.Inv) : (s.checkTask id).Inv := by
  unfold State.checkTask
  grind [reexecute, report, tally, setTask]

theorem State.Inv.discardOps {id} (h : s.Inv) : (s.discardOps id).Inv := by
  unfold State.discardOps
  grind [dropNumber, dropOps, foldl]

theorem State.Inv.retire {id} (h : s.Inv) : (s.retire id).Inv :=
  h.discardOps.stopHelpers.leaveGroups.releaseClaims.setTask.countStatus.leaveNodes

theorem execTaskEnd_inv {task} (h : s.Inv) : Out.Inv (execTaskEnd task s) := by
  unfold execTaskEnd
  grind [State.Inv, Out.Inv, State.Inv.retire, State.Inv.settleAll, State.Inv.checkTask]

theorem execOrderedCommit_inv {group} (h : s.Inv) : Out.Inv (execOrderedCommit group s) := by
  unfold execOrderedCommit
  grind [State.Inv, Out.Inv, State.Inv.passBaton, State.Inv.settleAll, State.Inv.tally, State.Inv.setTask, State.Inv.commitBytes]

/-! ### Helper cores (Machine/Helper.lean) -/

theorem State.Inv.setH {x} (h : s.Inv) : (s.setH x).Inv := h.setHelper

theorem State.Inv.helperNext {h' pc} (h : s.Inv) : Out.Inv (s.helperNext h' pc) := by
  unfold State.helperNext
  grind [State.Inv, Out.Inv, setH]

theorem State.Inv.helperStall (h : s.Inv) : Out.Inv s.helperStall := by
  unfold State.helperStall
  grind [State.Inv, Out.Inv, setH]

theorem State.Inv.settleH (h : s.Inv) : s.settleH.Inv := h.settleHelper

theorem State.Inv.settleOver {pa n} (h : s.Inv) : (s.settleOver pa n).Inv := by
  unfold State.settleOver
  grind [settleH]

theorem State.Inv.helperDrained {f} (h : s.Inv) (hf : ∀ s (_ : s.Inv), Out.Inv (f s)) : Out.Inv (s.helperDrained f) := by
  unfold State.helperDrained
  grind [helperStall, settleH]

theorem State.Inv.helperTrap {cause} (h : s.Inv) : Out.Inv (s.helperTrap cause) := by
  unfold State.helperTrap
  grind [State.Inv, Out.Inv, helperDrained, helperStatus, report, setH]

theorem State.Inv.helperSees {a n} (h : s.Inv) : (s.helperSees a n).Inv := by
  unfold State.helperSees
  grind [settleOver]

theorem State.Inv.helperIssue {parts attr} (h : s.Inv) : (s.helperIssue parts attr).Inv := h.setH

theorem State.Inv.helperPlain {a n x} (h : s.Inv) : OptInv (s.helperPlain a n x) := by
  unfold State.helperPlain
  grind [OptInv, helperIssue, setH]

theorem State.Inv.helperStore {a n x} (h : s.Inv) : OptInv (s.helperStore a n x) := by
  unfold State.helperStore
  grind [OptInv, wrN, setH]

theorem State.Inv.unreserve (h : s.Inv) : s.unreserve.Inv := h

theorem State.Inv.helperAmo {op dbl rd rs1 rs2 next} (h : s.Inv) : Out.Inv (s.helperAmo op dbl rd rs1 rs2 next) := by
  unfold State.helperAmo
  extract_lets n a isLr u
  have hu : u.Inv := h.helperSees
  clear_value u
  split
  · exact hu.helperTrap
  split
  · exact hu.helperTrap
  split
  · exact State.Inv.helperNext (s := { u.unreserve with lrs := _ }) hu
  · split
    · exact (hu.unreserve.helperStore.getD hu.unreserve).helperNext
    · exact hu.unreserve.helperNext
  · exact (hu.helperStore.getD hu).helperNext

theorem execHelperBaseInstruction_inv {c op} (h : s.Inv) : Out.Inv (execHelperBaseInstruction c op s) := by
  unfold execHelperBaseInstruction
  grind [OptInv, State.Inv.helperAmo, State.Inv.helperDrained, State.Inv.helperSees, State.Inv.helperTrap, State.Inv.helperPlain,
    State.Inv.helperNext]

theorem State.Inv.helperQueue {q f} (h : s.Inv) (hf : ∀ x s (_ : s.Inv), Out.Inv (f x s)) : Out.Inv (s.helperQueue q f) := by
  unfold State.helperQueue
  grind [helperTrap, settleOver]

theorem execHxQwr_inv {q rs1 rs2} (h : s.Inv) : Out.Inv (execHxQwr q rs1 rs2 s) := by
  unfold execHxQwr
  grind [State.Inv.helperQueue, State.Inv.queueWrite, State.Inv.helperTrap, State.Inv.helperNext]

theorem execHxQrd_inv {q rd rs1} (h : s.Inv) : Out.Inv (execHxQrd q rd rs1 s) := by
  unfold execHxQrd
  grind [State.Inv.helperQueue, State.Inv.helperTrap, State.Inv.helperNext]

theorem execHxQpub_inv {q rd rs1} (h : s.Inv) : Out.Inv (execHxQpub q rd rs1 s) := by
  unfold execHxQpub
  grind [OptInv, State.Inv.helperStall, State.Inv.helperQueue, State.Inv.publish, State.Inv.helperTrap, State.Inv.helperNext]

theorem execHxQpop_inv {q rd rs1} (h : s.Inv) : Out.Inv (execHxQpop q rd rs1 s) := by
  unfold execHxQpop
  grind [State.Inv.setQueue, State.Inv.helperQueue, State.Inv.helperTrap, State.Inv.helperNext]

theorem execHxQwd_inv {q rd rs1} (h : s.Inv) : Out.Inv (execHxQwd q rd rs1 s) := by
  unfold execHxQwd
  grind [State.Inv.helperStall, State.Inv.helperQueue, State.Inv.helperTrap, State.Inv.helperNext]

theorem execHxQws_inv {q rd rs1} (h : s.Inv) : Out.Inv (execHxQws q rd rs1 s) := by
  unfold execHxQws
  grind [State.Inv.helperStall, State.Inv.helperQueue, State.Inv.helperTrap, State.Inv.helperNext]

theorem State.Inv.bulk {q rs1 rs2 f} (h : s.Inv) (hf : ∀ x y z s (_ : s.Inv), Out.Inv (f x y z s)) : Out.Inv (s.bulk q rs1 rs2 f) := by
  unfold State.bulk
  grind [helperQueue, helperTrap]

theorem execHxSld_inv {q rd rs1 rs2} (h : s.Inv) : Out.Inv (execHxSld q rd rs1 rs2 s) := by
  unfold execHxSld
  grind [State.Inv.bulk, State.Inv.helperStall, State.Inv.setH, State.Inv.helperNext]

theorem State.Inv.sectorReach {task p va} (h : s.Inv) : (s.sectorReach task p va).1.Inv := h.reach

theorem execSldSectorPublish_inv {core setter} (h : s.Inv) : Out.Inv (execSldSectorPublish core setter s) := by
  unfold execSldSectorPublish
  grind [State.Inv, Out.Inv, State.Inv.setQueue, State.Inv.markPieces, State.Inv.sectorReach, State.Inv.queueWrite, State.Inv.helperTrap,
    State.Inv.choose, State.Inv.engineLoad, State.Inv.setH]

theorem State.Inv.bulkPieces {task d n i} (h : s.Inv) : (s.bulkPieces task d n i).1.Inv := by
  induction n generalizing s i with
  | zero => exact h
  | succ n ih => unfold State.bulkPieces; grind [sectorReach]

theorem execHxSst_inv {q rd rs1 rs2} (h : s.Inv) : Out.Inv (execHxSst q rd rs1 rs2 s) := by
  unfold execHxSst
  grind [State.Inv, State.Inv.setQueue, State.Inv.bulk, State.Inv.engineSerial, State.Inv.bulkPieces, State.Inv.noteAll,
    State.Inv.helperStall, State.Inv.helperTrap, State.Inv.choose, State.Inv.helperIssue, State.Inv.setH, State.Inv.helperNext,
    State.Inv.foldl]

theorem State.Inv.performHelper {core h' k} (h : s.Inv) : (s.performHelper core h' k).Inv := by
  unfold State.performHelper
  grind [Offer.Inv, markPieces, homeClear, homeStore, setHelper, store, offerPush, put]

theorem execHxBsx_inv {q rd rs1 rs2} (h : s.Inv) : Out.Inv (execHxBsx q rd rs1 rs2 s) := by
  unfold execHxBsx
  grind [State.Inv.helperStall, State.Inv.helperQueue, State.Inv.helperTrap, State.Inv.helperNext]

theorem execHxFence_inv {scope} (h : s.Inv) : Out.Inv (execHxFence scope s) := by
  unfold execHxFence
  grind [State.Inv.helperDrained, State.Inv.helperTrap, State.Inv.helperNext]

theorem execHxStop_inv {rs1} (h : s.Inv) : Out.Inv (execHxStop rs1 s) := by
  unfold execHxStop
  grind [State.Inv, Out.Inv, State.Inv.helperDrained, State.Inv.helperStatus, State.Inv.setH]

theorem execHelperStallEnd_inv {core setter} (h : s.Inv) : Out.Inv (execHelperStallEnd core setter s) := by
  unfold execHelperStallEnd
  grind [State.Inv, Out.Inv, State.Inv.setH]

theorem State.Inv.startHelpers {id} (h : s.Inv) : OptInv (s.startHelpers id) :=
  List.foldlRecOn (motive := OptInv) _ _ (.of_some h) fun _ h _ _ => h.bind fun s h => by
    grind [groupRead, wr, setHelper, OptInv.of_some, OptInv.of_none]

end Sys2Proof.Machine
end

section
/-! SUPPORT for O50: storage, the scheduler, a core's cycles, launches, endpoints, transforms, resets and the host port keep memory
canonical. -/

namespace Sys2Proof.Machine

open Host Arith

variable {s : State}

/-! ### A task's storage (Machine/Storage.lean) -/

theorem State.Inv.writeImage {id state status info} (h : s.Inv) : OptInv (s.writeImage id state status info) := by
  intro t e
  obtain ⟨a, -, rfl⟩ := Option.map_eq_some_iff.1 e
  exact h.setTask.wr

theorem State.Inv.roomFor {id codes} (h : s.Inv) : OptInv (s.roomFor id codes) := by
  have room (s : State) (h : s.Inv) (o : Option Nat) (f : Nat → Task) : OptInv (o.map fun a => s.setTask id (f a)) := by
    intro t e
    obtain ⟨a, -, rfl⟩ := Option.map_eq_some_iff.1 e
    exact h.setTask
  unfold State.roomFor
  extract_lets t second
  have hsecond (s : State) (h : s.Inv) : OptInv (second s) := .ite (room s h _ _) (.of_some h)
  clear_value second
  split
  · exact (room s h _ _).bind hsecond
  · exact (OptInv.of_some h).bind hsecond

theorem State.Inv.savePiece {id code} (h : s.Inv) : (s.savePiece id code).Inv := by
  unfold State.savePiece
  grind [wr, setTask, setCore, moveHolds]

theorem State.Inv.scanOut {id codes} (h : s.Inv) : OptInv (s.scanOut id codes) :=
  .ite (.of_some h) (.ite .of_none (h.roomFor.map fun _ h => h.foldl fun _ _ h => h.savePiece))

theorem State.Inv.takeTile {id core code} (h : s.Inv) : OptInv (s.takeTile id core code) := by
  unfold State.takeTile
  split
  · exact .of_some h.setCore
  · refine .ite (.of_some h) ?_
    split
    · exact .ite (h.scanOut.map fun _ h => h.setCore) .of_none
    · exact .of_none

theorem State.Inv.mapTile {id core fixed name} (h : s.Inv) : OptInv (s.mapTile id core fixed name) := by
  unfold State.mapTile
  cases s.pickTile id core name fixed with
  | none => exact .of_none
  | some k => exact h.takeTile.bind fun _ h => .of_some h.setTask

theorem foldOpt_inv {α : Type} {f : State → α → Option State} {l : List α} (h : s.Inv) (hf : ∀ s x (_ : s.Inv), OptInv (f s x)) :
    OptInv (foldOpt f s l) := by
  induction l generalizing s with
  | nil => exact .of_some h
  | cons x r ih => exact (hf s x h).bind fun _ h => ih h

theorem State.Inv.takeRange {id core r} (h : s.Inv) : OptInv (s.takeRange id core r) := by
  unfold State.takeRange
  grind [OptInv, scanOut, foldOpt_inv]

theorem State.Inv.takeHelper {id core h'} (h : s.Inv) : OptInv (s.takeHelper id core h') := by
  unfold State.takeHelper
  grind [OptInv, setHelper, setTask, setCore]

theorem State.Inv.takeSlotNo {id} (h : s.Inv) : OptInv (s.takeSlotNo id) := by
  unfold State.takeSlotNo
  refine .ite (.of_some h) (.ite (.of_some h.setTask) fun t e => ?_)
  obtain ⟨k, -, e⟩ := Option.bind_eq_some_iff.1 e
  exact OptInv.ite (.of_some h.setTask) .of_none t e

theorem State.Inv.placeCopy {id core n} (h : s.Inv) : OptInv (s.placeCopy id core n) := by
  unfold State.placeCopy
  extract_lets t g v put decl cls name tile
  have hput (s : State) (loc : Word) (h : s.Inv) : (put s loc).Inv := h.setTask
  have tiled : OptInv tile := by
    unfold tile
    split
    · split
      · exact h.takeTile.map fun _ h => hput _ _ h.setTask
      · exact .of_none
    · exact .of_none
  clear_value tile put
  split
  · exact .of_some (tiled _ rfl)
  split
  · exact .of_some (hput _ _ h)
  · intro t e
    obtain ⟨a, -, rfl⟩ := Option.map_eq_some_iff.1 e
    exact hput _ _ h

/-! ### The scheduler (Machine/Sched.lean) -/

theorem State.Inv.moveCounts {gid old new} (h : s.Inv) : (s.moveCounts gid old new).Inv := h.countAt.leaveNodes
theorem State.Inv.dequeue {id} (h : s.Inv) : (s.dequeue id).Inv := h

theorem State.Inv.seat {id core strand} (h : s.Inv) : (s.seat id core strand).Inv := by
  unfold State.seat
  grind [State.Inv, setTask, setCore]

theorem State.Inv.giveTag {id} (h : s.Inv) : (s.giveTag id).Inv := by
  unfold State.giveTag
  grind [State.Inv, setTask]

theorem State.Inv.admitAt {id core strand} (h : s.Inv) : OptInv (s.admitAt id core strand) := by
  unfold State.admitAt
  extract_lets t g first rs _ counted
  have hcounted (s : State) (h : s.Inv) : OptInv (counted s) := by
    refine .of_some ?_
    split
    · exact h.setCore.countAt
    · exact h.setCore.moveCounts
  clear_value counted
  split
  · exact .of_none
  refine (foldOpt_inv h fun _ _ h => h.takeRange).bind fun _ h => h.takeSlotNo.bind fun _ h => ?_
  refine (foldOpt_inv h fun _ _ h => h.takeHelper).bind fun _ h => ?_
  refine (foldOpt_inv h.setTask.giveTag fun _ _ h => h.mapTile).bind fun v h => ?_
  have seated : ((v.seat id core strand).dequeue id).Inv := h.seat.dequeue
  dsimp only
  split
  · exact (foldOpt_inv seated fun _ _ h => h.placeCopy).bind hcounted
  · exact (foldOpt_inv seated fun _ _ h => h.mapTile).bind hcounted

theorem State.Inv.fillPiece {id code} (h : s.Inv) : (s.fillPiece id code).Inv := by
  unfold State.fillPiece
  grind [wr, setCore]

theorem State.Inv.packHelpers {id} (h : s.Inv) : (s.packHelpers id).Inv := by
  unfold State.packHelpers
  grind [setHelper, setTask, setCore, foldl]

theorem State.Inv.bringBack {id core} (h : s.Inv) : OptInv (s.bringBack id core) := by
  unfold State.bringBack
  extract_lets t back
  have hback (s : State) (h : s.Inv) : OptInv (back s) := by
    have packed : (if t.core = core then s else s.packHelpers id).Inv := by
      split
      · exact h
      · exact h.packHelpers
    refine (foldOpt_inv packed.setTask fun _ _ h => .ite h.takeRange (.of_some h)).bind fun _ h => ?_
    refine (foldOpt_inv h fun _ _ h => h.mapTile).bind fun _ h => .of_some ?_
    exact (h.foldl fun _ _ h => h.fillPiece).setTask.moveHolds
  clear_value back
  split
  · exact (OptInv.of_some h).bind hback
  · exact h.scanOut.bind hback

theorem State.Inv.bringHelpers {id core} (h : s.Inv) : OptInv (s.bringHelpers id core) := by
  refine foldOpt_inv h fun _ _ h => h.takeHelper.map fun _ h => ?_
  split
  · exact h.setHelper.setTask
  · exact h

theorem State.Inv.restoreAt {id core strand} (h : s.Inv) : OptInv (s.restoreAt id core strand) :=
  h.bringBack.bind fun _ h => h.bringHelpers.bind fun _ h => .of_some h.seat.dequeue.setTask.moveCounts

theorem State.Inv.seatAt {id core} (h : s.Inv) : OptInv (s.seatAt id core) := by
  unfold State.seatAt
  refine .ite .of_none ?_
  split
  · exact OptInv.findSome? fun _ => h.admitAt
  · exact OptInv.findSome? fun _ => h.restoreAt
  · exact .of_none

theorem State.Inv.requeue (h : s.Inv) : s.requeue.Inv := h
theorem State.Inv.endUnstarted {id status} (h : s.Inv) : (s.endUnstarted id status).Inv := h.setTask.dequeue

theorem execTaskAdmit_inv {task core} (h : s.Inv) : Out.Inv (execTaskAdmit task core s) := by
  unfold execTaskAdmit
  grind [Out.Inv, OptInv, State.Inv.passBaton, State.Inv.startHelpers, State.Inv.reserveWays, State.Inv.endUnstarted, State.Inv.requeue,
    State.Inv.setTask, State.Inv.seatAt, State.Inv.blankCopies, State.Inv.giveTag, State.Inv.endTask, State.Inv.send]

theorem execOrderedRerun_inv {task} (h : s.Inv) : Out.Inv (execOrderedRerun task s) := by
  unfold execOrderedRerun
  grind [State.Inv, Out.Inv, OptInv, State.Inv.startHelpers, State.Inv.setTask, State.Inv.endTask]

theorem State.Inv.vacate {id} (h : s.Inv) : OptInv (s.vacate id) := by
  unfold State.vacate
  extract_lets u t
  have hu : u.Inv := State.Inv.settleAll (s := { s with cur := id }) h
  split
  · exact .of_none
  refine ((hu.foldl fun _ _ h => h.arriveLoad).setTask.writeImage).map fun v hv => ?_
  dsimp only
  split
  · exact hv.setCore.releaseStrand.setTask.enqueue
  · exact hv.releaseStrand.setTask.enqueue

theorem execPreemption_inv {task} (h : s.Inv) : Out.Inv (execPreemption task s) := by
  unfold execPreemption
  dsimp only
  split
  · exact .next h.requeue
  · exact .next (h.requeue.vacate.getD h.requeue)

theorem execRestore_inv {task core} (h : s.Inv) : Out.Inv (execRestore task core s) := by
  have hu := h.requeue
  unfold execRestore
  dsimp only
  split
  · refine .next ?_
    split
    · exact (hu.bringBack _ ‹_›).moveCounts
    · exact hu
  split
  · exact .next hu
  split
  · exact .next hu.report.dequeue
  · exact .next (hu.seatAt.getD hu)

/-! ### A core's cycles (Machine/Bundle.lean) -/

theorem execStrandSelect_inv {core} (h : s.Inv) : Out.Inv (execStrandSelect core s) := by
  unfold execStrandSelect
  grind [Out.Inv, State.Inv.setTask, State.Inv.setCore]

theorem State.Inv.endWrites (h : s.Inv) : s.endWrites.Inv := by
  unfold State.endWrites
  grind [endWrite, foldl]

theorem State.Inv.endReplayBundle {w} (h : s.Inv) : (s.endReplayBundle w).Inv := by
  unfold State.endReplayBundle
  grind [State.Inv, endWrites, setT]

theorem State.Inv.bundleWrites (h : s.Inv) : s.bundleWrites.Inv := h.setT.endWrites.setCur

theorem State.Inv.endBundle (h : s.Inv) : s.endBundle.Inv := by
  unfold State.endBundle
  grind [State.Inv, setT, performDue, trace, endCurrent, endBlock, performWhere, trapReturn, startWalk, bundleWrites, endReplayBundle]

theorem State.Inv.doubleFault (h : s.Inv) : s.doubleFault.Inv := by
  unfold State.doubleFault
  grind [State.Inv, OptInv, setT, endBlock, writeImage, send]

theorem State.Inv.fetchFault {cls code info} (h : s.Inv) : (s.fetchFault cls code info).Inv := by
  unfold State.fetchFault
  grind [doubleFault, raise]

theorem State.Inv.freezeCore {kind arg} (h : s.Inv) : (s.freezeCore kind arg).Inv := by
  unfold State.freezeCore
  grind [State.Inv, setC]

theorem State.Inv.fetch {pc} (h : s.Inv) : (s.fetch pc).Inv := by
  unfold State.fetch
  grind [FetchEnd.Inv, choose, freezeCore, reach]

theorem State.Inv.startSlots {w} (h : s.Inv) : (s.startSlots w).Inv := by
  unfold State.startSlots
  grind [State.Inv, setC, setT]

theorem State.Inv.issueWord {w} (h : s.Inv) : (s.issueWord w).Inv := by
  unfold State.issueWord
  grind [startSlots, setT, raise, endBlock, freezeCore]

theorem State.Inv.issueAt {pc} (h : s.Inv) : (s.issueAt pc).Inv := by
  unfold State.issueAt
  grind [State.Inv, FetchEnd.Inv, setT, issueWord, fetchFault, fetch]

theorem State.Inv.copyTrap (h : s.Inv) : s.copyTrap.Inv := h.setT.raise

theorem State.Inv.walkOut {e : Eff} (he : e.Inv) : (State.walkOut e).Inv := by
  unfold State.walkOut
  grind [State.Inv, Eff.Inv, raise]

theorem State.Inv.issueStrand (h : s.Inv) : s.issueStrand.Inv := by
  unfold State.issueStrand
  grind [walkStep, walkOut, endReplay, copyTrap, issueAt]

theorem execBundleIssue_inv {core} (h : s.Inv) : Out.Inv (execBundleIssue core s) := by
  unfold execBundleIssue
  grind [State.Inv, Out.Inv, State.Inv.setC, State.Inv.issueStrand, State.Inv.endBundle]

theorem State.Inv.syncWalk (h : s.Inv) : s.syncWalk.Inv := by
  unfold State.syncWalk
  grind [setWalk]

theorem State.Inv.issuer {core} (h : s.Inv) : OptInv (s.issuer core) := by
  intro u e
  obtain ⟨_, _, _, _, rfl⟩ := State.issuer_eq_some.1 e
  exact h

theorem State.Inv.unfreeze (h : s.Inv) : s.unfreeze.Inv := h.setC

theorem execLandingArrival_inv {task entry} (h : s.Inv) : Out.Inv (execLandingArrival task entry s) := by
  unfold execLandingArrival
  grind [State.Inv, Out.Inv, State.Inv.unfreeze, State.Inv.performLoad]

theorem execFetchArrival_inv {core} (h : s.Inv) : Out.Inv (execFetchArrival core s) := by
  unfold execFetchArrival
  grind [Out.Inv, State.Inv.setCore]

theorem State.Inv.lateTrap {f} (h : s.Inv) : (s.lateTrap f).Inv := by
  unfold State.lateTrap
  grind [State.Inv, suspend, fetchFault, freeWord]

theorem execFreezeWatchdogExpiry_inv {core} (h : s.Inv) : Out.Inv (execFreezeWatchdogExpiry core s) := by
  unfold execFreezeWatchdogExpiry
  grind [Out.Inv, OptInv, State.Inv.lateTrap, State.Inv.unfreeze, State.Inv.issuer]

theorem execResultLatchLanding_inv {task} (h : s.Inv) : Out.Inv (execResultLatchLanding task s) := by
  unfold execResultLatchLanding
  grind [Out.Inv, State.Inv.setTask]

theorem execFmtShadowExpiry_inv {task} (h : s.Inv) : Out.Inv (execFmtShadowExpiry task s) := by
  unfold execFmtShadowExpiry
  grind [Out.Inv, State.Inv.setTask]

theorem execTranslationWalkComplete_inv {core} (h : s.Inv) : Out.Inv (execTranslationWalkComplete core s) := by
  unfold execTranslationWalkComplete
  grind [State.Inv, Out.Inv, OptInv, State.Inv.unfreeze, State.Inv.issuer, State.Inv.raise, State.Inv.walkCache, State.Inv.fetchFault]

theorem execCopyTrap_inv {task} (h : s.Inv) : Out.Inv (execCopyTrap task s) := by
  unfold execCopyTrap
  grind [Out.Inv, OptInv, State.Inv.issuer, State.Inv.copyTrap]

/-! ### Command queues and launches (Machine/Launch.lean) -/

theorem State.Inv.setHq {part q x} (h : s.Inv) : (s.setHq part q x).Inv := h
theorem State.Inv.refuseMsg {part q seq code} (h : s.Inv) : (s.refuseMsg part q seq code).Inv := h.send

theorem State.Inv.notify {l q v} (h : s.Inv) : (s.notify l q v).Inv := by
  unfold State.notify
  grind [setHq]

theorem State.Inv.refuseGroup {gid code} (h : s.Inv) : (s.refuseGroup gid code).Inv := h.setHq.setGroup.refuseMsg.firePackage
theorem State.Inv.queueFault {part q code} (h : s.Inv) : (s.queueFault part q code).Inv := h.setHq.refuseMsg.interrupt

theorem State.Inv.stopQueue {part q} (h : s.Inv) : (s.stopQueue part q).Inv := by
  unfold State.stopQueue
  grind [setHq]

theorem State.Inv.acceptRecord {part q r} (h : s.Inv) : (s.acceptRecord part q r).Inv := by
  unfold State.acceptRecord
  grind [stopQueue, setGroup, setHq, refuseGroup]

theorem State.Inv.fetchRecord {part q} (h : s.Inv) : (s.fetchRecord part q).Inv := by
  unfold State.fetchRecord
  grind [queueFault, acceptRecord, setHq, choose, reach]

theorem execRecordFetch_inv {part q} (h : s.Inv) : Out.Inv (execRecordFetch part q s) := by
  unfold execRecordFetch
  grind [Out.Inv, State.Inv.fetchRecord]

theorem execRecordRefetch_inv {part q} (h : s.Inv) : Out.Inv (execRecordRefetch part q s) := by
  unfold execRecordRefetch
  grind [Out.Inv, State.Inv.fetchRecord]

theorem State.Inv.countOf {g} (h : s.Inv) : (s.countOf g).1.Inv := by
  unfold State.countOf
  grind [groupRead]

theorem State.Inv.unitOf {g} (h : s.Inv) : (s.unitOf g).2.Inv := by
  unfold State.unitOf
  grind [choose]

theorem State.Inv.createRoots {gid} (h : s.Inv) : (s.createRoots gid).Inv := by
  unfold State.createRoots
  grind [State.Inv, passBaton, setGroup, countAt, enqueue, setTask, foldl]

theorem State.Inv.dispatch {gid} (h : s.Inv) : (s.dispatch gid).Inv := by
  unfold State.dispatch
  grind [State.Inv, createRoots, setGroup, firePackage, countOf, unitOf, refuseGroup]

theorem execGroupDispatch_inv {group} (h : s.Inv) : Out.Inv (execGroupDispatch group s) := by
  unfold execGroupDispatch
  grind [Out.Inv, State.Inv.stopQueue, State.Inv.dispatch, State.Inv.refuseGroup]

/-! ### The Handler's endpoints (Machine/Endpoints.lean) -/

theorem State.Inv.respond {die ep ty seq stat data} (h : s.Inv) : (s.respond die ep ty seq stat data).Inv := h.outward
theorem accepted_inv (h : s.Inv) : (accepted s).1.Inv := h
theorem declined_inv {stat} (h : s.Inv) : (declined s stat).1.Inv := h

theorem State.Inv.message {die ep ty seq leader f} (h : s.Inv) (hf : ∀ s (_ : s.Inv), (f s).1.Inv) :
    (s.message die ep ty seq leader f).Inv := by
  unfold State.message
  grind [declined_inv, respond]

theorem State.Inv.qcfgMsg {die q block} (h : s.Inv) : (s.qcfgMsg die q block).1.Inv := by
  unfold State.qcfgMsg
  grind [declined_inv, accepted_inv, setHq]

theorem State.Inv.stopMsg {die q} (h : s.Inv) : (s.stopMsg die q).1.Inv := by
  unfold State.stopMsg
  grind [declined_inv, accepted_inv, setHq]

theorem State.Inv.setRoot {die asid en root} (h : s.Inv) : (s.setRoot die asid en root).1.Inv := by
  unfold State.setRoot
  grind [State.Inv, declined_inv, accepted_inv]

theorem State.Inv.startInval {die seq asid base len} (h : s.Inv) : (s.startInval die seq asid base len).1.Inv := by
  unfold State.startInval
  grind [State.Inv, declined_inv]

theorem State.Inv.dropTlbs {dies f} (h : s.Inv) : (s.dropTlbs dies f).Inv := h

theorem execInvalComplete_inv {n} (h : s.Inv) : Out.Inv (execInvalComplete n s) := by
  unfold execInvalComplete
  grind [State.Inv, Out.Inv, State.Inv.settleAll, State.Inv.dropTlbs, State.Inv.respond, State.Inv.foldl]

theorem State.Inv.partition {parts ports} (h : s.Inv) : (s.partition parts ports).1.Inv := by
  unfold State.partition
  grind [State.Inv, declined_inv, accepted_inv, dropTlbs]

theorem State.Inv.setWatch {die mask w} (h : s.Inv) : (s.setWatch die mask w).1.Inv := by
  unfold State.setWatch
  grind [declined_inv, accepted_inv, setCore, foldl]

theorem State.Inv.pinEntry {part b} {t : State} (h : s.Inv) (e : s.pinEntry part b = .ok t) : t.Inv := by
  unfold State.pinEntry at e
  dsimp only at e
  split at e
  · cases e
  split at e
  · split at e
    · cases e
      exact h.setDie
    · cases e
      exact h
  split at e
  · cases e
  split at e
  · cases e
  · obtain rfl := Except.ok.inj e
    grind [setDie, setDegree, tally]

theorem State.Inv.pinAll {part p l} (h : s.Inv) : (s.pinAll part p l).1.Inv := by
  induction l generalizing s with
  | nil => exact h
  | cons i r ih =>
    unfold State.pinAll
    dsimp only
    split
    · exact ih h
    split
    · exact ih (h.pinEntry ‹_›)
    · exact h

theorem State.Inv.replicate {die p} (h : s.Inv) : (s.replicate die p).1.Inv := by
  unfold State.replicate
  grind [declined_inv, setDie, pinAll, foldl]

theorem State.Inv.factEndTask {id} (h : s.Inv) : (s.factEndTask id).Inv := by
  unfold State.factEndTask
  grind [dequeue, endUnstarted, setTask, endTask]

theorem State.Inv.fact {otag f} (h : s.Inv) (hf : ∀ x y z, (f x y z).1.Inv) : (s.fact otag f).1.Inv := by
  unfold State.fact
  grind [declined_inv]

theorem State.Inv.resume {otag} (h : s.Inv) : (s.resume otag).1.Inv := h.fact fun _ _ _ => accepted_inv h.setTask

theorem State.Inv.trapOut {id cls code info} (h : s.Inv) : (s.trapOut id cls code info).Inv := by
  unfold State.trapOut
  dsimp only
  split
  · exact h.setTask.writeImage.getD h.setTask
  · exact h.setTask

theorem State.Inv.reflect {otag} (h : s.Inv) : (s.reflect otag).1.Inv := by
  unfold State.reflect
  grind [State.Inv, fact, accepted_inv, trapOut, trace, factEndTask, setTask, mergeTrap]

theorem State.Inv.evictTask {otag} (h : s.Inv) : (s.evictTask otag).1.Inv := by
  unfold State.evictTask
  grind [OptInv, fact, declined_inv, accepted_inv, vacate]

theorem State.Inv.cancelTask {otag} (h : s.Inv) : (s.cancelTask otag).1.Inv := by
  unfold State.cancelTask
  grind [declined_inv, accepted_inv, endTask]

/-! ### The transform engine (Machine/Xform.lean) -/

theorem xThen_inv {α β : Type} {r : State × XRes α} {f : State → α → State × XRes β} (h : r.1.Inv)
    (hf : ∀ s x (_ : s.Inv), (f s x).1.Inv) : (xThen r f).1.Inv := by
  unfold xThen
  grind

theorem State.Inv.xRead {o l off n z} (h : s.Inv) : (s.xRead o l off n z).1.Inv := by
  unfold State.xRead
  grind [engineReach, engineLoad]

theorem State.Inv.xPush {o i core q bs} (h : s.Inv) : (s.xPush o i core q bs).1.Inv := by
  unfold State.xPush
  grind [Offer.Inv, offerPush]

theorem State.Inv.xWrite {o i l off bs z} (h : s.Inv) : (s.xWrite o i l off bs z).1.Inv := by
  unfold State.xWrite
  grind [engineSerial, wr, engineReach, enginePut, queueWrite, xPush]

theorem State.Inv.xComp {o} (h : s.Inv) : (s.xComp o).1.Inv :=
  xThen_inv h.xRead fun _ _ h => xThen_inv h.xWrite fun _ _ h => xThen_inv h.xWrite fun _ _ h => h

theorem State.Inv.xDecomp {o} (h : s.Inv) : (s.xDecomp o).1.Inv := by
  unfold State.xDecomp
  grind [xRead, xThen_inv, xWrite]

theorem State.Inv.xCb3 {o} (h : s.Inv) : (s.xCb3 o).1.Inv := by
  unfold State.xCb3
  grind [xRead, xThen_inv, xWrite]

theorem State.Inv.xCbtab {o} (h : s.Inv) : (s.xCbtab o).1.Inv := xThen_inv h.xRead fun _ _ h => h.setOut

theorem State.Inv.xColumn {o c k q} (h : s.Inv) : (s.xColumn o c k q).1.Inv := by
  induction k generalizing s q with
  | zero => exact h
  | succ k ih => exact xThen_inv h.xRead fun _ _ h => xThen_inv (ih h) fun _ _ h => h

theorem State.Inv.xRepack {o} (h : s.Inv) : (s.xRepack o).1.Inv := by
  unfold State.xRepack
  grind [xRead, xColumn, xThen_inv, xWrite]

theorem State.Inv.xGq {o} (h : s.Inv) : (s.xGq o).1.Inv := by
  unfold State.xGq
  grind [xRead, xThen_inv, xWrite]

theorem State.Inv.xDeq {o} (h : s.Inv) : (s.xDeq o).1.Inv := by
  unfold State.xDeq
  grind [xRead, xThen_inv, xWrite]

theorem State.Inv.xStat {o} (h : s.Inv) : (s.xStat o).1.Inv := by
  unfold State.xStat
  grind [xRead, xThen_inv, xWrite]

theorem State.Inv.xUnit {o} (h : s.Inv) : (s.xUnit o).1.Inv := by
  unfold State.xUnit
  grind [xDecomp, xDeq, xRepack, xComp, xCbtab, xStat, xCb3, xGq]

theorem State.Inv.xPoison {o} (h : s.Inv) : (s.xPoison o).1.Inv := by
  unfold State.xPoison
  split
  · exact h
  rename_i off n _
  have hu : (s.freeBytes n).2.Inv := h.freeBytes
  dsimp only
  split
  · split
    · grind [engineReach]
    · split
      · grind [engineReach, badEntry]
      · grind [engineReach, enginePut, markPieces]
  · grind [wr, markAll]
  · exact hu.wr.markAll
  · exact hu.queueWrite.foldl fun _ _ h => h.mark

theorem State.Inv.xfAdvance {core} (h : s.Inv) : (s.xfAdvance core).Inv := by
  unfold State.xfAdvance
  grind [State.Inv, faultToken, dropNumber, xPoison, xUnit, putOp]

theorem State.Inv.startXf {core} (h : s.Inv) : (s.startXf core).Inv := by
  unfold State.startXf
  grind [putOp]

theorem State.Inv.xfEnd {core o} (h : s.Inv) : (s.xfEnd core o).Inv := by
  unfold State.xfEnd
  grind [dropNumber, endToken, dropOp]

theorem xfForm_inv {form sub m} (h : s.Inv) : Out.Inv (xfForm form sub m s) := by
  unfold xfForm
  grind [Eff.Inv, State.Inv.start, Eff.illPort_inv, withToken_inv, trigW_inv, State.Inv.serialised]

/-! ### Ends of engine operations (Machine/Finish.lean) -/

theorem execTokenComplete_inv {core unit n} (h : s.Inv) : Out.Inv (execTokenComplete core unit n s) := by
  unfold execTokenComplete
  grind [Out.Inv, State.Inv.copyEnd, State.Inv.xfEnd, State.Inv.mxEnd, State.Inv.anEndOp]

theorem execEngineOpStart_inv {core unit} (h : s.Inv) : Out.Inv (execEngineOpStart core unit s) := by
  unfold execEngineOpStart
  grind [Out.Inv, State.Inv.startAnchor, State.Inv.startXf, State.Inv.startMx]

/-! ### Resets and power (Machine/Power.lean) -/

theorem State.Inv.boot (h : s.Inv) : OptInv s.boot := by
  unfold State.boot
  grind [State.Inv, OptInv]

/-- What the caches had not written back is lost, and the rest of memory that is kept is a part of a canonical memory. -/
theorem State.Inv.reboot {keeps} (h : s.Inv) : (s.reboot keeps).Inv := by
  have behind : Memory.wf s.behind = true :=
    List.foldlRecOn (motive := fun m => Memory.wf m = true) _ _ h fun m hm x _ => Memory.wf_write m _ _ hm
  exact OptInv.getD (State.Inv.boot (Memory.wf_filter _ _ behind)) (Memory.wf_filter _ _ behind)

theorem State.Inv.imageMsg {die seq off data} (h : s.Inv) : (s.imageMsg die seq off data).Inv := by
  unfold State.imageMsg
  grind [OptInv, wr, boot, respond]

theorem State.Inv.attestMsg {nonce} (h : s.Inv) : (s.attestMsg nonce).1.Inv := h

theorem State.Inv.wakeMsg {die ns} (h : s.Inv) : (s.wakeMsg die ns).1.Inv := by
  unfold State.wakeMsg
  grind [accepted_inv, setDie, foldl]

theorem State.Inv.capMsg {die watts} (h : s.Inv) : (s.capMsg die watts).1.Inv := by
  unfold State.capMsg
  grind [State.Inv, declined_inv, accepted_inv]

theorem State.Inv.sensors {n} (h : s.Inv) : (s.sensors n).1.Inv := by
  induction n generalizing s with
  | zero => exact h
  | succ n ih => exact ih (s := s.freeWord.2) h

theorem State.Inv.telemetryMsg {die} (h : s.Inv) : (s.telemetryMsg die).1.Inv := by
  unfold State.telemetryMsg
  grind [sensors]

theorem execIslandEntry_inv {core} (h : s.Inv) : Out.Inv (execIslandEntry core s) := by
  unfold execIslandEntry
  grind [Out.Inv, State.Inv.setCore, State.Inv.storeImage, State.Inv.foldl]

theorem execIslandExit_inv {core} (h : s.Inv) : Out.Inv (execIslandExit core s) := by
  unfold execIslandExit
  grind [Out.Inv, State.Inv.setCore]

theorem State.Inv.trigMsg {die mask ty base len ttag n en} (h : s.Inv) : (s.trigMsg die mask ty base len ttag n en).1.Inv := by
  unfold State.trigMsg
  grind [declined_inv, accepted_inv, setCore, foldl]

theorem State.Inv.readTrace {die core start} (h : s.Inv) : (s.readTrace die core start).1.Inv := by
  unfold State.readTrace
  grind [declined_inv]

theorem execTraceFreeze_inv {core} (h : s.Inv) : Out.Inv (execTraceFreeze core s) := by
  unfold execTraceFreeze
  grind [Out.Inv, State.Inv.setCore]

/-! ### The host port (Machine/HostPort.lean) -/

theorem State.Inv.factMsg {otag action} (h : s.Inv) : (s.factMsg otag action).1.Inv := by
  unfold State.factMsg
  grind [fact, declined_inv, resume, accepted_inv, reflect, factEndTask, evictTask]

theorem State.Inv.qcfg {die seq q b} (h : s.Inv) : (s.qcfg die seq q b).Inv := h.message fun _ h => h.qcfgMsg
theorem State.Inv.qstop {die seq q} (h : s.Inv) : (s.qstop die seq q).Inv := h.message fun _ h => h.stopMsg
theorem State.Inv.asset {die seq asid en root} (h : s.Inv) : (s.asset die seq asid en root).Inv := h.message fun _ h => h.setRoot
theorem State.Inv.inval {die seq asid base len} (h : s.Inv) : (s.inval die seq asid base len).Inv := h.message fun _ h => h.startInval

theorem State.Inv.partset {die seq parts ports} (h : s.Inv) : (s.partset die seq parts ports).Inv := by
  unfold State.partset
  grind [declined_inv, partition, message]

theorem State.Inv.wdog {die seq mask w} (h : s.Inv) : (s.wdog die seq mask w).Inv := h.message fun _ h => h.setWatch
theorem State.Inv.replcfg {die seq p} (h : s.Inv) : (s.replcfg die seq p).Inv := h.message fun _ h => h.replicate
theorem State.Inv.factAct {die seq otag action} (h : s.Inv) : (s.factAct die seq otag action).Inv := h.message fun _ h => h.factMsg
theorem State.Inv.tcancel {die seq otag} (h : s.Inv) : (s.tcancel die seq otag).Inv := h.message fun _ h => h.cancelTask
theorem State.Inv.waketol {die seq ns} (h : s.Inv) : (s.waketol die seq ns).Inv := h.message fun _ h => h.wakeMsg
theorem State.Inv.powerCap {die seq watts} (h : s.Inv) : (s.powerCap die seq watts).Inv := h.message fun _ h => h.capMsg
theorem State.Inv.treq {die seq} (h : s.Inv) : (s.treq die seq).Inv := h.message fun _ h => h.telemetryMsg
theorem State.Inv.attest {die seq nonce} (h : s.Inv) : (s.attest die seq nonce).Inv := h.message fun _ h => h.attestMsg

theorem State.Inv.trig {die seq mask ty base len ttag n en} (h : s.Inv) : (s.trig die seq mask ty base len ttag n en).Inv :=
  h.message fun _ h => h.trigMsg

theorem State.Inv.tread {die seq core start} (h : s.Inv) : (s.tread die seq core start).Inv := h.message fun _ h => h.readTrace

theorem State.Inv.handle {die ep m} (h : s.Inv) : (s.handle die ep m).Inv := by
  unfold State.handle
  grind [partset, waketol, trig, tread, declined_inv, message, factAct, tcancel, treq, asset, wdog, respond, attest, replcfg, qstop,
    imageMsg, inval, powerCap, qcfg]

theorem State.Inv.setEp {die ep e} (h : s.Inv) : (s.setEp die ep e).Inv := h.setDie

theorem State.Inv.readMessages {die ep n} (h : s.Inv) : (s.readMessages die ep n).Inv := by
  induction n generalizing s with
  | zero => exact h
  | succ n ih => unfold State.readMessages; grind [setEp, handle]

theorem State.Inv.ringIn {die ep idx} (h : s.Inv) : (s.ringIn die ep idx).Inv := by
  unfold State.ringIn
  grind [setEp, readMessages]

theorem State.Inv.ringOut {die ep idx} (h : s.Inv) : (s.ringOut die ep idx).Inv := by
  unfold State.ringOut
  grind [setEp, flushOut]

theorem State.Inv.ringSet {die ep out v} (h : s.Inv) : (s.ringSet die ep out v).Inv := by
  unfold State.ringSet
  grind [setEp, flushOut]

theorem execEndpointReread_inv {die ep} (h : s.Inv) : Out.Inv (execEndpointReread die ep s) := by
  unfold execEndpointReread
  grind [Out.Inv, State.Inv.readMessages]

theorem State.Inv.msixWrite {i x} (h : s.Inv) : (s.msixWrite i x).Inv := by
  unfold State.msixWrite
  grind [State.Inv, interrupt]

theorem State.Inv.writeBar0 {off size v} (h : s.Inv) : (s.writeBar0 off size v).Inv := by
  unfold State.writeBar0
  grind [State.Inv, notify, ringSet, ringOut, msixWrite, ringIn]

theorem State.Inv.wrPacket {a data poisoned} (h : s.Inv) : (s.wrPacket a data poisoned).Inv := by
  unfold State.wrPacket
  grind [wr, mark, foldl]

theorem execHostWrite_inv {off data relaxed poisoned} (h : s.Inv) : Out.Inv (execHostWrite off data relaxed poisoned s) := by
  unfold execHostWrite
  grind [Out.Inv, State.Inv.hostLines, State.Inv.wrPacket]

theorem State.Inv.readBar0 {off size} (h : s.Inv) : (s.readBar0 off size).2.Inv := by
  unfold State.readBar0
  grind

theorem execHostRead_inv {regs off n} (h : s.Inv) : Out.Inv (execHostRead regs off n s) := by
  unfold execHostRead
  grind [State.Inv, Out.Inv, State.Inv.readBar0]

/-! ### The residual unit (Machine/Residual.lean) -/

theorem State.Inv.spillChunk {m} (h : s.Inv) : (s.spillChunk m).1.Inv := by
  unfold State.spillChunk
  grind [toTier]

theorem State.Inv.fillChunk {n} (h : s.Inv) : (s.fillChunk n).1.Inv := by
  unfold State.fillChunk
  grind [setT, wr, markMask]

theorem State.Inv.chunkWait {task n} {v : State} (h : s.Inv) (e : s.chunkWait task = some (v, n)) : v.Inv := by
  unfold State.chunkWait at e
  grind [issuer, OptInv]

theorem State.Inv.unitFree {task} (h : s.Inv) : OptInv (s.unitFree task) := by
  unfold State.unitFree
  grind [State.Inv, OptInv]

theorem State.Inv.chunkDone {n} (h : s.Inv) : (s.chunkDone n).Inv := by
  unfold State.chunkDone
  grind [unfreeze]

theorem execResidualSpill_inv {task} (h : s.Inv) : Out.Inv (execResidualSpill task s) := by
  unfold execResidualSpill
  split
  case h_1 u n e =>
    have hu := h.chunkWait e
    have alone := hu.serialised (ok := .done) fun _ h => h
    split
    · grind [State.Inv.spillChunk, State.Inv.setT, State.Inv.chunkDone, State.Inv.unfreeze, State.Inv.endBlock, Eff.Inv, Out.Inv.next]
    · exact .next hu.chunkDone
  case h_2 => grind [State.Inv.unitFree, OptInv, State.Inv.spillChunk, State.Inv.setT, Out.Inv.next]

theorem execResidualFill_inv {task} (h : s.Inv) : Out.Inv (execResidualFill task s) := by
  unfold execResidualFill
  split
  case h_1 u n e =>
    have hu := h.chunkWait e
    grind [State.Inv.fillChunk, State.Inv.chunkDone, State.Inv.unfreeze, Out.Inv.next]
  case h_2 => grind [State.Inv.unitFree, OptInv, State.Inv.fillChunk, Out.Inv.next]

/-! ### Scalar forms (Machine/Scalar.lean) -/

theorem scalarOp_inv {unit m f} (h : s.Inv) : Out.Inv (scalarOp unit m f s) := trigW_inv h fun _ _ h => h.setT

theorem smOp_inv {m f} (h : s.Inv) (hf : ∀ x y s (_ : s.Inv), (f x y s).Inv) : Out.Inv (smOp m f s) := by
  unfold smOp
  grind [trigW_inv]

theorem smMulOp_inv {m f} (h : s.Inv) : Out.Inv (smMulOp m f s) := smOp_inv h fun _ _ _ h => h.setT

theorem smDivOp_inv {rem m f} (h : s.Inv) : Out.Inv (smDivOp rem m f s) := by
  unfold smDivOp
  grind [Eff.Inv, smOp_inv, State.Inv.setT, fpGuard_inv]

theorem agOp_inv {m f} (h : s.Inv) : Out.Inv (agOp m f s) := trigW_inv h fun _ _ h => h.setT

theorem execAgTaddr_inv {m} (h : s.Inv) : Out.Inv (execAgTaddr m s) := by
  unfold execAgTaddr
  grind [Eff.Inv, State.Inv.setT, Eff.illPort_inv, trigW_inv]

theorem execAgDpack_inv {m} (h : s.Inv) : Out.Inv (execAgDpack m s) := by
  unfold execAgDpack
  grind [Eff.Inv, State.Inv.setT, trigW_inv]

end Sys2Proof.Machine
end

section
/-! The dispatch, the moves and the turns keep memory canonical, and so does a step: O50. -/

namespace Sys2Proof.Machine

open Host Arith

variable {s : State}

/-! ### Dispatch (Machine/Dispatch.lean) -/

/-- Every instruction and event keeps memory canonical: each arm is the lemma of the operation that `exec` sends it to. -/
theorem exec_inv {i} (h : s.Inv) : Out.Inv (exec i s) := by
  unfold exec
  cases i with
  | move => exact slotRun_inv h fun _ _ _ h => h.moveTo
  | saAdd | saSub | saRsub | saAddw | saSubw | saShladd | saAnd | saOr | saXor | saAndn | saOrn | saShl | saShr | saSar | saRol |
      saRor | saSeq | saSne | saSlt | saSle | saSltn | saSlen | saMin | saMax | saMinn | saMaxn | saSel | saClz | saCtz | saPopc |
      saBswap | saSext | saZext | saBfx | saBfi => exact scalarOp_inv h
  | saSetk | agBchk | ctCyc | ctPerf | ctDsel | rgBits | rgSeed => exact trigW_inv h fun _ _ h => h.setT
  | smMul | smMulh | smMulhn | smMulw => exact smMulOp_inv h
  | smDiv | smDivn | smRem | smRemn => exact smDivOp_inv h
  | agA2d | agSidx => exact agOp_inv h
  | agTaddr => exact execAgTaddr_inv h
  | agDpack => exact execAgDpack_inv h
  | brPrep => exact trigW_inv h fun _ _ h => withTarget_inv h fun _ h => h.setT
  | brGo => exact trigW_inv h fun _ _ h => h.branched.setCur
  | brCall => exact trigW_inv h fun _ _ h => h.branched.setT.setCur
  | brRet => exact trigW_inv h fun _ _ h => withTarget_inv h fun _ h => h.branched.setCur
  | brLoop => exact execBrLoop_inv h
  | brYield | brEnd => exact trigW_inv h fun _ _ h => h.setCur
  | brTrap => exact trigW_inv h fun _ _ h => h.useUnit.setT
  | brTret => exact execBrTret_inv h
  | lsLd | lsLdq => exact lsLoad_inv h
  | lsSt | lsStq => exact lsStore_inv h
  | lsLdv | lsLdvs | lsGath | lsLdvm | lsLdvq => exact lsLoadV_inv h
  | lsStv | lsStvs | lsScat | lsStvm | lsStvq => exact lsStoreV_inv h
  | ctRdc | ctRdcHi => exact ctRead_inv h
  | ctWrc | ctWrcHi => exact ctWrite_inv h
  | ctWrs => exact execCtWrs_inv h
  | vaAdd | vaSub | vaMul => exact vaArith_inv h
  | vaFma | vaFms | vaFnma => exact vaFused_inv h
  | vaMin | vaMax => exact vaExtreme_inv h
  | vaAbs | vaNeg | vaMulh | vaClz | vaPopc | vaAdds | vaSubs => exact vaForm_inv h
  | vaRcp | vaRsqrt | vaSqrt | vaExp2 | vaLog2 => exact vaFun_inv h
  | vaCmp => exact execVaCmp_inv h
  | vaCvt => exact execVaCvt_inv h
  | vaRnd | vaSel | vxExpand => exact slotTrig_inv h fun _ _ h => vecDone_inv h
  | vaAnd | vaOr | vaXor | vaShl | vaShr | vaSar => exact vaBits_inv h
  | vxPerm | vxBcast | vxRot | vxLidx => exact vxPermute_inv h
  | vxRed => exact execVxRed_inv h
  | vxScan => exact execVxScan_inv h
  | vxCompact => exact slotTrig_inv h fun _ _ h => h.recorded fun _ _ h => h.setT
  | vxMerge => exact execVxMerge_inv h
  | vxSort64 => exact slotTrig_inv h fun _ _ h => pairsDone_inv h
  | vxTrstep => exact execVxTrstep_inv h
  | rgKey => exact slotTrig_inv h fun _ _ h => h.setT
  | rgMode => exact execRgMode_inv h
  | mxMma | mxMmz => exact mxMm_inv h
  | mxMgrp => exact mxForm_inv h fun _ _ _ h => mxTypes_inv h (mxTile_inv h fun _ => mxTile_inv h fun _ => mxProduct_inv h)
  | mxTld | mxTst => exact mxTransfer_inv h
  | mxZero => exact mxForm_inv h fun _ _ _ h => mxTile_inv h fun _ => mxStart_inv h
  | mxCvt => exact mxForm_inv h fun _ _ _ h => mxTile_inv h fun _ => mxTile_inv h fun _ => h.recorded fun _ _ h => mxStart_inv h
  | mxBjoin => exact mxForm_inv h fun _ _ _ h => mxStart_inv h
  | mxDrain => exact execMxDrain_inv h
  | anRun => exact execAnRun_inv h
  | anLoad => exact trigW_inv h fun _ _ h => withToken_inv h fun _ _ h => h.start
  | anParam => exact trigW_inv h fun _ _ h => h.atEnd
  | xfComp | xfDecomp | xfCb3 | xfCbtab | xfRepack | xfGq | xfDeq | xfStat => exact xfForm_inv h
  | cpStart | cpChain | cpRed => exact cpForm_inv h
  | cpRelay => exact execCpRelay_inv h
  | cpCancel | cpResume => exact cpControl_inv h fun _ _ _ h => h.atEnd
  | cpStatus => exact execCpStatus_inv h
  | gmLd | gmLdv =>
    exact trigW_inv h fun _ _ h => gmLand_inv h fun _ _ => gmReach_inv h fun _ _ h => gmWhen_inv h fun _ h => gmIssueLoad_inv h
  | gmLdt => exact execGmLdt_inv h
  | gmSt => exact trigW_inv h fun _ _ h => gmStoreOne_inv h
  | gmStv => exact trigW_inv h fun _ _ h => gmReach_inv h fun _ _ h => gmWhen_inv h fun _ h => gmIssueStore_inv h
  | gmStt => exact execGmStt_inv h
  | gmStg => exact execGmStg_inv h
  | gmPref => exact execGmPref_inv h
  | gmFlush | gmInval => exact gmLine_inv h
  | syFence => exact execSyFence_inv h
  | syXfence => exact execSyXfence_inv h
  | syLdacq => exact syForm_inv h fun _ _ h => syRequest_inv h fun _ _ h => syResult_inv h
  | syStrel => exact syForm_inv h fun _ _ h => syReach_inv h fun _ _ h => h.serialised fun _ h => h.setT.noteAll.issueRelease
  | syAmoadd | syAmomin | syAmomax | syAmominn | syAmomaxn | syAmoand | syAmoor | syAmoxor | syAmoswp | syAmocas => exact syAmo_inv h
  | syWait => exact execSyWait_inv h
  | syLock => exact syForm_inv h fun _ _ h => syRequest_inv h fun _ _ h => syDone_inv h
  | syUnlock => exact execSyUnlock_inv h
  | syArrive => exact execSyArrive_inv h
  | syBwait => exact execSyBwait_inv h
  | syQwait => exact execSyQwait_inv h
  | queuePop | queuePublish | queueConfigure => exact syQadv_inv h
  | syQspace => exact execSyQspace_inv h
  | syTrig => exact execSyTrig_inv h
  | syCombine => exact execSyCombine_inv h
  | syBind => exact execSyBind_inv h
  | tkSpawn => exact execTkSpawn_inv h
  | tkVdecl => exact execTkVdecl_inv h
  | tkVaddr => exact execTkVaddr_inv h
  | tkFinish | tkAbort => exact tkForm_inv h fun _ _ h => h.setCur
  | tkJoin => exact execTkJoin_inv h
  | tkStamp => exact execTkStamp_inv h
  | dbBegin => exact execDbBegin_inv h
  | dbEnd => exact execDbEnd_inv h
  | dbRev => exact execDbRev_inv h
  | dbZero => exact execDbZero_inv h
  | dbPush => exact execDbPush_inv h
  | dbPop => exact execDbPop_inv h
  | dbSp => exact execDbSp_inv h
  | dbMode => exact execDbMode_inv h
  | helperBaseInstruction => exact execHelperBaseInstruction_inv h
  | helperFence => exact h.helperDrained fun _ h => h.helperNext
  | hxSset | hxSget | hxLhint => exact h.helperNext
  | hxQwr => exact execHxQwr_inv h
  | hxQrd => exact execHxQrd_inv h
  | hxQpub => exact execHxQpub_inv h
  | hxQpop => exact execHxQpop_inv h
  | hxQwd => exact execHxQwd_inv h
  | hxQws => exact execHxQws_inv h
  | hxSld => exact execHxSld_inv h
  | hxSst => exact execHxSst_inv h
  | hxBsx => exact execHxBsx_inv h
  | hxFence => exact execHxFence_inv h
  | hxStop => exact execHxStop_inv h
  | anchorNop | anchorScale | anchorSscale | anchorBias | anchorAddres | anchorMulres | anchorRelu | anchorGelu | anchorClamp |
      anchorLeaky | anchorSigmoid | anchorDrop | anchorCvt | anchorCvtsr | anchorRecm | anchorRecs | anchorWrt | anchorWrl |
      anchorWrq | anchorRmax | anchorLoop => exact anForm_inv h
  | anchorEnd => exact execAnchorEnd_inv h
  | powerOnReset | perst => exact .next h.reboot
  | imgload => exact .next h.imageMsg
  | attest => exact .next h.attest
  | waketol => exact .next h.waketol
  | pcap => exact .next h.powerCap
  | treq => exact .next h.treq
  | trig => exact .next h.trig
  | tread => exact .next h.tread
  | traceFreeze => exact execTraceFreeze_inv h
  | islandEntry => exact execIslandEntry_inv h
  | islandExit => exact execIslandExit_inv h
  | cxlLinkDown | atomicopRequest | cxlLinkUp => exact .next h
  | qcfg => exact .next h.qcfg
  | qstop => exact .next h.qstop
  | asset => exact .next h.asset
  | inval => exact .next h.inval
  | invalComplete => exact execInvalComplete_inv h
  | partset => exact .next h.partset
  | wdog => exact .next h.wdog
  | replcfg => exact .next h.replcfg
  | factResume | factReflect | factEnd | factEvict => exact .next h.factAct
  | tcancel => exact .next h.tcancel
  | inTail => exact .next h.ringIn
  | outHead => exact .next h.ringOut
  | endpointRingWrite => exact .next h.ringSet
  | endpointReread => exact execEndpointReread_inv h
  | registerWrite => exact .next h.writeBar0
  | notifyWrite => exact .next h.notify
  | hostWrite => exact execHostWrite_inv h
  | hostRead => exact execHostRead_inv h
  | recordFetch => exact execRecordFetch_inv h
  | recordRefetch => exact execRecordRefetch_inv h
  | groupDispatch => exact execGroupDispatch_inv h
  | taskAdmit => exact execTaskAdmit_inv h
  | preemption => exact execPreemption_inv h
  | restore => exact execRestore_inv h
  | taskEnd => exact execTaskEnd_inv h
  | orderedCommit => exact execOrderedCommit_inv h
  | orderedRerun => exact execOrderedRerun_inv h
  | merge => exact execMerge_inv h
  | strandSelect => exact execStrandSelect_inv h
  | bundleIssue => exact execBundleIssue_inv h
  | landingArrival => exact execLandingArrival_inv h
  | fetchArrival => exact execFetchArrival_inv h
  | freezeWatchdogExpiry => exact execFreezeWatchdogExpiry_inv h
  | resultLatchLanding => exact execResultLatchLanding_inv h
  | fmtShadowExpiry => exact execFmtShadowExpiry_inv h
  | translationWalkComplete => exact execTranslationWalkComplete_inv h
  | tokenComplete => exact execTokenComplete_inv h
  | engineOpStart => exact execEngineOpStart_inv h
  | broadcastStart => exact execBroadcastStart_inv h
  | copyTrap => exact execCopyTrap_inv h
  | residualSpill => exact execResidualSpill_inv h
  | residualFill => exact execResidualFill_inv h
  | responseReturn => exact execResponseReturn_inv h
  | nackRetry => exact execNackRetry_inv h
  | combineFold => exact execCombineFold_inv h
  | rs => exact execRs_inv h
  | rx => exact execRx_inv h
  | up => exact execUp_inv h
  | wb => exact execWb_inv h
  | evc => exact execEvc_inv h
  | inv => exact execInv_inv h
  | ack => exact execAck_inv h
  | fws => exact execFws_inv h
  | fwx => exact execFwx_inv h
  | fmiss => exact execFmiss_inv h
  | data => exact execData_inv h
  | grant => exact execGrant_inv h
  | memoryData => exact execMemoryData_inv h
  | l2Eviction => exact .next h.evict
  | segmentFree => exact .next h.setDie
  | replicationWindowEnd => exact execReplicationWindowEnd_inv h
  | helperStallEnd => exact execHelperStallEnd_inv h
  | sldSectorPublish => exact execSldSectorPublish_inv h

/-! ### Moves (Machine/Moves.lean) -/

theorem State.Inv.deliver {m} (h : s.Inv) : Out.Inv (s.deliver m) := by
  unfold State.deliver
  grind [execRs_inv, execFws_inv, execWb_inv, execFmiss_inv, execEvc_inv, execFwx_inv, execRx_inv, execMemoryData_inv, execUp_inv,
    execInv_inv, execAck_inv, execGrant_inv, execData_inv]

/-- A move keeps memory canonical: each is the lemma of the event that it performs. -/
theorem State.Inv.make {m} (h : s.Inv) : Out.Inv (s.make m) := by
  cases m with
  | input k =>
    unfold State.make
    dsimp only
    split
    · exact .next h
    · exact .next h
  | bundle => exact execBundleIssue_inv h
  | select => exact execStrandSelect_inv h
  | fetched => exact execFetchArrival_inv h
  | walked => exact execTranslationWalkComplete_inv h
  | watchdog => exact execFreezeWatchdogExpiry_inv h
  | arrive => exact execLandingArrival_inv h
  | store id seq => exact .next (State.Inv.performStore (s := { s with cur := id }) h)
  | response => exact execResponseReturn_inv h
  | retry => exact execNackRetry_inv h
  | fold => exact execCombineFold_inv h
  | copyTrap => exact execCopyTrap_inv h
  | spill => exact execResidualSpill_inv h
  | fill => exact execResidualFill_inv h
  | results => exact execResultLatchLanding_inv h
  | shadow => exact execFmtShadowExpiry_inv h
  | start => exact execEngineOpStart_inv h
  | advance core unit n =>
    refine .next ?_
    split
    · exact h.mxAdvance
    · exact h.xfAdvance
    · exact h.copyAdvance
  | finish => exact execTokenComplete_inv h
  | row => exact .next h
  | broadcast => exact execBroadcastStart_inv h
  | helper => exact .next h
  | unstall => exact execHelperStallEnd_inv h
  | publish => exact execSldSectorPublish_inv h
  | helperStore => exact .next h.performHelper
  | seat => exact execTaskAdmit_inv h
  | preempt => exact execPreemption_inv h
  | restore => exact execRestore_inv h
  | retire => exact execTaskEnd_inv h
  | merge => exact execMerge_inv h
  | rerun => exact execOrderedRerun_inv h
  | commit => exact execOrderedCommit_inv h
  | fetch => exact execRecordFetch_inv h
  | refetch => exact execRecordRefetch_inv h
  | dispatch => exact execGroupDispatch_inv h
  | message => exact h.deliver
  | evict => exact execL2Eviction_inv h
  | free => exact execSegmentFree_inv h
  | window => exact execReplicationWindowEnd_inv h
  | reread => exact execEndpointReread_inv h
  | inval => exact execInvalComplete_inv h
  | traceFreeze => exact execTraceFreeze_inv h
  | islandIn => exact execIslandEntry_inv h
  | islandOut => exact execIslandExit_inv h

/-! ### Turns and steps (Machine/Turns.lean) -/

theorem State.Inv.onTask {id} (h : s.Inv) : (s.onTask id).Inv := h

theorem State.Inv.runSlot {id} (h : s.Inv) : Out.Inv (s.runSlot id) := by
  have hid : (s.onTask id).Inv := h.onTask
  unfold State.runSlot
  dsimp only
  split
  · exact .next hid.endBundle
  · exact .next hid.commit
  · exact .next hid.raise
  split
  · exact exec_inv hid
  split
  · exact hid.syncWalk.replaySlot ‹_›
  · exact exec_inv hid.syncWalk

theorem State.Inv.onHelper {core setter} (h : s.Inv) : (s.onHelper core setter).Inv := h

theorem State.Inv.runHelper {core setter} (h : s.Inv) : Out.Inv (s.runHelper core setter) := by
  unfold State.runHelper
  grind [exec_inv, helperTrap, onHelper]

theorem State.Inv.runRow {core} (h : s.Inv) : Out.Inv (s.runRow core) := by
  unfold State.runRow
  grind [State.Inv, Out.Inv, anBad, exec_inv]

theorem State.Inv.runTurn {t} (h : s.Inv) : Out.Inv (s.runTurn t) := by
  cases t with
  | slot => exact h.runSlot
  | helper => exact h.runHelper
  | anchor => exact h.runRow
  | event i => exact exec_inv (s := { s with turn := none }) h

theorem State.Inv.runMove (h : s.Inv) : Out.Inv s.runMove := by
  unfold State.runMove
  dsimp only
  split
  · exact State.Inv.make (s := { s with free := s.free + 1 }) h
  · exact .next h

theorem afterStep_inv {o : Out} (ho : Out.Inv o) : Out.Inv (afterStep o) := by
  cases o with
  | next s => exact .next (ho s rfl).wake.endHolds
  | _ => exact ho

theorem step_inv (h : s.Inv) : Out.Inv (step s) := by
  unfold step
  split
  · split
    · exact afterStep_inv h.runTurn
    · exact fun _ e => nomatch e
  · exact afterStep_inv h.runMove

/-- Settles O50: a step is a turn or a move, and every turn and every move keeps memory canonical. -/
theorem stepKeepsInv : Obligations.StepKeepsInv := by
  unfold Obligations.StepKeepsInv
  exact fun _ t h e => step_inv h t e

end Sys2Proof.Machine
end

section
/-! The rules that every slot form shares, obligation O1: a false guard, an illegal source, a second trigger of a unit, and a source that
faults or waits (R120, R136, R137, R139, R140, R181). -/

namespace Sys2Proof.Machine

open Host

/-- A form with a trigger unit is a slot form of that unit, whose trigger port gives the move's class. -/
theorem slotForm_of_moveOf {i : Instr} {m : Mv} {d : Option WClass} {u : Nat} (move : moveOf i = some (m, d)) (unit : unitOf i = some u) :
    ∃ p sub, slotForm i = some (u, p, sub, m) ∧ d = some (trigClass u p sub) := by
  obtain ⟨⟨_, p, sub, m'⟩, form, rfl⟩ := Option.map_eq_some_iff.1 unit
  obtain ⟨rfl, rfl⟩ : m' = m ∧ some (trigClass _ p sub) = d := by simpa [moveOf, form] using move
  exact ⟨p, sub, form, rfl⟩

section
variable {s : State} {i : Instr} {m : Mv} {d : Option WClass}

/-- Whatever the form, a slot whose guard is false only commits (R137). -/
theorem exec_guardFalse (move : moveOf i = some (m, d)) (legal : s.srcIllegal m.src d = false) (guard : s.t.guardHolds m.guard = false) :
    exec i s = .next s.commit := by
  obtain ⟨f, busy, -, run⟩ := exec_slotRun i m d move
  exact (run s).trans (slotRun_guard legal guard f _)

/-- Whatever the form, an illegal landing source raises the illegal-slot trap (R140 check 5). -/
theorem exec_srcIllegal (move : moveOf i = some (m, d)) (illegal : s.srcIllegal m.src d = true) : exec i s = .next (s.raise 1 2 0) := by
  obtain ⟨f, busy, -, run⟩ := exec_slotRun i m d move
  exact (run s).trans (slotRun_illegal illegal f _)

/-- A second trigger of a unit raises the illegal-slot trap, but for a br.prep to the right of a go or a call (R120, R181). -/
theorem exec_usedUnit {u : Nat} (move : moveOf i = some (m, d)) (unit : unitOf i = some u) (legal : s.srcIllegal m.src d = false)
    (guard : s.t.guardHolds m.guard = true) (used : s.unitUsed u = true) (late : isPrep i = true → s.t.cur.goB = none) :
    exec i s = .next (s.raise 1 2 0) := by
  obtain ⟨p, sub, form, rfl⟩ := slotForm_of_moveOf move unit
  obtain ⟨f, busy, twice, -, run⟩ := exec_slotTrig i u p sub m form
  exact (run s).trans (slotTrig_twice legal guard busy (twice s used late) f)

/-- Only br.prep may follow a go or a call in its bundle (R181). -/
theorem isPrep_eq_true_iff : isPrep i = true ↔ ∃ n m', i = .brPrep n m' := by
  constructor
  · intro h
    cases i <;> simp [isPrep] at h
    exact ⟨_, _, rfl⟩
  · rintro ⟨n, m', rfl⟩
    rfl

end

/-- Outside a walk an operation that waits ends the strand's block (R29). -/
theorem block_out {s : State} (walk : s.t.inWalk = none) (h : Head) : (Eff.block s h).out = .next (s.endBlock h) := by
  simp [Eff.out, walk]

/-- Settles O1: every slot form is `slotRun` on its move, and the four clauses are what `slotRun` does when the guard is false, the unit is
used, the source is illegal, or the source faults or waits. -/
theorem slotRules : Obligations.SlotRules := by
  unfold Obligations.SlotRules
  refine ⟨fun s i m d => exec_guardFalse, fun s i m d u move unit legal guard used late => ?used, fun s i m d => exec_srcIllegal,
    fun s i m d cls code info move legal guard unheld => ?source⟩
  case used =>
    refine exec_usedUnit move unit legal guard used fun prep => ?_
    obtain ⟨n, m', hi⟩ := isPrep_eq_true_iff.1 prep
    exact late.resolve_right fun h => h n m' hi
  case source =>
    obtain ⟨f, busy, free, run⟩ := exec_slotRun i m d move
    have notBusy := free s unheld
    refine ⟨fun noQueue trap => ?direct, fun q off s1 src settled trap => ?queue, fun q off s1 src settles walk pending => ?wait⟩
    case direct => exact (run s).trans (slotRun_trap legal guard noQueue trap f _ notBusy)
    case queue => exact (run s).trans (slotRun_trap_queue src legal guard settled trap f _ notBusy)
    case wait =>
      subst settles
      exact ((run s).trans (slotRun_wait_queue src legal guard pending f _ notBusy)).trans (block_out walk _)

end Sys2Proof.Machine
end

section
/-! Decoding and steps, obligations O52 and O53: the words of a few instructions, and what a step runs of the bytes that its turn's agent
fetches (R134, R138, R139, R243, R307, R367, assumption 2). -/

namespace Sys2Proof.Machine

open Host

/-- Settles O52: the decoder computes each of the words. -/
theorem decodeWords : Obligations.DecodeWords := by
  unfold Obligations.DecodeWords
  decide

/-! ### The turn of a step -/

/-- A step takes the turn of an agent that exists, then the sync sites look at their waits. -/
theorem step_turn {s : State} {t : Turn} (turn : s.turn = some t) (agent : s.hasAgent t = true) : step s = afterStep (s.runTurn t) := by
  simp only [step, turn, agent, if_true]

/-! ### A slot of a strand's bundle (R139, R140) -/

section
variable {s : State} {w : BitVec 256} {b : Bundle}

/-- After the last slot the bundle ends. -/
theorem nextSlot_last (last : 5 ≤ s.t.slot) : s.nextSlot = .finish := if_pos last

/-- A literal is passed over. -/
theorem nextSlot_lit (word : s.t.cur.word = some w) (bundle : decodeBundle w = some b) (slot : s.t.slot < 5)
    (lit : b.isLit s.t.slot = true) : s.nextSlot = .skip := by
  simp [State.nextSlot, word, bundle, lit, slot]

/-- A slot that decodes runs its instruction. -/
theorem nextSlot_ok {i : Instr} (word : s.t.cur.word = some w) (bundle : decodeBundle w = some b) (slot : s.t.slot < 5)
    (lit : b.isLit s.t.slot = false) (ok : b.decode s.t.slot = .ok i) : s.nextSlot = .run i := by
  simp [State.nextSlot, word, bundle, lit, slot, ok]

/-- The code of the trap of class 1 that a slot's encoding raises (R140, R401). -/
def slotTrapCode (e : SlotErr) : Nat := match e with | .slot => 2 | .port => 3 | .type => 4

/-- A slot that does not decode raises the trap of its encoding. -/
theorem nextSlot_error {e : SlotErr} (word : s.t.cur.word = some w) (bundle : decodeBundle w = some b) (slot : s.t.slot < 5)
    (lit : b.isLit s.t.slot = false) (error : b.decode s.t.slot = .error e) : s.nextSlot = .bad (slotTrapCode e) := by
  cases e <;> simp [State.nextSlot, word, bundle, lit, slot, error, slotTrapCode]

end

section
variable {s : State} {id : Nat} {i : Instr}

/-- A bundle whose slots are done ends. -/
theorem runSlot_finish (next : (s.onTask id).nextSlot = .finish) : s.runSlot id = .next (s.onTask id).endBundle := by
  simp only [State.runSlot, next]

/-- A literal commits as a slot of its own. -/
theorem runSlot_skip (next : (s.onTask id).nextSlot = .skip) : s.runSlot id = .next (s.onTask id).commit := by
  simp only [State.runSlot, next]

/-- A slot whose encoding is refused traps. -/
theorem runSlot_bad {code : Nat} (next : (s.onTask id).nextSlot = .bad code) :
    s.runSlot id = .next ((s.onTask id).raise 1 code 0) := by
  simp only [State.runSlot, next]

/-- Outside a walk an instruction has its own meaning. -/
theorem runSlot_run (next : (s.onTask id).nextSlot = .run i) (walk : (s.onTask id).t.inWalk = none) :
    s.runSlot id = exec i (s.onTask id) := by
  simp only [State.runSlot, next, walk, Option.isNone_none, if_true]

/-- In a replay an instruction has the meaning that the replay gives it, or its own (R367). -/
theorem runSlot_replay (next : (s.onTask id).nextSlot = .run i) (walk : (s.onTask id).t.inWalk.isSome = true) :
    s.runSlot id = (((s.onTask id).syncWalk.replaySlot i).getD (exec i (s.onTask id).syncWalk)) := by
  have inside : (s.onTask id).t.inWalk.isNone = false := by simpa using walk
  simp only [State.runSlot, next, inside, Bool.false_eq_true, if_false]
  cases (s.onTask id).syncWalk.replaySlot i <;> rfl

end

/-! ### An instruction of a helper (R307, R309, R310) -/

section
variable {s : State} {lo hi : Nat} {i : Instr}

/-- A parcel whose low bits are not 3 is a compressed instruction. -/
theorem helperFetch_short (first : s.helperParcel s.h.pc = some lo) (short : lo % 4 ≠ 3)
    (ok : decodeRv16 (BitVec.ofNat 16 lo) = some i) : s.helperFetch = .op i := by
  simp [State.helperFetch, first, short, ok]

/-- A parcel whose low bits are 3 is an instruction with the parcel after it. -/
theorem helperFetch_long (first : s.helperParcel s.h.pc = some lo) (long : lo % 4 = 3)
    (second : s.helperParcel (s.h.pc + 2) = some hi) (ok : decodeHelper (BitVec.ofNat 32 (lo + hi * 65536)) = some i) :
    s.helperFetch = .op i := by
  simp only [State.helperFetch, first, long, second, ok, ne_eq, not_true, if_false]

/-- Without a first parcel the fetch is an access fault. -/
theorem helperFetch_none (first : s.helperParcel s.h.pc = none) : s.helperFetch = .access := by
  simp [State.helperFetch, first]

/-- A helper runs the instruction that it fetches. -/
theorem runHelper_op {core : Nat} {setter : Bool} (fetch : (s.onHelper core setter).helperFetch = .op i) :
    s.runHelper core setter = exec i (s.onHelper core setter) := by
  simp only [State.runHelper, fetch]

/-- A fetch that faults stops the helper with cause 1. -/
theorem runHelper_access {core : Nat} {setter : Bool} (fetch : (s.onHelper core setter).helperFetch = .access) :
    s.runHelper core setter = (s.onHelper core setter).helperTrap 1 := by
  simp only [State.runHelper, fetch]

/-- A parcel of the helper's own store (R308). -/
theorem helperParcel_store {a : Word} (inside : a.toNat + 2 ≤ 0x8000) :
    s.helperParcel a = some (ofBytes (Memory.read s.h.store a.toNat 2)) := by
  simp only [State.helperParcel, helperAddr, inside, if_true]

/-- A parcel of the core's local store (R308). -/
theorem helperParcel_local {off : Nat} (inside : off + 2 ≤ 0x80000) (clean : s.bad (coreWin s.core off) 2 = false) :
    s.helperParcel (wd (0x100000 + off)) = some (s.rdN (coreWin s.core off) 2) := by
  have addr : (wd (0x100000 + off)).toNat = 0x100000 + off := by
    simp only [wd, BitVec.toNat_ofNat]
    omega
  have place : helperAddr (wd (0x100000 + off)) 2 = some (false, off) := by
    simp only [helperAddr, addr]
    rw [if_neg (by omega), if_pos (by omega), Nat.add_sub_cancel_left]
  simp only [State.helperParcel, place, clean, Bool.false_eq_true, if_false]

end

/-! ### A word of an anchor row (R243, R244) and the moves -/

/-- The next word of a row runs as it decodes. -/
theorem runRow_ok {s : State} {core : Nat} {r : ARow} {i : Instr} (row : (s.coreAt core).row = some r)
    (ok : decodeAnchor (BitVec.ofNat 32 ((s.coreAt core).prog.get r.word 0)) = some i) :
    s.runRow core = exec i { s with core := core } := by
  have fetch : State.anFetch { s with core := core } core = BitVec.ofNat 32 ((s.coreAt core).prog.get r.word 0) := by
    show (match (s.coreAt core).row with | some r => BitVec.ofNat 32 ((s.coreAt core).prog.get r.word 0) | none => 0) = _
    rw [row]
  simp only [State.runRow, fetch, ok]

/-- Where no move is offered, nothing happens. -/
theorem runMove_none {s : State} (quiet : s.moves = []) : s.runMove = .next s := by
  simp [State.runMove, quiet]

/-- Settles O53: a step is its turn's, and what a turn runs is what its agent's bytes decode to, agent by agent. -/
theorem stepRunsDecoded : Obligations.StepRunsDecoded := by
  unfold Obligations.StepRunsDecoded
  intro s
  refine ⟨fun id w b turn task word bundle within => ?slot, fun core x turn agent => ?helper, fun core r i turn agent row ok => ?anchor,
    fun i turn => step_turn turn rfl, fun turn quiet => ?move⟩
  case slot =>
    have run : step s = afterStep (s.runSlot id) := step_turn turn task
    refine ⟨fun i slot walk lit ok => ?_, fun i slot walk lit ok => ?_, fun slot lit => ?_, fun slot lit error => ?_,
      fun slot lit error => ?_, fun slot lit error => ?_, fun last => ?_⟩
    · exact run.trans (congrArg afterStep (runSlot_run (nextSlot_ok word bundle slot lit ok) walk))
    · exact run.trans (congrArg afterStep (runSlot_replay (nextSlot_ok word bundle slot lit ok) walk))
    · exact run.trans (congrArg afterStep (runSlot_skip (nextSlot_lit word bundle slot lit)))
    · exact run.trans (congrArg afterStep (runSlot_bad (nextSlot_error word bundle slot lit error)))
    · exact run.trans (congrArg afterStep (runSlot_bad (nextSlot_error word bundle slot lit error)))
    · exact run.trans (congrArg afterStep (runSlot_bad (nextSlot_error word bundle slot lit error)))
    · exact run.trans (congrArg afterStep (runSlot_finish (nextSlot_last last.ge)))
  case helper =>
    have run : step s = afterStep (s.runHelper core x) := step_turn turn agent
    refine ⟨fun i lo first short ok => ?_, fun i lo hi first long second ok => ?_, fun first => ?_, fun a => helperParcel_store,
      fun off => helperParcel_local⟩
    · exact run.trans (congrArg afterStep (runHelper_op (helperFetch_short first short ok)))
    · exact run.trans (congrArg afterStep (runHelper_op (helperFetch_long first long second ok)))
    · exact run.trans (congrArg afterStep (runHelper_access (helperFetch_none first)))
  case anchor => exact (step_turn turn agent).trans (congrArg afterStep (runRow_ok row ok))
  case move =>
    have run : step s = afterStep s.runMove := by simp only [step, turn]
    exact run.trans (congrArg afterStep (runMove_none quiet))

end Sys2Proof.Machine
end

section
/-! The frame of the register forms, obligation O54: every form of sa, sb, sm, ag, va, vb and vx that completes adds results in flight to
its task, and changes nothing else but the occupation of sm and the draws (R55, R117, R121, R127, R168-R170, R175, R200). -/

namespace Sys2Proof.Machine

open Host Arith

/-! ### A trap ends its turn -/

/-- Writing held messages to an endpoint's ring leaves the turn (R444). -/
theorem State.flushOut_turn (s : State) (die ep n : Nat) : (s.flushOut die ep n).turn = s.turn := by
  induction n generalizing s with
  | zero => rfl
  | succ n ih =>
    unfold State.flushOut
    dsimp only
    split
    · rfl
    · split
      · exact ih _
      · rfl

/-- A suspended strand's turn is over (R408). -/
theorem State.suspend_turn (s : State) (cls code : Nat) (info : Word) : (s.suspend cls code info).turn = none :=
  State.flushOut_turn _ _ _ _

/-- A trap ends the turn of its slot, whichever route it takes (R401). -/
theorem State.raise_turn (s : State) (cls code : Nat) (info : Word) : (s.raise cls code info).turn = none := by
  unfold State.raise
  split
  · split
    · exact s.suspend_turn _ _ _
    · split
      · exact s.suspend_turn _ _ _
      · rfl
  · exact s.suspend_turn _ _ _

/-- An operation that does not complete ends the turn of its slot. -/
theorem Eff.out_turn {e : Eff} {t : State} (out : e.out = .next t) (stops : ∀ s, e ≠ .done s) : t.turn = none := by
  cases e with
  | done s => exact absurd rfl (stops s)
  | trap s cls code info =>
    cases out
    exact s.raise_turn _ _ _
  | block s h =>
    cases out
    split <;> rfl
  | stay s =>
    cases out
    rfl

/-! ### What a register form changes -/

/-- A task without what a register form may change: its results in flight (R127), the occupation of sm (R175) and its generators (R77). -/
def Task.withoutResults (t : Task) : Task := { t with bank := { t.bank with flight := [], smFree := 0 }, gens := [] }

@[simp] theorem Task.withoutResults_result (t : Task) (u lat : Nat) (h pair : Bool) (x : Val) (fl : Flags) :
    (t.result u h lat x fl pair).withoutResults = t.withoutResults := rfl

@[simp] theorem Task.withoutResults_resultK (t : Task) (u lat k : Nat) (x : Bool) :
    (t.resultK u lat x k).withoutResults = t.withoutResults := rfl

@[simp] theorem Task.withoutResults_smFree (t : Task) (n : Nat) :
    Task.withoutResults { t with bank := { t.bank with smFree := n } } = t.withoutResults := rfl

@[simp] theorem Task.withoutResults_drawn (t : Task) (lanes : List Nat) : (t.drawn lanes).withoutResults = t.withoutResults := by
  unfold Task.drawn
  split <;> rfl

/-- An operation that, if it completes, leaves a state with results of the current task and no other change. -/
def RegisterEff (s : State) (e : Eff) : Prop :=
  ∀ s', e = .done s' → ∃ t, s' = s.setT t ∧ t.withoutResults = s.t.withoutResults

/-- The outcome of a register form of a unit on a move: if the slot ends without a trap, the move having delivered in a state outside a
recording block, that state has got results of the current task, and the slot has ended. -/
def RegisterOut (s0 : State) (u : Nat) (m : Mv) (d : WClass) (o : Out) : Prop :=
  ∀ s c x t, Delivers s0 m (some d) s c x → s.t.recording = false → s.turn.isSome = true → o = .next t → t.turn = s.turn →
    ∃ r, t = s.ends u r ∧ r.withoutResults = s.t.withoutResults

section
variable {s : State}

/-- The current task takes results and nothing else. -/
theorem registerEff_done {t : Task} (same : t.withoutResults = s.t.withoutResults) : RegisterEff s (.done (s.setT t)) := by
  rintro _ ⟨⟩
  exact ⟨t, rfl, same⟩

theorem registerEff_trap {s' : State} {cls code : Nat} {info : Word} : RegisterEff s (.trap s' cls code info) := fun _ e => Eff.noConfusion e

theorem registerEff_ite {p : Prop} [Decidable p] {a b : Eff} (yes : RegisterEff s a) (no : RegisterEff s b) :
    RegisterEff s (if p then a else b) := by
  split
  · exact yes
  · exact no

/-- An FP trap leaves no result, and without it the operation's own effect happens (R60). -/
theorem registerEff_fpGuard {f : Flags} {ok : State → Eff} (completes : RegisterEff s (ok s)) : RegisterEff s (fpGuard s f ok) :=
  registerEff_ite registerEff_trap completes

/-- Outside a recording block a trigger records nothing (R362). -/
theorem recorded_plain {items : List (Nat × List Byte)} {ok : List Nat → State → Eff} (plain : s.t.recording = false) :
    s.recorded items ok = ok [] s := by
  simp [State.recorded, plain]

/-- A vector form whose flags take no FP trap leaves its draws and its result (R202, R203). -/
theorem registerEff_vecDone {u lat : Nat} {h : Bool} {o : Val} {fl : Flags} {drew : List Nat} {items : List (Nat × List Byte)}
    (plain : s.t.recording = false) : RegisterEff s (vecDone s u lat h o fl drew items) := by
  refine registerEff_fpGuard ?_
  rw [recorded_plain plain]
  exact registerEff_done (by simp)

theorem registerEff_pairsDone {ty : ElemType} {lat : Nat} {l : List (Nat × Nat)} : RegisterEff s (pairsDone ty lat l s) :=
  registerEff_done (by simp)

end

/-! ### The forms of the shared operations -/

section
variable {s : State} {d : WClass} {m : Mv}

/-- A form whose operation only adds results, under the frame of a slot: it completes there, or its turn is over. -/
theorem registerOut_slotTrig {u : Nat} {k : WClass} {f : Val → State → Eff} {busy : State → Bool} (cls : k = d)
    (results : ∀ v s, s.t.recording = false → RegisterEff s (f v s)) : RegisterOut s u m k (slotTrig u m d f s busy) := by
  subst cls
  intro s1 c x t delivers plain turn out same
  have running : t.turn ≠ none := by
    rw [same]
    exact Option.isSome_iff_ne_none.1 turn
  cases free : busy s with
  | true =>
    obtain ⟨legal, guard, -, -⟩ := delivers
    rw [slotTrig_twice legal guard busy free] at out
    cases out
    exact absurd (s.raise_turn _ _ _) running
  | false =>
    have out := (slotRun_delivers delivers _ _ free).symm.trans out
    unfold trigEff at out
    cases e : f (convertVal x k) s1 with
    | done s2 =>
      obtain ⟨r, rfl, kept⟩ := results _ _ plain _ e
      rw [e] at out
      cases out
      exact ⟨r, State.useUnit_commit _ _, kept⟩
    | trap | block | stay =>
      rw [e] at out
      exact absurd (Eff.out_turn out fun _ e => Eff.noConfusion e) running

theorem registerOut_trigW {u : Nat} {k : WClass} {f : Word → State → Eff} {busy : State → Bool} (cls : k = .S)
    (results : ∀ x s, RegisterEff s (f x s)) : RegisterOut s u m k (trigW u m f s busy) :=
  registerOut_slotTrig cls fun _ _ _ => results _ _

theorem registerOut_scalarOp {u : Nat} {k : WClass} {f : Word → Word → Word → Word} (cls : k = .S) :
    RegisterOut s u m k (scalarOp u m f s) :=
  registerOut_trigW cls fun _ _ => registerEff_done rfl

theorem registerOut_smMulOp {f : Word → Word → Word} : RegisterOut s 3 m .S (smMulOp m f s) := by
  unfold smMulOp smOp
  exact registerOut_trigW rfl fun _ _ => registerEff_done rfl

theorem registerOut_smDivOp {rem : Bool} {f : Word → Word → Word × Word} : RegisterOut s 3 m .S (smDivOp rem m f s) := by
  unfold smDivOp smOp
  exact registerOut_trigW rfl fun _ _ => registerEff_fpGuard (registerEff_done (by cases rem <;> simp))

theorem registerOut_agOp {f : Word → Word → Word → Word → Word} : RegisterOut s 4 m .S (agOp m f s) :=
  registerOut_trigW rfl fun _ _ => registerEff_done rfl

theorem registerOut_vaForm {b : Bool} {ty : ElemType} {f : VIn → Nat → LaneRes} {items : VIn → Lanes → List (Nat × List Byte)}
    {k : WClass} (cls : k = vecClass ty) : RegisterOut s (vaUnit b) m k (vaForm b ty m f items s) :=
  registerOut_slotTrig cls fun _ _ => registerEff_vecDone

theorem registerOut_vaArith {b : Bool} {ty : ElemType} {ff : Env → Ex → Ex → RRes} {fi : Int → Int → Int}
    {items : VIn → Lanes → List (Nat × List Byte)} {k : WClass} (cls : k = vecClass ty) :
    RegisterOut s (vaUnit b) m k (vaArith b ty m ff fi items s) := registerOut_vaForm cls

theorem registerOut_vaFused {negP negC b : Bool} {ty : ElemType} {k : WClass} (cls : k = vecClass ty) :
    RegisterOut s (vaUnit b) m k (vaFused negP negC b ty m s) := registerOut_vaForm cls

theorem registerOut_vaExtreme {isMax b : Bool} {ty : ElemType} {k : WClass} (cls : k = vecClass ty) :
    RegisterOut s (vaUnit b) m k (vaExtreme isMax b ty m s) := registerOut_vaForm cls

theorem registerOut_vaFun {f : Env → Ex → RRes} {items : VIn → Lanes → List (Nat × List Byte)} {b : Bool} {ty : ElemType}
    {k : WClass} (cls : k = vecClass ty) : RegisterOut s (vaUnit b) m k (vaFun f items b ty m s) := registerOut_vaForm cls

theorem registerOut_vaBits {f : Nat → Nat → Nat} {b : Bool} {ty : ElemType} {k : WClass} (cls : k = vecClass ty) :
    RegisterOut s (vaUnit b) m k (vaBits f b ty m s) := registerOut_vaForm cls

theorem registerOut_vxPermute {ty : ElemType} {f : VIn → Nat → Nat} {items : VIn → List (Nat × List Byte)}
    {k : WClass} (cls : k = vecClass ty) : RegisterOut s 10 m k (vxPermute ty m f items s) :=
  registerOut_slotTrig cls fun _ _ => registerEff_vecDone

/-! ### The forms with operations of their own -/

theorem registerOut_vaCvt {b : Bool} {ty : ElemType} {k : WClass} (cls : k = vecClass ty) :
    RegisterOut s (vaUnit b) m k (execVaCvt b ty m s) := by
  refine registerOut_slotTrig cls fun _ _ plain => registerEff_ite registerEff_trap ?_
  split
  · exact registerEff_trap
  · exact registerEff_ite registerEff_trap (registerEff_vecDone plain)

theorem registerOut_vxCompact {ty : ElemType} {k : WClass} (cls : k = vecClass ty) : RegisterOut s 10 m k (execVxCompact ty m s) := by
  refine registerOut_slotTrig cls fun _ _ plain => ?_
  rw [recorded_plain plain]
  exact registerEff_done (by simp)

end

/-- Every form of sa, sb, sm, ag, va, vb and vx only adds results: each arm is the lemma of the operation that `exec` sends it to. -/
theorem exec_registerOut (s : State) (i : Instr) {u p sub : Nat} {m : Mv} (form : slotForm i = some (u, p, sub, m))
    (unit : u ∈ [1, 2, 3, 4, 8, 9, 10]) : RegisterOut s u m (trigClass u p sub) (exec i s) := by
  unfold exec
  cases i <;> cases form
  case saAdd | saSub | saRsub | saAddw | saSubw | saShladd | saAnd | saOr | saXor | saAndn | saOrn | saShl | saShr | saSar | saRol |
      saRor | saSeq | saSne | saSlt | saSle | saSltn | saSlen | saMin | saMax | saMinn | saMaxn | saSel | saClz | saCtz | saPopc |
      saBswap | saSext | saZext | saBfx | saBfi => exact registerOut_scalarOp (trigClass_sa _ _ _)
  case saSetk => exact registerOut_trigW (trigClass_sa _ _ _) fun _ _ => registerEff_done rfl
  case smMul | smMulh | smMulhn | smMulw => exact registerOut_smMulOp
  case smDiv | smDivn | smRem | smRemn => exact registerOut_smDivOp
  case agA2d | agSidx => exact registerOut_agOp
  case agTaddr => exact registerOut_trigW rfl fun _ _ => registerEff_ite registerEff_trap (registerEff_done rfl)
  case agBchk => exact registerOut_trigW rfl fun _ _ => registerEff_done rfl
  case agDpack => exact registerOut_trigW rfl fun _ _ => registerEff_done (by simp)
  case vaAdd | vaSub | vaMul => exact registerOut_vaArith (trigClass_va _ _ _)
  case vaFma | vaFms | vaFnma => exact registerOut_vaFused (trigClass_va _ _ _)
  case vaMin | vaMax => exact registerOut_vaExtreme (trigClass_va _ _ _)
  case vaRcp | vaRsqrt | vaSqrt | vaExp2 | vaLog2 => exact registerOut_vaFun (trigClass_va _ _ _)
  case vaAnd | vaOr | vaXor | vaShl | vaShr | vaSar => exact registerOut_vaBits (trigClass_va _ _ _)
  case vaAbs | vaNeg | vaMulh | vaClz | vaPopc | vaAdds | vaSubs => exact registerOut_vaForm (trigClass_va _ _ _)
  case vaRnd | vaSel => exact registerOut_slotTrig (trigClass_va _ _ _) fun _ _ => registerEff_vecDone
  case vaCmp =>
    exact registerOut_slotTrig (trigClass_va _ _ _) fun _ _ plain => registerEff_ite registerEff_trap (registerEff_vecDone plain)
  case vaCvt => exact registerOut_vaCvt (trigClass_va _ _ _)
  case vxPerm | vxBcast | vxRot | vxLidx => exact registerOut_vxPermute (trigClass_vx _ _)
  case vxExpand => exact registerOut_slotTrig (trigClass_vx _ _) fun _ _ => registerEff_vecDone
  case vxRed | vxScan | vxTrstep =>
    exact registerOut_slotTrig (trigClass_vx _ _) fun _ _ plain => registerEff_ite registerEff_trap (registerEff_vecDone plain)
  case vxCompact => exact registerOut_vxCompact (trigClass_vx _ _)
  case vxMerge => exact registerOut_slotTrig (trigClass_vx _ _) fun _ _ _ => registerEff_ite registerEff_trap registerEff_pairsDone
  case vxSort64 => exact registerOut_slotTrig (trigClass_vx _ _) fun _ _ _ => registerEff_pairsDone
  all_goals exact absurd unit (by decide)

/-- The end of a slot changes the current task alone. -/
theorem onlyTask_ends (s : State) (u : Nat) (r : Task) : OnlyTask s (s.ends u r) := by
  refine ⟨rfl, fun id other => ?_⟩
  rw [State.ends, State.slotEnds, State.setT_setT]
  exact State.task_setT_ne s id _ other

/-- The task that the end of a slot leaves. -/
theorem t_ends (s : State) (u : Nat) (r : Task) :
    (s.ends u r).t = { r with cur := { r.cur with used := u :: r.cur.used }, slot := r.slot + 1 } := by
  simp [State.ends, State.slotEnds]

/-- Settles O54: a form that completes leaves its task as it was outside its results, and every field of the frame lies there. -/
theorem registerFormFrame : Obligations.RegisterFormFrame := by
  unfold Obligations.RegisterFormFrame
  intro s0 s t i u p sub m c x form unit delivers plain turn out same
  obtain ⟨r, rfl, kept⟩ := exec_registerOut s0 i form unit s c x t delivers plain turn out same
  refine ⟨onlyTask_ends s u r, fun _ => rfl, ?_⟩
  rw [t_ends]
  have field {α : Type} (f : Task → α) : f r.withoutResults = f s.t.withoutResults := congrArg f kept
  exact ⟨field (·.g), field (·.v), field (·.m), field (·.k), field (·.ctl), field (·.toks), field (·.stores), field (·.held),
    field (·.pc), field (·.sys), field (·.clock), field (·.bank.b), field (·.bank.lc), field (·.bank.le), field (·.bank.latch),
    field (·.bank.shadow), field (·.bank.land), congrArg (· + 1) (field (·.slot))⟩

end Sys2Proof.Machine
end

section
/-! The plain moves, obligation O10: what a move writes in a register, a port and null, and at a queue position (R115, R117, R121, R123,
R124, R136, R277). -/

namespace Sys2Proof.Machine

open Host

/-! ### What a register write leaves (R121, R124) -/

/-- The low half of a low half. -/
@[simp] theorem low32_low32 (x : Word) : low32 (low32 x) = low32 x := by
  simp [low32, BitVec.and_assoc]

section
variable (t : Task) (n i : Nat) (x : Word) (l : Lanes)

/-- A general register takes a word, g0 none (R121). -/
theorem Task.writeReg_general : t.writeReg 0 n 0 (.w x) = t.setG n x := rfl

/-- A mask register takes a word. -/
theorem Task.writeReg_mask : t.writeReg 2 n 0 (.w x) = { t with m := t.m.set n x } := rfl

/-- A guard bit takes bit 0 of a word. -/
theorem Task.writeReg_guard : t.writeReg 3 n 0 (.w x) = { t with k := t.k.set n (x.getLsbD 0) } := rfl

/-- A word fills every lane (R123). -/
theorem Task.writeReg_fill : t.writeReg 1 n 0 (.w x) = { t with v := t.v.set n (List.replicate 64 (low32 x)) } := by
  simp [Task.writeReg, convertVal, Val.lanes, lanesV]

/-- A vector register takes the low half of every lane. -/
theorem Task.writeReg_vector : t.writeReg 1 n 0 (.v l) = { t with v := t.v.set n (l.map low32) } := by
  simp [Task.writeReg, convertVal, Val.lanes, lanesV, Function.comp_def]

/-- A pair takes the low halves in its even register, the high ones in its odd register (R124). -/
theorem Task.writeReg_pair : t.writeReg 1 n 1 (.v l) =
    { t with v := (t.v.set n (l.map low32)).set (n + 1) (l.map fun (y : Word) => y >>> 32) } := rfl

/-- A lane of a register takes the low half of a word. -/
theorem Task.writeReg_lane {p : Nat} (part : p = 64 + i) (inside : i < 64) :
    t.writeReg 1 n p (.w x) = { t with v := t.v.set n ((t.vr n).set i (low32 x)) } := by
  subst part
  have single : 64 + i < 128 := by omega
  have whole : 64 + i ≠ 0 ∧ 64 + i ≠ 1 := by omega
  simp only [Task.writeReg, single, whole.1, whole.2, if_false, if_true, Nat.add_sub_cancel_left, Val.word]

/-- A lane of a pair takes both halves of a word. -/
theorem Task.writeReg_pairLane {p : Nat} (part : p = 128 + i) : t.writeReg 1 n p (.w x) =
    { t with v := (t.v.set n ((t.vr n).set i (low32 x))).set (n + 1) ((t.vr (n + 1)).set i (x >>> 32)) } := by
  subst part
  have pair : ¬ 128 + i < 128 := by omega
  have whole : 128 + i ≠ 0 ∧ 128 + i ≠ 1 := by omega
  simp only [Task.writeReg, pair, whole.1, whole.2, if_false, Nat.add_sub_cancel_left, Val.word]

end

/-! ### What a move writes where no recompute block imports (R367) -/

section
variable {s : State} {src : Src} {c : WClass} {v : Val}

/-- No input record is taken of an import. -/
theorem recordImport_noImport (plain : NoImport s) (vals : List (List Byte)) (ok : List Nat → State → Eff) :
    s.recordImport vals ok = ok [] s := by
  unfold State.recordImport
  cases block : s.t.block with
  | none => rfl
  | some b =>
    refine if_neg fun ⟨recomp, mode, body⟩ => ?_
    rcases plain b block with no | no | no
    · simp [no] at recomp
    · exact no mode
    · simp [no] at body

/-- A move into a register other than a mask register is a write of it. -/
theorem moveTo_reg {cl : BitVec 3} {n : BitVec 6} {p : BitVec 9} (plain : NoImport s) (mask : cl ≠ 2) :
    s.moveTo src (.reg cl n p) c v = .done (s.setT (s.t.writeReg cl.toNat n.toNat p.toNat v)) := by
  unfold State.moveTo
  dsimp only
  split
  · exact recordImport_noImport plain _ _
  · rfl

/-- A move into a mask register is traced, then written (21 R484). -/
theorem moveTo_mask {n : BitVec 6} {p : BitVec 9} : s.moveTo src (.reg 2 n p) c v =
    let s' := s.trace 2 s.t.slot 0 v.word
    .done (s'.setT (s'.t.writeReg 2 n.toNat p.toNat v)) := rfl

/-- A move into a port notes how a code input is written, then writes the value in the port's class (R123, R487). -/
theorem moveTo_port {u : BitVec 5} {p : BitVec 4} {pair : Bool} {k : WClass} (cls : Dst.cls (.port u p pair) = some k) :
    s.moveTo src (.port u p pair) c v =
      .done (s.setT ((s.t.noteCode (u.toNat * 16 + p.toNat) (s.t.constSrc src)).setPort u.toNat p.toNat (convertVal v k))) := by
  simp [State.moveTo, State.writeDst, cls]

/-- A move into a queue position whose buffer is there and whose offset is aligned follows the earlier accesses to its bytes (R136, R193). -/
theorem moveTo_queue {q : BitVec 4} {off : BitVec 13} {s1 : State} (aligned : off.toNat % queueWidth c = 0)
    (buffer : (s.queue s.t.core q.toNat).cfg.isSome = true)
    (settled : Settled s (Machine.queueRuns s.t.core (s.queue s.t.core q.toNat) (s.queue s.t.core q.toNat).tail off.toNat (queueWidth c)) s1) :
    s.moveTo src (.queue q off) c v = .done ((s1.setT { s1.t with stored := true }).queueWrite s.t.core (s.queue s.t.core q.toNat)
      (s.queue s.t.core q.toNat).tail off.toNat (valBytes v c)) := by
  have present : (s.queue s.t.core q.toNat).cfg.isNone = false := by simpa using buffer
  simp only [State.moveTo, State.writeDst, aligned, present, ne_eq, not_true_eq_false, if_false, Bool.false_eq_true]
  exact whenOrdered_settled settled _

end

section
variable {s0 s : State} {m : Mv} {c : WClass} {v : Val}

/-- A move that delivers is its write at the destination. -/
theorem exec_move {d : Dst} (delivers : Delivers s0 m (Dst.cls d) s c v) : exec (.move m d) s0 = (s.moveTo m.src d c v).out :=
  slotRun_delivers delivers _

/-- A move that delivers to a register other than a mask register writes it, and its slot commits. -/
theorem exec_move_reg {cl : BitVec 3} {n : BitVec 6} {p : BitVec 9} (delivers : Delivers s0 m (Dst.cls (.reg cl n p)) s c v)
    (plain : NoImport s) (mask : cl ≠ 2) {t : Task} (write : s.t.writeReg cl.toNat n.toNat p.toNat v = t) :
    exec (.move m (.reg cl n p)) s0 = .next (s.setT t).commit := by
  rw [exec_move delivers, moveTo_reg plain mask, write]
  rfl

end

/-! ### The bytes that a class moves to a queue (R123, R5) -/

/-- A number has as many bytes as it is written in. -/
@[simp] theorem toBytes_length (n x : Nat) : (toBytes n x).length = n := by simp [toBytes]

/-- A value has the bytes of its class. -/
theorem valBytes_length {v : Val} {c : WClass} (lanes : c = .V ∨ c = .P → v.lanes.length = 64) : (valBytes v c).length = queueWidth c := by
  cases c with
  | V => simp [valBytes, queueWidth, lanes4, List.length_flatMap, lanes (.inl rfl)]
  | P => simp [valBytes, queueWidth, lanes8, wordsBytes, List.length_flatMap, lanes (.inr rfl)]
  | S | M | N | K => simp [valBytes, queueWidth]

/-- A configured queue's buffer holds its entries. -/
theorem Queue.size_eq {q : Queue} {b e n : Nat} (cfg : q.cfg = some (b, e, n)) : q.cap * q.entry = 2 ^ (e + n) := by
  simp only [Queue.cap, Queue.entry, cfg, Nat.pow_add, Nat.mul_comm]

/-- A state with the tasks of one whose current task was replaced commits the slot of that task. -/
theorem tasks_commit {r s : State} {t : Task} (tasks : r.tasks = (s.setT t).tasks) (cur : r.cur = s.cur) :
    r.commit.tasks = s.tasks.set s.cur { t with slot := t.slot + 1 } := by
  have task : r.t = t := by
    rw [State.t, tasks, cur]
    exact Tab.get_set_self _ _ _ _
  rw [State.commit, task, State.setT, tasks, cur]
  exact Tab.set_set _ _ _ _

/-- Settles O10: a move that delivers is `moveTo` its destination, register by register what `writeReg` leaves, and at a queue position what
`queueWrite` leaves once the earlier accesses are performed. -/
theorem moveForms : Obligations.MoveForms := by
  unfold Obligations.MoveForms
  refine ⟨fun s0 s m d c v delivers plain => ?registers, fun s0 s s1 m q off c v delivers => ?queue⟩
  case registers =>
    intro low gives
    have half : low = low32 := funext fun y => (low32_eq_setWidth y).symm
    clear_value low
    subst half
    refine ⟨?null, ?general, ?zero, ?mask, ?guard, ?fill, ?lane, ?pairLane, ?vector, ?pair, ?port⟩
    case null =>
      rintro rfl
      exact exec_move delivers
    case general =>
      rintro x n rfl rfl nonzero
      have written : s.t.setG n.toNat x = { s.t with g := s.t.g.set n.toNat x } :=
        if_neg fun h => nonzero (BitVec.eq_of_toNat_eq h)
      exact exec_move_reg delivers plain (by decide) ((s.t.writeReg_general n.toNat x).trans written)
    case zero =>
      rintro rfl
      exact exec_move_reg delivers plain (by decide) rfl
    case mask =>
      rintro x n rfl rfl
      exact ⟨_, rfl, (exec_move delivers).trans (congrArg Eff.out moveTo_mask)⟩
    case guard =>
      rintro x n rfl rfl
      exact exec_move_reg delivers plain (by decide) (s.t.writeReg_guard n.toNat x)
    case fill =>
      rintro x n rfl rfl
      exact exec_move_reg delivers plain (by decide) (s.t.writeReg_fill n.toNat x)
    case lane =>
      rintro x n i rfl inside rfl
      have part : (BitVec.ofNat 9 (64 + i)).toNat = 64 + i := by simp only [BitVec.toNat_ofNat]; omega
      exact exec_move_reg delivers plain (by decide) (s.t.writeReg_lane n.toNat i x part inside)
    case pairLane =>
      rintro x n i rfl inside rfl
      have part : (BitVec.ofNat 9 (128 + i)).toNat = 128 + i := by simp only [BitVec.toNat_ofNat]; omega
      exact exec_move_reg delivers plain (by decide) (s.t.writeReg_pairLane n.toNat i x part)
    case vector =>
      rintro l n rfl rfl
      exact exec_move_reg delivers plain (by decide) (s.t.writeReg_vector n.toNat l)
    case pair =>
      rintro l n rfl rfl
      exact exec_move_reg delivers plain (by decide) (s.t.writeReg_pair n.toNat l)
    case port =>
      rintro u p pair k rfl cls
      exact (exec_move delivers).trans (congrArg Eff.out (moveTo_port cls))
  case queue =>
    intro y n core lanes aligned buffer settled
    have width : (valBytes v c).length = n := valBytes_length lanes
    have moved := (exec_move (d := .queue q off) delivers).trans (congrArg Eff.out (moveTo_queue aligned buffer settled))
    obtain ⟨⟨b, e, k⟩, cfg⟩ := Option.isSome_iff_exists.1 buffer
    obtain ⟨tasks, cores, cur, -, other⟩ :=
      (s1.setT { s1.t with stored := true }).queueWrite_frame core y y.tail off.toNat (valBytes v c)
    refine ⟨_, moved, cores, tasks_commit tasks cur, fun fits i hi => ?_, fun a outside => other a (width ▸ outside)⟩
    refine State.queueWrite_get _ core y y.tail off.toNat _ b e k cfg ?_ i (width ▸ hi)
    rw [width, ← Queue.size_eq cfg]
    exact fits

end Sys2Proof.Machine
end

section
/-! SUPPORT. What a form of a word trigger does when it is ready, by what its operation does (R120, R139, R401). -/

namespace Sys2Proof.Machine

open Host

section
variable {s0 s : State} {u : Nat} {m : Mv} {x : Word} {f : Word → State → Eff} {busy : State → Bool}

/-- A ready move's unit has no trigger yet (R120). -/
theorem ReadyW.unused (ready : ReadyW s0 s u m x) : s0.unitUsed u = false := by
  obtain ⟨v, h, -⟩ := ready
  exact h.2

/-- An operation that completes in the state t ends its slot there. -/
theorem trigW_done {t : State} (ready : ReadyW s0 s u m x) (free : busy s0 = false) (done : f x s = .done t) :
    trigW u m f s0 busy = .next (t.slotEnds u) := by
  rw [trigW_ready ready f busy free, done]

/-- An operation that stops with a trap raises it at its slot. -/
theorem trigW_trap {t : State} {cls code : Nat} {info : Word} (ready : ReadyW s0 s u m x) (free : busy s0 = false)
    (trap : f x s = .trap t cls code info) : trigW u m f s0 busy = .next (t.raise cls code info) := by
  rw [trigW_ready ready f busy free, trap]
  rfl

/-- An operation that waits ends the block, outside a walk (R29, R371). -/
theorem trigW_block {t : State} {h : Head} (ready : ReadyW s0 s u m x) (free : busy s0 = false) (block : f x s = .block t h)
    (direct : t.t.inWalk = none) : trigW u m f s0 busy = .next (t.endBlock h) := by
  rw [trigW_ready ready f busy free, block]
  simp [Eff.out, direct]

/-- A trigger of a unit that is not free raises the illegal-slot trap (R120, R401). -/
theorem trigW_busy (ready : ReadyW s0 s u m x) (held : busy s0 = true) : trigW u m f s0 busy = .next (s0.raise 1 2 0) := by
  obtain ⟨v, ⟨⟨c, y, ⟨legal, guard, -, -⟩, -⟩, -⟩, -⟩ := ready
  exact slotTrig_twice legal guard busy held _

end

end Sys2Proof.Machine
end

section
/-! The forms of sa and sb, obligation O2: every result, the fields of bfx and bfi bit by bit, and the comparison of setk (R168-R172). -/

namespace Sys2Proof.Machine

open Host Arith

/-! ### The results in the terms of the table (R170) -/

/-- A shift count is b<5:0>. -/
theorem shiftCount_eq (x : Word) : shiftCount x = x.toNat % 64 := by
  simp [shiftCount, wbits, nbits]

/-- A shift to the left multiplies. -/
theorem shiftLeft_eq_mul_wd (a : Word) (n : Nat) : a <<< n = a * wd (2 ^ n) := by
  refine BitVec.eq_of_toNat_eq ?_
  simp [wd, Nat.shiftLeft_eq]

section
variable (p q y z : Word)

/-- The truth value of an equality. -/
theorem wbool_beq : wbool (p == q) = if p = q then 1 else 0 := if_congr beq_iff_eq rfl rfl

/-- The truth value of an inequality. -/
theorem wbool_bne : wbool (p != q) = if p = q then 0 else 1 := by simp [wbool, bne]

/-- The truth value of a signed ≤. -/
theorem wbool_sle : wbool (p.sle q) = if p.toInt ≤ q.toInt then 1 else 0 := if_congr BitVec.sle_iff_toInt_le rfl rfl

/-- The truth value of a natural ≤. -/
theorem wbool_ule : wbool (p.ule q) = if p.toNat ≤ q.toNat then 1 else 0 := if_congr BitVec.ule_iff_toNat_le rfl rfl

/-- A choice by a signed comparison. -/
theorem ite_slt : (if p.slt q then y else z) = if p.toInt < q.toInt then y else z := if_congr BitVec.slt_iff_toInt_lt rfl rfl

/-- A choice by a natural comparison. -/
theorem ite_ult : (if p.ult q then y else z) = if p.toNat < q.toNat then y else z := if_congr BitVec.ult_iff_toNat_lt rfl rfl

end

/-! ### Fields (R171) -/

/-- A bit of a number as a word. -/
theorem wd_getLsbD (n i : Nat) : (wd n).getLsbD i = (decide (i < 64) && n.testBit i) := BitVec.getLsbD_ofNat 64 n i

/-- A field's mask holds its bits. -/
theorem fieldMask_getLsbD (p l : Nat) {i : Nat} (hi : i < 64) : (fieldMask p l).getLsbD i = decide (p ≤ i ∧ i < p + l) := by
  rw [fieldMask, wd_getLsbD, Nat.testBit_mul_two_pow, Nat.testBit_two_pow_sub_one]
  grind

section
variable (a b c : Word) {i : Nat}

/-- bfx moves the field to bit 0 and clears the rest. -/
theorem bfx_getLsbD (hi : i < 64) :
    (bfx a b).getLsbD i = (decide (i < (fieldOf b).2) && a.getLsbD ((fieldOf b).1 + i)) := by
  simp [bfx, BitVec.getLsbD_and, BitVec.getLsbD_ushiftRight, fieldMask_getLsbD 0 _ hi, Bool.and_comm]

/-- bfi places the low bits of a in the field of c. -/
theorem bfi_getLsbD (hi : i < 64) : (bfi a b c).getLsbD i =
    if (fieldOf b).1 ≤ i ∧ i < (fieldOf b).1 + (fieldOf b).2 then a.getLsbD (i - (fieldOf b).1) else c.getLsbD i := by
  simp only [bfi, BitVec.getLsbD_or, BitVec.getLsbD_and, BitVec.getLsbD_not, BitVec.getLsbD_shiftLeft, fieldMask_getLsbD _ _ hi, hi,
    decide_true, Bool.true_and]
  by_cases field : (fieldOf b).1 ≤ i ∧ i < (fieldOf b).1 + (fieldOf b).2
  · have notBelow : ¬ i < (fieldOf b).1 := by omega
    simp [field, notBelow]
  · simp [field]

/-- setk compares as its condition's number says (R172). -/
theorem setkCond_eq (cond : BitVec 2) : setkCond cond a b =
    if cond = 0 then decide (a = b) else if cond = 1 then decide (a ≠ b)
    else if cond = 2 then decide (a.toInt < b.toInt) else decide (a.toNat < b.toNat) := by
  obtain rfl | rfl | rfl | rfl : cond = 0 ∨ cond = 1 ∨ cond = 2 ∨ cond = 3 := by
    revert cond
    decide
  · rfl
  · exact (decide_not ..).symm
  · rfl
  · rfl

end

section
variable {s0 s : State} {u : Nat} {m : Mv} {x : Word}

/-- A ready scalar form writes its result after one cycle. -/
theorem scalarOp_ready (ready : ReadyW s0 s u m x) {f : Word → Word → Word → Word} {r : Word}
    (value : f (s.t.pw u 2) x (s.t.pw u 4) = r) : scalarOp u m f s0 = .next (s.ends u (s.t.result u false 1 (.w r) 0)) := by
  rw [scalarOp, trigW_done ready ready.unused rfl, value]
  rfl

/-- A ready setk writes its outcome to .o and to its guard bit (R169, R172). -/
theorem execSaSetk_ready {b : Bool} (ready : ReadyW s0 s (saUnit b) m x) (cond : BitVec 2) (k : BitVec 3) : execSaSetk b cond k m s0 =
    .next (s.ends (saUnit b) (s.t.resultK (saUnit b) 1 (setkCond cond (s.t.pw (saUnit b) 2) x) k.toNat)) :=
  trigW_done ready ready.unused rfl

end

/-- Settles O2: every form of the table is one scalar operation, whose function gives what the table says. -/
theorem scalarResults : Obligations.ScalarResults := by
  unfold Obligations.ScalarResults
  refine ⟨fun s0 s b m x w n ready => ?table, fun s0 s b m x ready => ?fields, fun s0 s b m x cond k ready => ?setk⟩
  case table =>
    intro u a c k
    have count : shiftCount x = k := shiftCount_eq x
    have gives {f : Word → Word → Word → Word} {r : Word} := scalarOp_ready (f := f) (r := r) ready
    have shifted {f : Nat → Word} : f (shiftCount x) = f k := congrArg f count
    simp only [List.forall_mem_cons]
    refine ⟨(gives rfl : execSaAdd b m s0 = _), (gives rfl : execSaSub b m s0 = _), (gives rfl : execSaRsub b m s0 = _),
      (gives rfl : execSaAddw b m s0 = _), (gives rfl : execSaSubw b m s0 = _), (gives ?shladd : execSaShladd b n m s0 = _),
      (gives rfl : execSaAnd b m s0 = _), (gives rfl : execSaOr b m s0 = _), (gives rfl : execSaXor b m s0 = _),
      (gives rfl : execSaAndn b m s0 = _), (gives rfl : execSaOrn b m s0 = _), (gives shifted : execSaShl b m s0 = _),
      (gives shifted : execSaShr b m s0 = _), (gives shifted : execSaSar b m s0 = _), (gives shifted : execSaRol b m s0 = _),
      (gives shifted : execSaRor b m s0 = _), (gives (wbool_beq ..) : execSaSeq b m s0 = _),
      (gives (wbool_bne ..) : execSaSne b m s0 = _), (gives (ite_slt ..) : execSaSlt b m s0 = _),
      (gives (wbool_sle ..) : execSaSle b m s0 = _), (gives (ite_ult ..) : execSaSltn b m s0 = _),
      (gives (wbool_ule ..) : execSaSlen b m s0 = _), (gives (ite_slt ..) : execSaMin b m s0 = _),
      (gives (ite_slt ..) : execSaMax b m s0 = _), (gives (ite_ult ..) : execSaMinn b m s0 = _),
      (gives (ite_ult ..) : execSaMaxn b m s0 = _), (gives (ite_not ..) : execSaSel b m s0 = _),
      (gives rfl : execSaClz b m s0 = _), (gives rfl : execSaCtz b m s0 = _), (gives rfl : execSaPopc b m s0 = _),
      (gives rfl : execSaBswap b m s0 = _), (gives rfl : execSaSext b w m s0 = _), (gives rfl : execSaZext b w m s0 = _),
      List.forall_mem_nil _⟩
    case shladd => exact congrArg (· + x) (shiftLeft_eq_mul_wd a _)
  case fields =>
    intro u a c p l
    exact ⟨bfx a x, bfi a x c, (scalarOp_ready ready rfl : execSaBfx b m s0 = _), (scalarOp_ready ready rfl : execSaBfi b m s0 = _),
      fun i hi => ⟨bfx_getLsbD a x hi, bfi_getLsbD a x c hi⟩⟩
  case setk =>
    intro u a out
    have outcome : setkCond cond a x = out := setkCond_eq a x cond
    exact outcome ▸ execSaSetk_ready ready cond k

end Sys2Proof.Machine
end

section
/-! The multiplications and divisions of sm, obligation O3: the high words, the borderline cases of a division, the FP trap of a division by
zero, and a trigger while a division occupies the unit (R60, R173-R175). -/

namespace Sys2Proof.Machine

open Host Arith

/-! ### The results in the terms of the rules (R173, R174) -/

/-- The high half of an integer's 128 bits. -/
theorem highWord_ofInt (p : Int) : (BitVec.ofInt 128 p).extractLsb' 64 64 = BitVec.ofInt 64 (p / 2 ^ 64) := by
  refine BitVec.eq_of_toNat_eq ?_
  simp only [BitVec.extractLsb'_toNat, BitVec.toNat_ofInt, Nat.shiftRight_eq_div_pow]
  omega

/-- The high half of a number's 128 bits. -/
theorem highWord_ofNat (p : Nat) : (BitVec.ofNat 128 p).extractLsb' 64 64 = wd (p / 2 ^ 64) := by
  refine BitVec.eq_of_toNat_eq ?_
  simp only [wd, BitVec.extractLsb'_toNat, BitVec.toNat_ofNat, Nat.shiftRight_eq_div_pow]
  omega

/-- A word is the number that it holds. -/
theorem wd_toNat (x : Word) : wd x.toNat = x := by simp [wd]

section
variable (a b : Word)

/-- The high word of the signed product. -/
theorem mulh_eq : BitVec.ofInt 64 (a.toInt * b.toInt / 2 ^ 64) = (a.signExtend 128 * b.signExtend 128).extractLsb' 64 64 := by
  rw [← highWord_ofInt, BitVec.ofInt_mul]
  rfl

/-- The high word of the natural product. -/
theorem mulhn_eq : wd (a.toNat * b.toNat / 2 ^ 64) = (a.setWidth 128 * b.setWidth 128).extractLsb' 64 64 := by
  rw [← highWord_ofNat, BitVec.ofNat_mul]
  simp

/-- The signed quotient and remainder, with the borderline case of a divisor 0. -/
theorem divS_eq : divS a b = (if b = 0 then -1 else a.sdiv b, if b = 0 then a else a.srem b) := by
  unfold divS
  split <;> rfl

/-- The natural quotient and remainder, with the borderline case of a divisor 0. -/
theorem divN_eq : divN a b = (if b = 0 then -1 else wd (a.toNat / b.toNat), if b = 0 then a else wd (a.toNat % b.toNat)) := by
  have quotient : a / b = wd (a.toNat / b.toNat) := (wd_toNat (a / b)).symm
  have remainder : a % b = wd (a.toNat % b.toNat) := (wd_toNat (a % b)).symm
  unfold divN
  rw [quotient, remainder]
  split <;> rfl

end

/-! ### The forms -/

/-- The flags of a division (R174). -/
def divFlags (b : Word) : Flags := if b = 0 then DZ else 0

/-- DZ is enabled when a flag that it raises is. -/
theorem DZ_and_of_ne_zero : ∀ enables : Flags, DZ &&& enables ≠ 0 → DZ &&& enables = DZ := by decide

/-- An FP trap of DZ reports DZ, raised and enabled (R60, R401). -/
theorem fpInfo_DZ {t : Task} (traps : t.fpTraps DZ = true) : fpInfo DZ t.enables = 0x808 := by
  simp only [Task.fpTraps, Bool.and_eq_true, bne_iff_ne] at traps
  rw [fpInfo, DZ_and_of_ne_zero _ traps.1]
  rfl

section
variable {s0 s : State} {m : Mv} {x : Word} {f : Word → Word → State → Eff}

/-- Nothing holds a sm that no division occupies (R120, R175). -/
theorem ReadyW.smFree (ready : ReadyW s0 s 3 m x) (free : s0.t.bank.smFree ≤ s0.t.now) :
    (s0.unitUsed 3 || decide (s0.t.now < s0.t.bank.smFree)) = false := by
  simp [ready.unused, free]

/-- A ready form of sm that completes ends its slot. -/
theorem smOp_done {t : State} (ready : ReadyW s0 s 3 m x) (free : s0.t.bank.smFree ≤ s0.t.now) (done : f (s.t.pw 3 2) x s = .done t) :
    smOp m f s0 = .next (t.slotEnds 3) :=
  trigW_done ready (busy := fun s => s.unitUsed 3 || decide (s.t.now < s.t.bank.smFree)) (ready.smFree free) done

/-- A ready form of sm that stops with a trap raises it. -/
theorem smOp_trap {t : State} {cls code : Nat} {info : Word} (ready : ReadyW s0 s 3 m x) (free : s0.t.bank.smFree ≤ s0.t.now)
    (trap : f (s.t.pw 3 2) x s = .trap t cls code info) : smOp m f s0 = .next (t.raise cls code info) :=
  trigW_trap ready (busy := fun s => s.unitUsed 3 || decide (s.t.now < s.t.bank.smFree)) (ready.smFree free) trap

/-- A trigger of sm while a division occupies it raises the illegal-slot trap (R175). -/
theorem smOp_occupied (ready : ReadyW s0 s 3 m x) (busy : s0.t.now < s0.t.bank.smFree) : smOp m f s0 = .next (s0.raise 1 2 0) :=
  trigW_busy ready (by simp [busy])

/-- A ready multiplication writes its result after three cycles. -/
theorem smMulOp_ready (ready : ReadyW s0 s 3 m x) (free : s0.t.bank.smFree ≤ s0.t.now) {f : Word → Word → Word} {r : Word}
    (value : f (s.t.pw 3 2) x = r) : smMulOp m f s0 = .next (s.ends 3 (s.t.result 3 false 3 (.w r) 0)) := by
  rw [smMulOp, smOp_done ready free rfl, value]
  rfl

/-- A ready division that takes no trap occupies sm and writes its results after 20 cycles (R174, R175). -/
theorem smDivOp_ready (ready : ReadyW s0 s 3 m x) (free : s0.t.bank.smFree ≤ s0.t.now) (quiet : s.t.fpTraps (divFlags x) = false)
    (rem : Bool) {f : Word → Word → Word × Word} {q r : Word} (value : f (s.t.pw 3 2) x = (q, r)) :
    let t : Task := { s.t with bank := { s.t.bank with smFree := s.t.now + 20 } }
    smDivOp rem m f s0 = .next (s.ends 3 (if rem then t.result 3 false 20 (.w r) (divFlags x)
      else (t.result 3 false 20 (.w q) (divFlags x)).result 3 true 20 (.w r) 0)) := by
  intro t
  have untrapped : s.t.fpTraps (if x = 0 then DZ else 0) = false := quiet
  refine smOp_done ready free ?_
  simp only [fpGuard, untrapped, value]
  rfl

/-- A division by zero with DZ enabled takes the FP trap (R60, R174). -/
theorem smDivOp_trap (ready : ReadyW s0 s 3 m x) (free : s0.t.bank.smFree ≤ s0.t.now) (zero : x = 0) (traps : s.t.fpTraps DZ = true)
    (rem : Bool) (f : Word → Word → Word × Word) :
    smDivOp rem m f s0 = .next ((s.setT (s.t.orFlags DZ)).raise 2 1 0x808) := by
  subst zero
  rw [← fpInfo_DZ traps]
  exact smOp_trap ready free (if_pos traps)

end

/-- Settles O3: a multiplication and a division by the results of their operations, a division by zero by its trap, and an occupied sm by
the trap of its trigger. -/
theorem multiplyDivideResults : Obligations.MultiplyDivideResults := by
  unfold Obligations.MultiplyDivideResults
  refine ⟨fun s0 s m x ready free => ?multiply, fun s0 s m x ready free => ?divide,
    fun s0 s m x ready => ⟨fun free zero traps => ?trap, fun busy => ?occupied⟩⟩
  case multiply =>
    intro a
    have gives {f : Word → Word → Word} {r : Word} := smMulOp_ready (f := f) (r := r) ready free
    simp only [List.forall_mem_cons]
    exact ⟨(gives rfl : execSmMul m s0 = _), (gives (mulh_eq ..) : execSmMulh m s0 = _), (gives (mulhn_eq ..) : execSmMulhn m s0 = _),
      (gives rfl : execSmMulw m s0 = _), List.forall_mem_nil _⟩
  case divide =>
    intro a fl quiet q r qn rn t
    exact ⟨(smDivOp_ready ready free quiet false (divS_eq ..) : execSmDiv m s0 = _),
      (smDivOp_ready ready free quiet false (divN_eq ..) : execSmDivn m s0 = _),
      (smDivOp_ready ready free quiet true (divS_eq ..) : execSmRem m s0 = _),
      (smDivOp_ready ready free quiet true (divN_eq ..) : execSmRemn m s0 = _)⟩
  case trap =>
    have trap (rem : Bool) (f : Word → Word → Word × Word) := smDivOp_trap ready free zero traps rem f
    simp only [List.forall_mem_cons]
    exact ⟨(trap .. : execSmDiv m s0 = _), (trap .. : execSmDivn m s0 = _), (trap .. : execSmRem m s0 = _),
      (trap .. : execSmRemn m s0 = _), List.forall_mem_nil _⟩
  case occupied =>
    have multiply {f : Word → Word → Word} : smMulOp m f s0 = .next (s0.raise 1 2 0) := smOp_occupied ready busy
    have divide {rem : Bool} {f : Word → Word → Word × Word} : smDivOp rem m f s0 = .next (s0.raise 1 2 0) := smOp_occupied ready busy
    simp only [List.forall_mem_cons]
    exact ⟨(multiply : execSmMul m s0 = _), (multiply : execSmMulh m s0 = _), (multiply : execSmMulhn m s0 = _),
      (multiply : execSmMulw m s0 = _), (divide : execSmDiv m s0 = _), (divide : execSmDivn m s0 = _), (divide : execSmRem m s0 = _),
      (divide : execSmRemn m s0 = _), List.forall_mem_nil _⟩

end Sys2Proof.Machine
end

section
/-! The address generator, obligation O4: its sums, its bound check, and the fields of a scratchpad operand descriptor (R176-R179). -/

namespace Sys2Proof.Machine

open Host Arith

/-! ### The fields of a descriptor (R179) -/

/-- A field of a number as a word. -/
theorem wbits_wd (n hi lo : Nat) : wbits (wd n) hi lo = nbits (n % 2 ^ 64) hi lo := by
  rw [wbits, wd, BitVec.toNat_ofNat]

section
variable (a pitch tile rot : Word)

/-- The first word holds a, the pitch and the overrun mark. -/
theorem dpack_fst_fields : wbits (dpack a pitch tile rot).1 21 0 = wbits a 21 0 ∧
    wbits (dpack a pitch tile rot).1 43 22 = wbits pitch 21 0 ∧ wbits (dpack a pitch tile rot).1 62 44 = 0 := by
  simp only [dpack, wbits_wd]
  simp only [wbits, nbits]
  split <;> omega

/-- Its overrun mark says that an operand does not fit its field. -/
theorem dpack_fst_overrun : (dpack a pitch tile rot).1.getLsbD 63 = true ↔
    2 ^ 22 ≤ a.toNat ∨ 2 ^ 22 ≤ pitch.toNat ∨ 2 ^ 22 ≤ tile.toNat := by
  by_cases overrun : 2 ^ 22 ≤ a.toNat ∨ 2 ^ 22 ≤ pitch.toNat ∨ 2 ^ 22 ≤ tile.toNat
  · simp only [dpack, wd_getLsbD, Nat.testBit_eq_decide_div_mod_eq, wbits, nbits, overrun, if_true, iff_true, Bool.and_eq_true,
      decide_eq_true_eq]
    omega
  · simp only [dpack, wd_getLsbD, Nat.testBit_eq_decide_div_mod_eq, wbits, nbits, overrun, if_false, iff_false, Bool.and_eq_true,
      decide_eq_true_eq]
    omega

/-- The second word holds the tile and the rotation. -/
theorem dpack_snd_fields : wbits (dpack a pitch tile rot).2 21 0 = wbits tile 21 0 ∧
    wbits (dpack a pitch tile rot).2 31 22 = wbits rot 9 0 ∧ wbits (dpack a pitch tile rot).2 63 32 = 0 := by
  simp only [dpack, wbits_wd]
  simp only [wbits, nbits]
  omega

end

/-! ### The forms -/

section
variable {s0 s : State} {m : Mv} {x : Word}

/-- A ready sum writes its result after one cycle (R176). -/
theorem agOp_ready (ready : ReadyW s0 s 4 m x) {f : Word → Word → Word → Word → Word} : agOp m f s0 =
    .next (s.ends 4 (s.t.result 4 false 1 (.w (f (s.t.pw 4 2) (s.t.pw 4 3) (s.t.pw 4 5) x)) 0)) :=
  trigW_done ready ready.unused rfl

/-- A ready taddr adds the row's pitch and the rotation within its span; a span code of 2 or 3 is an illegal port (R177). -/
theorem execAgTaddr_ready (ready : ReadyW s0 s 4 m x) :
    let rot := s.t.pw 4 6
    execAgTaddr m s0 = if 2 ≤ wbits rot 9 8 then .next (s.raise 1 3 0) else .next (s.ends 4 (s.t.result 4 false 1
      (.w (s.t.pw 4 2 + x * s.t.pw 4 5 + wd (x.toNat * wbits rot 4 0 % (if wbits rot 9 8 = 0 then 16 else 32) * 64))) 0)) := by
  intro rot
  by_cases span : 2 ≤ wbits rot 9 8
  · rw [if_pos span]
    exact trigW_trap ready ready.unused (if_pos span)
  · rw [if_neg span]
    exact trigW_done ready ready.unused (if_neg span)

/-- A ready bchk writes whether the index is below the bound (R178). -/
theorem execAgBchk_ready (ready : ReadyW s0 s 4 m x) (k : BitVec 3) : execAgBchk k m s0 =
    .next (s.ends 4 (s.t.resultK 4 1 (decide (x.toNat < (s.t.pw 4 2).toNat)) k.toNat)) :=
  trigW_done ready ready.unused rfl

/-- A ready dpack writes both words of the descriptor (R179). -/
theorem execAgDpack_ready (ready : ReadyW s0 s 4 m x) :
    let d := dpack (s.t.pw 4 2) (s.t.pw 4 5) x (s.t.pw 4 6)
    execAgDpack m s0 = .next (s.ends 4 ((s.t.result 4 false 1 (.w d.1) 0).result 4 true 1 (.w d.2) 0)) :=
  trigW_done ready ready.unused rfl

end

/-- Settles O4: each form by what it does when ready, and a descriptor field by field. -/
theorem addressResults : Obligations.AddressResults := by
  unfold Obligations.AddressResults
  intro s0 s m x k kn ready a pitch rot
  obtain ⟨lowA, lowPitch, lowZero⟩ := dpack_fst_fields a pitch x rot
  exact ⟨(agOp_ready ready : execAgA2d m s0 = _), (agOp_ready ready : execAgSidx k m s0 = _), execAgTaddr_ready ready,
    execAgBchk_ready ready kn, _, _, execAgDpack_ready ready, lowA, lowPitch, lowZero, dpack_fst_overrun a pitch x rot,
    dpack_snd_fields a pitch x rot⟩

end Sys2Proof.Machine
end

section
/-! The control registers, obligation O8: what each form does, by the register's number and the strand's mode (R131, R160, R194-R198). -/

namespace Sys2Proof.Machine

open Host

/-! ### Reads (R194, R196) -/

section
variable {s0 s : State} {m : Mv} {x : Word} {n : Nat}

/-- The registers c0-c16 and c32-c36 are there (R160). -/
theorem cReserved_eq_false : cReserved n = false ↔ n < 17 ∨ 32 ≤ n ∧ n < 37 := by
  simp only [cReserved]
  grind

/-- The registers c17-c31 and those above c36 are reserved (R160). -/
theorem cReserved_eq_true : cReserved n = true ↔ 17 ≤ n ∧ n < 32 ∨ 37 ≤ n := by
  simp only [cReserved]
  grind

/-- A read of a register that the mode may read writes its value to .o. -/
theorem ctRead_ready (ready : ReadyW s0 s 19 m x) (there : cReserved n = false) (allowed : n < 33 ∨ s.t.sys = true) :
    ctRead n m s0 = .next (s.ends 19 (s.t.result 19 false 1 (.w (s.creg n)) 0)) := by
  have unprivileged : ¬(33 ≤ n ∧ (!s.t.sys) = true) := by grind
  refine trigW_done ready ready.unused (t := s.setT _) ?_
  rw [if_neg (by simp [there]), if_neg unprivileged]

/-- A read of a reserved register is an illegal port (R160). -/
theorem ctRead_reserved (ready : ReadyW s0 s 19 m x) (reserved : cReserved n = true) : ctRead n m s0 = .next (s.raise 1 3 0) :=
  trigW_trap ready ready.unused (if_pos reserved)

/-- A read of c33-c36 in task mode is a privilege fault (R196). -/
theorem ctRead_privilege (ready : ReadyW s0 s 19 m x) (task : s.t.sys = false) (lo : 33 ≤ n) (hi : n < 37) :
    ctRead n m s0 = .next (s.raise 10 1 (wd n)) := by
  have there : cReserved n = false := cReserved_eq_false.2 (by omega)
  refine trigW_trap ready ready.unused ?_
  rw [if_neg (by simp [there]), if_pos (by simp [lo, task])]

/-! ### Writes (R131, R195, R196) -/

/-- Whether a control register is one of those that the mode may write (R160, R196). -/
def State.mayWrite (s : State) (n : Nat) : Bool := cTaskWritable n || (s.t.sys && (n == 11 || decide (32 ≤ n)))

/-- A register that the mode may not write raises the privilege fault (R196). -/
theorem ctTake_denied (there : cReserved n = false) (denied : s.mayWrite n = false) : ctTake n x s = .trap s 10 1 (wd n) :=
  (if_neg (by simp [there])).trans (if_pos (congrArg not denied))

/-- A value that the register's fields take, in a register that the mode may write, is written. -/
theorem ctTake_allowed (there : cReserved n = false) (allowed : s.mayWrite n = true) (legal : (ctField n 0 x).isSome = true) :
    ctTake n x s = if n = 0 ∧ (!s.t.sys) = true then .done (s.setT { s.t with fmtPend := s.t.fmtPend ++ [(s.t.clock + 5, x)] })
      else .done (s.atEnd n x) :=
  (if_neg (by simp [there])).trans
    ((if_neg (ne_true_of_eq_false (congrArg not allowed))).trans (if_neg (by simpa [Option.isSome_iff_ne_none] using legal)))

/-- A write of fmt in task mode takes its shadow of five cycles (R131). -/
theorem ctWrite_shadow (ready : ReadyW s0 s 19 m x) (task : s.t.sys = false) (legal : (ctField 0 0 x).isSome = true) :
    ctWrite 0 m s0 = .next (s.ends 19 { s.t with fmtPend := s.t.fmtPend ++ [(s.t.clock + 5, x)] }) :=
  trigW_done ready ready.unused ((ctTake_allowed rfl rfl legal).trans (if_pos ⟨rfl, by simp [task]⟩))

/-- What is written otherwise is kept for the end of the bundle (R195). -/
theorem ctTake_atEnd (there : cReserved n = false) (allowed : s.mayWrite n = true) (legal : (ctField n 0 x).isSome = true)
    (late : n ≠ 0 ∨ s.t.sys = true) : ctTake n x s = .done (s.atEnd n x) :=
  (ctTake_allowed there allowed legal).trans (if_neg (by grind))

/-- A write other than that of fmt in task mode is kept for the end of its bundle (R195). -/
theorem ctWrite_atEnd (ready : ReadyW s0 s 19 m x) (there : cReserved n = false) (allowed : s.mayWrite n = true)
    (legal : (ctField n 0 x).isSome = true) (late : n ≠ 0 ∨ s.t.sys = true) :
    ctWrite n m s0 = .next ((s.atEnd n x).slotEnds 19) :=
  trigW_done ready ready.unused (ctTake_atEnd there allowed legal late)

/-- ct.wrs in system mode writes as ct.wrc.hi does (R198). -/
theorem execCtWrs_atEnd {r : BitVec 5} (ready : ReadyW s0 s 19 m x) (there : cReserved (32 + r.toNat) = false)
    (allowed : s.mayWrite (32 + r.toNat) = true) (legal : (ctField (32 + r.toNat) 0 x).isSome = true) (sys : s.t.sys = true) :
    execCtWrs r m s0 = .next ((s.atEnd (32 + r.toNat) x).slotEnds 19) :=
  trigW_done ready ready.unused ((if_pos sys).trans (ctTake_atEnd there allowed legal (.inr sys)))

/-- A write of a reserved register is an illegal port (R160). -/
theorem ctWrite_reserved (ready : ReadyW s0 s 19 m x) (reserved : cReserved n = true) : ctWrite n m s0 = .next (s.raise 1 3 0) :=
  trigW_trap ready ready.unused (if_pos reserved)

/-- A write of a register that the mode may not write is a privilege fault (R196). -/
theorem ctWrite_privilege (ready : ReadyW s0 s 19 m x) (there : cReserved n = false) (denied : s.mayWrite n = false) :
    ctWrite n m s0 = .next (s.raise 10 1 (wd n)) :=
  trigW_trap ready ready.unused (ctTake_denied there denied)

/-- Every ct.wrs in task mode is a privilege fault (R198). -/
theorem execCtWrs_privilege (ready : ReadyW s0 s 19 m x) (task : s.t.sys = false) (r : BitVec 5) :
    execCtWrs r m s0 = .next (s.raise 10 1 (wd (32 + r.toNat))) :=
  trigW_trap ready ready.unused (if_neg (by simp [task]))

/-- The fields of fmt, rmode and mode take the values that are assigned, and every other register takes all (R56-R58, R160, R398). -/
theorem ctField_legal (fmt : n = 0 → x.toNat < 8 ∧ x.toNat % 4 ≠ 3) (rmode : n = 1 → x.toNat < 5) (mode : n = 2 → x.toNat < 256) :
    (ctField n 0 x).isSome = true := by
  unfold ctField
  split
  · have low : wbits x 1 0 = x.toNat % 4 := by simp [wbits, nbits]
    rw [if_neg (by rw [low]; have := fmt rfl; omega)]
    rfl
  · rw [if_neg (Nat.not_le.2 (rmode rfl))]
    rfl
  · rw [if_neg (Nat.not_le.2 (mode rfl))]
    rfl
  all_goals rfl

end

/-- Settles O8: each form by the case of its register's number and the strand's mode. -/
theorem controlForms : Obligations.ControlForms := by
  unfold Obligations.ControlForms
  refine ⟨fun s0 s m x r k ready => ⟨fun h => ctRead_ready ready (cReserved_eq_false.2 (.inl h)) (.inl (by omega)),
      fun h => ctRead_ready ready (cReserved_eq_false.2 (by omega)) (h.imp (fun h => by omega) And.right),
      (trigW_done ready ready.unused rfl : execCtCyc m s0 = _), (trigW_done ready ready.unused rfl : execCtPerf m s0 = _),
      (trigW_done ready ready.unused rfl : execCtDsel k m s0 = _)⟩,
    fun s0 s m x r ready => ⟨?shadow, ?write, ?writeHi⟩, fun s0 s m x r ready => ?faults⟩
  case shadow =>
    rintro task rfl lo hi
    exact ctWrite_shadow ready task (ctField_legal (fun _ => ⟨lo, hi⟩) nofun nofun)
  case write =>
    intro may fmt rmode mode
    have legal : (ctField r.toNat 0 x).isSome = true := ctField_legal (fun h => fmt (BitVec.eq_of_toNat_eq h))
      (fun h => rmode (BitVec.eq_of_toNat_eq h)) fun h => mode (BitVec.eq_of_toNat_eq h)
    have may : r.toNat ∈ [1, 2, 3, 9, 10, 15] ∨ (r.toNat = 0 ∨ r.toNat = 11) ∧ s.t.sys = true :=
      may.imp_right (And.imp_left (Or.imp (congrArg BitVec.toNat) (congrArg BitVec.toNat)))
    have allowed : s.mayWrite r.toNat = true := by
      simp only [State.mayWrite, cTaskWritable, List.mem_cons, List.not_mem_nil] at may ⊢
      grind
    simp only [List.mem_cons, List.not_mem_nil, or_false] at may
    exact ctWrite_atEnd ready (cReserved_eq_false.2 (by omega)) allowed legal (may.elim (fun h => .inl (by omega)) fun h => .inr h.2)
  case writeHi =>
    intro bound sys
    have there : cReserved (32 + r.toNat) = false := cReserved_eq_false.2 (by omega)
    have allowed : s.mayWrite (32 + r.toNat) = true := by simp [State.mayWrite, sys]
    have legal : (ctField (32 + r.toNat) 0 x).isSome = true := ctField_legal (by omega) (by omega) (by omega)
    simp only [List.forall_mem_cons]
    exact ⟨ctWrite_atEnd ready there allowed legal (.inr sys), execCtWrs_atEnd ready there allowed legal sys, List.forall_mem_nil _⟩
  case faults =>
    have denied {n : Nat} (task : s.t.sys = false) (other : cTaskWritable n = false) : s.mayWrite n = false := by
      simp [State.mayWrite, task, other]
    refine ⟨fun task lo hi => ctRead_privilege ready task (by omega) (by omega), fun task h => ?low, fun task h => ?high,
      fun task => execCtWrs_privilege ready task r, fun h => ?reserved, fun h => ?reservedHi⟩
    case low =>
      have other : ∀ n ∈ [4, 5, 6, 7, 8, 11, 12, 13, 14, 16], cReserved n = false ∧ cTaskWritable n = false := by decide
      exact ctWrite_privilege ready (other _ h).1 (denied task (other _ h).2)
    case high =>
      exact ctWrite_privilege ready (cReserved_eq_false.2 (by omega)) (denied task (by simp only [cTaskWritable]; grind))
    case reserved =>
      have reserved : cReserved r.toNat = true := cReserved_eq_true.2 (.inl ⟨h, r.isLt⟩)
      exact ⟨ctRead_reserved ready reserved, ctWrite_reserved ready reserved⟩
    case reservedHi =>
      have reserved : cReserved (32 + r.toNat) = true := cReserved_eq_true.2 (.inr (by omega))
      exact ⟨ctRead_reserved ready reserved, ctWrite_reserved ready reserved⟩

end Sys2Proof.Machine
end

section
/-! SUPPORT. The local-store forms, once each: the checks of their elements, what a load reads once the earlier accesses are performed,
and what a store issues (R187-R193, R267). -/

namespace Sys2Proof.Machine

open Host Arith

/-! ### The checks of the elements (R187) -/

/-- Every element lies in local store and is aligned to its size. -/
def LsFits (z : Nat) (l : List (Nat × Nat)) : Prop := ∀ p ∈ l, p.2 + z ≤ 0x80000 ∧ p.2 % z = 0

section
variable {core z : Nat} {l : List (Nat × Nat)} {p : Nat × Nat}

/-- The elements that pass the checks are those that fit. -/
theorem lsCheck_eq_none : lsCheck core z l = none ↔ LsFits z l := by
  unfold lsCheck LsFits
  constructor
  · intro check
    split at check
    · cases check
    · rename_i inside
      split at check
      · cases check
      · rename_i aligned
        exact fun p mem => ⟨by simpa using List.find?_eq_none.1 inside p mem, by simpa using List.find?_eq_none.1 aligned p mem⟩
  · intro fits
    have inside : l.find? (fun p => decide (0x80000 < p.2 + z)) = none :=
      List.find?_eq_none.2 fun p mem => by simpa using (fits p mem).1
    have aligned : l.find? (fun p => p.2 % z != 0) = none := List.find?_eq_none.2 fun p mem => by simpa using (fits p mem).2
    simp only [inside, aligned]

/-- The first element outside local store is an access fault. -/
theorem lsCheck_outside (first : l.find? (fun p => decide (0x80000 < p.2 + z)) = some p) :
    lsCheck core z l = some (2, lsInfo core p.2) := by
  simp only [lsCheck, first]

/-- Without one, the first element that is not aligned is an alignment fault. -/
theorem lsCheck_misaligned (inside : ∀ p ∈ l, p.2 + z ≤ 0x80000) (first : l.find? (fun p => p.2 % z != 0) = some p) :
    lsCheck core z l = some (4, lsInfo core p.2) := by
  have inStore : l.find? (fun p => decide (0x80000 < p.2 + z)) = none :=
    List.find?_eq_none.2 fun p hp => by simpa using inside p hp
  simp only [lsCheck, inStore, first]

end

/-! ### A form of ls, by the elements that it names -/

section
variable {s0 s s1 : State} {m : Mv} {x : Word} {z : Nat} {write : Bool} {addr : Word → State → LsAddrs} {l : List (Nat × Nat)}
  {f : List (Nat × Nat) → State → Eff}

/-- The bytes of a form's elements in the core windows of a core. -/
def lsRuns (core z : Nat) (l : List (Nat × Nat)) : List (Nat × Nat) := l.map fun p => (coreWin core p.2, z)

/-- A form whose queue operand is illegal raises the illegal-port trap (R192). -/
theorem lsForm_port (ready : ReadyW s0 s 6 m x) (at_ : addr x s = .port) :
    trigW 6 m (fun x s => lsGuard s z write (addr x s) f) s0 = .next (s.raise 1 3 0) :=
  trigW_trap ready ready.unused (by rw [at_]; rfl)

/-- A form of a queue without a buffer raises the access fault at the strand's window (R192). -/
theorem lsForm_noBuffer (ready : ReadyW s0 s 6 m x) (at_ : addr x s = .noBuffer) :
    trigW 6 m (fun x s => lsGuard s z write (addr x s) f) s0 = .next (s.raise 4 2 (wd (coreWin s.t.core 0))) := by
  have info : lsInfo s.t.core 0 = wd (coreWin s.t.core 0) := by rw [lsInfo, Nat.add_zero]
  exact trigW_trap ready ready.unused (by rw [at_, ← info]; rfl)

/-- A form whose elements fail a check raises the fault. -/
theorem lsForm_fault {code : Nat} {info : Word} (ready : ReadyW s0 s 6 m x) (at_ : addr x s = .ok l)
    (fault : lsCheck s.t.core z l = some (code, info)) :
    trigW 6 m (fun x s => lsGuard s z write (addr x s) f) s0 = .next (s.raise 4 code info) :=
  trigW_trap ready ready.unused (by simp only [at_, lsGuard, fault])

/-- A store of elements that fit issues them at once. -/
theorem lsGuard_store (fits : LsFits z l) : lsGuard s z true (.ok l) f = f l s := by
  simp only [lsGuard, lsCheck_eq_none.2 fits, if_true]

/-- A load of elements that fit follows the earlier accesses to their bytes. -/
theorem lsGuard_load (fits : LsFits z l) : lsGuard s z false (.ok l) f = s.whenOrdered (lsRuns s.t.core z l) (f l) := by
  simp only [lsGuard, lsCheck_eq_none.2 fits, Bool.false_eq_true, if_false]
  rfl

/-- A load whose earlier accesses are performed reads. -/
theorem lsGuard_settled (fits : LsFits z l) (settled : Settled s (lsRuns s.t.core z l) s1) : lsGuard s z false (.ok l) f = f l s1 :=
  (lsGuard_load fits).trans (whenOrdered_settled settled _)

/-- An access that one of its earlier accesses still holds back waits. -/
theorem whenOrdered_waits {ps : List (Nat × Nat)} {ok : State → Eff}
    (late : ∃ p ∈ ps, (s.settle ps).t.inOrder (s.settle ps).t.nseq p.1 p.2 = false) :
    s.whenOrdered ps ok = .block (s.settle ps) .fence := by
  obtain ⟨p, mem, held⟩ := late
  exact if_neg fun all => by simpa [held] using List.all_eq_true.1 all p mem

end

/-! ### Loads (R188-R190, R267) -/

section
variable {s : State} {z : Nat} {l : List (Nat × Nat)} {f : State → Eff}

/-- Elements that carry no poison are read. -/
theorem lsClean_clean (clean : ∀ p ∈ l, s.bad (coreWin s.t.core p.2) z = false) : lsClean s z l f = f s := by
  have unpoisoned : l.find? (fun p => s.bad (coreWin s.t.core p.2) z) = none :=
    List.find?_eq_none.2 fun p hp => by simp [clean p hp]
  simp only [lsClean, State.lsBad, unpoisoned, Option.map_none]

/-- A poisoned element raises the poison fault. -/
theorem lsClean_poisoned {k off : Nat} (poison : s.bad (coreWin s.t.core off) z = true) :
    lsClean s z [(k, off)] f = .trap s 4 5 (lsInfo s.t.core off) := by
  simp [lsClean, State.lsBad, poison]

end

section
variable {s0 s s1 : State} {m : Mv} {x : Word} {ty : ElemType} {addr : Word → State → LsAddrs}

section
variable {k off : Nat}

/-- One element that fits. -/
theorem lsFits_one {z : Nat} (inside : off + z ≤ 0x80000) (aligned : off % z = 0) : LsFits z [(k, off)] := by
  simp [LsFits, inside, aligned]

/-- A ready scalar load writes its element after four cycles (R188). -/
theorem lsLoad_ready (ready : ReadyW s0 s 6 m x) (at_ : addr x s = .ok [(k, off)]) (fits : LsFits ty.bytes [(k, off)])
    (settled : Settled s [(coreWin s.t.core off, ty.bytes)] s1) (clean : s1.bad (coreWin s1.t.core off) ty.bytes = false) :
    lsLoad ty m addr s0 =
      .next (s1.ends 6 (s1.t.result 6 false 4 (.w (scalarElem ty (ofBytes (s1.see (coreWin s1.t.core off) ty.bytes)))) 0)) := by
  refine trigW_done ready ready.unused ?_
  rw [at_, lsGuard_settled fits settled, lsClean_clean (by simpa using clean)]
  rfl

/-- A ready scalar load of a poisoned element raises the poison fault (R267). -/
theorem lsLoad_poisoned (ready : ReadyW s0 s 6 m x) (at_ : addr x s = .ok [(k, off)]) (fits : LsFits ty.bytes [(k, off)])
    (settled : Settled s [(coreWin s.t.core off, ty.bytes)] s1) (poison : s1.bad (coreWin s1.t.core off) ty.bytes = true) :
    lsLoad ty m addr s0 = .next (s1.raise 4 5 (lsInfo s1.t.core off)) := by
  refine trigW_trap ready ready.unused ?_
  rw [at_, lsGuard_settled fits settled, lsClean_poisoned poison]

/-- A ready scalar load that an earlier access holds back waits (R97, R193). -/
theorem lsLoad_waits (ready : ReadyW s0 s 6 m x) (at_ : addr x s = .ok [(k, off)]) (fits : LsFits ty.bytes [(k, off)])
    (settled : s1 = s.settle [(coreWin s.t.core off, ty.bytes)]) (direct : s1.t.inWalk = none)
    (late : ∃ p ∈ [(coreWin s.t.core off, ty.bytes)], s1.t.inOrder s1.t.nseq p.1 p.2 = false) :
    lsLoad ty m addr s0 = .next (s1.endBlock .fence) := by
  subst settled
  refine trigW_block ready ready.unused ?_ direct
  rw [at_, lsGuard_load fits]
  exact whenOrdered_waits late

/-- A ready scalar store issues the low bytes of its port (R188, R193). -/
theorem lsStore_ready (ready : ReadyW s0 s 6 m x) (at_ : addr x s = .ok [(k, off)]) (fits : LsFits ty.bytes [(k, off)])
    (own : s.t.core < 512) : ∃ t, Issued s t (some (s.t.now + 4)) [(coreWin s.t.core off, toBytes ty.bytes (s.t.pw 6 2).toNat)] ∧
      lsStore ty m addr s0 = .next (t.slotEnds 6) := by
  refine ⟨_, lsIssue_issued s [(off, toBytes ty.bytes (s.t.pw 6 2).toNat)] own ?_, trigW_done ready ready.unused ?_⟩
  · simpa using (fits (k, off) (List.mem_singleton.2 rfl)).1
  · rw [at_, lsGuard_store fits]
    rfl

end

/-! ### The forms of lanes (R189-R191) -/

section
variable {on : Nat → Bool} {off : Nat → Nat}

/-- The elements of lanes. -/
def lanesAt (l : List Nat) (off : Nat → Nat) : List (Nat × Nat) := l.map fun i => (i, off i)

/-- Elements of lanes that fit. -/
theorem lsFits_lanesAt {z : Nat} {l : List Nat} : LsFits z (lanesAt l off) ↔ ∀ i ∈ l, off i + z ≤ 0x80000 ∧ off i % z = 0 := by
  simp [LsFits, lanesAt]

/-- The first active lane of a kind, as an element. -/
theorem find?_lanesAt {q : Nat × Nat → Bool} {i : Nat} (active : i ∈ (List.range 64).filter on) (here : q (i, off i) = true)
    (first : ∀ j ∈ (List.range 64).filter on, j < i → q (j, off j) = false) :
    (lanesAt ((List.range 64).filter on) off).find? q = some (i, off i) := by
  have found : (List.range 64).find? (fun j => on j ∧ q (j, off j)) = some i := by
    rw [List.mem_filter] at active
    refine List.find?_range_eq_some.2 ⟨by simp [active.2, here], active.1, fun j before => ?_⟩
    have lane : j ∈ List.range 64 := List.mem_range.2 (before.trans (List.mem_range.1 active.1))
    by_cases h : on j = true
    · simp [first j (List.mem_filter.2 ⟨lane, h⟩) before]
    · simp [h]
  rw [lanesAt, List.find?_map, List.find?_filter]
  exact congrArg (Option.map _) found

/-- The element of a lane, if it is active. -/
theorem find?_lane {i : Nat} (lane : i < 64) :
    (lanesAt ((List.range 64).filter on) off).find? (fun p => p.1 == i) = if on i then some (i, off i) else none := by
  by_cases active : on i = true
  · rw [if_pos active]
    exact find?_lanesAt (List.mem_filter.2 ⟨List.mem_range.2 lane, active⟩) (beq_self_eq_true i) fun j _ before => by simp; omega
  · rw [if_neg active, List.find?_eq_none]
    refine List.forall_mem_map.2 fun j mem same => active ?_
    obtain rfl : j = i := by simpa using same
    exact (List.mem_filter.1 mem).2

/-- The lanes that a vector load gives: the elements of the active ones, and 0 (R189, R190). -/
def State.lsRead (s : State) (ty : ElemType) (l : List (Nat × Nat)) : Lanes :=
  (List.range 64).map (fun i =>
    match l.find? (fun p => p.1 == i) with
    | some p => laneElem ty (s.lsGet p.2 ty.bytes)
    | none => 0)

/-- A lane that a vector load gives. -/
theorem lsRead_getD (s : State) {i : Nat} (lane : i < 64) : (s.lsRead ty (lanesAt ((List.range 64).filter on) off)).getD i 0 =
    if on i then laneOut ty (ofBytes (s.see (coreWin s.t.core (off i)) ty.bytes)) else 0 := by
  by_cases active : on i = true
  · simp [State.lsRead, List.getD_eq_getElem?_getD, lane, find?_lane lane, active, laneElem, State.lsGet, State.seeN]
  · simp [State.lsRead, List.getD_eq_getElem?_getD, lane, find?_lane lane, active]

/-- A ready vector load writes its lanes after four cycles (R189, R190). -/
theorem lsLoadV_ready (ready : ReadyW s0 s 6 m x) {l : List Nat} (lanes : l = (List.range 64).filter on)
    (at_ : addr x s = .ok (lanesAt l off)) (fits : ∀ i ∈ l, off i + ty.bytes ≤ 0x80000 ∧ off i % ty.bytes = 0)
    (settled : Settled s (l.map fun i => (coreWin s.t.core (off i), ty.bytes)) s1)
    (clean : ∀ i ∈ l, s1.bad (coreWin s1.t.core (off i)) ty.bytes = false) :
    ∃ o : Lanes, o.length = 64 ∧
      (∀ i < 64, o.getD i 0 = if on i then laneOut ty (ofBytes (s1.see (coreWin s1.t.core (off i)) ty.bytes)) else 0) ∧
      lsLoadV ty m addr s0 = .next (s1.ends 6 (s1.t.result 6 true 4 (.v o) 0 ty.is64)) := by
  subst lanes
  refine ⟨s1.lsRead ty (lanesAt _ off), by simp [State.lsRead], fun i lane => lsRead_getD s1 lane, trigW_done ready ready.unused ?_⟩
  have runs : lsRuns s.t.core ty.bytes (lanesAt ((List.range 64).filter on) off) =
      ((List.range 64).filter on).map fun i => (coreWin s.t.core (off i), ty.bytes) := by
    simp [lsRuns, lanesAt]
  have unpoisoned : ∀ p ∈ lanesAt ((List.range 64).filter on) off, s1.bad (coreWin s1.t.core p.2) ty.bytes = false :=
    List.forall_mem_map.2 clean
  rw [at_, lsGuard_settled (lsFits_lanesAt.2 fits) (runs ▸ settled), lsClean_clean unpoisoned]
  rfl

/-- A ready vector store issues the low bytes of its lanes in ascending order (R189, R191, R193). -/
theorem lsStoreV_ready (ready : ReadyW s0 s 6 m x) {l : List Nat} (at_ : addr x s = .ok (lanesAt l off))
    (fits : ∀ i ∈ l, off i + ty.bytes ≤ 0x80000 ∧ off i % ty.bytes = 0) (own : s.t.core < 512) :
    ∃ t, Issued s t (some (s.t.now + 4)) (l.map fun i =>
        (coreWin s.t.core (off i), toBytes ty.bytes ((s.t.port 6 4).lanes.getD i 0).toNat)) ∧
      lsStoreV ty m addr s0 = .next (t.slotEnds 6) := by
  have issued := lsIssue_issued s (l.map fun i => (off i, toBytes ty.bytes ((s.t.port 6 4).lanes.getD i 0).toNat)) own
    (by simpa [toBytes_length] using fun i hi => (fits i hi).1)
  rw [List.map_map] at issued
  refine ⟨_, issued, trigW_done ready ready.unused ?_⟩
  rw [at_, lsGuard_store (lsFits_lanesAt.2 fits)]
  simp only [lanesAt, List.map_map]
  rfl

end

end

end Sys2Proof.Machine
end

section
/-! SUPPORT. What performing a strand's accesses to its own core changes: bytes of its pending stores
alone (R97, R193). -/

namespace Sys2Proof.Machine

open Host

/-! ### Stores to a core window -/

/-- A byte of a core window is written where it lies. -/
theorem State.store_of_core {pa c off : Nat} (h : place pa = .core c off) (s : State) (bs : List Byte) : s.store pa bs = s.wr pa bs := by
  simp [State.store, State.key, h]

/-- A core window is not global memory. -/
theorem isGlobal_of_core {pa c off : Nat} (h : place pa = .core c off) : isGlobal pa = false := by
  simp [isGlobal, h]

/-- A core's own window lies in a core window. -/
theorem place_of_ownWindow {core pa : Nat} (own : ownWindow core pa = true) : ∃ c off, place pa = .core c off := by
  unfold ownWindow at own
  split at own
  · exact ⟨_, _, ‹_›⟩
  · cases own

/-- A strand's own store bytes lie in its window. -/
theorem ownWindow_of_core {pa core off : Nat} (h : place pa = .core core off) : ownWindow core pa = true := by
  simp [ownWindow, h]

/-! ### What is performed (R97 item 1) -/

/-- One state is another after accesses of its strand to its own core were performed: the strand stays, none of its pending
stores is new, and a byte that none of them covers reads as before. -/
structure OwnPerformed (s t : State) : Prop where
  cur : t.cur = s.cur
  stores : ∀ x ∈ t.t.stores, x ∈ s.t.stores
  mem : ∀ a, (∀ x ∈ s.t.stores, a < x.pa ∨ x.pa + x.bytes.length ≤ a) → Memory.get t.mem a = Memory.get s.mem a

namespace OwnPerformed

theorem refl (s : State) : OwnPerformed s s := ⟨rfl, fun _ h => h, fun _ _ => rfl⟩

theorem trans {s t u : State} (h : OwnPerformed s t) (k : OwnPerformed t u) : OwnPerformed s u where
  cur := k.cur.trans h.cur
  stores x hx := h.stores x (k.stores x hx)
  mem a out := (k.mem a fun x hx => out x (h.stores x hx)).trans (h.mem a out)

theorem foldl {α : Type} {f : State → α → State} (hf : ∀ s a, OwnPerformed s (f s a)) (l : List α) (s : State) :
    OwnPerformed s (l.foldl f s) := by
  induction l generalizing s with
  | nil => exact refl s
  | cons a r ih => exact (hf s a).trans (ih _)

/-- A pending store of the strand's own core is performed. -/
theorem performed {s : State} {x : Store} (mem : x ∈ s.t.stores) (own : ownWindow s.t.core x.pa = true) (seq : Nat) :
    OwnPerformed s ((s.store x.pa x.bytes).dropStore s.cur seq) := by
  obtain ⟨c, off, lies⟩ := place_of_ownWindow own
  rw [State.store_of_core lies]
  have task : ((s.wr x.pa x.bytes).dropStore s.cur seq).t = { s.t with stores := s.t.stores.filter (fun y => y.seq != seq) } :=
    State.t_setT (s.wr x.pa x.bytes) _
  refine ⟨rfl, ?_, fun a out => Memory.get_write_out _ _ _ _ (out x mem)⟩
  rw [task]
  exact fun y hy => List.mem_of_mem_filter hy

/-- The data of a load's pieces has been read. -/
theorem takePieces (s : State) (n : Nat) (mine : Piece → Bool) (f : Piece → List Byte × Bool) :
    OwnPerformed s (s.takePieces s.cur n mine f) := by
  have task : (s.takePieces s.cur n mine f).t = s.t.setLandAt n { s.t.landAt n with pend := (s.t.landAt n).pend.map (fun p =>
      { p with pas := p.pas.map (fun q => if mine q then { q with got := some (f q) } else q) }) } := State.t_setT s _
  refine ⟨rfl, ?_, fun _ _ => rfl⟩
  rw [task]
  unfold Task.setLandAt
  split
  · exact fun _ h => h
  · exact fun _ h => h

theorem performOwn (s : State) (seq : Nat) : OwnPerformed s (s.performOwn seq) := by
  have loads (t : State) (moved : OwnPerformed s t) (mine : Piece → Bool) (n : Nat) (f : Piece → List Byte × Bool) :
      OwnPerformed s (t.takePieces s.cur n mine f) := moved.trans (moved.cur ▸ takePieces t n mine f)
  have stored (x : Store) (found : s.t.stores.find? (fun x => x.seq == seq) = some x) (due : Bool)
      (own : due = true → ownWindow s.t.core x.pa = true) :
      OwnPerformed s (if due then (s.store x.pa x.bytes).dropStore s.cur seq else s) := by
    split
    · exact performed (List.mem_of_find?_eq_some found) (own ‹_›) seq
    · exact refl s
  unfold State.performOwn
  cases found : s.t.stores.find? (fun x => x.seq == seq) with
  | none =>
    dsimp only
    split
    · exact loads s (refl s) _ _ _
    · exact refl s
  | some x =>
    have moved := stored x found (x.rel == Rel.none && ownWindow s.t.core x.pa && s.t.inOrder seq x.pa x.bytes.length) (by simp; tauto)
    dsimp only
    split
    · exact loads _ moved _ _ _
    · exact moved

theorem settle (s : State) (ps : List (Nat × Nat)) : OwnPerformed s (s.settle ps) := by
  unfold State.settle
  split
  · exact refl s
  · exact foldl performOwn _ s

end OwnPerformed

/-! ### The one pending store of a strand -/

section
variable {s : State} {x : Store} {off : Nat}

/-- What performing the one pending store of a strand leaves. -/
def State.storePerformed (s : State) (x : Store) : State := (s.wr x.pa x.bytes).setT { s.t with stores := [] }

/-- A strand whose one pending store is an ordinary one to its own local store, and which waits for no load. -/
structure OneStore (s : State) (x : Store) : Prop where
  stores : s.t.stores = [x]
  loads : s.t.waitingLoads = []
  plain : x.rel = .none
  attr : x.attr = 0
  lies : ∃ off, place x.pa = .core s.t.core off

namespace OneStore
variable (one : OneStore s x)
include one

/-- It is the one access to perform. -/
theorem pendingSeqs : s.t.pendingSeqs = [x.seq] := by
  simp [Task.pendingSeqs, one.stores, one.loads, insertNat]

/-- It is found by its place. -/
theorem find : s.t.stores.find? (fun y => y.seq == x.seq) = some x := by simp [one.stores]

/-- Nothing comes before it. -/
theorem inOrder (a n : Nat) : s.t.inOrder x.seq a n = true := by
  simp [Task.inOrder, one.stores, one.loads]

/-- Once it is performed none is pending. -/
theorem performed : (s.store x.pa x.bytes).dropStore s.cur x.seq = s.storePerformed x := by
  obtain ⟨off, lies⟩ := one.lies
  have rest : s.t.stores.filter (fun y => y.seq != x.seq) = [] := by simp [one.stores]
  rw [State.store_of_core lies]
  show (s.wr x.pa x.bytes).setT { s.t with stores := s.t.stores.filter (fun y => y.seq != x.seq) } = _
  rw [rest]
  rfl

/-- No load waits then either. -/
theorem loads_performed : (s.storePerformed x).t.waitingLoads = [] := by
  rw [State.storePerformed, State.t_setT]
  exact one.loads

/-- A later access to its bytes performs it (R97 item 1). -/
theorem settle {a n : Nat} (meets : overlap x.pa x.bytes.length a n = true) (later : x.seq < s.t.nseq) :
    s.settle [(a, n)] = s.storePerformed x := by
  have held : s.t.inOrder s.t.nseq a n = false := by
    have met : x.meets a n = true := by simp [Store.meets, meets]
    simp [Task.inOrder, one.stores, one.loads, met, later]
  obtain ⟨off, lies⟩ := one.lies
  have own := ownWindow_of_core lies
  have step : s.performOwn x.seq = s.storePerformed x := by
    simp [State.performOwn, one.find, one.plain, own, one.inOrder, one.performed, one.loads_performed]
  simp [State.settle, held, one.pendingSeqs, step]

/-- Its clock performs it (R193). -/
theorem performDue {d : Nat} (due : x.due = some d) (come : d ≤ s.t.now) : s.performDue = s.storePerformed x := by
  obtain ⟨off, lies⟩ := one.lies
  have own := ownWindow_of_core lies
  have free := isGlobal_of_core lies
  have push : x.push = none := by simp [Store.push, lies]
  have written : s.put s.t.core x.pa x.bytes = (s.store x.pa x.bytes, true) := by
    simp [State.put, State.touch, State.owns, free]
  have step : s.performStore s.cur x.seq = s.storePerformed x := by
    have unnoted (t : State) (core n attr write : Nat) : t.noteL1 core x.pa n attr write = t := by simp [State.noteL1, free]
    rw [State.performStore, show s.task s.cur = s.t from rfl, one.find]
    simp [one.inOrder, push, one.plain, one.attr, written, unnoted, one.performed]
  have start : s.performDue = s.performWhere s.cur (ownWindow s.t.core) := by simp [State.performDue, one.stores, due, come]
  rw [start, State.performWhere, show s.task s.cur = s.t from rfl, one.pendingSeqs]
  simp only [List.foldl_cons, List.foldl_nil, show s.task s.cur = s.t from rfl, one.find, own, one.loads, if_true, List.find?_nil, step]

end OneStore
end

end Sys2Proof.Machine
end

section
/-! The scalar forms of the local store, obligation O11 (R97, R187, R188, R193, R267). -/

namespace Sys2Proof.Machine

open Host Arith

/-- Settles O11: loads, stores and faults by the lemmas of the ls forms, and the one pending store by what performs it. -/
theorem localScalarForms : Obligations.LocalScalarForms := by
  unfold Obligations.LocalScalarForms
  refine ⟨fun s0 s m x ty ready inside aligned => ?forms, fun s0 s m x ty ready => ?faults,
    fun s x off core stores loads plain attr lies inside => ?pending⟩
  case forms =>
    intro run
    have fits : LsFits ty.bytes [(0, x.toNat)] := lsFits_one inside aligned
    exact ⟨fun s1 settled => ⟨fun clean => (lsLoad_ready ready rfl fits settled clean : execLsLd ty m s0 = _),
        fun poison => (lsLoad_poisoned ready rfl fits settled poison : execLsLd ty m s0 = _)⟩,
      fun s1 settled direct late => (lsLoad_waits ready rfl fits settled direct late : execLsLd ty m s0 = _),
      fun core => lsStore_ready (addr := lsOne) ready rfl fits core⟩
  case faults =>
    have fault {code : Nat} (check : lsCheck s.t.core ty.bytes [(0, x.toNat)] = some (code, lsInfo s.t.core x.toNat)) :
        ∀ i ∈ [Instr.lsLd ty m, .lsSt ty m], exec i s0 = .next (s.raise 4 code (wd (coreWin s.t.core 0 + x.toNat))) := by
      simp only [List.forall_mem_cons]
      exact ⟨(lsForm_fault ready rfl check : execLsLd ty m s0 = _), (lsForm_fault ready rfl check : execLsSt ty m s0 = _),
        List.forall_mem_nil _⟩
    refine fun i form => ⟨fun outside => fault (lsCheck_outside (p := (0, x.toNat)) ?_) i form,
      fun inside misaligned => fault (lsCheck_misaligned (p := (0, x.toNat)) ?_ ?_) i form⟩
    · simp [outside]
    · simpa using inside
    · simp [misaligned]
  case pending =>
    intro t
    have one : OneStore s x := ⟨stores, loads, plain, attr, off, lies ▸ place_coreWin _ _ core (by omega)⟩
    exact ⟨fun a n => one.settle, fun d => one.performDue⟩

end Sys2Proof.Machine
end

section
/-! The vector forms of the local store, obligation O12, and its queue forms, obligation O13 (R187, R189-R193, R277). -/

namespace Sys2Proof.Machine

open Host Arith

/-! ### The lanes that a form accesses (R152, R190) -/

/-- Whether a lane of an ls form is active; ldvm and stvm use `m` whatever `men` holds. -/
def Task.lsOn (t : Task) (always : Bool) (i : Nat) : Bool := (!always && !(t.pw 6 7).getLsbD 0) || (t.pw 6 6).getLsbD i

/-- A form accesses its active lanes. -/
theorem lsLanes_eq (t : Task) (always : Bool) : lsLanes t always = (List.range 64).filter (t.lsOn always) := by
  cases always <;> rfl

section
variable {s0 s : State} {m : Mv} {x : Word} {ty : ElemType} {on : Nat → Bool} {off : Nat → Nat} {i : Nat}
  {addr : Word → State → LsAddrs}

/-- The first active element outside local store is the fault of both forms (R187). -/
theorem lsVector_outside (ready : ReadyW s0 s 6 m x) (at_ : addr x s = .ok (lanesAt ((List.range 64).filter on) off))
    (active : i ∈ (List.range 64).filter on) (outside : 0x80000 < off i + ty.bytes)
    (first : ∀ j ∈ (List.range 64).filter on, j < i → ¬ 0x80000 < off j + ty.bytes) :
    lsLoadV ty m addr s0 = .next (s.raise 4 2 (lsInfo s.t.core (off i))) ∧
      lsStoreV ty m addr s0 = .next (s.raise 4 2 (lsInfo s.t.core (off i))) := by
  have found : (lanesAt ((List.range 64).filter on) off).find? (fun p => decide (0x80000 < p.2 + ty.bytes)) = some (i, off i) :=
    find?_lanesAt active (decide_eq_true outside) fun j mem before => decide_eq_false (first j mem before)
  have check := lsCheck_outside (core := s.t.core) found
  exact ⟨lsForm_fault ready at_ check, lsForm_fault ready at_ check⟩

/-- Without one, the first active element that is not aligned is the fault of both forms (R187). -/
theorem lsVector_misaligned (ready : ReadyW s0 s 6 m x) (at_ : addr x s = .ok (lanesAt ((List.range 64).filter on) off))
    (inside : ∀ j ∈ (List.range 64).filter on, ¬ 0x80000 < off j + ty.bytes) (active : i ∈ (List.range 64).filter on)
    (misaligned : off i % ty.bytes ≠ 0) (first : ∀ j ∈ (List.range 64).filter on, j < i → off j % ty.bytes = 0) :
    lsLoadV ty m addr s0 = .next (s.raise 4 4 (lsInfo s.t.core (off i))) ∧
      lsStoreV ty m addr s0 = .next (s.raise 4 4 (lsInfo s.t.core (off i))) := by
  have found : (lanesAt ((List.range 64).filter on) off).find? (fun p => p.2 % ty.bytes != 0) = some (i, off i) :=
    find?_lanesAt active (by simpa using misaligned) fun j mem before => by simpa using first j mem before
  have check := lsCheck_misaligned (core := s.t.core) (List.forall_mem_map.2 fun j mem => Nat.not_lt.1 (inside j mem)) found
  exact ⟨lsForm_fault ready at_ check, lsForm_fault ready at_ check⟩

end

/-- Settles O12: a load and a store of one list of elements, contiguous, strided, gathered or masked, by the lemmas of
the forms of lanes. -/
theorem localVectorResults : Obligations.LocalVectorResults := by
  unfold Obligations.LocalVectorResults
  intro s0 s m x ty ld st always off ready form on l out
  have forms : ∃ addr, exec ld s0 = lsLoadV ty m addr s0 ∧ exec st s0 = lsStoreV ty m addr s0 ∧
      addr x s = .ok (lanesAt (lsLanes s.t always) off) := by
    simp only [List.mem_cons, List.not_mem_nil, or_false, Prod.mk.injEq] at form
    rcases form with ⟨rfl, rfl, rfl, rfl⟩ | ⟨rfl, rfl, rfl, rfl⟩ | ⟨rfl, rfl, rfl, rfl⟩ | ⟨rfl, rfl, rfl, rfl⟩
    · exact ⟨lsContig false ty.bytes, rfl, rfl, rfl⟩
    · exact ⟨lsStrided, rfl, rfl, rfl⟩
    · exact ⟨lsGathered, rfl, rfl, by simp only [lsGathered, lanesAt, low32_eq_setWidth]⟩
    · exact ⟨lsContig true ty.bytes, rfl, rfl, rfl⟩
  obtain ⟨addr, load, store, at_⟩ := forms
  rw [lsLanes_eq] at at_
  rw [load, store]
  have inLocalStore (fits : ∀ i ∈ l, ¬ out i ∧ off i % ty.bytes = 0) :
      ∀ i ∈ l, off i + ty.bytes ≤ 0x80000 ∧ off i % ty.bytes = 0 :=
    fun i mem => (fits i mem).imp_left Nat.not_lt.1
  exact ⟨fun fits => ⟨fun s1 settled clean => lsLoadV_ready ready rfl at_ (inLocalStore fits) settled clean,
      fun core => lsStoreV_ready ready at_ (inLocalStore fits) core⟩,
    fun i active outside first => lsVector_outside ready at_ active outside first,
    fun inside i active misaligned first => lsVector_misaligned ready at_ inside active misaligned first⟩

/-! ### The queue forms (R192, R277) -/

section
variable {s0 s : State} {m : Mv} {x : Word} {ty : ElemType} {tail : Bool} {z : Nat} {lanes : State → List Nat}

/-- A queue number above 15 is an illegal port. -/
theorem lsQueued_port (number : 15 < (s.t.pw 6 8).toNat) : lsQueued tail z lanes x s = .port := if_pos number

/-- A queue may have no buffer. -/
theorem lsQueued_noBuffer (number : (s.t.pw 6 8).toNat ≤ 15) (bare : (s.queue s.t.core (s.t.pw 6 8).toNat).cfg = none) :
    lsQueued tail z lanes x s = .noBuffer :=
  (if_neg (Nat.not_lt.2 number)).trans (if_pos (by simp [bare]))

/-- The elements of a configured queue, from its head or its tail, wrapped in its buffer. -/
theorem lsQueued_configured (number : (s.t.pw 6 8).toNat ≤ 15) (cfg : (s.queue s.t.core (s.t.pw 6 8).toNat).cfg ≠ none) :
    let q := s.queue s.t.core (s.t.pw 6 8).toNat
    lsQueued tail z lanes x s = .ok (lanesAt (lanes s) fun i => q.pos (if tail then q.tail else q.head) (x.toNat + i * z)) :=
  (if_neg (Nat.not_lt.2 number)).trans (if_neg (by simpa using cfg))

end

/-- Settles O13: every queue form by where its elements lie, and its illegal operands by their traps. -/
theorem localQueueResults : Obligations.LocalQueueResults := by
  unfold Obligations.LocalQueueResults
  intro s0 s m x ty ready n q on l rd wr fits w
  refine ⟨fun number => ?port, fun number bare => ?noBuffer, fun number cfg => ?configured⟩
  case port =>
    have port {write tail : Bool} {lanes : State → List Nat} {f : List (Nat × Nat) → State → Eff} :
        trigW 6 m (fun x s => lsGuard s ty.bytes write (lsQueued tail ty.bytes lanes x s) f) s0 = .next (s.raise 1 3 0) :=
      lsForm_port ready (lsQueued_port number)
    simp only [List.forall_mem_cons]
    exact ⟨(port : execLsLdq ty m s0 = _), (port : execLsStq ty m s0 = _), (port : execLsLdvq ty m s0 = _),
      (port : execLsStvq ty m s0 = _), List.forall_mem_nil _⟩
  case noBuffer =>
    have noBuffer {write tail : Bool} {lanes : State → List Nat} {f : List (Nat × Nat) → State → Eff} :
        trigW 6 m (fun x s => lsGuard s ty.bytes write (lsQueued tail ty.bytes lanes x s) f) s0 =
          .next (s.raise 4 2 (wd (coreWin w 0))) :=
      lsForm_noBuffer ready (lsQueued_noBuffer number bare)
    simp only [List.forall_mem_cons]
    exact ⟨(noBuffer : execLsLdq ty m s0 = _), (noBuffer : execLsStq ty m s0 = _), (noBuffer : execLsLdvq ty m s0 = _),
      (noBuffer : execLsStvq ty m s0 = _), List.forall_mem_nil _⟩
  case configured =>
    exact ⟨fun fit s1 settled clean => (lsLoad_ready ready (lsQueued_configured number cfg) (lsFits_one fit.1 fit.2) settled clean :
        execLsLdq ty m s0 = _),
      fun fit core => lsStore_ready ready (lsQueued_configured number cfg) (lsFits_one fit.1 fit.2) core,
      fun fit s1 settled clean => lsLoadV_ready ready rfl (lsQueued_configured number cfg) fit settled clean,
      fun fit core => lsStoreV_ready ready (lsQueued_configured number cfg) fit core⟩

end Sys2Proof.Machine
end

section
/-! The frame of the local-store stores, obligation O55: a store that completes leaves pending stores of its task, and performing a strand's
accesses to its own core changes bytes of those alone (R97, R187-R193). -/

namespace Sys2Proof.Machine

open Host Arith

/-! ### A store that completes -/

section
variable {s0 s s' t : State} {u : Nat} {m : Mv} {x : Word}

/-- A ready form whose turn goes on has completed its operation. -/
theorem trigW_completes {f : Word → State → Eff} (ready : ReadyW s0 s u m x) (turn : s.turn.isSome = true)
    (out : trigW u m f s0 = .next t) (same : t.turn = s.turn) : ∃ s', f x s = .done s' ∧ t = s'.slotEnds u := by
  have running : t.turn ≠ none := by
    rw [same]
    exact Option.isSome_iff_ne_none.1 turn
  rw [trigW_free ready] at out
  cases e : f x s with
  | done s' =>
    rw [e] at out
    cases out
    exact ⟨s', rfl, rfl⟩
  | trap | block | stay =>
    rw [e] at out
    exact absurd (Eff.out_turn out fun _ e => Eff.noConfusion e) running

/-- A guarded store that completes has elements that fit. -/
theorem lsGuard_done {z : Nat} {a : LsAddrs} {f : List (Nat × Nat) → State → Eff} (done : lsGuard s z true a f = .done s') :
    ∃ l, LsFits z l ∧ f l s = .done s' := by
  cases a with
  | port | noBuffer => cases done
  | ok l =>
    cases check : lsCheck s.t.core z l with
    | some fault =>
      simp only [lsGuard, check] at done
      cases done
    | none =>
      have fits := lsCheck_eq_none.1 check
      exact ⟨l, fits, (lsGuard_store fits).symm.trans done⟩

end

/-- What a store form leaves that completes: elements issued, and its slot ended. -/
def StoreIssued (s t : State) : Prop := ∃ r due els, Issued s r due els ∧ t = r.slotEnds 6

/-- An element has at most eight bytes (R46). -/
theorem elemType_bytes_le (ty : ElemType) : ty.bytes ≤ 8 := by
  cases ty <;> decide

section
variable {s0 s t : State} {m : Mv} {x : Word} {ty : ElemType} {addr : Word → State → LsAddrs}

/-- A scalar store that completes has issued its element. -/
theorem lsStore_issues (ready : ReadyW s0 s 6 m x) (own : s.t.core < 512) (turn : s.turn.isSome = true)
    (out : lsStore ty m addr s0 = .next t) (same : t.turn = s.turn) : StoreIssued s t := by
  obtain ⟨s', done, rfl⟩ := trigW_completes ready turn out same
  obtain ⟨l, fits, issue⟩ := lsGuard_done done
  cases issue
  refine ⟨_, _, _, lsIssue_issued s _ own ?_, rfl⟩
  rw [List.forall_mem_singleton, toBytes_length]
  cases l with
  | nil =>
    have small := elemType_bytes_le ty
    show 0 + ty.bytes ≤ 0x80000
    omega
  | cons p r => exact (fits p (List.mem_cons_self ..)).1

/-- A vector store that completes has issued its elements. -/
theorem lsStoreV_issues (ready : ReadyW s0 s 6 m x) (own : s.t.core < 512) (turn : s.turn.isSome = true)
    (out : lsStoreV ty m addr s0 = .next t) (same : t.turn = s.turn) : StoreIssued s t := by
  obtain ⟨s', done, rfl⟩ := trigW_completes ready turn out same
  obtain ⟨l, fits, issue⟩ := lsGuard_done done
  cases issue
  refine ⟨_, _, _, lsIssue_issued s _ own (List.forall_mem_map.2 fun p mem => ?_), rfl⟩
  rw [toBytes_length]
  exact (fits p mem).1

end

/-- Settles O55: a store form that completes has issued its elements, whose pending stores are all that its task takes, and performing
accesses is `OwnPerformed`. -/
theorem storeFrame : Obligations.StoreFrame := by
  unfold Obligations.StoreFrame
  refine ⟨fun s0 s t m x ty i ready own turn form out same => ?_, fun s ps a outside => (OwnPerformed.settle s ps).mem a outside⟩
  have issued : StoreIssued s t := by
    simp only [List.mem_cons, List.not_mem_nil, or_false] at form
    rcases form with rfl | rfl | rfl | rfl | rfl | rfl | rfl
    · exact lsStore_issues (addr := lsOne) ready own turn out same
    · exact lsStoreV_issues (addr := lsContig false ty.bytes) ready own turn out same
    · exact lsStoreV_issues (addr := lsStrided) ready own turn out same
    · exact lsStoreV_issues (addr := lsGathered) ready own turn out same
    · exact lsStoreV_issues (addr := lsContig true ty.bytes) ready own turn out same
    · exact lsStore_issues (addr := lsQueued true ty.bytes lane0) ready own turn out same
    · exact lsStoreV_issues (addr := lsQueued true ty.bytes lanesOn) ready own turn out same
  obtain ⟨r, due, els, ⟨new, rfl, -⟩, rfl⟩ := issued
  refine ⟨onlyTask_ends s 6 _, fun _ => rfl, ?_⟩
  rw [show ∀ q, ((s.setT q).slotEnds 6).t = _ from t_ends s 6]
  exact ⟨rfl, rfl, rfl, rfl, rfl, rfl, rfl, rfl, rfl⟩

end Sys2Proof.Machine
end

section
/-! SUPPORT. What a form of a vector trigger does when it is ready, and the lanes, flags, draws and masks that the forms of va, vb and vx
collect over their active lanes (R120, R199-R203). -/

namespace Sys2Proof.Machine

open Host Arith

/-! ### A ready form -/

section
variable {s0 s : State} {u : Nat} {m : Mv} {d : WClass} {v : Val} {f : Val → State → Eff}

/-- An operation that completes in the state t ends its slot there. -/
theorem slotTrig_done {t : State} (ready : Ready s0 s u m d v) (done : f v s = .done t) :
    slotTrig u m d f s0 = .next (t.slotEnds u) := by
  rw [slotTrig_ready ready f _ ready.2, done]

/-- An operation that stops with a trap raises it at its slot. -/
theorem slotTrig_trap {t : State} {cls code : Nat} {info : Word} (ready : Ready s0 s u m d v) (trap : f v s = .trap t cls code info) :
    slotTrig u m d f s0 = .next (t.raise cls code info) := by
  rw [slotTrig_ready ready f _ ready.2, trap]
  rfl

variable {lat : Nat} {h : Bool} {o : Val} {fl : Flags} {drew : List Nat}

/-- A vector form whose flags take no FP trap writes its result, outside a recording block (R202, R203, R362). -/
theorem slotTrig_vecDone (ready : Ready s0 s u m d v) (plain : s.t.recording = false) (quiet : s.t.fpTraps fl = false)
    (op : ∃ items, f v s = vecDone s u lat h o fl drew items) :
    slotTrig u m d f s0 = .next (s.ends u ((s.t.drawn drew).result u h lat o fl)) := by
  obtain ⟨items, op⟩ := op
  refine slotTrig_done ready (op.trans ?_)
  rw [vecDone, fpGuard, if_neg (by simp [quiet]), recorded_plain plain]

/-- A vector form that raises an enabled flag takes the FP trap, whatever it would write, draw or record (R60, R202). -/
theorem slotTrig_fpTrap (ready : Ready s0 s u m d v) (traps : s.t.fpTraps fl = true)
    (op : ∃ items, f v s = vecDone s u lat h o fl drew items) :
    slotTrig u m d f s0 = .next ((s.setT (s.t.orFlags fl)).raise 2 1 (fpInfo fl s.t.enables)) := by
  obtain ⟨items, op⟩ := op
  exact slotTrig_trap ready (op.trans (if_pos traps))

/-- A form that raises no flag takes no FP trap. -/
@[simp] theorem Task.fpTraps_zero (t : Task) : t.fpTraps 0 = false := by simp [Task.fpTraps]

end

/-! ### Lanes -/

/-- A lane of the lanes that a function gives. -/
theorem getD_map_range {n i : Nat} (f : Nat → Word) (lane : i < n) : ((List.range n).map f).getD i 0 = f i := by
  simp [List.getD_eq_getElem?_getD, lane]

/-- The lanes of a type that a function gives under an active mask: 0 where a lane is inactive (R200). -/
def activeLanes (ty : ElemType) (on : Nat → Bool) (f : Nat → Nat) : Lanes :=
  (List.range 64).map fun i => if on i then laneOut ty (f i) else 0

@[simp] theorem activeLanes_length (ty : ElemType) (on : Nat → Bool) (f : Nat → Nat) : (activeLanes ty on f).length = 64 := by
  simp [activeLanes]

theorem activeLanes_getD (ty : ElemType) (on : Nat → Bool) (f : Nat → Nat) {i : Nat} (lane : i < 64) :
    (activeLanes ty on f).getD i 0 = if on i then laneOut ty (f i) else 0 := getD_map_range _ lane

section
variable (ty : ElemType) (on : Nat → Bool) (f : Nat → LaneRes)

/-- The results of the active lanes as lanes. -/
theorem outLanes_runLanes : outLanes ty (runLanes on f) = activeLanes ty on fun i => (f i).1 := by
  refine (List.map_map ..).trans (List.map_congr_left fun i _ => ?_)
  cases active : on i <;> simp [active]

/-- The flags that a function gives in the active lanes (R200). -/
def activeFlags (on : Nat → Bool) (fl : Nat → Flags) : Flags := (((List.range 64).filter on).map fl).foldl (· ||| ·) 0

/-- The flags of the active lanes' results. -/
theorem outFlags_runLanes : outFlags (runLanes on f) = activeFlags on fun i => (f i).2.1 := by
  rw [outFlags, runLanes, activeFlags, List.foldl_map, List.foldl_map, List.foldl_filter]
  refine congrArg (fun step => List.foldl step 0 (List.range 64)) (funext₂ fun fl i => ?_)
  cases active : on i <;> simp

/-- The active lanes whose results draw (R203). -/
theorem outDrew_runLanes : outDrew (runLanes on f) = (List.range 64).filter fun i => on i && (f i).2.2 := by
  have numbered : (runLanes on f).zipIdx = (List.range 64).map fun i => (if on i then some (f i) else none, i) := by
    refine List.ext_getElem (by simp [runLanes]) fun i _ _ => ?_
    simp [runLanes]
  rw [outDrew, numbered, List.filterMap_map, ← List.filterMap_eq_filter]
  refine congrArg (fun pick => List.filterMap pick (List.range 64)) (funext fun i => ?_)
  rcases e : f i with ⟨x, fl, drew⟩
  cases active : on i <;> cases drew <;> simp [active, e, Option.guard]

end

/-! ### Masks -/

/-- A sum of powers of two by lane, whose bits are the lanes (R5). -/
theorem maskSum_spec (f : Nat → Bool) (n : Nat) :
    (List.range n).foldl (fun a i => if f i then a + 2 ^ i else a) 0 < 2 ^ n ∧
      ∀ i < n, ((List.range n).foldl (fun a i => if f i then a + 2 ^ i else a) 0).testBit i = f i := by
  induction n with
  | zero => simp
  | succ n ih =>
    obtain ⟨below, bits⟩ := ih
    simp only [List.range_succ, List.foldl_append, List.foldl_cons, List.foldl_nil]
    generalize (List.range n).foldl (fun a i => if f i then a + 2 ^ i else a) 0 = a at below bits
    refine ⟨by split <;> omega, fun i inside => ?_⟩
    obtain rfl | lower : i = n ∨ i < n := by omega
    · cases top : f i
      · simpa using Nat.testBit_lt_two_pow below
      · simp [Nat.add_comm a, Nat.testBit_two_pow_add_eq, Nat.testBit_lt_two_pow below]
    · cases top : f n
      · simpa using bits i lower
      · simpa [Nat.add_comm a, Nat.testBit_two_pow_add_gt lower] using bits i lower

/-- A lane's bit in a mask. -/
theorem maskOf_getLsbD (f : Nat → Bool) {i : Nat} (lane : i < 64) : (maskOf f).getLsbD i = f i := by
  rw [maskOf, wd_getLsbD, (maskSum_spec f 64).2 i lane]
  simp [lane]

end Sys2Proof.Machine
end

section
/-! The elementwise forms of va and vb, obligation O14: the table of results, lane by lane (R200, R205-R209). -/

namespace Sys2Proof.Machine

open Host Arith

section
variable {s0 s : State} {b : Bool} {m : Mv} {ty : ElemType} {v : Val}

/-- A ready form whose operation completes with the results of the active lanes (R200-R203). -/
theorem slotTrig_lanes {u lat : Nat} {d : WClass} {op : Val → State → Eff} {on : Nat → Bool} {f : Nat → LaneRes}
    (ready : Ready s0 s u m d v) (plain : s.t.recording = false)
    (quiet : s.t.fpTraps (activeFlags on fun i => (f i).2.1) = false)
    (lanes : ∃ items, op v s =
      vecDone s u lat false (.v (outLanes ty (runLanes on f))) (outFlags (runLanes on f)) (outDrew (runLanes on f)) items) :
    ∃ o : Lanes, o.length = 64 ∧ (∀ i < 64, o.getD i 0 = if on i then laneOut ty (f i).1 else 0) ∧
      slotTrig u m d op s0 = .next (s.ends u ((s.t.drawn ((List.range 64).filter fun i => on i && (f i).2.2)).result u false lat (.v o)
        (activeFlags on fun i => (f i).2.1))) := by
  rw [outLanes_runLanes, outFlags_runLanes, outDrew_runLanes] at lanes
  exact ⟨_, activeLanes_length .., fun i lane => activeLanes_getD ty on _ lane, slotTrig_vecDone ready plain quiet lanes⟩

variable (s0 s b m ty v) in
/-- An outcome is elementwise: it is that of a trigger of va or vb whose operation on v in s completes with f's results of the active
lanes, after the latency of its type (R200, R201). -/
def Elementwise (out : Out) (f : Nat → LaneRes) : Prop :=
  ∃ op, out = slotTrig (vaUnit b) m (vecClass ty) op s0 ∧
    let rs := runLanes (vin s.t (vaUnit b) v).on f
    ∃ items, op v s = vecDone s (vaUnit b) (vaLat ty.isFloat) false (.v (outLanes ty rs)) (outFlags rs) (outDrew rs) items

section
variable {items : VIn → Lanes → List (Nat × List Byte)}

/-- The shared operation of the elementwise forms, by its results at the trigger's operands. -/
theorem elementwise_vaForm {g : VIn → Nat → LaneRes} {f : Nat → LaneRes} (results : ∀ i, g (vin s.t (vaUnit b) v) i = f i) :
    Elementwise s0 s b m ty v (vaForm b ty m g items s0) f := by
  obtain rfl : g (vin s.t (vaUnit b) v) = f := funext results
  exact ⟨_, rfl, _, rfl⟩

/-- An arithmetic form of a float type rounds (R205). -/
theorem elementwise_vaArith_float {ff : Env → Ex → Ex → RRes} {fi : Int → Int → Int} (float : ty.isFloat = true) :
    Elementwise s0 s b m ty v (vaArith b ty m ff fi items s0) fun i =>
      ofRes (ff (s.t.env i) (laneEx ty (s.t.port (vaUnit b) 2).lanes i) (laneEx ty v.lanes i)) :=
  elementwise_vaForm fun _ => if_pos float

/-- An arithmetic form of an integer type is modulo 2^w (R209). -/
theorem elementwise_vaArith_integer {ff : Env → Ex → Ex → RRes} {fi : Int → Int → Int} (notFloat : ¬ ty.isFloat = true) :
    Elementwise s0 s b m ty v (vaArith b ty m ff fi items s0) fun i =>
      intRes ty (fi (laneInt ty (s.t.port (vaUnit b) 2).lanes i) (laneInt ty v.lanes i)) :=
  elementwise_vaForm fun _ => if_neg notFloat

/-- A fused form rounds once (R205). -/
theorem elementwise_vaFused {negP negC : Bool} : Elementwise s0 s b m ty v (vaFused negP negC b ty m s0) fun i =>
    ofRes (fmaRound ty (s.t.env i) (laneEx ty (s.t.port (vaUnit b) 2).lanes i) (laneEx ty v.lanes i)
      (laneEx ty (s.t.port (vaUnit b) 4).lanes i) negP negC) :=
  elementwise_vaForm fun _ => rfl

/-- min and max of a float type (R206). -/
theorem elementwise_vaExtreme_float {isMax : Bool} (float : ty.isFloat = true) :
    Elementwise s0 s b m ty v (vaExtreme isMax b ty m s0) fun i =>
      ofFl (fmaxmin ty isMax (lane ty (s.t.port (vaUnit b) 2).lanes i) (lane ty v.lanes i)) :=
  elementwise_vaForm fun _ => if_pos float

/-- min and max of an integer type (R209). -/
theorem elementwise_vaExtreme_integer {isMax : Bool} (notFloat : ¬ ty.isFloat = true) :
    Elementwise s0 s b m ty v (vaExtreme isMax b ty m s0) fun i =>
      let x := laneInt ty (s.t.port (vaUnit b) 2).lanes i
      let y := laneInt ty v.lanes i
      intRes ty (if isMax then max x y else min x y) :=
  elementwise_vaForm fun _ => if_neg notFloat

/-- A function form (R207). -/
theorem elementwise_vaFun {g : Env → Ex → RRes} : Elementwise s0 s b m ty v (vaFun g items b ty m s0) fun i =>
    ofRes (g (s.t.env i) (laneEx ty v.lanes i)) :=
  elementwise_vaForm fun _ => rfl

/-- A bitwise form (R209). -/
theorem elementwise_vaBits {g : Nat → Nat → Nat} : Elementwise s0 s b m ty v (vaBits g b ty m s0) fun i =>
    ofNat (g (lane ty (s.t.port (vaUnit b) 2).lanes i) (lane ty v.lanes i)) :=
  elementwise_vaForm fun _ => rfl

/-- rnd of a float type (R208). -/
theorem elementwise_vaRnd (float : ty.isFloat = true) :
    Elementwise s0 s b m ty v (execVaRnd b ty m s0) fun i => ofRes (rndInt ty (s.t.env i) (lane ty v.lanes i)) :=
  ⟨_, rfl, [], by rw [float]; rfl⟩

end

end

/-- Settles O14: every row of the two tables is elementwise, with the results that the row names. -/
theorem vectorLaneResults : Obligations.VectorLaneResults := by
  unfold Obligations.VectorLaneResults
  intro s0 s b m ty v i f u ready plain A B a x c n k env sats form on fl quiet
  have elementwise : Elementwise s0 s b m ty v (exec i s0) f := by
    simp only [List.mem_cons, List.not_mem_nil, or_false, Prod.mk.injEq] at form
    rcases form with ⟨float, row⟩ | ⟨integer, row⟩
    · rcases row with ⟨rfl, rfl⟩ | ⟨rfl, rfl⟩ | ⟨rfl, rfl⟩ | ⟨rfl, rfl⟩ | ⟨rfl, rfl⟩ | ⟨rfl, rfl⟩ | ⟨rfl, rfl⟩ | ⟨rfl, rfl⟩ | ⟨rfl, rfl⟩ |
        ⟨rfl, rfl⟩ | ⟨rfl, rfl⟩ | ⟨rfl, rfl⟩ | ⟨rfl, rfl⟩ | ⟨rfl, rfl⟩ | ⟨rfl, rfl⟩ | ⟨rfl, rfl⟩
      · exact (elementwise_vaArith_float float : Elementwise _ _ _ _ _ _ (execVaAdd b ty m s0) _)
      · exact (elementwise_vaArith_float float : Elementwise _ _ _ _ _ _ (execVaSub b ty m s0) _)
      · exact (elementwise_vaArith_float float : Elementwise _ _ _ _ _ _ (execVaMul b ty m s0) _)
      · exact (elementwise_vaFused : Elementwise _ _ _ _ _ _ (execVaFma b ty m s0) _)
      · exact (elementwise_vaFused : Elementwise _ _ _ _ _ _ (execVaFms b ty m s0) _)
      · exact (elementwise_vaFused : Elementwise _ _ _ _ _ _ (execVaFnma b ty m s0) _)
      · exact (elementwise_vaExtreme_float float : Elementwise _ _ _ _ _ _ (execVaMin b ty m s0) _)
      · exact (elementwise_vaExtreme_float float : Elementwise _ _ _ _ _ _ (execVaMax b ty m s0) _)
      · exact (elementwise_vaForm fun _ => if_pos float : Elementwise _ _ _ _ _ _ (execVaAbs b ty m s0) _)
      · exact (elementwise_vaForm fun _ => if_pos float : Elementwise _ _ _ _ _ _ (execVaNeg b ty m s0) _)
      · exact (elementwise_vaFun : Elementwise _ _ _ _ _ _ (execVaRcp b ty m s0) _)
      · exact (elementwise_vaFun : Elementwise _ _ _ _ _ _ (execVaRsqrt b ty m s0) _)
      · exact (elementwise_vaFun : Elementwise _ _ _ _ _ _ (execVaSqrt b ty m s0) _)
      · exact (elementwise_vaFun : Elementwise _ _ _ _ _ _ (execVaExp2 b ty m s0) _)
      · exact (elementwise_vaFun : Elementwise _ _ _ _ _ _ (execVaLog2 b ty m s0) _)
      · exact (elementwise_vaRnd float : Elementwise _ _ _ _ _ _ (execVaRnd b ty m s0) _)
    · have notFloat : ¬ ty.isFloat = true := Bool.eq_false_iff.1 integer
      rcases row with ⟨rfl, rfl⟩ | ⟨rfl, rfl⟩ | ⟨rfl, rfl⟩ | ⟨rfl, rfl⟩ | ⟨rfl, rfl⟩ | ⟨rfl, rfl⟩ | ⟨rfl, rfl⟩ | ⟨rfl, rfl⟩ | ⟨rfl, rfl⟩ |
        ⟨rfl, rfl⟩ | ⟨rfl, rfl⟩ | ⟨rfl, rfl⟩ | ⟨rfl, rfl⟩ | ⟨rfl, rfl⟩ | ⟨rfl, rfl⟩ | ⟨rfl, rfl⟩ | ⟨rfl, rfl⟩ | ⟨rfl, rfl⟩
      · exact (elementwise_vaArith_integer notFloat : Elementwise _ _ _ _ _ _ (execVaAdd b ty m s0) _)
      · exact (elementwise_vaArith_integer notFloat : Elementwise _ _ _ _ _ _ (execVaSub b ty m s0) _)
      · exact (elementwise_vaArith_integer notFloat : Elementwise _ _ _ _ _ _ (execVaMul b ty m s0) _)
      · exact (elementwise_vaForm fun _ => rfl : Elementwise _ _ _ _ _ _ (execVaMulh b ty m s0) _)
      · exact (elementwise_vaExtreme_integer notFloat : Elementwise _ _ _ _ _ _ (execVaMin b ty m s0) _)
      · exact (elementwise_vaExtreme_integer notFloat : Elementwise _ _ _ _ _ _ (execVaMax b ty m s0) _)
      · exact (elementwise_vaForm fun _ => if_neg notFloat : Elementwise _ _ _ _ _ _ (execVaAbs b ty m s0) _)
      · exact (elementwise_vaForm fun _ => if_neg notFloat : Elementwise _ _ _ _ _ _ (execVaNeg b ty m s0) _)
      · exact (elementwise_vaBits : Elementwise _ _ _ _ _ _ (execVaAnd b ty m s0) _)
      · exact (elementwise_vaBits : Elementwise _ _ _ _ _ _ (execVaOr b ty m s0) _)
      · exact (elementwise_vaBits : Elementwise _ _ _ _ _ _ (execVaXor b ty m s0) _)
      · exact (elementwise_vaBits : Elementwise _ _ _ _ _ _ (execVaShl b ty m s0) _)
      · exact (elementwise_vaBits : Elementwise _ _ _ _ _ _ (execVaShr b ty m s0) _)
      · exact (elementwise_vaBits : Elementwise _ _ _ _ _ _ (execVaSar b ty m s0) _)
      · exact (elementwise_vaForm fun _ => rfl : Elementwise _ _ _ _ _ _ (execVaClz b ty m s0) _)
      · exact (elementwise_vaForm fun _ => rfl : Elementwise _ _ _ _ _ _ (execVaPopc b ty m s0) _)
      · exact (elementwise_vaForm fun _ => rfl : Elementwise _ _ _ _ _ _ (execVaAdds b ty m s0) _)
      · exact (elementwise_vaForm fun _ => rfl : Elementwise _ _ _ _ _ _ (execVaSubs b ty m s0) _)
  obtain ⟨op, trigger, lanes⟩ := elementwise
  rw [trigger]
  exact slotTrig_lanes ready plain quiet lanes

end Sys2Proof.Machine
end

section
/-! cmp, cvt and sel, obligation O15, and the FP trap of a vector add (R60, R202, R210-R212). -/

namespace Sys2Proof.Machine

open Host Arith

/-- Every element type is the one of its code (R46). -/
theorem ElemType.ofCode_code (ty : ElemType) : ElemType.ofCode ty.code = some ty := by
  cases ty <;> rfl

/-! ### cmp (R210) -/

/-- Whether a condition holds of two encodings of a type. -/
def cmpHolds (ty : ElemType) (cc x y : Nat) : Bool := if ty.isFloat then (fcmp ty cc x y).1 else icmp cc (intOf ty x) (intOf ty y)

/-- The flags that a comparison raises: those of a float type's. -/
def cmpFlags (ty : ElemType) (cc x y : Nat) : Flags := if ty.isFloat then (fcmp ty cc x y).2 else 0

/-- The result of cmp in a lane: its condition as 0 or 1, with its flags. -/
def cmpLane (ty : ElemType) (cc x y : Nat) : LaneRes := ofFl (if cmpHolds ty cc x y then 1 else 0, cmpFlags ty cc x y)

/-- The lanes of cmp, by the kind of its type. -/
theorem cmpLane_eq (ty : ElemType) (cc x y : Nat) : cmpLane ty cc x y =
    if ty.isFloat then ofFl (if (fcmp ty cc x y).1 then 1 else 0, (fcmp ty cc x y).2)
    else ofNat (if icmp cc (intOf ty x) (intOf ty y) then 1 else 0) := by
  cases float : ty.isFloat <;> simp [cmpLane, cmpHolds, cmpFlags, float, ofFl, ofNat]

/-- Whether a lane of cmp has a result, and it is 1. -/
def cmpHit (r : Option LaneRes) : Bool :=
  match r with
  | some (1, _) => true
  | _ => false

/-- The mask of cmp holds the active lanes whose condition holds. -/
theorem cmpMask_getLsbD (ty : ElemType) (cc : Nat) (on : Nat → Bool) (x y : Nat → Nat) {i : Nat} (lane : i < 64) :
    (maskOf fun i => cmpHit ((runLanes on fun i => cmpLane ty cc (x i) (y i)).getD i none)).getLsbD i =
      (on i && cmpHolds ty cc (x i) (y i)) := by
  rw [maskOf_getLsbD _ lane]
  cases active : on i <;> cases holds : cmpHolds ty cc (x i) (y i) <;>
    simp [runLanes, List.getD_eq_getElem?_getD, lane, active, holds, cmpLane, ofFl, cmpHit]

section
variable {s0 s : State} {b : Bool} {m : Mv} {ty : ElemType} {v : Val}

/-- A condition that the type lacks is an illegal port. -/
theorem execVaCmp_illegal (ready : Ready s0 s (vaUnit b) m (vecClass ty) v)
    (lacks : 6 < (s.t.pw (vaUnit b) 5).toNat ∨ ((s.t.pw (vaUnit b) 5).toNat = 6 ∧ !ty.isFloat)) :
    execVaCmp b ty m s0 = .next (s.raise 1 3 0) :=
  slotTrig_trap ready (if_pos lacks)

/-- A condition of the type writes its mask to .h. -/
theorem execVaCmp_ready (ready : Ready s0 s (vaUnit b) m (vecClass ty) v) (plain : s.t.recording = false)
    (has : ¬ (6 < (s.t.pw (vaUnit b) 5).toNat ∨ ((s.t.pw (vaUnit b) 5).toNat = 6 ∧ !ty.isFloat))) :
    let u := vaUnit b
    let on := (vin s.t u v).on
    let x (i : Nat) : Nat := lane ty (s.t.port u 2).lanes i
    let y (i : Nat) : Nat := lane ty v.lanes i
    let cc := (s.t.pw u 5).toNat
    let fl := activeFlags on fun i => cmpFlags ty cc (x i) (y i)
    s.t.fpTraps fl = false → ∃ h : Word, (∀ i < 64, h.getLsbD i = (on i && cmpHolds ty cc (x i) (y i))) ∧
      execVaCmp b ty m s0 = .next (s.ends u (s.t.result u true (vaLat ty.isFloat) (.w h) fl)) := by
  intro u on x y cc fl quiet
  refine ⟨_, fun i => cmpMask_getLsbD ty cc on x y, slotTrig_vecDone ready plain quiet (drew := []) ?_⟩
  rw [show fl = _ from (outFlags_runLanes on fun i => cmpLane ty cc (x i) (y i)).symm]
  simp only [cmpLane_eq]
  exact ⟨_, if_neg has⟩

/-! ### sel and cvt (R211, R212) -/

/-- sel chooses by m in every lane. -/
theorem execVaSel_ready (ready : Ready s0 s (vaUnit b) m (vecClass ty) v) (plain : s.t.recording = false) :
    let u := vaUnit b
    ∃ o : Lanes, o.length = 64 ∧ (∀ i < 64, o.getD i 0 =
        laneOut ty (if (s.t.pw u 7).getLsbD i then lane ty (s.t.port u 2).lanes i else lane ty v.lanes i)) ∧
      execVaSel b ty m s0 = .next (s.ends u (s.t.result u false (vaLat ty.isFloat) (.v o) 0)) := by
  intro u
  refine ⟨_, ?_, fun i below => (getD_map_range _ below).trans ?_,
    slotTrig_vecDone (drew := []) ready plain (Task.fpTraps_zero _) ⟨_, rfl⟩⟩
  · simp
  · rw [← apply_ite (fun l => lane ty l i)]
    rfl

/-- A conversion from a type of codes 0-13 gives its results of the active lanes. -/
theorem execVaCvt_ready {src : ElemType} (ready : Ready s0 s (vaUnit b) m (vecClass ty) v) (plain : s.t.recording = false)
    (named : src.code = (s.t.pw (vaUnit b) 6).toNat) (scalar : src.code < 14) :
    let u := vaUnit b
    let on := (vin s.t u v).on
    let r (i : Nat) : RRes := convert src ty ((s.t.pw u 9).getLsbD 0) (s.t.env i) (lane src (s.t.port u 2).lanes i)
    let fl := activeFlags on fun i => (r i).flags
    s.t.fpTraps fl = false → ∃ o : Lanes, o.length = 64 ∧ (∀ i < 64, o.getD i 0 = if on i then laneOut ty (r i).bits else 0) ∧
      execVaCvt b ty m s0 = .next (s.ends u ((s.t.drawn ((List.range 64).filter fun i => on i && (r i).drew)).result u false
        (vaLat (ty.isFloat || src.isFloat)) (.v o) fl)) := by
  intro u on r fl quiet
  refine slotTrig_lanes (f := fun i => ofRes (r i)) (on := on) ready plain quiet ?_
  have code : ((vin s.t (vaUnit b) v).t.pw (vin s.t (vaUnit b) v).u 6).toNat = src.code := named.symm
  dsimp only
  rw [code, if_neg (by omega), ElemType.ofCode_code]
  exact ⟨_, if_neg (Nat.not_le.2 scalar)⟩

/-! ### The FP trap of a vector form (R60, R202) -/

/-- A form outside a walk that raises an enabled flag takes the FP trap. -/
theorem Task.fpTraps_enabled {t : Task} {fl : Flags} (enabled : fl &&& t.enables ≠ 0) (direct : t.inWalk = none) :
    t.fpTraps fl = true := by
  rw [Task.fpTraps, direct, bne_iff_ne.2 enabled]
  rfl

/-- A float add that raises an enabled flag takes the FP trap at its slot. -/
theorem execVaAdd_trap (ready : Ready s0 s (vaUnit b) m (vecClass ty) v) (float : ty.isFloat = true) :
    let u := vaUnit b
    let fl := activeFlags (vin s.t u v).on fun i =>
      (addRound ty (s.t.env i) [laneEx ty (s.t.port u 2).lanes i, laneEx ty v.lanes i]).flags
    s.t.fpTraps fl = true → execVaAdd b ty m s0 = .next ((s.setT (s.t.orFlags fl)).raise 2 1 (fpInfo fl s.t.enables)) := by
  intro u fl traps
  obtain ⟨op, trigger, lanes⟩ :=
    (elementwise_vaArith_float float : Elementwise s0 s b m ty v (execVaAdd b ty m s0) _)
  simp only [outFlags_runLanes] at lanes
  exact trigger.trans (slotTrig_fpTrap ready traps lanes)

end

/-- Settles O15: cmp by its mask, sel by its choice and cvt by its conversions, and a vector add whose flag is enabled by its trap. -/
theorem vectorSelectForms : Obligations.VectorSelectForms := by
  unfold Obligations.VectorSelectForms
  refine ⟨fun s0 s b m ty v => ?forms, fun s0 s b m ty v float => ?trap⟩
  case forms =>
    intro u ready plain A B on cc
    refine ⟨fun lacks => ?illegal, fun has => ?cmp, execVaSel_ready ready plain, fun src => execVaCvt_ready ready plain⟩
    case illegal => exact (execVaCmp_illegal ready (by simpa using lacks) : execVaCmp b ty m s0 = _)
    case cmp =>
      refine execVaCmp_ready ready plain fun lacks => ?_
      have lacks : 6 < cc ∨ (cc = 6 ∧ ty.isFloat = false) := by simpa using lacks
      rcases has with low | ⟨ordered, float⟩
      · omega
      · simp [ordered, float] at lacks
  case trap =>
    intro u ready on r fl en enabled direct
    exact execVaAdd_trap ready float (Task.fpTraps_enabled enabled direct)

end Sys2Proof.Machine
end

section
/-! The permuting forms of vx, obligation O16: compact, expand, the transpose step and the permutations, lane by lane (R213, R214, R217,
R220). -/

namespace Sys2Proof.Machine

open Host Arith

/-- The lane that a transpose step moves to lane i, of a or of x, by the half that it makes (R220). -/
def trLane (op half : Nat) (a x : Nat → Nat) (i : Nat) : Nat :=
  if half = 0 then (if i / 2 ^ op % 2 = 0 then a i else x (i - 2 ^ op))
  else if i / 2 ^ op % 2 = 0 then a (i + 2 ^ op) else x i

section
variable {s0 s : State} {m : Mv} {ty : ElemType} {v : Val}

variable (s ty v) in
/-- An outcome is that of a form of vx which completes after a latency with the lanes of a function under its active mask (R200, R213). -/
def Permutes (lat : Nat) (out : Out) (f : Nat → Nat) : Prop :=
  ∃ o : Lanes, o.length = 64 ∧ (∀ j < 64, o.getD j 0 = if (vxIn s.t v).xon j then laneOut ty (f j) else 0) ∧
    out = .next (s.ends 10 (s.t.result 10 false lat (.v o) 0))

variable (ready : Ready s0 s 10 m (vecClass ty) v) (plain : s.t.recording = false)
include ready

/-- A transpose step of an operation or a half that there is not is an illegal port (R220). -/
theorem execVxTrstep_illegal (illegal : 4 < (s.t.pw 10 5).toNat ∨ 1 < (s.t.pw 10 7).toNat) :
    execVxTrstep ty m s0 = .next (s.raise 1 3 0) :=
  slotTrig_trap ready (if_pos illegal)

include plain

/-- A ready form of vx whose operation completes with a function's lanes under the active mask. -/
theorem permutes_slotTrig {lat : Nat} {op : Val → State → Eff} {f : Nat → Nat}
    (lanes : ∃ items, op v s = vecDone s 10 lat false (.v (activeLanes ty (vxIn s.t v).xon f)) 0 [] items) :
    Permutes s ty v lat (slotTrig 10 m (vecClass ty) op s0) f :=
  ⟨_, activeLanes_length .., fun _ lane => activeLanes_getD ty _ f lane, slotTrig_vecDone ready plain (Task.fpTraps_zero _) lanes⟩

/-- A ready permutation (R214). -/
theorem permutes_vxPermute {f : VIn → Nat → Nat} {items : VIn → List (Nat × List Byte)} :
    Permutes s ty v 6 (vxPermute ty m f items s0) (f (vxIn s.t v)) :=
  permutes_slotTrig ready plain ⟨_, rfl⟩

/-- A ready expand gives each active lane the lane of x at its place among the active lanes (R217). -/
theorem permutes_expand : Permutes s ty v 8 (execVxExpand ty m s0) fun i => lane ty v.lanes ((vxIn s.t v).xlanes.idxOf i) :=
  permutes_slotTrig ready plain ⟨_, rfl⟩

/-- A ready transpose step of an operation and a half that there is. -/
theorem permutes_trstep (legal : ¬ (4 < (s.t.pw 10 5).toNat ∨ 1 < (s.t.pw 10 7).toNat)) :
    Permutes s ty v 6 (execVxTrstep ty m s0)
      (trLane (s.t.pw 10 5).toNat (s.t.pw 10 7).toNat (lane ty (s.t.port 10 2).lanes) (lane ty v.lanes)) := by
  refine permutes_slotTrig ready plain
    ⟨_, (if_neg legal).trans (congrArg (fun o => vecDone s 10 6 false (.v o) 0 [] _) (List.map_congr_left fun i _ => ?_))⟩
  have half : (s.t.pw 10 7).toNat = 0 ∨ (s.t.pw 10 7).toNat = 1 := by omega
  have bit : i / 2 ^ (s.t.pw 10 5).toNat % 2 = 0 ∨ i / 2 ^ (s.t.pw 10 5).toNat % 2 = 1 := Nat.mod_two_eq_zero_or_one _
  cases active : (vxIn s.t v).xon i
  · simp
  · rcases half with half | half <;> rcases bit with bit | bit <;> simp [trLane, nbit, half, bit, vxIn]

/-- A ready compact gives the lanes of x that are active, in order, and their number (R217). -/
theorem execVxCompact_ready : let l := (vxIn s.t v).xlanes
    ∃ o h : Lanes, o.length = 64 ∧ h.length = 64 ∧
      (∀ i < 64, o.getD i 0 = if h' : i < l.length then laneOut ty (lane ty v.lanes l[i]) else 0) ∧
      h.getD 0 0 = wd l.length ∧ (∀ i < 64, i ≠ 0 → h.getD i 0 = 0) ∧
      execVxCompact ty m s0 = .next (s.ends 10 ((s.t.result 10 false 8 (.v o) 0).result 10 true 8 (.v h) 0)) := by
  intro l
  refine ⟨_, _, ?_, ?_, fun i below => (getD_map_range _ below).trans ?_, getD_map_range _ (by omega),
    fun i below notFirst => (getD_map_range _ below).trans (if_neg notFirst), slotTrig_done ready (recorded_plain plain)⟩
  · simp
  · simp
  · show (match l[i]? with | some j => laneOut ty (lane ty v.lanes j) | none => 0) = _
    by_cases inside : i < l.length <;> simp [inside]

end

/-- Settles O16: a permutation, expand and a legal transpose step by the lanes of their functions, compact by the order of its active
lanes, and an illegal transpose step by its trap. -/
theorem crossLaneResults : Obligations.CrossLaneResults := by
  unfold Obligations.CrossLaneResults
  intro s0 s m ty v ready plain A X on l op half gives
  have permutes {f : VIn → Nat → Nat} {items : VIn → List (Nat × List Byte)} :=
    permutes_vxPermute ready plain (f := f) (items := items)
  exact ⟨(permutes : Permutes s ty v 6 (execVxPerm ty m s0) _), (permutes : Permutes s ty v 6 (execVxBcast ty m s0) _),
    (permutes : Permutes s ty v 6 (execVxRot ty m s0) _), (permutes : Permutes s ty v 6 (execVxLidx ty m s0) _),
    permutes_expand ready plain, fun low first => permutes_trstep ready plain (by omega), execVxTrstep_illegal ready,
    execVxCompact_ready ready plain⟩

end Sys2Proof.Machine
end

section
/-! Reductions and scans, and the merge and the sort of keys with payloads: obligation O17 (R215, R216, R218, R219). -/

namespace Sys2Proof.Machine

open Host Arith

/-! ### Folds (R215, R216) -/

/-- The operators of a type: 0 to 2 of a float type, 0 to 4 of an integer type. -/
theorem opOk_iff (ty : ElemType) (op : Nat) : opOk ty op = true ↔ op ≤ if ty.isFloat then 2 else 4 := by
  cases float : ty.isFloat <;> simp [opOk, float]

/-- A scan has a result for every leaf. -/
@[simp] theorem scanFold_length (node : Nat × Flags → Nat × Flags → Nat × Flags) (l : List (Nat × Flags)) :
    (scanFold node l).length = l.length := by
  simp [scanFold, scanStep]

/-- The root of the tree of a red form (R215). -/
def VIn.redRoot (v : VIn) (ty : ElemType) : Nat × Flags :=
  (treeFold (opNode ty (v.t.pw 10 5).toNat) 6 (opLeaves ty (v.t.pw 10 5).toNat v.xon v.b)).headD (0, 0)

/-- The results of the network of a scan form (R216). -/
def VIn.scanned (v : VIn) (ty : ElemType) : List (Nat × Flags) :=
  scanFold (opNode ty (v.t.pw 10 5).toNat) (opLeaves ty (v.t.pw 10 5).toNat v.xon v.b)

theorem VIn.scanned_length (v : VIn) (ty : ElemType) : (v.scanned ty).length = 64 := by simp [VIn.scanned, opLeaves]

/-- Whether a lane up to i is active in a form of vx. -/
def VIn.anyTo (v : VIn) (i : Nat) : Bool := (List.range (i + 1)).any v.xon

section
variable {s0 s : State} {m : Mv} {ty : ElemType} {v : Val} (ready : Ready s0 s 10 m (vecClass ty) v)
include ready

/-- red and scan of an operator that the type lacks are an illegal port. -/
theorem execVxFold_illegal (lacks : ¬ opOk ty (s.t.pw 10 5).toNat = true) :
    execVxRed ty m s0 = .next (s.raise 1 3 0) ∧ execVxScan ty m s0 = .next (s.raise 1 3 0) := by
  have refused : (!opOk ty (s.t.pw 10 5).toNat) = true := by simpa using lacks
  exact ⟨slotTrig_trap ready (if_pos refused), slotTrig_trap ready (if_pos refused)⟩

variable (plain : s.t.recording = false) (has : opOk ty (s.t.pw 10 5).toNat = true)
include plain has

/-- A ready red gives the root of its tree in lane 0, or the value of an empty fold (R215). -/
theorem execVxRed_ready {y : Nat} {fl : Flags} (root : (vxIn s.t v).redRoot ty = (y, fl)) :
    let any := (List.range 64).any (vxIn s.t v).xon
    s.t.fpTraps (if any then fl else 0) = false →
    ∃ o : Lanes, o.length = 64 ∧ o.getD 0 0 = laneOut ty (if any then y else opEmpty ty (s.t.pw 10 5).toNat) ∧
      (∀ i < 64, i ≠ 0 → o.getD i 0 = 0) ∧
      execVxRed ty m s0 = .next (s.ends 10 (s.t.result 10 false 12 (.v o) (if any then fl else 0))) := by
  intro any quiet
  have legal : ¬ (!opOk ty (s.t.pw 10 5).toNat) = true := by simpa using has
  refine ⟨(List.range 64).map fun i => if i = 0 then laneOut ty (if any then y else opEmpty ty (s.t.pw 10 5).toNat) else 0,
    by rw [List.length_map, List.length_range], getD_map_range _ (by omega),
    fun i below notFirst => (getD_map_range _ below).trans (if_neg notFirst), slotTrig_vecDone (drew := []) ready plain quiet ?_⟩
  rw [VIn.redRoot] at root
  dsimp only
  rw [root]
  exact ⟨_, if_neg legal⟩

/-- A ready scan gives each lane its result of the network, or the value of an empty fold (R216). -/
theorem execVxScan_ready :
    let ys := (vxIn s.t v).scanned ty
    let any := (vxIn s.t v).anyTo
    let fl : Flags := if any 63 then ys.foldl (fun a y => a ||| y.2) 0 else 0
    s.t.fpTraps fl = false → ∃ o : Lanes, o.length = 64 ∧
      (∀ i < 64, o.getD i 0 = laneOut ty (if any i then (ys.getD i (0, 0)).1 else opEmpty ty (s.t.pw 10 5).toNat)) ∧
      execVxScan ty m s0 = .next (s.ends 10 (s.t.result 10 false 12 (.v o) fl)) := by
  intro ys any fl quiet
  have legal : ¬ (!opOk ty (s.t.pw 10 5).toNat) = true := by simpa using has
  have lanes : ys.length = 64 := VIn.scanned_length ..
  refine ⟨ys.zipIdx.map fun (y, i) => laneOut ty (if any i then y.1 else opEmpty ty (s.t.pw 10 5).toNat), by simp [lanes],
    fun i below => ?_, slotTrig_vecDone (drew := []) ready plain quiet ?_⟩
  · simp [List.getD_eq_getElem?_getD, lanes, below]
  · dsimp only
    exact ⟨_, if_neg legal⟩

end

/-! ### Stable sequences of keys with payloads (R218, R219) -/

/-- Pairs compare by their keys. -/
def pairLe (ty : ElemType) (p q : Nat × Nat) : Bool := keyLe ty p.1 q.1

/-- The pairs of l are those of r, in an order in which keys do not decrease and equal keys keep their order. -/
def StablySorts (ty : ElemType) (r l : List (Nat × Nat)) : Prop :=
  l.Perm r ∧ l.Pairwise (fun p q => pairLe ty p q) ∧ ∀ k, l.filter (fun p => p.1 == k) = r.filter (fun p => p.1 == k)

theorem pairLe_refl (ty : ElemType) (p : Nat × Nat) : pairLe ty p p := by simp [pairLe, keyLe]

theorem pairLe_trans (ty : ElemType) (p q r : Nat × Nat) (first : pairLe ty p q) (second : pairLe ty q r) : pairLe ty p r := by
  simp only [pairLe, keyLe, decide_eq_true_eq] at first second ⊢
  omega

theorem pairLe_total (ty : ElemType) (p q : Nat × Nat) : (pairLe ty p q || pairLe ty q p) = true := by
  simp only [pairLe, keyLe, Bool.or_eq_true, decide_eq_true_eq]
  omega

/-- A merge after a sorted sequence takes its pairs of a key before those of the other sequence, each in its order. -/
theorem filter_key_merge (ty : ElemType) (k : Nat) {l : List (Nat × Nat)} (r : List (Nat × Nat))
    (sorted : l.Pairwise fun p q => pairLe ty p q) :
    (l.merge r (pairLe ty)).filter (fun p => p.1 == k) = l.filter (fun p => p.1 == k) ++ r.filter (fun p => p.1 == k) := by
  induction l, r using List.merge.induct (le := pairLe ty) with
  | case1 r => simp
  | case2 l => simp
  | case3 x l y r before ih =>
    rw [List.cons_merge_cons_pos _ _ _ before, List.filter_cons, List.filter_cons, ih sorted.of_cons]
    split <;> rfl
  | case4 x l y r after ih =>
    rw [List.cons_merge_cons_neg _ _ _ after, List.filter_cons, ih sorted, List.filter_cons (x := y)]
    split
    case isFalse => rfl
    case isTrue key =>
      have other : (x :: l).filter (fun p => p.1 == k) = [] := by
        refine List.filter_eq_nil_iff.2 fun p mem same => after ?_
        have least : pairLe ty x p := by
          rcases List.mem_cons.1 mem with rfl | mem
          · exact pairLe_refl ty p
          · exact List.rel_of_pairwise_cons sorted mem
        rwa [pairLe, eq_of_beq key, ← eq_of_beq same]
      rw [other]
      rfl

/-- A merge of sorted sequences sorts the two stably. -/
theorem stablySorts_merge (ty : ElemType) {l r : List (Nat × Nat)} (left : l.Pairwise fun p q => pairLe ty p q)
    (right : r.Pairwise fun p q => pairLe ty p q) : StablySorts ty (l ++ r) (l.merge r (pairLe ty)) :=
  ⟨List.merge_perm_append _, List.pairwise_merge (pairLe_trans ty) (pairLe_total ty) l r left right,
    fun k => by rw [filter_key_merge ty k r left, List.filter_append]⟩

/-- The merge of the model, with fuel for both sequences. -/
theorem mergePairs_eq_merge (ty : ElemType) (n : Nat) (l r : List (Nat × Nat)) (fuel : l.length + r.length ≤ n) :
    mergePairs (keyLe ty) n l r = l.merge r (pairLe ty) := by
  induction n generalizing l r with
  | zero =>
    obtain ⟨rfl, rfl⟩ : l = [] ∧ r = [] := by simpa using fuel
    simp [mergePairs]
  | succ n ih =>
    match l, r with
    | [], r => simp [mergePairs]
    | x :: l, [] => simp [mergePairs]
    | x :: l, y :: r =>
      simp only [List.length_cons] at fuel
      rw [mergePairs, ih _ _ (by simp; omega), ih _ _ (by simp; omega), List.cons_merge_cons]
      rfl

/-- An insertion is a merge with the pair alone. -/
theorem insertPair_eq_merge (ty : ElemType) (x : Nat × Nat) (l : List (Nat × Nat)) :
    insertPair (keyLe ty) x l = l.merge [x] (pairLe ty) := by
  induction l with
  | nil => simp [insertPair]
  | cons y l ih =>
    rw [insertPair, ih, List.cons_merge_cons]
    simp [pairLe]

/-- Insertions into a sorted sequence sort it, with what is inserted after it, stably. -/
theorem stablySorts_insert (ty : ElemType) (r : List (Nat × Nat)) {l : List (Nat × Nat)}
    (sorted : l.Pairwise fun p q => pairLe ty p q) :
    StablySorts ty (l ++ r) (r.foldl (fun l p => insertPair (keyLe ty) p l) l) := by
  induction r generalizing l with
  | nil => simpa using stablySorts_merge ty sorted .nil
  | cons x r ih =>
    obtain ⟨inserted, sorted', stable⟩ := stablySorts_merge ty sorted (List.pairwise_singleton _ x)
    obtain ⟨perm, last, stable'⟩ := ih sorted'
    rw [List.foldl_cons, insertPair_eq_merge, List.append_cons]
    exact ⟨perm.trans (inserted.append_right r), last, fun k => by rw [stable', List.filter_append, stable, ← List.filter_append]⟩

section
variable {s0 s : State} {m : Mv} {ty : ElemType} {v : Val} (ready : Ready s0 s 10 m (vecClass ty) v)
include ready

/-- A ready sort64 writes its pairs, inserted one after the other (R219). -/
theorem execVxSort64_ready :
    let l := (keyed ty v.lanes (s.t.port 10 4).lanes).foldl (fun l p => insertPair (keyLe ty) p l) []
    execVxSort64 ty m s0 = .next (s.ends 10 ((s.t.result 10 false 12 (.v (l.map fun p => laneOut ty p.1)) 0).result 10 true 12
      (.v (l.map fun p => laneOut ty p.2)) 0)) :=
  slotTrig_done ready rfl

/-- A merge of a half that there is not is an illegal port (R218). -/
theorem execVxMerge_illegal (illegal : 1 < (s.t.pw 10 7).toNat) : execVxMerge ty m s0 = .next (s.raise 1 3 0) :=
  slotTrig_trap ready (if_pos illegal)

/-- A ready merge writes a half of the merge of its pairs (R218). -/
theorem execVxMerge_ready (legal : (s.t.pw 10 7).toNat ≤ 1) :
    let l := (keyed ty (s.t.port 10 2).lanes (s.t.port 10 4).lanes).merge (keyed ty v.lanes (s.t.port 10 6).lanes) (pairLe ty)
    let w := (l.drop (64 * (s.t.pw 10 7).toNat)).take 64
    execVxMerge ty m s0 = .next (s.ends 10 ((s.t.result 10 false 8 (.v (w.map fun p => laneOut ty p.1)) 0).result 10 true 8
      (.v (w.map fun p => laneOut ty p.2)) 0)) := by
  refine slotTrig_done ready ?_
  rw [← mergePairs_eq_merge ty 128 _ _ (by simp [keyed])]
  exact if_neg (Nat.not_lt.2 legal)

end

/-- Settles O17: red and scan by their folds, sort64 by insertions into the empty sequence, and merge by the merge of the two sequences. -/
theorem foldSortResults : Obligations.FoldSortResults := by
  unfold Obligations.FoldSortResults
  refine ⟨fun s0 s m ty v ready plain => ?folds, fun s0 s m ty v ready => ?sorts⟩
  case folds =>
    intro on op leaves
    refine ⟨fun lacks => ?illegal, fun has => ?legal⟩
    case illegal =>
      obtain ⟨red, scan⟩ := execVxFold_illegal ready (mt (opOk_iff ..).1 (Nat.not_le.2 lacks))
      exact List.forall_mem_cons.2 ⟨red, List.forall_mem_singleton.2 scan⟩
    case legal =>
      have has := (opOk_iff ..).2 has
      exact ⟨fun y fl root => execVxRed_ready ready plain has root, execVxScan_ready ready plain has⟩
  case sorts =>
    intro pairs le done
    have le_iff (p q : Nat × Nat) : pairLe ty p q = true ↔ le p q := decide_eq_true_iff
    refine ⟨?sort, ?merge⟩
    case sort =>
      obtain ⟨perm, sorted, stable⟩ := stablySorts_insert ty (pairs v.lanes (s.t.port 10 4).lanes) .nil
      exact ⟨_, perm, sorted.imp (le_iff _ _).1, stable, execVxSort64_ready ready⟩
    case merge =>
      intro P Q half
      refine ⟨execVxMerge_illegal ready, fun legal => ⟨P.merge Q (pairLe ty), List.merge_perm_append _, fun left right => ?_,
        execVxMerge_ready ready legal⟩⟩
      obtain ⟨-, sorted, stable⟩ := stablySorts_merge ty (left.imp (le_iff _ _).2) (right.imp (le_iff _ _).2)
      exact ⟨sorted.imp (le_iff _ _).1, stable⟩

end Sys2Proof.Machine
end

section
/-! The load forms of global memory, obligation O19 (R261-R264, R128). -/

namespace Sys2Proof.Machine

open Host Arith

section
variable {s0 s s1 : State} {m : Mv} {x : Word} {ty : ElemType} {n d : Nat} {pas : List (Nat × Nat)}

/-- gm.ld of an element that is reached waits in its entry (R263). -/
theorem execGmLd_ready (ready : ReadyW s0 s 7 m x) (direct : s1.t.spec = false) (free : LandFree s0 s false n d)
    (reached : Reached s ty.bytes .read [(x.toNat, ty.bytes)] pas s1) : execGmLd ty m s0 =
      .next ((s1.loadIssued n d 16 ty.code none ((pas.zip [s1.pageAttr x]).map fun (p, k) => ⟨p.1, p.2, k, none⟩) 1 x false).slotEnds 7) := by
  refine trigW_done ready free.1 ?_
  rw [gmLand_free free, gmReach_reached reached, gmWhen_direct direct, gmIssueLoad_direct direct]

/-- gm.ldv of active lanes that are reached waits in its entry, or in a pair of them (R263). -/
theorem execGmLdv_ready (ready : ReadyW s0 s 7 m x) (direct : s1.t.spec = false) (free : LandFree s0 s ty.is64 n d)
    (reached : Reached s ty.bytes .read ((gmLanes s.t x ty.bytes).map fun p => (p.2, ty.bytes)) pas s1) : execGmLdv ty m s0 =
      .next ((s1.loadIssued n d 17 ty.code none
        ((pas.zip ((gmLanes s.t x ty.bytes).map fun p => s1.pageAttr (wd p.2))).map fun (p, k) => ⟨p.1, p.2, k, none⟩)
        (maskOf fun i => (gmLanes s.t x ty.bytes).any fun p => p.1 == i) x ty.is64).slotEnds 7) := by
  refine trigW_done ready free.1 ?_
  rw [gmLand_free free]
  refine (gmReach_reached reached _).trans ?_
  rw [gmWhen_direct direct, gmIssueLoad_direct direct]

/-- A tile port that names one of the task's tiles (R226). -/
theorem gmTile_owned {code k : Nat} (named : (s.t.port 7 7).word.toNat = code) (owned : s.t.tmap.find? code = some k) (ok : Nat → Nat → Eff) :
    gmTile s ok = ok code k := by
  simp only [gmTile, Task.portTile, named, owned]

/-- gm.ldt of a tile that is reached waits in its entry; the tag of an a tile is f32 (R264). -/
theorem execGmLdt_ready {code k : Nat} (ready : ReadyW s0 s 7 m x) (direct : s1.t.spec = false) (free : LandFree s0 s false n d)
    (named : (s.t.port 7 7).word.toNat = code) (owned : s.t.tmap.find? code = some k)
    (reached : Reached s 128 .read (pagePieces 3 x.toNat (tileSize (code / 32))) pas s1) :
    let c := s1.coreAt s1.t.core
    let s2 := if code / 32 = 6 then s1.setCore s1.t.core { c with tags := c.tags.set k 10 } else s1
    execGmLdt m s0 = .next ((s2.loadIssued n d 18 0 (some (s1.t.core, tileOff (code / 32) k))
      (((pas.flatMap fun p => (List.range (p.2 / 128)).map fun i => (p.1 + 128 * i, 128)).zip
        ((List.range (tileSize (code / 32) / 128)).map fun i => s2.pageAttr (x + wd (128 * i)))).map fun (p, k) => ⟨p.1, p.2, k, none⟩)
      0 x false).slotEnds 7) := by
  intro c s2
  have direct2 : s2.t.spec = false := by
    simp only [s2]
    split <;> exact direct
  refine trigW_done ready free.1 ?_
  rw [gmLand_free free, gmTile_owned named owned]
  refine (gmReach_reached reached _).trans ?_
  rw [gmWhen_direct direct]
  exact gmIssueLoad_direct direct2 ..

end

/-- The mask of the lanes that an access lists. -/
theorem maskOf_listed_getLsbD (l : List Nat) (at_ : Nat → Nat) {i : Nat} (lane : i < 64) :
    (maskOf fun i => (l.map fun i => (i, at_ i)).any fun p => p.1 == i).getLsbD i = l.contains i := by
  rw [maskOf_getLsbD _ lane, List.any_map, List.contains_eq_any_beq]
  simp [Function.comp_def, Bool.beq_comm]

/-- Pieces with the ATTR of their addresses' pages. -/
theorem map_zip_pageAttr (s : State) (pas : List (Nat × Nat)) (vas : List Word) :
    (pas.zip vas).map (fun (p, va) => (⟨p.1, p.2, s.pageAttr va, none⟩ : Piece)) =
      (pas.zip (vas.map s.pageAttr)).map fun (p, k) => ⟨p.1, p.2, k, none⟩ := by
  rw [List.zip_map_right, List.map_map]
  rfl

/-- Settles O19: each load form goes through its entry and its access to the load that it issues. -/
theorem globalLoadResults : Obligations.GlobalLoadResults := by
  unfold Obligations.GlobalLoadResults
  intro s0 s m x ty n d pas s1 ready direct lanes at_ pieces
  refine ⟨fun free reached => ?element, fun free reached => ?vector, fun code k named owned free reached => ?tile⟩
  case element =>
    rw [show pieces pas [x] = _ from map_zip_pageAttr s1 pas [x]]
    exact execGmLd_ready ready direct free reached
  case vector =>
    have listed : gmLanes s.t x ty.bytes = lanes.map fun i => (i, at_ i) := rfl
    have form := execGmLdv_ready (pas := pas) ready direct free (by rw [listed, List.map_map]; exact reached)
    rw [listed, List.map_map] at form
    rw [show pieces pas _ = _ from map_zip_pageAttr s1 pas (lanes.map fun i => wd (at_ i)), List.map_map]
    exact ⟨_, fun i lane => maskOf_listed_getLsbD lanes at_ lane, form⟩
  case tile => exact execGmLdt_ready ready direct free named owned reached

end Sys2Proof.Machine
end

section
/-! The store forms of global memory, obligation O20 (R264, R265), which fails: the trace record of a store (R484) names the slot at which
the store was issued, and the statement names the slot of the task once it is issued. They differ where the store aborts a later task
(R333) whose own pending store, which an abort performs (R337), is to the register window of the storing strand (R413) and moves its slot. -/

namespace Sys2Proof.Machine

open Host Arith

/-- gm.st of an element that is reached: it is issued, and traced with the slot that issued it (R265, R484). -/
theorem execGmSt_ready {s0 s s1 : State} {m : Mv} {x : Word} {ty : ElemType} {pas : List (Nat × Nat)} (ready : ReadyW s0 s 7 m x)
    (direct : s1.t.spec = false) (reached : Reached s ty.bytes .write [(x.toNat, ty.bytes)] pas s1) :
    let els := pas.map fun p => (x, p.1, ty.bytes, (s1.t.pw 7 2).toNat % 2 ^ ty.bits)
    let parts := joinParts (els.map fun (v, pa, z, x) => (pa, toBytes z x, storeAttr (s1.pageAttr v) 0))
    let s2 := s1.setT (s1.t.foldStore els)
    gmPushOk s1 parts = true → execGmSt ty m s0 = .next (((s2.issueStore parts).trace 4 s2.t.slot 0 x).slotEnds 7) := by
  intro els parts s2 push
  refine trigW_done ready ready.unused ?_
  rw [gmStoreOne, gmReach_reached reached, gmWhen_direct direct]
  show gmIssueStore s1 x 0 0 els = _
  rw [gmIssueStore, show gmPushOk s1 _ = true from push]
  rfl

namespace StoreAborts

/-- The setup of an ordered task (R318). -/
def ordered : Setup := { (default : Setup) with mode := 1 }

/-- The storing task: ordered and serial (R334), at slot 0 of its bundle. -/
def storer : Task :=
  { (default : Task) with stage := .resident, setup := ordered, ctl := { (default : Ctl) with mode := 0x20 } }

/-- A later task of the group that has read the sector to be stored, with a store to the storer's register window still to be performed:
the slot of its resume point (R411). -/
def reader : Task :=
  { (default : Task) with
    setup := ordered, stamp := 1, ordered := [⟨0x40000100 / 128, true, false, []⟩]
    stores := [⟨coreWin 0 0xB0010, [3], 0, 0, none, 0, none, .none⟩] }

/-- The storer's core, with the page of address 0 cached, and tracing. -/
def core : Core :=
  { Core.init with
    tlb := [⟨0, 0, 21, 0, 0x4000007F⟩], res := [(0, 0)], trace := { (default : Trace) with en := true } }

/-- The part with both tasks, the storer at its slot. -/
def state : State := { State.reset with cores := [(0, core)], tasks := [(0, storer), (1, reader)], ntasks := 2 }

/-- The store of 0 to address 0x100, as elements. -/
def els : List (Word × Nat × Nat × Nat) :=
  [(0x40000100, 8)].map fun p => (0x100, p.1, ElemType.s64.bytes, (state.t.pw 7 2).toNat % 2 ^ ElemType.s64.bits)

/-- Its parts. -/
def parts : List (Nat × List Byte × Nat) :=
  joinParts (els.map fun (v, pa, z, x) => (pa, toBytes z x, storeAttr (state.pageAttr v) 0))

/-- The part as it issues the store. -/
def folded : State := state.setT (state.t.foldStore els)

/-- The part once the store is issued. -/
def issued : State := folded.issueStore parts

/-- The source byte of core 0's first trace record: its strand and slot (R484). -/
def source (s : State) : Byte := ((s.coreAt 0).trace.ring.get 0 []).getD 7 0

/-- The store is issued at the storer's slot. -/
theorem slot_folded : folded.t.slot = 0 := by decide +kernel

/-- The abort of the reader has moved the storer's slot. -/
theorem slot_issued : issued.t.slot = 3 := by decide +kernel

/-- The trace record of the store's own slot. -/
theorem source_slot0 : source ((issued.trace 4 0 0 0x100).slotEnds 7) = 0 := by decide +kernel

/-- The trace record of the slot that the abort has left. -/
theorem source_slot3 : source ((issued.trace 4 3 0 0x100).slotEnds 7) = 12 := by decide +kernel

end StoreAborts

open StoreAborts in
/-- Refutes O20: a serial ordered task at slot 0 stores to a sector that a later task has read. The abort of that task performs its store
to the register window of the storer, whose slot becomes 3; the trace record holds slot 0, where the statement has slot 3. -/
theorem not_globalStoreResults : ¬ Obligations.GlobalStoreResults := by
  unfold Obligations.GlobalStoreResults
  intro h
  have ready : ReadyW state state 7 ⟨none, .imm 0x100⟩ 0x100 := ⟨.w _, ⟨⟨.S, _, ⟨rfl, rfl, rfl, rfl⟩, rfl⟩, rfl⟩, rfl⟩
  have reached : Reached state 8 .write [((0x100 : Word).toNat, 8)] [(0x40000100, 8)] state := ⟨by decide, rfl⟩
  have push : gmPushOk state parts = true := by decide
  obtain ⟨element, -⟩ := h state state ⟨none, .imm 0x100⟩ 0x100 .s64 [(0x40000100, 8)] state ready rfl
  have ⟨s2, t, fold, issue, _, claimed⟩ := (element reached).1 push
  have left : t = issued := issue.trans (congrArg (fun s => State.issueStore s parts) fold)
  rw [left] at claimed
  have run : execGmSt .s64 ⟨none, .imm 0x100⟩ state = .next ((issued.trace 4 folded.t.slot 0 0x100).slotEnds 7) :=
    execGmSt_ready ready rfl reached push
  rw [slot_folded] at run
  have same : (0 : Byte) = 12 :=
    calc
      0 = source ((issued.trace 4 0 0 0x100).slotEnds 7) := source_slot0.symm
      _ = source ((issued.trace 4 issued.t.slot 0 0x100).slotEnds 7) := congrArg source (Outcome.next.inj (run.symm.trans claimed))
      _ = source ((issued.trace 4 3 0 0x100).slotEnds 7) := by rw [slot_issued]
      _ = 12 := source_slot3
  exact absurd same (by decide)

end Sys2Proof.Machine
end

section
/-! The cache forms and the faults of global memory, obligation O21 (R262, R266), which fails: gm.pref of an address that is not reached
leaves the state as it found it, and the statement asks for what the translation leaves. They differ where a walk sets A in its leaf (R436)
and the physical map does not permit the access (R84, R435). -/

namespace Sys2Proof.Machine

open Host Arith

/-- gm.pref of an address that is not reached drops it, with what its translation changed (R266). -/
theorem execGmPref_dropped {s0 s : State} {m : Mv} {x : Word} {l2 : Bool} {code : Nat} {va : Word} (ready : ReadyW s0 s 7 m x)
    (bad : (s.reachPieces s.t.core (s.asidOf s.t) (s.accOf s.t) .read [(x.toNat, 1)]).2 = .bad code va) :
    execGmPref l2 m s0 = .next (s.slotEnds 7) := by
  refine trigW_done ready ready.unused ?_
  generalize s.reachPieces s.t.core (s.asidOf s.t) (s.accOf s.t) .read [(x.toNat, 1)] = r at bad
  obtain ⟨s1, _⟩ := r
  cases bad
  rfl

namespace PrefDropped

/-- The part with tables of three levels in HBM, whose leaf maps address 0 to CXL memory with A clear (R433, R434), and no CXL link up. -/
def state : State :=
  { State.reset with
    asids := [(0, 0x1000)]
    mem := [(0x1000, 0x01), (0x1001, 0x20), (0x2000, 0x01), (0x2001, 0x30), (0x3000, 0x07), (0x3006, 0x01)] }

/-- What the translation of address 0x100 leaves, and its end. -/
def reached : State × Reach := state.reachPieces state.t.core (state.asidOf state.t) (state.accOf state.t) .read [((0x100 : Word).toNat, 1)]

/-- The physical map does not permit the access (R84). -/
theorem reached_bad : reached.2 = .bad 2 0x100 := by decide +kernel

/-- The walk has set A in the leaf. -/
theorem leaf_reached : Memory.get reached.1.mem 0x3000 = 0x27 := by decide +kernel

end PrefDropped

open PrefDropped in
/-- Refutes O21: gm.pref of address 0x100, whose leaf names CXL memory that is not linked, leaves A of the leaf clear, and the statement has
the memory in which the walk has set it. -/
theorem not_cacheFormsAndFaults : ¬ Obligations.CacheFormsAndFaults := by
  unfold Obligations.CacheFormsAndFaults
  rintro ⟨forms, -⟩
  have ready : ReadyW state state 7 ⟨none, .imm 0x100⟩ 0x100 := ⟨.w _, ⟨⟨.S, _, ⟨rfl, rfl, rfl, rfl⟩, rfl⟩, rfl⟩, rfl⟩
  obtain ⟨t, claimed, -, mem, -⟩ := (forms state state ⟨none, .imm 0x100⟩ 0x100 false 0 0 [] state ready).1
  have run : execGmPref false ⟨none, .imm 0x100⟩ state = .next (state.slotEnds 7) := execGmPref_dropped ready reached_bad
  have same : state.mem = reached.1.mem :=
    calc
      state.mem = (state.slotEnds 7).mem := rfl
      _ = (t.slotEnds 7).mem := congrArg State.mem (Outcome.next.inj (run.symm.trans claimed))
      _ = reached.1.mem := mem
  have leaf : (0x07 : Byte) = 0x27 :=
    calc
      0x07 = Memory.get state.mem 0x3000 := by decide
      _ = Memory.get reached.1.mem 0x3000 := by rw [same]
      _ = 0x27 := leaf_reached
  exact absurd leaf (by decide)

end Sys2Proof.Machine
end

section
/-! SUPPORT. The one pending release of a strand, with no other access to be performed, is performed at once (R97 item 3, R276, R279). -/

namespace Sys2Proof.Machine

open Host

/-- A strand whose one pending store is a release that names no memory, and which waits for no load. -/
structure OneRelease (s : State) (y : Store) : Prop where
  stores : s.t.stores = [y]
  loads : s.t.waitingLoads = []
  release : y.rel ≠ .none
  pa : y.pa = 0

/-- A strand with nothing to be performed that issues a release: the state before it is performed. -/
def State.withRelease (s : State) (rel : Rel) : State :=
  s.setT { s.t with stores := s.t.stores ++ [⟨0, [], 0, s.t.nseq, none, 0, none, rel⟩], nseq := s.t.nseq + 1 }

/-- A strand with nothing to be performed has one pending release as it issues one. -/
theorem oneRelease_withRelease {s : State} {rel : Rel} (stores : s.t.stores = []) (loads : s.t.waitingLoads = []) (release : rel ≠ .none) :
    OneRelease (s.withRelease rel) ⟨0, [], 0, s.t.nseq, none, 0, none, rel⟩ where
  stores := by rw [State.withRelease, State.t_setT, stores]; rfl
  loads := by rw [State.withRelease, State.t_setT]; exact loads
  release := release
  pa := rfl

namespace OneRelease
variable {s : State} {y : Store} (one : OneRelease s y)
include one

/-- It is found by its place. -/
theorem find : s.t.stores.find? (fun x => x.seq == y.seq) = some y := by simp [one.stores]

/-- Settling the strand performs it. -/
theorem settleAll : s.settleAll s.cur = s.performStore s.cur y.seq := by
  have pending : s.t.pendingSeqs = [y.seq] := by simp [Task.pendingSeqs, one.stores, one.loads, insertNat]
  rw [State.settleAll, State.performWhere, show s.task s.cur = s.t from rfl, pending]
  simp only [List.foldl_cons, List.foldl_nil, show s.task s.cur = s.t from rfl, one.find, one.loads, if_true, List.find?_nil]

/-- Nothing that it orders is to be performed before it. -/
theorem released : s.released s.cur y.seq y.pa = true := by
  simp [State.released, show s.task s.cur = s.t from rfl, one.stores, one.loads]

/-- An arrival counts as performed (R276). -/
theorem performStore_arrive {g key phase : Nat} (arrival : y.rel = .arrive g key phase) :
    s.performStore s.cur y.seq = (s.arrived g key phase).dropStore s.cur y.seq := by
  have first : s.t.inOrder y.seq y.pa y.bytes.length = true := by simp [Task.inOrder, one.stores, one.loads]
  have push : y.push = none := by rw [Store.push, one.pa]; rfl
  rw [State.performStore, show s.task s.cur = s.t from rfl, one.find]
  simp [first, push, one.released, arrival]

/-- A trigger marks its task (R279). -/
theorem performStore_trig (trigger : y.rel = .trig) :
    s.performStore s.cur y.seq = (s.setT { s.t with trigged := true }).dropStore s.cur y.seq := by
  have first : s.t.inOrder y.seq y.pa y.bytes.length = true := by simp [Task.inOrder, one.stores, one.loads]
  have push : y.push = none := by rw [Store.push, one.pa]; rfl
  rw [State.performStore, show s.task s.cur = s.t from rfl, one.find]
  simp [first, push, one.released, trigger]
  rfl

end OneRelease

/-- A barrier arrival of a strand with nothing to be performed is performed at once (R276). -/
theorem issueRelease_arrive {s : State} (stores : s.t.stores = []) (loads : s.t.waitingLoads = []) (g key phase : Nat) :
    s.issueRelease (.arrive g key phase) 0 [] 0 =
      ((s.withRelease (.arrive g key phase)).arrived g key phase).dropStore s.cur s.t.nseq := by
  have one := oneRelease_withRelease stores loads (rel := .arrive g key phase) (by simp)
  exact one.settleAll.trans (one.performStore_arrive rfl)

/-- A trigger of a strand with nothing to be performed is performed at once (R279). -/
theorem issueRelease_trig {s : State} (stores : s.t.stores = []) (loads : s.t.waitingLoads = []) :
    s.issueRelease .trig 0 [] 0 =
      ((s.withRelease .trig).setT { (s.withRelease .trig).t with trigged := true }).dropStore s.cur s.t.nseq := by
  have one := oneRelease_withRelease stores loads (rel := .trig) (by simp)
  exact one.settleAll.trans (one.performStore_trig rfl)

/-- A strand that has performed a store. -/
theorem State.t_setT_dropStore (s : State) (t : Task) (seq : Nat) :
    ((s.setT t).dropStore s.cur seq).t = { t with stores := t.stores.filter (fun y => y.seq != seq) } := by
  rw [State.dropStore, show (s.setT t).task s.cur = t from State.t_setT s t]
  exact State.t_setT _ _

/-- The task after a trigger of a strand with nothing to be performed. -/
theorem t_issueRelease_trig {s : State} (stores : s.t.stores = []) (loads : s.t.waitingLoads = []) :
    (s.issueRelease .trig 0 [] 0).t = { s.t with stores := [], nseq := s.t.nseq + 1, trigged := true } := by
  rw [issueRelease_trig stores loads, show s.cur = (s.withRelease .trig).cur from rfl, State.t_setT_dropStore]
  simp [State.withRelease, stores]

/-- A trigger writes no memory. -/
theorem mem_issueRelease_trig {s : State} (stores : s.t.stores = []) (loads : s.t.waitingLoads = []) :
    (s.issueRelease .trig 0 [] 0).mem = s.mem := by
  rw [issueRelease_trig stores loads]
  rfl

/-- The task at the end of a slot that triggered a unit. -/
@[simp] theorem State.t_slotEnds (s : State) (u : Nat) :
    (s.slotEnds u).t = { s.t with cur := { s.t.cur with used := u :: s.t.cur.used }, slot := s.t.slot + 1 } := State.t_setT s _

section
variable {s0 s t : State} {u : Nat} {m : Mv} {x : Word} {f : Word → State → Eff}

/-! ### How a ready form ends that asks for nothing more than a free unit -/

/-- One whose operation completes in the state t ends its slot there. -/
theorem ReadyW.done (ready : ReadyW s0 s u m x) (done : f x s = .done t) : trigW u m f s0 = .next (t.slotEnds u) :=
  trigW_done ready ready.unused done

/-- One whose operation traps raises the trap at its slot. -/
theorem ReadyW.trap {cls code : Nat} {info : Word} (ready : ReadyW s0 s u m x) (trap : f x s = .trap t cls code info) :
    trigW u m f s0 = .next (t.raise cls code info) :=
  trigW_trap ready ready.unused trap

/-- One whose operation waits ends the block, outside a walk. -/
theorem ReadyW.block {h : Head} (ready : ReadyW s0 s u m x) (block : f x s = .block t h) (direct : t.t.inWalk = none) :
    trigW u m f s0 = .next (t.endBlock h) :=
  trigW_block ready ready.unused block direct

end

end Sys2Proof.Machine
end

section
/-! Fences, releases and unlock, obligation O22 (R97, R270, R271, R274, R279). -/

namespace Sys2Proof.Machine

open Host Arith

section
variable {s0 s s1 t : State} {m : Mv} {x : Word} {scope : BitVec 3} {pa : Nat} {f : Word → State → Eff}

/-! ### How a ready synchronisation form ends -/

/-- A form whose operation completes in the state t ends its slot there. -/
theorem syForm_done (ready : ReadyW s0 s 16 m x) (done : f x s = .done t) : syForm m f s0 = .next (t.slotEnds 16) :=
  ready.done done

/-- A form whose operation traps raises the trap at its slot. -/
theorem syForm_trap {cls code : Nat} {info : Word} (ready : ReadyW s0 s 16 m x) (trap : f x s = .trap t cls code info) :
    syForm m f s0 = .next (t.raise cls code info) :=
  ready.trap trap

/-- A form whose operation waits ends the block, outside a walk. -/
theorem syForm_block {h : Head} (ready : ReadyW s0 s 16 m x) (block : f x s = .block t h) (direct : t.t.inWalk = none) :
    syForm m f s0 = .next (t.endBlock h) :=
  ready.block block direct

/-! ### Fences (R270) -/

/-- A form that waits for the strand's earlier accesses goes on once they are performed (R97). -/
theorem drained_idle (idle : (s.settleAll s.cur).t.memIdle = true) (ok : State → Eff) : s.drained ok = ok (s.settleAll s.cur) := by
  simp only [State.drained, idle, if_true]

/-- While one of them is still to be performed it waits. -/
theorem drained_waits (waits : (s.settleAll s.cur).t.memIdle = false) (ok : State → Eff) :
    s.drained ok = .block (s.settleAll s.cur) .fence := by
  simp only [State.drained, waits, Bool.false_eq_true, if_false]

/-- A fence of scope strand completes at once. -/
theorem execSyFence_strand (ready : ReadyW s0 s 16 m x) : execSyFence 0 m s0 = .next (s.slotEnds 16) :=
  syForm_done ready (if_pos rfl)

/-- A wider fence completes once every earlier access is performed. -/
theorem execSyFence_idle (ready : ReadyW s0 s 16 m x) (wide : scope ≠ 0) (idle : (s.settleAll s.cur).t.memIdle = true) :
    execSyFence scope m s0 = .next ((s.settleAll s.cur).slotEnds 16) :=
  syForm_done ready ((if_neg wide).trans (drained_idle idle _))

/-- Until then the strand waits with it. -/
theorem execSyFence_waits (ready : ReadyW s0 s 16 m x) (wide : scope ≠ 0) (waits : (s.settleAll s.cur).t.memIdle = false)
    (direct : (s.settleAll s.cur).t.inWalk = none) : execSyFence scope m s0 = .next ((s.settleAll s.cur).endBlock .fence) :=
  syForm_block ready ((if_neg wide).trans (drained_waits waits _)) direct

/-- An xfence of a path above 5 is an illegal port. -/
theorem execSyXfence_illegal (ready : ReadyW s0 s 16 m x) (above : 5 < (s.t.pw 16 5).toNat ∨ 5 < (s.t.pw 16 6).toNat) :
    execSyXfence scope m s0 = .next (s.raise 1 3 0) :=
  syForm_trap ready (if_pos above)

/-- An xfence from an engine completes at once. -/
theorem execSyXfence_engine (ready : ReadyW s0 s 16 m x) (legal : ¬ (5 < (s.t.pw 16 5).toNat ∨ 5 < (s.t.pw 16 6).toNat))
    (engine : (s.t.pw 16 5).toNat ≠ 0) : execSyXfence scope m s0 = .next (s.slotEnds 16) :=
  syForm_done ready ((if_neg legal).trans (if_neg engine))

/-- An xfence from ST completes once every earlier access is performed. -/
theorem execSyXfence_idle (ready : ReadyW s0 s 16 m x) (legal : ¬ (5 < (s.t.pw 16 5).toNat ∨ 5 < (s.t.pw 16 6).toNat))
    (strand : (s.t.pw 16 5).toNat = 0) (idle : (s.settleAll s.cur).t.memIdle = true) :
    execSyXfence scope m s0 = .next ((s.settleAll s.cur).slotEnds 16) :=
  syForm_done ready ((if_neg legal).trans ((if_pos strand).trans (drained_idle idle _)))

/-- Until then the strand waits with it. -/
theorem execSyXfence_waits (ready : ReadyW s0 s 16 m x) (legal : ¬ (5 < (s.t.pw 16 5).toNat ∨ 5 < (s.t.pw 16 6).toNat))
    (strand : (s.t.pw 16 5).toNat = 0) (waits : (s.settleAll s.cur).t.memIdle = false)
    (direct : (s.settleAll s.cur).t.inWalk = none) : execSyXfence scope m s0 = .next ((s.settleAll s.cur).endBlock .fence) :=
  syForm_block ready ((if_neg legal).trans ((if_pos strand).trans (drained_waits waits _))) direct

/-! ### The trigger of dependants (R279) -/

/-- A task that has triggered, or is about to, triggers no more. -/
theorem execSyTrig_again (ready : ReadyW s0 s 16 m x) (direct : s.t.spec = false)
    (again : s.t.trigged = true ∨ ∃ y ∈ s.t.stores, y.rel = .trig) : execSyTrig m s0 = .next (s.slotEnds 16) := by
  refine syForm_done ready ?_
  rw [State.serialised_of_plain direct, if_pos]
  simpa using again

/-- The first trigger of a task issues its release. -/
theorem execSyTrig_first (ready : ReadyW s0 s 16 m x) (direct : s.t.spec = false) (new : s.t.trigged = false)
    (none : ∀ y ∈ s.t.stores, y.rel ≠ .trig) : execSyTrig m s0 = .next ((s.issueRelease .trig 0 [] 0).slotEnds 16) := by
  refine syForm_done ready ?_
  rw [State.serialised_of_plain direct, if_neg]
  simpa [new] using none

/-! ### Releases of an object (R271, R274) -/

/-- An access of a synchronisation form that is reached goes on with its physical address (R88, R91). -/
theorem syReach_reached {align n : Nat} (reached : SyReached s align n x pa s1) (ok : Nat → State → Eff) :
    syReach s align n .atomic x ok = ok pa s1 := by
  obtain ⟨aligned, canonic, k, r, ends⟩ := reached
  simp [syReach, aligned, canonic, ends]

/-- strel issues its store as a release (R271). -/
theorem execSyStrel_issues (ready : ReadyW s0 s 16 m x) (reached : SyReached s 64 8 x pa s1) (direct : s1.t.spec = false) :
    let s2 := (s1.setT { s1.t with stored := true }).noteAll [(pa, 8)]
    execSyStrel scope m s0 =
      .next ((s2.issueRelease .store pa (toBytes 8 (s2.t.pw 16 2).toNat) (s2.pageAttr x)).slotEnds 16) := by
  refine syForm_done ready ?_
  rw [syReach_reached reached, State.serialised_of_plain direct]

/-- What unlock does once the task's earlier accesses to the object's line are performed (R274). -/
def unlockEff (x : Word) (pa : Nat) (s : State) : Eff :=
  if s.t.stores.any (fun y => y.rel == Rel.unlock && y.pa == pa) then .trap s 5 2 x
  else if !s.t.inOrder s.t.nseq pa 16 then .block s .fence
  else if s.loadBad pa 16 then .trap s 4 5 x
  else if s.syncRead (pa + 8) ≠ s.t.ctl.otag then .trap s 5 2 x
  else .done (s.issueRelease .unlock pa (List.replicate 16 0) 2)

/-- The operation of unlock on an address (R274). -/
def unlockOp (x : Word) (s : State) : Eff :=
  syReach s 64 16 .atomic x fun pa s => s.serialised fun s => unlockEff x pa (s.performWhere s.cur fun a => a / 256 == pa / 256)

/-- unlock performs it. -/
theorem exec_syUnlock : exec (.syUnlock scope m) s0 = syForm m unlockOp s0 := rfl

/-- unlock of an object that is reached does what follows once the earlier accesses to its line are performed. -/
theorem unlockOp_reached (reached : SyReached s 64 16 x pa s1) (direct : s1.t.spec = false) :
    unlockOp x s = unlockEff x pa (s1.performWhere s1.cur fun a => a / 256 == pa / 256) := by
  rw [unlockOp, syReach_reached reached, State.serialised_of_plain direct]

/-- An unlock of the object comes before it: the task owns it no more. -/
theorem unlockEff_again (again : ∃ y ∈ s.t.stores, y.rel = .unlock ∧ y.pa = pa) : unlockEff x pa s = .trap s 5 2 x :=
  if_pos (by simpa using again)

section
variable (only : ∀ y ∈ s.t.stores, y.rel ≠ .unlock ∨ y.pa ≠ pa)
include only

/-- Without one, an earlier access to the object holds it. -/
theorem unlockEff_waits (late : s.t.inOrder s.t.nseq pa 16 = false) : unlockEff x pa s = .block s .fence := by
  rw [unlockEff, if_neg (by simpa [imp_iff_not_or] using only), if_pos (by simp [late])]

/-- With its turn come, it reads the object. -/
theorem unlockEff_turn (turn : s.t.inOrder s.t.nseq pa 16 = true) :
    unlockEff x pa s = if s.loadBad pa 16 then .trap s 4 5 x
      else if s.syncRead (pa + 8) ≠ s.t.ctl.otag then .trap s 5 2 x
      else .done (s.issueRelease .unlock pa (List.replicate 16 0) 2) := by
  rw [unlockEff, if_neg (by simpa [imp_iff_not_or] using only), if_neg (by simp [turn])]

end
end

/-- Settles O22: every clause is one path through the form's operation. -/
theorem fenceResults : Obligations.FenceResults := by
  intro s0 s m x scope ready
  refine ⟨execSyFence_strand ready, ⟨_, rfl, execSyFence_idle ready, execSyFence_waits ready, ?_, ?_⟩, ?_, execSyXfence_illegal (scope := scope) ready,
    ?_, ?_, ?_⟩
  · exact fun strand other idle => execSyXfence_idle (scope := scope) ready (by omega) strand idle
  · exact fun strand other waits => execSyXfence_waits (scope := scope) ready (by omega) strand waits
  · exact fun low high other => execSyXfence_engine (scope := scope) ready (by omega) (by omega)
  · intro direct
    refine ⟨execSyTrig_again ready direct, execSyTrig_first ready direct, fun new stores loads => ?_⟩
    refine ⟨_, execSyTrig_first ready direct new (by simp [stores]), ?_⟩
    simp [t_issueRelease_trig stores loads, mem_issueRelease_trig stores loads]
  · exact fun pa s1 reached direct => ⟨_, rfl, execSyStrel_issues (scope := scope) ready reached direct⟩
  · intro pa s1 reached direct
    have op := unlockOp_reached reached direct
    rw [exec_syUnlock]
    refine ⟨_, rfl, fun again => syForm_trap ready (op.trans (unlockEff_again again)), fun only late walk =>
      syForm_block ready (op.trans (unlockEff_waits only late)) walk, fun only turn => ?_⟩
    have read := op.trans (unlockEff_turn only turn)
    refine ⟨fun bad => syForm_trap ready (read.trans (if_pos bad)), fun good other => ?_, fun good owner => ?_⟩
    · exact syForm_trap ready (read.trans (by rw [if_neg (by simp [good]), if_pos other]))
    · exact syForm_done ready (read.trans (by rw [if_neg (by simp [good]), if_neg (by simp [owner])]))

end Sys2Proof.Machine
end

section
/-! Views and the ends of a task, obligations O34 and O35 (R31, R294-R297, R320, R323, R338). -/

namespace Sys2Proof.Machine

open Host Arith

section
variable {s0 s : State} {m : Mv} {x : Word}

/-! ### Declaring a view (R294) -/

/-- A number above 15, or an operator and type that do not go together, is an illegal port. -/
theorem execTkVdecl_illegal (ready : ReadyW s0 s 17 m x)
    (illegal : 15 < x.toNat ∨ viewOpOk (wbits (s.t.pw 17 11) 3 0) (wbits (s.t.pw 17 11) 12 8) = false) :
    execTkVdecl m s0 = .next (s.raise 1 3 0) := by
  unfold execTkVdecl tkForm
  exact ready.trap (if_pos (by simpa using illegal))

section
variable (number : x.toNat ≤ 15) (goes : viewOpOk (wbits (s.t.pw 17 11) 3 0) (wbits (s.t.pw 17 11) 12 8) = true)
include number goes

/-- A declaration that breaks the rules of its storage and length is the view fault. -/
theorem execTkVdecl_fault (ready : ReadyW s0 s 17 m x)
    (bad : s.t.declOk (s.t.pw 17 12) (s.t.pw 17 13).toNat ((ElemType.ofCode (wbits (s.t.pw 17 11) 12 8)).getD .f32).bytes = false) :
    execTkVdecl m s0 = .next (s.raise 6 3 x) := by
  unfold execTkVdecl tkForm
  refine ready.trap ((if_neg (by simp [goes, number])).trans (if_pos (.inl (by simpa using bad))))

/-- A declaration that keeps them is written. -/
theorem execTkVdecl_declares (ready : ReadyW s0 s 17 m x)
    (ok : s.t.declOk (s.t.pw 17 12) (s.t.pw 17 13).toNat ((ElemType.ofCode (wbits (s.t.pw 17 11) 12 8)).getD .f32).bytes = true)
    (unheld : s.viewHeld s.t x.toNat = false) :
    execTkVdecl m s0 = .next (s.ends 17 { s.t with
      views := s.t.views.set x.toNat ⟨s.t.pw 17 12, (s.t.pw 17 13).toNat, wbits (s.t.pw 17 11) 3 0, wbits (s.t.pw 17 11) 12 8, 1, 0, 0⟩ }) := by
  unfold execTkVdecl tkForm
  exact ready.done ((if_neg (by simp [goes, number])).trans (if_neg (by simp [ok, unheld])))

end
/-! ### Where a copy lies (R294, R323) -/

/-- A number above 15 is an illegal port. -/
theorem execTkVaddr_illegal (ready : ReadyW s0 s 17 m x) (above : 15 < x.toNat) : execTkVaddr m s0 = .next (s.raise 1 3 0) := by
  unfold execTkVaddr tkForm
  exact ready.trap (if_pos above)

/-- A view whose copy the strand does not hold is the view fault. -/
theorem execTkVaddr_fault (ready : ReadyW s0 s 17 m x) (number : x.toNat ≤ 15)
    (none : (s.t.views.get (16 + x.toNat) default).st = 0) : execTkVaddr m s0 = .next (s.raise 6 3 x) := by
  unfold execTkVaddr tkForm
  exact ready.trap ((if_neg (Nat.not_lt.2 number)).trans (if_pos none))

/-- The location of a copy that it holds is the result. -/
theorem execTkVaddr_answers (ready : ReadyW s0 s 17 m x) (number : x.toNat ≤ 15)
    (held : (s.t.views.get (16 + x.toNat) default).st ≠ 0) : execTkVaddr m s0 =
      .next (s.ends 17 (s.t.result 17 false 1 (.w (s.t.views.get (16 + x.toNat) default).loc) 0)) := by
  unfold execTkVaddr tkForm
  exact ready.done ((if_neg (Nat.not_lt.2 number)).trans (if_neg held))

end

/-- Settles O34: a declaration is checked by its number, its operator and type, and its storage, in that order. -/
theorem viewForms : Obligations.ViewForms := by
  intro s0 s m x ready op ty b len v
  refine ⟨fun e elem number goes whole fits unheld => ?_, fun number held => ?_, fun above => ?_, fun number bad => ?_,
    fun number none => ?_, fun number goes long => ?_⟩
  · refine ⟨fun mem base canon => execTkVdecl_declares number goes ready ?_ unheld,
      fun tile own size => execTkVdecl_declares number goes ready ?_ unheld⟩
    · simp_all [Task.declOk, op, ty, b, len]
    · simp_all [Task.declOk, op, ty, b, len]
  · exact execTkVaddr_answers ready number held
  · simp only [List.mem_cons, List.not_mem_nil, or_false]
    rintro i (rfl | rfl)
    · exact execTkVdecl_illegal ready (.inl above)
    · exact execTkVaddr_illegal ready above
  · exact execTkVdecl_illegal ready (.inr bad)
  · exact execTkVaddr_fault ready number none
  · refine execTkVdecl_fault number goes ready ?_
    refine Bool.eq_false_iff.2 fun ok => ?_
    simp only [Task.declOk, Bool.and_eq_true, decide_eq_true_eq] at ok
    exact absurd ok.1.2 (Nat.not_le.2 long)

section
variable {s0 s : State} {m : Mv} {x : Word}

/-! ### The end of a task (R295, R297) -/

/-- finish ends the task well with its bundle. -/
theorem execTkFinish_ends (ready : ReadyW s0 s 17 m x) :
    execTkFinish m s0 = .next ((s.setCur fun c => { c with fin := some (s.t.slot, 0) }).slotEnds 17) := by
  unfold execTkFinish tkForm
  exact ready.done rfl

/-- abort ends it aborted, with the low bits of its operand as detail. -/
theorem execTkAbort_ends (ready : ReadyW s0 s 17 m x) :
    execTkAbort m s0 = .next ((s.setCur fun c => { c with fin := some (s.t.slot, 1 + 16 * wbits x 31 0) }).slotEnds 17) := by
  unfold execTkAbort tkForm
  exact ready.done rfl

/-! ### The join of a sibling set (R295, R325) -/

/-- A task that closes its sibling set. -/
def Task.closesSet (t : Task) : Task := { t with sibset := t.sibset + 1 }

/-- The children of a task that closes its set are as they were: it is none of them, or all would have to be settled anyway. -/
theorem State.kidsSettled_closesSet_iff (others : ∀ k ∈ s.t.kids, k ≠ s.cur) :
    (s.setT s.t.closesSet).kidsSettled s.t = true ↔ ∀ k ∈ s.t.kids, (s.task k).settled = true := by
  simp only [State.kidsSettled, List.all_eq_true]
  exact forall₂_congr fun k kid => by rw [State.task_setT_ne s k _ (others k kid)]

/-- An ordered task has no children to join. -/
theorem execTkJoin_ordered (ready : ReadyW s0 s 17 m x) (ordered : s.t.ord = true) : execTkJoin m s0 = .next (s.raise 6 5 x) := by
  unfold execTkJoin tkForm
  exact ready.trap (if_pos ordered)

/-- A join goes on once no token is pending and every child has ended and merged. -/
theorem execTkJoin_goes (ready : ReadyW s0 s 17 m x) (plain : s.t.ord = false) (tokens : s.t.waitMask 255 = 0)
    (kids : s.t.redo ≠ 0 ∨ (s.setT s.t.closesSet).kidsSettled s.t = true) :
    execTkJoin m s0 = .next (s.ends 17 (s.t.closesSet.observe 255)) := by
  unfold execTkJoin tkForm
  refine ready.done ((if_neg (by simp [plain])).trans ((if_pos ⟨tokens, kids⟩).trans ?_))
  simp [Task.closesSet]

/-- Until then it waits. -/
theorem execTkJoin_waits (ready : ReadyW s0 s 17 m x) (plain : s.t.ord = false) (direct : s.t.inWalk = none)
    (waits : ¬ (s.t.waitMask 255 = 0 ∧ (s.t.redo ≠ 0 ∨ (s.setT s.t.closesSet).kidsSettled s.t = true))) :
    execTkJoin m s0 = .next ((s.setT s.t.closesSet).endBlock .join) := by
  unfold execTkJoin tkForm
  exact ready.block ((if_neg (by simp [plain])).trans (if_neg waits)) (by rw [State.t_setT]; exact direct)

/-! ### The stamp of an ordered task (R296) -/

/-- A task that is not ordered has no key. -/
theorem execTkStamp_plain (ready : ReadyW s0 s 17 m x) (plain : s.t.ord = false) : execTkStamp m s0 = .next (s.slotEnds 17) := by
  unfold execTkStamp tkForm
  exact ready.done (if_pos (by simp [plain]))

/-- A key that would fall, or comes after a store, is the stamp fault. -/
theorem execTkStamp_fault (ready : ReadyW s0 s 17 m x) (ordered : s.t.ord = true) (late : x.toNat < s.t.stamp ∨ s.t.stored = true) :
    execTkStamp m s0 = .next (s.raise 6 4 x) := by
  unfold execTkStamp tkForm
  exact ready.trap ((if_neg (by simp [ordered])).trans (if_pos late))

/-- A key that rises is set; without a sector read no other task's abort comes before the baton passes. -/
theorem execTkStamp_rises (ready : ReadyW s0 s 17 m x) (ordered : s.t.ord = true) (rises : s.t.stamp ≤ x.toNat)
    (first : s.t.stored = false) (unread : s.t.ordered = []) :
    execTkStamp m s0 = .next (((s.setT { s.t with stamp := x.toNat }).passBaton s.t.group).slotEnds 17) := by
  unfold execTkStamp tkForm
  refine ready.done ((if_neg (by simp [ordered])).trans ((if_neg (by simp [first, rises])).trans ?_))
  dsimp only
  rw [List.find?_eq_none.2 (by simp [unread])]

end

/-- Settles O35: a form of a task's end sets its status, closes its set or raises its key. -/
theorem taskEndForms : Obligations.TaskEndForms := by
  intro s0 s m x ready
  refine ⟨execTkFinish_ends ready, execTkAbort_ends ready, execTkJoin_ordered ready, fun plain => ⟨fun tokens first kids => ?_,
    fun direct waits => ?_⟩, execTkStamp_plain ready, execTkStamp_fault ready, execTkStamp_rises ready⟩
  · exact execTkJoin_goes ready plain tokens (.inr ((State.kidsSettled_closesSet_iff fun k kid => (kids k kid).1).2
      fun k kid => (kids k kid).2))
  · refine execTkJoin_waits ready plain direct fun ⟨tokens, settled⟩ => ?_
    obtain pending | ⟨first, k, kid, other, running⟩ := waits
    · exact pending tokens
    · have all := settled.resolve_left (not_not_intro first)
      rw [State.kidsSettled, List.all_eq_true] at all
      simpa [State.task_setT_ne s k _ other, running] using all k kid

end Sys2Proof.Machine
end

section
/-! Queues, obligation O26 (R277, R278). -/

namespace Sys2Proof.Machine

open Host Arith

section
variable {s0 s : State} {m : Mv} {x : Word} {q : BitVec 4} {n : Nat}

/-- A requesting form that waits for no response sends its request. -/
theorem State.requesting_sends (none : s.t.await = none) (port : Nat) (send : State → Eff) (fin : Word → State → Eff) :
    s.requesting port send fin = send s := by
  rw [State.requesting, none]

/-! ### Pop, publish and configure (R277) -/

/-- The operation of the three forms on a trigger value. -/
def qadvOp (q : BitVec 4) (x : Word) (s : State) : Eff :=
  if wbits x 63 62 = 3 then .illPort s
  else s.serialised (fun s =>
    match wbits x 63 62 with
    | 0 => s.popQueue q.toNat (wbits x 31 0)
    | 1 => s.publishQueue q.toNat x
    | _ => s.configureQueue q.toNat x)

/-- Each of the three forms performs it. -/
theorem exec_queue {i : Instr} (form : i ∈ [Instr.queuePop q m, .queuePublish q m, .queueConfigure q m]) :
    exec i s0 = syForm m (qadvOp q) s0 := by
  simp only [List.mem_cons, List.not_mem_nil, or_false] at form
  obtain rfl | rfl | rfl := form <;> rfl

/-- Bits 63:62 of 3 are an illegal port. -/
theorem qadvOp_illegal (op : wbits x 63 62 = 3) : qadvOp q x s = .illPort s := if_pos op

section
variable (plain : s.t.spec = false)
include plain

/-- Bits 63:62 of 0 pop. -/
theorem qadvOp_pop (op : wbits x 63 62 = 0) : qadvOp q x s = s.popQueue q.toNat (wbits x 31 0) := by
  simp [qadvOp, op, State.serialised_of_plain plain]

/-- Bits 63:62 of 1 publish. -/
theorem qadvOp_publish (op : wbits x 63 62 = 1) : qadvOp q x s = s.publishQueue q.toNat x := by
  simp [qadvOp, op, State.serialised_of_plain plain]

/-- Bits 63:62 of 2 configure. -/
theorem qadvOp_configure (op : wbits x 63 62 = 2) : qadvOp q x s = s.configureQueue q.toNat x := by
  simp [qadvOp, op, State.serialised_of_plain plain]

end

/-- A pop of entries that the queue holds moves its head. -/
theorem popQueue_takes {q : Nat} (holds : n ≤ (s.queue s.t.core q).count) : s.popQueue q n =
    .done (s.setQueue s.t.core q { s.queue s.t.core q with head := (s.queue s.t.core q).head + BitVec.ofNat 32 n }) :=
  if_neg (Nat.not_lt.2 holds)

/-- A pop of more is the queue-count fault. -/
theorem popQueue_fault {q : Nat} (short : (s.queue s.t.core q).count < n) : s.popQueue q n = .trap s 5 5 (wd q) := if_pos short

section
variable {q : Nat} (first : s.t.await = none) (settled : s.outstanding s.t.core q = false)
include first

include settled in
/-- A publication into free entries moves the tail. -/
theorem publishQueue_adds (room : wbits x 31 0 ≤ (s.queue s.t.core q).cap - (s.queue s.t.core q).count) : s.publishQueue q x =
    .done (s.setQueue s.t.core q
      { s.queue s.t.core q with tail := (s.queue s.t.core q).tail + BitVec.ofNat 32 (wbits x 31 0) }) := by
  simp [State.publishQueue, State.requesting_sends first, settled, State.publish, Nat.not_lt.2 room]

include settled in
/-- A publication of more is the queue-count fault. -/
theorem publishQueue_fault (full : (s.queue s.t.core q).cap - (s.queue s.t.core q).count < wbits x 31 0) :
    s.publishQueue q x = .trap s 5 5 (wd q) := by
  simp [State.publishQueue, State.requesting_sends first, settled, State.publish, full]

include settled in
/-- A configuration within its limits empties the queue. -/
theorem configureQueue_sets (ok : configOk x = true) : s.configureQueue q x = .done (s.configure s.t.core q x) := by
  simp [State.configureQueue, State.requesting_sends first, settled, ok]

/-- A configuration outside them is an access fault at its base. -/
theorem configureQueue_fault (bad : configOk x = false) :
    s.configureQueue q x = .trap s 4 2 (lsInfo s.t.core (wbits x 18 0)) := by
  simp [State.configureQueue, State.requesting_sends first, bad]

end

/-! ### The queue waits (R278) -/

/-- The operation of qwait on a trigger value. -/
def qwaitOp (q : BitVec 4) (x : Word) (s : State) : Eff :=
  s.serialised (fun s => queueWait s q.toNat (wbits x 31 0) (fun y =>
    if wbits x 31 0 ≤ y.count then .done s else .block s (.qwait q.toNat (wbits x 31 0))))

/-- The operation of qspace on a trigger value. -/
def qspaceOp (q : BitVec 4) (x : Word) (s : State) : Eff :=
  s.serialised (fun s => queueWait s q.toNat (wbits x 31 0) (fun y =>
    if wbits x 31 0 ≤ y.cap - y.count then syResult (wd (y.cap - y.count)) s
    else .block s (.qspace q.toNat (wbits x 31 0))))

/-- qwait performs its operation. -/
theorem exec_syQwait : exec (.syQwait q m) s0 = syForm m (qwaitOp q) s0 := rfl
/-- qspace performs its operation. -/
theorem exec_syQspace : exec (.syQspace q m) s0 = syForm m (qspaceOp q) s0 := rfl

section
variable {q : Nat} {ok : Queue → Eff}

/-- A wait on a queue that is not configured is an access fault. -/
theorem queueWait_unconfigured (none : (s.queue s.t.core q).cfg = none) : queueWait s q n ok = .trap s 4 2 (wd (coreWin s.t.core 0)) :=
  (if_pos (by simp [none])).trans (by rw [lsInfo, Nat.add_zero])

/-- A wait for more entries than the queue has is the queue-count fault. -/
theorem queueWait_above (some : (s.queue s.t.core q).cfg ≠ none) (above : (s.queue s.t.core q).cap < n) :
    queueWait s q n ok = .trap s 5 5 (wd q) :=
  (if_neg (by simpa using some)).trans (if_pos above)

/-- Any other wait looks at the queue. -/
theorem queueWait_looks (some : (s.queue s.t.core q).cfg ≠ none) (within : n ≤ (s.queue s.t.core q).cap) :
    queueWait s q n ok = ok (s.queue s.t.core q) :=
  (if_neg (by simpa using some)).trans (if_neg (Nat.not_lt.2 within))

end

section
variable (plain : s.t.spec = false)
include plain

/-- A queue wait traps where the check of its queue does. -/
theorem exec_queueWait_trap {i : Instr} {cls code : Nat} {info : Word} (form : i ∈ [Instr.syQwait q m, .syQspace q m])
    (ready : ReadyW s0 s 16 m x) (trap : ∀ ok, queueWait s q.toNat (wbits x 31 0) ok = .trap s cls code info) :
    exec i s0 = .next (s.raise cls code info) := by
  simp only [List.mem_cons, List.not_mem_nil, or_false] at form
  obtain rfl | rfl := form
  · have op : qwaitOp q x s = .trap s cls code info := (State.serialised_of_plain plain _).trans (trap _)
    exact exec_syQwait.trans (syForm_trap ready op)
  · have op : qspaceOp q x s = .trap s cls code info := (State.serialised_of_plain plain _).trans (trap _)
    exact exec_syQspace.trans (syForm_trap ready op)

variable (some : (s.queue s.t.core q.toNat).cfg ≠ none) (within : wbits x 31 0 ≤ (s.queue s.t.core q.toNat).cap)
include some within

/-- qwait of a configured queue compares its count. -/
theorem qwaitOp_looks : qwaitOp q x s = if wbits x 31 0 ≤ (s.queue s.t.core q.toNat).count then .done s
    else .block s (.qwait q.toNat (wbits x 31 0)) :=
  (State.serialised_of_plain plain _).trans (queueWait_looks some within)

/-- qspace of a configured queue compares its free entries. -/
theorem qspaceOp_looks : qspaceOp q x s =
    if wbits x 31 0 ≤ (s.queue s.t.core q.toNat).cap - (s.queue s.t.core q.toNat).count then
      syResult (wd ((s.queue s.t.core q.toNat).cap - (s.queue s.t.core q.toNat).count)) s
    else .block s (.qspace q.toNat (wbits x 31 0)) :=
  (State.serialised_of_plain plain _).trans (queueWait_looks some within)

end
end

/-- Settles O26: each operation moves one counter of its queue or waits for one, after the checks of R277 and R278. -/
theorem queueResults : Obligations.QueueResults := by
  intro s0 s m x q ready plain first w y n op settled
  refine ⟨fun i form => ?_, fun none i form => ?_, fun some above i form => ?_, fun some within => ⟨fun holds => ?_,
    fun short direct => ?_, fun room => ?_, fun full direct => ?_⟩⟩
  · rw [exec_queue form]
    refine ⟨fun pop holds => ?_, fun pop short => ?_, fun publish room => ?_, fun publish full => ?_,
      fun configure => ⟨fun ok => ?_, fun bad => ?_⟩, fun illegal => ?_⟩
    · exact syForm_done ready ((qadvOp_pop plain pop).trans (popQueue_takes holds))
    · exact syForm_trap ready ((qadvOp_pop plain pop).trans (popQueue_fault short))
    · exact syForm_done ready ((qadvOp_publish plain publish).trans (publishQueue_adds first settled room))
    · exact syForm_trap ready ((qadvOp_publish plain publish).trans (publishQueue_fault first settled full))
    · exact syForm_done ready ((qadvOp_configure plain configure).trans (configureQueue_sets first settled (decide_eq_true ok)))
    · exact syForm_trap ready ((qadvOp_configure plain configure).trans (configureQueue_fault first (decide_eq_false bad)))
    · exact syForm_trap ready (qadvOp_illegal illegal)
  · exact exec_queueWait_trap plain form ready fun ok => queueWait_unconfigured none
  · exact exec_queueWait_trap plain form ready fun ok => queueWait_above some above
  · exact exec_syQwait.trans (syForm_done ready ((qwaitOp_looks plain some within).trans (if_pos holds)))
  · exact exec_syQwait.trans (syForm_block ready ((qwaitOp_looks plain some within).trans (if_neg (Nat.not_le.2 short))) direct)
  · exact exec_syQspace.trans (syForm_done ready ((qspaceOp_looks plain some within).trans (if_pos room)))
  · exact exec_syQspace.trans (syForm_block ready ((qspaceOp_looks plain some within).trans (if_neg (Nat.not_le.2 full))) direct)

end Sys2Proof.Machine
end

section
/-! The forms of the copy engine, obligation O30 (R132, R283-R290). -/

namespace Sys2Proof.Machine

open Host Arith

section
variable {s0 s : State} {m : Mv} {x : Word} {unit form sub tok port : Nat} {o : EngOp}

/-! ### What a trigger copies (R132, R228, R284) -/

/-- A new operation holds what its trigger copies. -/
theorem newOp_triggered : Triggered s unit form sub tok x (s.newOp unit form sub x tok) :=
  ⟨rfl, rfl, rfl, rfl, rfl, rfl, rfl, rfl, rfl, rfl, rfl, rfl, rfl, rfl, rfl, rfl, rfl⟩

/-- An error of its record or range leaves what it copied. -/
theorem Triggered.fail (copied : Triggered s unit form sub tok x o) (err detail : Nat) :
    Triggered s unit form sub tok x (o.fail err detail) := copied

/-- So does its record. -/
theorem Triggered.record (copied : Triggered s unit form sub tok x o) (bytes : List Byte) :
    Triggered s unit form sub tok x { o with record := bytes } := copied

/-- So does a register other than 15, which holds its core. -/
theorem Triggered.setReg {k : Nat} (copied : Triggered s unit form sub tok x o) (other : k ≠ 15) (v : Nat) :
    Triggered s unit form sub tok x (o.setReg k v) := by
  have core : (o.setReg k v).core = o.core := Tab.get_set_ne _ _ _ _ _ other.symm
  rw [Triggered, core]
  exact copied

/-- The record of cp.start and cp.red is read or refused with an error. -/
theorem Triggered.cpRecord (copied : Triggered s unit form sub tok x o) : Triggered s unit form sub tok x (cpRecord s o) := by
  unfold Machine.cpRecord
  dsimp only
  split
  · exact copied.fail _ _
  · split
    · exact copied.fail _ _
    · split
      · exact (copied.record _).fail _ _
      · exact copied.record _

/-! ### The token of a trigger (R132, R164) -/

/-- A trigger goes on with a token that is free. -/
theorem withToken_free (free : TokFree s0 s unit port tok) (ok : Nat → State → Eff) : withToken s unit port ok = ok tok s := by
  obtain ⟨-, rfl, named, idle⟩ := free
  simp [withToken, Nat.not_lt.2 named, idle]

/-- A token above 7 is an illegal port. -/
theorem withToken_illegal (above : 7 < (s.t.pw unit port).toNat) (ok : Nat → State → Eff) : withToken s unit port ok = .illPort s :=
  if_pos above

/-- A unit whose token is pending or faulted is busy. -/
theorem tokenBusy_of_holds (named : (s0.t.pw unit port).toNat ≤ 7) (holds : (s0.t.tok (s0.t.pw unit port).toNat).holds = true) :
    s0.tokenBusy unit port = true := by
  simp [State.tokenBusy, named, holds]

/-! ### The forms that start an operation (R284-R287) -/

/-- A form that starts an operation of a copy engine. -/
theorem cpForm_starts {f : State → EngOp → EngOp} (ready : ReadyW s0 s 15 m x) (plain : s.t.spec = false)
    (free : TokFree s0 s 15 11 tok) (copied : Triggered s 15 form sub tok x (f s (s.newOp 15 form sub x tok))) :
    ∃ o, Triggered s 15 form sub tok x o ∧ cpForm form sub m f s0 = .next (((s.start o).noteCopy o).slotEnds 15) := by
  refine ⟨_, copied, ?_⟩
  unfold cpForm
  refine trigW_done ready free.1 ((withToken_free free _).trans ?_)
  simp [plain]

/-- cp.start starts its operation. -/
theorem execCpStart_starts (ready : ReadyW s0 s 15 m x) (plain : s.t.spec = false) (free : TokFree s0 s 15 11 tok) :
    ∃ o, Triggered s 15 16 0 tok x o ∧ execCpStart m s0 = .next (((s.start o).noteCopy o).slotEnds 15) :=
  cpForm_starts ready plain free newOp_triggered.cpRecord

/-- cp.chain starts its operation. -/
theorem execCpChain_starts (ready : ReadyW s0 s 15 m x) (plain : s.t.spec = false) (free : TokFree s0 s 15 11 tok) :
    ∃ o, Triggered s 15 17 0 tok x o ∧ execCpChain m s0 = .next (((s.start o).noteCopy o).slotEnds 15) :=
  cpForm_starts (f := fun _ o => o.setReg 2 (o.pw 10).toNat) ready plain free (newOp_triggered.setReg (by decide) _)

/-- cp.red starts its operation. -/
theorem execCpRed_starts {ty : ElemType} (ready : ReadyW s0 s 15 m x) (plain : s.t.spec = false) (free : TokFree s0 s 15 11 tok) :
    ∃ o, Triggered s 15 18 ty.code tok x o ∧ execCpRed ty m s0 = .next (((s.start o).noteCopy o).slotEnds 15) :=
  cpForm_starts ready plain free newOp_triggered.cpRecord

/-- cp.relay to a core of the partition starts its operation. -/
theorem execCpRelay_starts (ready : ReadyW s0 s 15 m x) (plain : s.t.spec = false) (free : TokFree s0 s 15 11 tok)
    (peer : s.permits (s.accOf s.t) (coreWin (relayPeer (s.t.pw 15 15)).1 (0xA0000 + (relayPeer (s.t.pw 15 15)).2 * 0x1000)) = true) :
    ∃ o, Triggered s 15 19 0 tok x o ∧ execCpRelay m s0 = .next (((s.start o).noteCopy o).slotEnds 15) := by
  let new := s.newOp 15 19 0 x tok
  refine ⟨if 0x80000 < wbits (new.pw 5) 18 0 + x.toNat then new.fail 7 (wbits (new.pw 5) 18 0) else new, ?_, ?_⟩
  · split
    · exact newOp_triggered.fail _ _
    · exact newOp_triggered
  · unfold execCpRelay
    refine trigW_done ready free.1 ((withToken_free free _).trans ?_)
    dsimp only
    rw [peer, State.serialised_of_plain plain]
    rfl

/-- cp.relay to a core outside it is an access fault. -/
theorem execCpRelay_fault (ready : ReadyW s0 s 15 m x) (free : TokFree s0 s 15 11 tok)
    (peer : s.permits (s.accOf s.t) (coreWin (relayPeer (s.t.pw 15 15)).1 (0xA0000 + (relayPeer (s.t.pw 15 15)).2 * 0x1000)) = false) :
    execCpRelay m s0 = .next (s.raise 4 2 (wd (coreWin (relayPeer (s.t.pw 15 15)).1 (0xA0000 + (relayPeer (s.t.pw 15 15)).2 * 0x1000)))) := by
  unfold execCpRelay
  refine trigW_trap ready free.1 ((withToken_free free _).trans ?_)
  exact if_pos (congrArg not peer)

/-- The forms that start an operation. -/
def copyStarts (ty : ElemType) (m : Mv) : List Instr := [.cpStart m, .cpChain m, .cpRed ty m, .cpRelay m]

/-- Each of them performs some operation on its token. -/
theorem exec_copyStarts {i : Instr} {ty : ElemType} (form : i ∈ copyStarts ty m) :
    ∃ f : Word → Nat → State → Eff, exec i s0 = trigW 15 m (fun x s => withToken s 15 11 (f x)) s0 (fun s => s.tokenBusy 15 11) := by
  simp only [copyStarts, List.mem_cons, List.not_mem_nil, or_false] at form
  obtain rfl | rfl | rfl | rfl := form
  · exact ⟨_, (rfl : _ = execCpStart m s0).trans (by unfold execCpStart cpForm; rfl)⟩
  · exact ⟨_, (rfl : _ = execCpChain m s0).trans (by unfold execCpChain cpForm; rfl)⟩
  · exact ⟨_, (rfl : _ = execCpRed ty m s0).trans (by unfold execCpRed cpForm; rfl)⟩
  · exact ⟨_, (rfl : _ = execCpRelay m s0).trans (by unfold execCpRelay; rfl)⟩

/-! ### The control forms (R289, R290) -/

/-- cp.cancel cancels its token at the end of the bundle. -/
theorem execCpCancel_ends (ready : ReadyW s0 s 15 m x) :
    execCpCancel m s0 = .next ((s.atEnd (512 + wbits x 2 0) 0).slotEnds 15) := by
  unfold execCpCancel cpControl
  exact ready.done rfl

/-- cp.resume resumes it there. -/
theorem execCpResume_ends (ready : ReadyW s0 s 15 m x) :
    execCpResume m s0 = .next ((s.atEnd (544 + wbits x 2 0) 0).slotEnds 15) := by
  unfold execCpResume cpControl
  exact ready.done rfl

/-- cp.status of the selector 7 is an illegal port. -/
theorem execCpStatus_illegal (ready : ReadyW s0 s 15 m x) (sel : wbits x 10 8 = 7) : execCpStatus m s0 = .next (s.raise 1 3 0) := by
  unfold execCpStatus cpControl
  exact ready.trap (if_pos sel)

/-- cp.status of any other answers its word, and observes the token as its selector is 0. -/
theorem execCpStatus_answers (ready : ReadyW s0 s 15 m x) (sel : wbits x 10 8 ≠ 7) : execCpStatus m s0 = .next (s.ends 15
    ((if wbits x 10 8 = 0 then s.t.observe (2 ^ wbits x 2 0) else s.t).result 15 false 1
      (.w (if wbits x 10 8 = 0 then (s.t.tok (wbits x 2 0)).word else if wbits x 10 8 = 1 then (s.t.tok (wbits x 2 0)).handle
        else wd ((s.t.tok (wbits x 2 0)).coord.getD (wbits x 10 8 - 2) 0))) 0)) := by
  unfold execCpStatus cpControl
  exact ready.done (if_neg sel)

end

/-- Settles O30: a form of the copy engine starts the operation that its trigger copies, or acts on its token. -/
theorem copyForms : Obligations.CopyForms := by
  refine ⟨fun s0 s m x tok ty ready => ⟨fun plain free => ⟨fun r form => ?_, ?_⟩, fun idle above i form => ?_,
    fun named holds i form => ?_⟩, fun s0 s m x ready => ?_⟩
  · simp only [List.mem_cons, List.not_mem_nil, or_false] at form
    obtain rfl | rfl | rfl := form
    · exact execCpStart_starts ready plain free
    · exact execCpChain_starts ready plain free
    · exact execCpRed_starts ready plain free
  · exact ⟨execCpRelay_starts ready plain free, execCpRelay_fault ready free⟩
  · obtain ⟨f, run⟩ := exec_copyStarts (s0 := s0) form
    exact run.trans (trigW_trap ready idle (withToken_illegal above _))
  · obtain ⟨f, run⟩ := exec_copyStarts (s0 := s0) form
    exact run.trans (trigW_busy ready (tokenBusy_of_holds named holds))
  · intro n sel k
    have status : exec (.cpStatus m) s0 = execCpStatus m s0 := rfl
    rw [status]
    refine ⟨execCpCancel_ends ready, execCpResume_ends ready, fun word => ?_, fun handle => ?_, fun j small coord => ?_,
      execCpStatus_illegal ready⟩
    · rw [execCpStatus_answers ready (by omega), if_pos word, if_pos word]
    · rw [execCpStatus_answers ready (by omega), if_neg (by omega), if_neg (by omega), if_pos handle]
    · rw [execCpStatus_answers ready (by omega), if_neg (by omega), if_neg (by omega), if_neg (by omega),
        show wbits x 10 8 - 2 = j by omega]

end Sys2Proof.Machine
end

section
/-! Blocks, the walk, the stack pointer and the mode, and zeroing partners: obligation O36 (R300-R302, R345, R347). -/

namespace Sys2Proof.Machine

open Host Arith

section
variable {s0 s s1 : State} {m : Mv} {x : Word} {b : Block}

/-! ### The forms of blocks (R300, R347) -/

/-- The information word of a reverse fault (R370, R372). -/
def revInfo (t : Task) (cause : Nat) : Word := wd (cause + 256 * t.bodyPos.1 + 65536 * (t.bodyPos.2 % 2 ^ 16))

/-- A reverse fault carries it. -/
theorem revTrap_eq (s : State) (cause : Nat) : revTrap s cause = .trap s 7 cause (revInfo s.t cause) := rfl

/-- Without a drain a form goes on. -/
theorem settleDrain_none (drained : s.t.drain = none) (ok : State → Eff) : s.settleDrain ok = ok s := by
  rw [State.settleDrain, drained]

/-- db.begin in a block is cause NEST. -/
theorem execDbBegin_nested (ready : ReadyW s0 s 18 m x) (opened : s.t.block = some b) :
    execDbBegin m s0 = .next (s.raise 7 2 (revInfo s.t 2)) := by
  unfold execDbBegin
  exact ready.trap (if_pos (by rw [opened]; rfl))

/-- db.rev in a block is cause NEST. -/
theorem execDbRev_nested (ready : ReadyW s0 s 18 m x) (opened : s.t.block = some b) :
    execDbRev m s0 = .next (s.raise 7 2 (revInfo s.t 2)) := by
  unfold execDbRev
  exact ready.trap (if_pos (by rw [opened]; rfl))

/-- db.mode in a block is cause NEST. -/
theorem execDbMode_nested (ready : ReadyW s0 s 18 m x) (opened : s.t.block = some b) :
    execDbMode m s0 = .next (s.raise 7 2 (revInfo s.t 2)) := by
  unfold execDbMode
  exact ready.trap (if_pos (by rw [opened]; rfl))

/-- db.end outside a block is cause NEST. -/
theorem execDbEnd_unopened (ready : ReadyW s0 s 18 m x) (closed : s.t.block = none) :
    execDbEnd m s0 = .next (s.raise 7 2 (revInfo s.t 2)) := by
  unfold execDbEnd
  refine ready.trap ?_
  rw [closed]
  exact revTrap_eq s 2

/-- db.end of another descriptor, or elsewhere than at the block's end, is cause NEST. -/
theorem execDbEnd_elsewhere (ready : ReadyW s0 s 18 m x) (opened : s.t.block = some b)
    (other : b.desc ≠ x ∨ s.t.pc ≠ b.entry + wd (32 * b.nb)) : execDbEnd m s0 = .next (s.raise 7 2 (revInfo s.t 2)) := by
  unfold execDbEnd
  refine ready.trap ?_
  rw [opened]
  exact if_pos other

/-- db.end at the block's end closes it. -/
theorem execDbEnd_closes (ready : ReadyW s0 s 18 m x) (opened : s.t.block = some b) (drained : s.t.drain = none)
    (last : b.desc = x ∧ s.t.pc = b.entry + wd (32 * b.nb)) : execDbEnd m s0 = .next (s.ends 18 { s.t with block := none }) := by
  unfold execDbEnd
  refine ready.done ?_
  rw [opened]
  exact (if_neg (by simp [last])).trans (settleDrain_none drained _)

/-- A descriptor that is aligned, reached, without error and well formed is read. -/
theorem readDesc_reads {ps : List (Nat × Nat)} (aligned : x.toNat % 64 = 0)
    (reached : s.reach s.t.core (s.asidOf s.t) (s.accOf s.t) .read x 64 = (s1, .ok ps)) (good : s1.badAll ps = false)
    (formed : blockDescOk (s1.loadAll ps) = true) (ok : List Byte → State → Eff) : s.readDesc x ok = ok (s1.loadAll ps) s1 := by
  simp [State.readDesc, aligned, reached, good, formed]

/-- db.begin outside record mode opens the block that its descriptor gives. -/
theorem execDbBegin_opens {ps : List (Nat × Nat)} (ready : ReadyW s0 s 18 m x) (closed : s.t.block = none)
    (aligned : x.toNat % 64 = 0) (reached : s.reach s.t.core (s.asidOf s.t) (s.accOf s.t) .read x 64 = (s1, .ok ps))
    (good : s1.badAll ps = false) (same : s1.t = s.t) (unrecorded : s.t.ctl.dbmode ≠ 1)
    (formed : blockDescOk (s1.loadAll ps) = true) (entry : (blockDesc (s1.loadAll ps)).entry = s.t.pc + 32) :
    let d := blockDesc (s1.loadAll ps)
    execDbBegin m s0 = .next (s1.ends 18 { s.t with block := some ⟨x, d.entry, d.nb, d.bid, d.gmask, d.recomp, []⟩ }) := by
  unfold execDbBegin
  refine ready.done ((if_neg (by rw [closed]; decide)).trans ((readDesc_reads aligned reached good formed _).trans ?_))
  dsimp only
  rw [same, if_neg (not_not_intro entry), if_pos unrecorded]

/-- db.begin of a misaligned descriptor is cause DESC. -/
theorem execDbBegin_misaligned (ready : ReadyW s0 s 18 m x) (closed : s.t.block = none) (misaligned : x.toNat % 64 ≠ 0) :
    execDbBegin m s0 = .next (s.raise 7 1 (revInfo s.t 1)) := by
  unfold execDbBegin
  exact ready.trap ((if_neg (by rw [closed]; decide)).trans (if_pos misaligned))

/-! ### The walk, the mode and the stack pointer (R300, R302, R368) -/

/-- db.rev asks for the walk once the tokens have completed. -/
theorem execDbRev_asks (ready : ReadyW s0 s 18 m x) (closed : s.t.block = none) (tokens : s.t.waitMask 255 = 0) :
    execDbRev m s0 = .next (((s.setT (s.t.observe 255)).setCur fun c => { c with rev := some x }).slotEnds 18) := by
  unfold execDbRev
  exact ready.done ((if_neg (by rw [closed]; decide)).trans (if_neg (not_not_intro tokens)))

/-- Until then it waits. -/
theorem execDbRev_waits (ready : ReadyW s0 s 18 m x) (closed : s.t.block = none) (tokens : s.t.waitMask 255 ≠ 0)
    (direct : s.t.inWalk = none) : execDbRev m s0 = .next (s.endBlock (.tokens 255)) := by
  unfold execDbRev
  exact ready.block ((if_neg (by rw [closed]; decide)).trans (if_pos tokens)) direct

/-- db.mode of 0 or 1 asks for the mode. -/
theorem execDbMode_asks (ready : ReadyW s0 s 18 m x) (closed : s.t.block = none) (bit : x.toNat ≤ 1) :
    execDbMode m s0 = .next ((s.atEnd 14 x).slotEnds 18) := by
  unfold execDbMode
  exact ready.done ((if_neg (by rw [closed]; decide)).trans (if_neg (Nat.not_lt.2 bit)))

/-- Any other mode is an illegal port. -/
theorem execDbMode_illegal (ready : ReadyW s0 s 18 m x) (closed : s.t.block = none) (above : 1 < x.toNat) :
    execDbMode m s0 = .next (s.raise 1 3 0) := by
  unfold execDbMode
  exact ready.trap ((if_neg (by rw [closed]; decide)).trans (if_pos above))

/-- db.sp answers the stack pointer and asks for a new one. -/
theorem execDbSp_asks (ready : ReadyW s0 s 18 m x) (aligned : x.toNat % 16 = 0) :
    execDbSp m s0 = .next (((s.setT (s.t.result 18 false 1 (.w s.t.ctl.rsp) 0)).atEnd 11 x).slotEnds 18) := by
  unfold execDbSp
  exact ready.done (if_neg (not_not_intro aligned))

/-- A misaligned one is an alignment fault. -/
theorem execDbSp_fault (ready : ReadyW s0 s 18 m x) (misaligned : x.toNat % 16 ≠ 0) : execDbSp m s0 = .next (s.raise 4 4 x) := by
  unfold execDbSp
  exact ready.trap (if_pos misaligned)

/-! ### Zeroing partners (R300) -/

/-- A bit of a number. -/
theorem nbit_eq_testBit (n i : Nat) : nbit n i = n.testBit i := by
  rw [nbit, Nat.testBit_eq_decide_div_mod_eq, Bool.eq_iff_iff, beq_iff_eq, decide_eq_true_eq]

/-- The set bits of a field of 16 bits of a word. -/
theorem mem_maskBits_wbits {lo n : Nat} : n ∈ maskBits 16 (wbits x (lo + 15) lo) ↔ n < 16 ∧ x.getLsbD (lo + n) = true := by
  rw [maskBits, List.mem_filter, List.mem_range, nbit_eq_testBit, wbits, nbits, show lo + 15 + 1 - lo = 16 by omega,
    Nat.testBit_mod_two_pow, Nat.testBit_div_two_pow, BitVec.getLsbD]
  simp +contextual [Nat.add_comm]

/-- Whether a byte lies in a d tile of a task. -/
def Task.inPartner (t : Task) (n a : Nat) : Prop := ∃ pa, t.tilePa (224 + n) = some pa ∧ pa ≤ a ∧ a < pa + 4096

/-- Clears a d tile of the current task. -/
def State.zeroTile (s : State) (n : Nat) : State :=
  match s.t.tilePa (224 + n) with
  | some pa => s.wr pa (List.replicate 4096 0)
  | none => s

/-- The partners are cleared tile by tile, then the vectors. -/
theorem zeroPartners_eq : s.zeroPartners x =
    let s1 := (maskBits 16 (wbits x 15 0)).foldl State.zeroTile s
    s1.setT { s1.t with v := (maskBits 16 (wbits x 31 16)).foldl (fun v n => v.set (16 + n) zeroLanes) s1.t.v } := rfl

/-- Clearing a tile writes memory alone, as far as tasks go. -/
theorem zeroTile_tasks (s : State) (n : Nat) : (s.zeroTile n).cur = s.cur ∧ (s.zeroTile n).t = s.t := by
  unfold State.zeroTile
  split
  · exact ⟨rfl, rfl⟩
  · exact ⟨rfl, rfl⟩

/-- Clearing tiles writes memory alone, as far as tasks go. -/
theorem zeroTiles_tasks (l : List Nat) (s : State) : (l.foldl State.zeroTile s).cur = s.cur ∧ (l.foldl State.zeroTile s).t = s.t := by
  induction l generalizing s with
  | nil => exact ⟨rfl, rfl⟩
  | cons n l ih => exact ⟨(ih _).1.trans (zeroTile_tasks s n).1, (ih _).2.trans (zeroTile_tasks s n).2⟩

/-- A byte of the tile is 0. -/
theorem get_zeroTile_in {n a : Nat} (inside : s.t.inPartner n a) : Memory.get (s.zeroTile n).mem a = 0 := by
  obtain ⟨pa, tile, low, high⟩ := inside
  rw [State.zeroTile, tile]
  refine (Memory.get_write _ _ _ _).trans ((if_pos ⟨low, ?_⟩).trans (List.getD_replicate _ (by omega)))
  rwa [List.length_replicate]

/-- Any other is unchanged. -/
theorem get_zeroTile_out {n a : Nat} (outside : ¬ s.t.inPartner n a) : Memory.get (s.zeroTile n).mem a = Memory.get s.mem a := by
  unfold State.zeroTile
  split
  next pa tile => exact (Memory.get_write _ _ _ _).trans (if_neg fun ⟨low, high⟩ => outside ⟨pa, tile, low, by rwa [List.length_replicate] at high⟩)
  next => rfl

/-- Bytes outside the tiles are unchanged. -/
theorem get_zeroTiles_out {a : Nat} (l : List Nat) (s : State) (outside : ∀ n ∈ l, ¬ s.t.inPartner n a) :
    Memory.get (l.foldl State.zeroTile s).mem a = Memory.get s.mem a := by
  induction l generalizing s with
  | nil => rfl
  | cons n l ih =>
    have rest : ∀ k ∈ l, ¬ (s.zeroTile n).t.inPartner k a := by
      rw [(zeroTile_tasks s n).2]
      exact fun k inl => outside k (List.mem_cons_of_mem n inl)
    exact (ih _ rest).trans (get_zeroTile_out (outside n List.mem_cons_self))

/-- A byte that is 0 stays so. -/
theorem get_zeroTiles_zero {a : Nat} (l : List Nat) (s : State) (zero : Memory.get s.mem a = 0) :
    Memory.get (l.foldl State.zeroTile s).mem a = 0 := by
  induction l generalizing s with
  | nil => exact zero
  | cons n l ih =>
    refine ih _ ?_
    by_cases inside : s.t.inPartner n a
    · exact get_zeroTile_in inside
    · exact (get_zeroTile_out inside).trans zero

/-- Bytes of the tiles are 0. -/
theorem get_zeroTiles_in {n a : Nat} (l : List Nat) (s : State) (named : n ∈ l) (inside : s.t.inPartner n a) :
    Memory.get (l.foldl State.zeroTile s).mem a = 0 := by
  induction l generalizing s with
  | nil => exact absurd named List.not_mem_nil
  | cons k l ih =>
    by_cases same : n = k
    · subst same
      exact get_zeroTiles_zero l _ (get_zeroTile_in inside)
    · exact ih _ ((List.mem_cons.1 named).resolve_left same) (by rwa [(zeroTile_tasks s k).2])

/-- What a table holds after one value is written at many keys. -/
theorem Tab.get_foldl_set {α : Type} (f : Nat → Nat) (y d : α) (k : Nat) (l : List Nat) (t : Tab α) :
    (l.foldl (fun t n => t.set (f n) y) t).get k d = if ∃ n ∈ l, f n = k then y else t.get k d := by
  induction l generalizing t with
  | nil => simp
  | cons n l ih =>
    rw [List.foldl_cons, ih]
    by_cases same : f n = k
    · simp [same]
    · simp [same, Tab.get_set_ne _ _ _ _ _ (Ne.symm same)]

/-- The task whose partners have been cleared. -/
theorem t_zeroPartners (s : State) (x : Word) : (s.zeroPartners x).t =
    { s.t with v := (maskBits 16 (wbits x 31 16)).foldl (fun v n => v.set (16 + n) zeroLanes) s.t.v } := by
  rw [zeroPartners_eq, State.t_setT, (zeroTiles_tasks _ s).2]

/-- The memory in which they have been cleared. -/
theorem mem_zeroPartners (s : State) (x : Word) :
    (s.zeroPartners x).mem = ((maskBits 16 (wbits x 15 0)).foldl State.zeroTile s).mem := by
  rw [zeroPartners_eq, State.setT_mem]

/-- The current task is the same. -/
theorem cur_zeroPartners (s : State) (x : Word) : (s.zeroPartners x).cur = s.cur := by
  rw [zeroPartners_eq, State.setT_cur, (zeroTiles_tasks _ s).1]

/-- It is the current task at the end of the slot too. -/
theorem task_zeroPartners_slotEnds (s : State) (x : Word) (u : Nat) :
    ((s.zeroPartners x).slotEnds u).task s.cur = ((s.zeroPartners x).slotEnds u).t := by
  rw [State.t, State.slotEnds_cur, cur_zeroPartners]
  rfl

/-- A vector after the partners have been cleared. -/
theorem get_zeroVectors (v : Tab Lanes) (k : Nat) :
    ((maskBits 16 (wbits x 31 16)).foldl (fun v n => v.set (16 + n) zeroLanes) v).get k [] =
      if 16 ≤ k ∧ k < 32 ∧ x.getLsbD k = true then zeroLanes else v.get k [] := by
  rw [Tab.get_foldl_set (16 + ·)]
  refine if_congr ⟨?_, fun ⟨low, high, bit⟩ => ⟨k - 16, (mem_maskBits_wbits (lo := 16)).2 ⟨by omega, ?_⟩, by omega⟩⟩ rfl rfl
  · rintro ⟨n, named, rfl⟩
    obtain ⟨low, bit⟩ := (mem_maskBits_wbits (lo := 16)).1 named
    exact ⟨by omega, by omega, bit⟩
  · rwa [Nat.add_sub_cancel' low]

/-- db.zero of a tile outside the budget is cause NEST. -/
theorem execDbZero_outside {n : Nat} (ready : ReadyW s0 s 18 m x) (low : n < 16) (named : x.getLsbD n = true)
    (unowned : s.t.hasTile (224 + n) = false) : execDbZero m s0 = .next (s.raise 7 2 (revInfo s.t 2)) := by
  unfold execDbZero
  refine ready.trap (if_pos (List.any_eq_true.2 ⟨n, ?_, by rw [unowned]; rfl⟩))
  exact (mem_maskBits_wbits (lo := 0)).2 ⟨low, by rwa [Nat.zero_add]⟩

/-- db.zero of tiles of the task clears the partners. -/
theorem execDbZero_clears (ready : ReadyW s0 s 18 m x)
    (owned : ∀ n < 16, x.getLsbD n = true → s.t.hasTile (224 + n) = true) :
    execDbZero m s0 = .next ((s.zeroPartners x).slotEnds 18) := by
  unfold execDbZero
  refine ready.done (if_neg fun outside => ?_)
  obtain ⟨n, named, unowned⟩ := List.any_eq_true.1 outside
  obtain ⟨low, bit⟩ := (mem_maskBits_wbits (lo := 0)).1 named
  simp [owned n low (by rwa [Nat.zero_add] at bit)] at unowned

end

/-- Settles O36: each form of db checks its block first, then acts or asks for the end of the bundle. -/
theorem blockAndPartnerForms : Obligations.BlockAndPartnerForms := by
  refine ⟨?_, ?_⟩
  · intro s0 s m x ready nest
    refine ⟨fun b opened i form => ?_, execDbEnd_unopened ready, fun b opened drained => ?_, ?_, execDbBegin_misaligned ready,
      fun closed => ?_, execDbSp_asks ready, execDbSp_fault ready⟩
    · simp only [List.mem_cons, List.not_mem_nil, or_false] at form
      obtain rfl | rfl | rfl := form
      · exact execDbBegin_nested ready opened
      · exact execDbRev_nested ready opened
      · exact execDbMode_nested ready opened
    · exact ⟨execDbEnd_closes ready opened drained, execDbEnd_elsewhere ready opened⟩
    · exact fun ps s1 closed aligned reached good same unrecorded formed entry =>
        execDbBegin_opens ready closed aligned reached good same unrecorded formed entry
    · exact ⟨execDbRev_asks ready closed, execDbRev_waits ready closed, execDbMode_asks ready closed, execDbMode_illegal ready closed⟩
  · intro s0 s m x ready
    refine ⟨fun n low named unowned => execDbZero_outside ready low named unowned, fun owned => ⟨_, execDbZero_clears ready owned, ?_⟩⟩
    have tile (n : Nat) : n ∈ maskBits 16 (wbits x 15 0) ↔ n < 16 ∧ x.getLsbD n = true := by
      simpa only [Nat.zero_add] using mem_maskBits_wbits (x := x) (lo := 0) (n := n)
    rw [task_zeroPartners_slotEnds, State.t_slotEnds, t_zeroPartners, State.slotEnds_mem, mem_zeroPartners]
    refine ⟨fun a ⟨n, pa, low, named, own, inside⟩ => ?_, fun a outside => ?_, fun n low => ?_, fun n low => ?_, rfl⟩
    · exact get_zeroTiles_in _ s ((tile n).2 ⟨low, named⟩) ⟨pa, own, inside⟩
    · refine get_zeroTiles_out _ s fun n named ⟨pa, own, low, high⟩ => ?_
      obtain ⟨below, bit⟩ := (tile n).1 named
      have := outside n pa below bit own
      omega
    · refine (get_zeroVectors s.t.v (16 + n)).trans (if_congr ?_ rfl rfl)
      exact ⟨fun ⟨_, _, bit⟩ => bit, fun bit => ⟨by omega, by omega, bit⟩⟩
    · exact (get_zeroVectors s.t.v n).trans (if_neg fun ⟨above, _, _⟩ => by omega)

end Sys2Proof.Machine
end

section
/-! Requesting forms, obligation O23 (R269, R271-R275, R281). -/

namespace Sys2Proof.Machine

open Host Arith

section
variable {s0 s s1 : State} {m : Mv} {x v : Word} {scope : BitVec 3} {ord : BitVec 2} {port pa : Nat} {fin : Word → State → Eff}

/-! ### A form that is re-entered with its response (R269) -/

/-- It takes the response. -/
theorem requesting_answered (answered : Answered s port v) (send : State → Eff) : s.requesting port send fin = fin v s.taken := by
  obtain ⟨a, waits, rfl, slot, value, good⟩ := answered
  simp [State.requesting, waits, slot, value, good, State.taken]

/-- So does a form whose request has an address and operands. -/
theorem syRequest_answered {align : Nat} {p : Perm} {rel : Bool} {ops : Nat × Nat × Nat} (answered : Answered s port v) :
    syRequest s port align p x rel ops fin = fin v s.taken := requesting_answered answered _

/-- bind completes. -/
theorem execSyBind_answered (ready : ReadyW s0 s 16 m x) (base : (s.t.pw 16 2).toNat % 64 = 0) (len : (s.t.pw 16 4).toNat % 64 = 0)
    (answered : Answered s 40 v) : execSyBind scope m s0 = .next (s.taken.slotEnds 16) :=
  syForm_done ready ((if_neg (by simp [base, len])).trans (syRequest_answered answered))

/-- wait completes. -/
theorem execSyWait_answered (ready : ReadyW s0 s 16 m x) (cond : (s.t.pw 16 7).toNat ≤ 3) (answered : Answered s 30 v) :
    execSyWait scope m s0 = .next (s.taken.slotEnds 16) :=
  syForm_done ready ((if_neg (Nat.not_lt.2 cond)).trans (syRequest_answered answered))

/-- lock completes. -/
theorem execSyLock_answered (ready : ReadyW s0 s 16 m x) (answered : Answered s 31 v) :
    execSyLock scope m s0 = .next (s.taken.slotEnds 16) :=
  syForm_done ready (syRequest_answered answered)

/-- combine completes. -/
theorem execSyCombine_answered (ready : ReadyW s0 s 16 m x) (answered : Answered s 39 v) :
    execSyCombine m s0 = .next (s.taken.slotEnds 16) :=
  syForm_done ready (requesting_answered answered _)

/-- ldacq answers the value. -/
theorem execSyLdacq_answered (ready : ReadyW s0 s 16 m x) (answered : Answered s 18 v) :
    execSyLdacq scope m s0 = .next (s.taken.ends 16 (s.taken.t.result 16 false 1 (.w v) 0)) :=
  syForm_done ready (syRequest_answered answered)

/-- So does an atomic. -/
theorem syAmo_answered (ready : ReadyW s0 s 16 m x) (legal : scope.toNat ≤ 5) (answered : Answered s port v) :
    syAmo port scope ord m s0 = .next (s.taken.ends 16 (s.taken.t.result 16 false 1 (.w v) 0)) :=
  syForm_done ready ((if_neg (Nat.not_lt.2 legal)).trans (syRequest_answered answered))

/-! ### A form that sends its request (R93, R94, R269) -/

/-- The state after an offer. -/
def Offer.state : Offer → State
  | .ok s => s
  | .refused s _ _ => s
  | .discard s => s

/-- What both ways of an offer keep, the offer keeps. -/
theorem Offer.state_ite {c : Prop} [Decidable c] {o p : Offer} {t : Task} (yes : o.state.t = t) (no : p.state.t = t) :
    (if c then o else p).state.t = t := by
  split
  · exact yes
  · exact no

/-- An offer changes the counters of its resource and its core, and no task. -/
theorem offer_t (key core free tries : Nat) (num : Option Nat) : (s.offer key core free tries num fun s => s).state.t = s.t := by
  refine Offer.state_ite ?_ (Offer.state_ite rfl rfl)
  change (if num.isSome then s.setResv key (s.resv key).served else s).t = s.t
  split
  · rfl
  · rfl

/-- Looking for room changes no task. -/
theorem room_t (core : Nat) (a : Await) : (s.room core a).2.t = s.t := by
  unfold State.room
  split
  · rfl
  · split
    · rfl
    · rfl

/-- An atomic's request is sent or refused: no task changes, and it keeps its port, address and slot. -/
theorem submit_keeps {a : Await} (core : Nat) (publishes : a.port ≠ 36) (spawns : a.port ≠ 16) :
    (s.submit core a).1.t = s.t ∧ (s.submit core a).2.port = a.port ∧ (s.submit core a).2.addr = a.addr ∧
      (s.submit core a).2.slot = a.slot := by
  have offered := (offer_t (a.resource core) core (s.room core a).1 (a.arg 1) a.number).trans (room_t (s := s) core a)
  unfold State.submit
  dsimp only
  split
  next refused => exact ⟨by rwa [refused] at offered, rfl, rfl, rfl⟩
  next ok =>
    rw [ok] at offered
    rw [if_neg publishes, if_neg spawns]
    exact ⟨offered, rfl, rfl, rfl⟩
  next discard => exact ⟨by rwa [discard] at offered, rfl, rfl, rfl⟩

/-- A request that names its operands, as it is offered first (R269). -/
def State.newRequest (s : State) (port pa : Nat) (va : Word) (ops : List Nat) : Await :=
  ⟨port, s.t.slot, pa, [0, 0, 0, 0, va.toNat] ++ ops, none⟩

/-- The state of a strand that waits for its response. -/
def State.requested (s : State) (port pa : Nat) (va : Word) (ops : List Nat) : State :=
  let r := s.submit s.t.core (s.newRequest port pa va ops)
  r.1.setT { r.1.t with await := some r.2 }

/-- A request ends the block there. -/
theorem request_eq (s : State) (port pa : Nat) (va : Word) (ops : List Nat) :
    s.request port pa va ops = .block (s.requested port pa va ops) .response := rfl

/-- The task that waits for the response of an atomic. -/
theorem t_requested {va : Word} {ops : List Nat} (publishes : port ≠ 36) (spawns : port ≠ 16) :
    ∃ a, (s.requested port pa va ops).t = { s.t with await := some a } ∧ a.port = port ∧ a.addr = pa ∧ a.slot = s.t.slot := by
  obtain ⟨task, kept⟩ := submit_keeps (s := s) (a := s.newRequest port pa va ops) s.t.core publishes spawns
  exact ⟨_, by rw [State.requested, State.t_setT, task], kept⟩

/-- The slot at the end of a block. -/
theorem endBlock_slot (s : State) (h : Head) : (s.endBlock h).t.slot = s.t.slot := by
  change (s.setT { s.t with head := h, cur := { s.t.cur with word := none } }).t.slot = s.t.slot
  rw [State.t_setT]

/-- An atomic with no ordering that is reached sends its request and ends the block. -/
theorem syAmo_sends (ready : ReadyW s0 s 16 m x) (legal : scope.toNat ≤ 5) (first : s.t.await = none)
    (reached : SyReached s 8 8 x pa s1) (plain : s1.t.spec = false) (direct : s1.t.inWalk = none) (low : 20 ≤ port) (high : port ≤ 29) :
    ∃ s2 t, syAmo port scope 0 m s0 = .next t ∧ t = State.endBlock s2 .response ∧ t.t.slot = s2.t.slot ∧
      ∃ a, s2.t.await = some a ∧ a.port = port ∧ a.addr = pa ∧ a.slot = s2.t.slot := by
  let ops := [(s.t.pw 16 2).toNat, (s.t.pw 16 4).toNat, 0, 0]
  obtain ⟨a, task, names, site, slot⟩ :=
    t_requested (s := s1) (pa := pa) (va := x) (ops := ops) (port := port) (by omega) (by omega)
  refine ⟨s1.requested port pa x ops, _, syForm_block ready ?_ (by rw [task]; exact direct), rfl, endBlock_slot _ _, a, ?_⟩
  · refine (if_neg (Nat.not_lt.2 legal)).trans ((State.requesting_sends first _ _ _).trans ?_)
    exact (syReach_reached reached _).trans ((State.serialised_of_plain plain _).trans (request_eq _ _ _ _ _))
  · rw [task]
    exact ⟨rfl, names, site, slot⟩

/-! ### The atomics (R272) -/

/-- The forms of the atomics, each with its port. -/
def atomics (scope : BitVec 3) (ord : BitVec 2) (m : Mv) : List (Instr × Nat) :=
  [(.syAmoadd scope ord m, 20), (.syAmomin scope ord m, 21), (.syAmomax scope ord m, 22), (.syAmominn scope ord m, 23),
    (.syAmomaxn scope ord m, 24), (.syAmoand scope ord m, 25), (.syAmoor scope ord m, 26), (.syAmoxor scope ord m, 27),
    (.syAmoswp scope ord m, 28), (.syAmocas scope ord m, 29)]

/-- Each atomic is performed by its port. -/
theorem exec_atomic {p : Instr × Nat} (form : p ∈ atomics scope ord m) :
    exec p.1 s0 = syAmo p.2 scope ord m s0 ∧ 20 ≤ p.2 ∧ p.2 ≤ 29 := by
  simp only [atomics, List.mem_cons, List.not_mem_nil, or_false] at form
  obtain rfl | rfl | rfl | rfl | rfl | rfl | rfl | rfl | rfl | rfl := form
  all_goals exact ⟨rfl, by simp, by simp⟩

end

/-- Settles O23: the response is taken on re-entry, and an atomic's request is sent otherwise. -/
theorem requestForms : Obligations.RequestForms := by
  refine ⟨?_, ?_⟩
  · intro s0 s m x v scope ord ready legal
    refine ⟨fun ⟨base, len⟩ answered => execSyBind_answered (scope := scope) ready base len answered, fun cond answered => execSyWait_answered (scope := scope) ready cond
      answered, execSyLock_answered (scope := scope) ready, execSyCombine_answered ready, fun p form answered => ?_⟩
    obtain rfl | form := List.mem_cons.1 form
    · exact execSyLdacq_answered (scope := scope) ready answered
    · rw [(exec_atomic form).1]
      exact syAmo_answered ready legal answered
  · intro s0 s m x scope pa s1 ready legal first reached plain direct p form
    obtain ⟨run, low, high⟩ := exec_atomic (scope := scope) (ord := 0) (m := m) (s0 := s0) form
    rw [run]
    exact syAmo_sends ready legal first reached plain direct low high

end Sys2Proof.Machine
end

section
/-! Barriers, obligation O25 (R97, R276). -/

namespace Sys2Proof.Machine

open Host Arith

/-! ### The digits of a barrier's state (R276): COUNT, arrivals counted, and those to be performed -/

/-- The first digit of a state is its low 48 bits. -/
theorem barDigit_zero (st : Nat) : barDigit st 0 = st % 2 ^ 48 := by simp [barDigit, nbits]

/-- A state of one digit is replaced by it. -/
theorem setBarDigit_zero {st : Nat} (one : st < 2 ^ 48) (d : Nat) : setBarDigit st 0 d = d := by
  rw [setBarDigit, barDigit_zero, Nat.mod_eq_of_lt one]
  omega

/-- A digit's COUNT. -/
theorem nbits_count (d : Nat) : nbits d 15 0 = d % 2 ^ 16 := by simp [nbits]

/-- A digit's arrivals. -/
theorem nbits_arrived (d : Nat) : nbits d 31 16 = d / 2 ^ 16 % 2 ^ 16 := rfl

/-- A digit's arrivals that are to be performed. -/
theorem nbits_pending (d : Nat) : nbits d 47 32 = d / 2 ^ 32 % 2 ^ 16 := rfl

/-- Whether a state is one phase that is not full and has no arrival to be performed. -/
def quietPhase (st : Nat) : Prop := st = 0 ∨ (st < 2 ^ 32 ∧ st / 2 ^ 16 < st % 2 ^ 16)

/-- Its phase in progress is the first. -/
theorem openPhase_quiet {st : Nat} (quiet : quietPhase st) (fuel : Nat) : openPhase st (fuel + 1) 0 = 0 := by
  unfold quietPhase at quiet
  have one : st % 2 ^ 48 = st := by omega
  have few : st / 2 ^ 16 % 2 ^ 16 = st / 2 ^ 16 := by omega
  refine if_neg ?_
  rw [barDigit_zero, one, nbits_count, nbits_arrived, few]
  omega

/-- An arrival with a pending performance added to it. -/
def addArrival (d count : Nat) : Nat := d / 2 ^ 16 * 2 ^ 16 + 2 ^ 32 + 2 ^ 16 + count

/-- The digit of a quiet state with one more arrival, once it is performed. -/
theorem addArrival_quiet {st count : Nat} (quiet : quietPhase st) (small : count < 2 ^ 16) :
    addArrival st count < 2 ^ 48 ∧ addArrival st count - 2 ^ 32 = (st / 2 ^ 16 + 1) * 2 ^ 16 + count := by
  unfold quietPhase at quiet
  unfold addArrival
  omega

/-- A phase of one digit ends as its arrivals reach COUNT, and otherwise goes on. -/
theorem endPhases_one {now arrived count : Nat} (some : count ≠ 0) (small : count < 2 ^ 16) (few : arrived < 2 ^ 16) (fuel : Nat) :
    endPhases (fuel + 2) (now, arrived * 2 ^ 16 + count) =
      if arrived = count then ((now + 1) % 2 ^ 32, 0) else (now, arrived * 2 ^ 16 + count) := by
  have digit : barDigit (arrived * 2 ^ 16 + count) 0 = arrived * 2 ^ 16 + count := by rw [barDigit_zero]; omega
  have arrivals : (arrived * 2 ^ 16 + count) / 2 ^ 16 % 2 ^ 16 = arrived := by omega
  have target : (arrived * 2 ^ 16 + count) % 2 ^ 16 = count := by omega
  have fits : arrived * 2 ^ 16 + count < 2 ^ 32 := by omega
  have pending : (arrived * 2 ^ 16 + count) / 2 ^ 32 % 2 ^ 16 = 0 := by rw [Nat.div_eq_of_lt fits, Nat.zero_mod]
  have rest : (arrived * 2 ^ 16 + count) / 2 ^ 48 = 0 := Nat.div_eq_of_lt (fits.trans (by decide))
  rw [endPhases]
  simp only [digit, nbits_count, nbits_arrived, nbits_pending, arrivals, target, pending, rest]
  have filled : arrived * 2 ^ 16 + count ≠ 0 := by omega
  refine if_congr ⟨fun h => h.2.1, fun full => ⟨filled, full, trivial⟩⟩ ?_ rfl
  rw [endPhases]
  exact if_neg (by simp [barDigit_zero])

section
variable {s0 s : State} {m : Mv} {x : Word} {level : BitVec 3}

/-! ### arrive (R276) -/

/-- What arrive does at a level that is legal. -/
def arriveEff (level : BitVec 3) (x : Word) (s : State) : Eff :=
  let g := s.group s.t.group
  let node := levelNode level.toNat s.t.core
  let key := node * 2 ^ 16 + wbits x 15 0
  let count := wbits x 31 16
  let b := g.barriers.get key (0, 0)
  let i := openPhase b.2 (Nat.log2 b.2 / 48 + 1) 0
  let d := barDigit b.2 i
  if count = 0 ∨ (d ≠ 0 ∧ d % 2 ^ 16 ≠ count) then .trap s 5 3 x
  else if (g.barriers.find? key).isNone ∧ 64 ≤ s.liveBarriers g.part node then .trap s 5 4 x
  else
    let phase := (b.1 + i) % 2 ^ 32
    let s := s.setGroup s.t.group { g with barriers := g.barriers.set key (b.1, setBarDigit b.2 i (addArrival d count)) }
    syResult (wd phase) (s.issueRelease (.arrive s.t.group key phase) 0 [] 0)

/-- The operation of arrive. -/
def arriveOp (level : BitVec 3) (x : Word) (s : State) : Eff :=
  if level = 0 ∨ 4 < level.toNat then .illPort s else s.serialised (arriveEff level x)

/-- arrive performs it. -/
theorem exec_syArrive : exec (.syArrive level m) s0 = syForm m (arriveOp level) s0 := rfl

/-- The operation of bwait. -/
def bwaitOp (level : BitVec 3) (x : Word) (s : State) : Eff :=
  if level = 0 ∨ 4 < level.toNat then .illPort s
  else s.serialised fun s =>
    if wd (s.phase s.t.group level.toNat s.t.core (wbits x 15 0)) ≠ s.t.pw 16 2 then .done s
    else .block s (.barrier level.toNat (wbits x 15 0) (s.t.pw 16 2).toNat)

/-- bwait performs it. -/
theorem exec_syBwait : exec (.syBwait level m) s0 = syForm m (bwaitOp level) s0 := rfl

/-- A level between 1 and 4 is none of the illegal ones. -/
theorem legal_level (low : 1 ≤ level.toNat) (high : level.toNat ≤ 4) : ¬ (level = 0 ∨ 4 < level.toNat) := by
  rintro (rfl | above)
  · exact absurd low (by decide)
  · omega

section
variable (plain : s.t.spec = false) (low : 1 ≤ level.toNat) (high : level.toNat ≤ 4)
include plain low high

/-- arrive of a legal level. -/
theorem arriveOp_legal : arriveOp level x s = arriveEff level x s :=
  (if_neg (legal_level low high)).trans (State.serialised_of_plain plain _)

/-- bwait of a legal level. -/
theorem bwaitOp_legal : bwaitOp level x s =
    if wd (s.phase s.t.group level.toNat s.t.core (wbits x 15 0)) ≠ s.t.pw 16 2 then .done s
    else .block s (.barrier level.toNat (wbits x 15 0) (s.t.pw 16 2).toNat) :=
  (if_neg (legal_level low high)).trans (State.serialised_of_plain plain _)

end

/-- An arrival that is performed at once counts in its group's barrier, and the phase ends as it reaches COUNT. -/
theorem barrier_arrived {gid key now st count : Nat} (quiet : quietPhase st) (some : count ≠ 0)
    (small : count < 2 ^ 16)
    (counted : (s.group gid).barriers.get key (0, 0) = (now, addArrival st count)) :
    ((s.arrived gid key now).group gid).barriers.get key (0, 0) =
      if st / 2 ^ 16 + 1 = count then ((now + 1) % 2 ^ 32, 0) else (now, (st / 2 ^ 16 + 1) * 2 ^ 16 + count) := by
  obtain ⟨one, performed⟩ := addArrival_quiet quiet small
  have place : (now + 2 ^ 32 - now) % 2 ^ 32 = 0 := by omega
  have few : st / 2 ^ 16 + 1 < 2 ^ 16 := by unfold quietPhase at quiet; omega
  rw [State.arrived]
  simp only [counted, place, barDigit_zero, Nat.mod_eq_of_lt one, performed, setBarDigit_zero one, State.group_setGroup,
    Tab.get_set_self]
  exact endPhases_one some small few _

end

/-- A strand with nothing to be performed that counts its arrival in a quiet phase and issues it has it performed. -/
theorem barrier_issued {s : State} {gid key now st count : Nat} (stores : s.t.stores = []) (loads : s.t.waitingLoads = [])
    (quiet : quietPhase st) (some : count ≠ 0) (small : count < 2 ^ 16)
    (counted : (s.group gid).barriers.get key (0, 0) = (now, addArrival st count)) :
    ((s.issueRelease (.arrive gid key now) 0 [] 0).group gid).barriers.get key (0, 0) =
      if st / 2 ^ 16 + 1 = count then ((now + 1) % 2 ^ 32, 0) else (now, (st / 2 ^ 16 + 1) * 2 ^ 16 + count) := by
  rw [issueRelease_arrive stores loads]
  exact barrier_arrived (s := s.withRelease (.arrive gid key now)) quiet some small counted

/-- Settles O25: the checks of arrive come in order, and an arrival with nothing before it is performed at once. -/
theorem barrierResults : Obligations.BarrierResults := by
  intro s0 s m x level ready plain g node key count now st i d
  refine ⟨fun illegal i form => ?_, fun low high => ?_⟩
  · simp only [List.mem_cons, List.not_mem_nil, or_false] at form
    obtain rfl | rfl := form
    · exact exec_syArrive.trans (syForm_trap ready (if_pos illegal))
    · exact exec_syBwait.trans (syForm_trap ready (if_pos illegal))
  · rw [exec_syArrive, exec_syBwait]
    have arrive := arriveOp_legal (x := x) plain low high
    have wait := bwaitOp_legal (x := x) plain low high
    refine ⟨fun bad => ?_, fun some agrees new full => ?_, fun some agrees room => ?_, fun other => ?_, fun same direct => ?_⟩
    · exact syForm_trap ready (arrive.trans (if_pos bad))
    · refine syForm_trap ready (arrive.trans ((if_neg (by tauto)).trans (if_pos ⟨?_, full⟩)))
      rw [new]
      rfl
    · refine ⟨_, _, rfl, rfl, syForm_done ready (arrive.trans ((if_neg (by tauto)).trans (if_neg ?_))), ?_⟩
      · rintro ⟨absent, full⟩
        exact room.elim (fun present => present (Option.isNone_iff_eq_none.1 absent)) (Nat.not_lt.2 full)
      · intro stores loads clock quiet
        have first : i = 0 := openPhase_quiet quiet _
        have one : st < 2 ^ 48 := by omega
        have digit : d = st := by rw [show d = barDigit st i from rfl, first, barDigit_zero, Nat.mod_eq_of_lt one]
        have phase : (now + i) % 2 ^ 32 = now := by omega
        refine ⟨first, ?_⟩
        rw [phase]
        refine barrier_issued stores loads quiet some (Nat.mod_lt _ (by decide)) ?_
        rw [State.group_setGroup]
        refine (Tab.get_set_self _ _ _ _).trans ?_
        rw [digit, first, ← addArrival, setBarDigit_zero one]
    · exact syForm_done ready (wait.trans (if_pos other))
    · exact syForm_block ready (wait.trans (if_neg (not_not_intro same))) direct

end Sys2Proof.Machine
end

section
/-! SUPPORT. Bytes of the residual stack in local store (R363, R364): where they lie, and what a read of resident chunks answers. -/

namespace Sys2Proof.Machine

open Host Arith

/-! ### Slices -/

/-- A slice's elements. -/
theorem sliceBytes_append (l : List Byte) (off a b : Nat) : sliceBytes l off a ++ sliceBytes l (off + a) b = sliceBytes l off (a + b) := by
  simp only [sliceBytes, List.range_add, List.map_append, List.map_map]
  simp [Function.comp_def, Nat.add_assoc]

/-- The whole of a list. -/
theorem sliceBytes_all (l : List Byte) : sliceBytes l 0 l.length = l := by
  refine List.ext_getElem (by simp [sliceBytes]) fun i low high => ?_
  simp [sliceBytes, List.getElem?_eq_getElem high]

/-- A slice has its length. -/
theorem sliceBytes_length (l : List Byte) (off n : Nat) : (sliceBytes l off n).length = n := by simp [sliceBytes]

/-- A byte of a slice. -/
theorem sliceBytes_getD {l : List Byte} {off n i : Nat} (inside : i < n) : (sliceBytes l off n).getD i 0 = l.getD (off + i) 0 := by
  rw [List.getD_eq_getElem _ _ (by rwa [sliceBytes_length])]
  simp [sliceBytes]

/-! ### Chunks -/

/-- The chunks that bytes of the stack lie in. -/
theorem mem_chunksOf {off n c : Nat} (some : n ≠ 0) : c ∈ chunksOf off n ↔ off / 4096 ≤ c ∧ c ≤ (off + n - 1) / 4096 := by
  rw [chunksOf, if_neg some]
  simp only [List.mem_map, List.mem_range]
  constructor
  · rintro ⟨i, low, rfl⟩
    have := Nat.div_le_div_right (c := 4096) (show off ≤ off + n - 1 by omega)
    omega
  · rintro ⟨low, high⟩
    exact ⟨c - off / 4096, by omega, by omega⟩

/-- The number of chunks that bytes of the stack lie in. -/
theorem chunksOf_length {off n : Nat} (some : n ≠ 0) : (chunksOf off n).length = (off + n - 1) / 4096 - off / 4096 + 1 := by
  rw [chunksOf, if_neg some, List.length_map, List.length_range]

/-- The chunk of a byte among them. -/
theorem chunk_mem {off n i : Nat} (inside : i < n) : (off + i) / 4096 ∈ chunksOf off n :=
  (mem_chunksOf (by omega)).2 ⟨Nat.div_le_div_right (by omega), Nat.div_le_div_right (by omega)⟩

/-- Numbers nearer to each other than a modulus are the same where their remainders are. -/
theorem eq_of_mod_eq_near {a b n : Nat} (le : a ≤ b) (near : b - a < n) (same : a % n = b % n) : a = b := by
  have whole : (b - a) % n = 0 := Nat.sub_mod_eq_zero_of_mod_eq same.symm
  rw [Nat.mod_eq_of_lt near] at whole
  omega

section
variable {s : State} {t : Task} {off n : Nat} {bs : List Byte}

/-! ### Where a byte lies (R363) -/

/-- The bytes of a chunk follow each other. -/
theorem residPa_add {j : Nat} (inside : off % 4096 + j < 4096) : t.residPa (off + j) = t.residPa off + j := by
  have chunk : (off + j) / 4096 = off / 4096 := by omega
  have place : (off + j) % 4096 = off % 4096 + j := by omega
  rw [Task.residPa, Task.residPa, chunk, place, ← coreWin_add, Nat.add_assoc _ _ j]

/-- Bytes of chunks that fit in local store together lie at different addresses. -/
theorem residPa_inj {a b : Nat} (le : a ≤ b) (near : b / 4096 - a / 4096 < t.seg 0) (same : t.residPa a = t.residPa b) : a = b := by
  rw [Task.residPa, Task.residPa, coreWin_inj] at same
  have slot : a / 4096 % t.seg 0 = b / 4096 % t.seg 0 := by omega
  have chunk := eq_of_mod_eq_near (Nat.div_le_div_right le) near slot
  omega

/-! ### Reading resident chunks (R364) -/

/-- The bytes of the stack that have been read once the chunks below the j-th have. -/
def residEnd (off n j : Nat) : Nat := min n (4096 * (off / 4096 + j) - off)

/-- Bytes of a resident chunk are read where they lie. -/
theorem rd_resident {i k : Nat} (held : ∀ i < n, Memory.get s.mem (s.t.residPa (off + i)) = bs.getD i 0) (within : i + k ≤ n)
    (chunk : (off + i) % 4096 + k ≤ 4096) : s.rd (s.t.residPa (off + i)) k = sliceBytes bs i k := by
  rw [State.rd, Memory.read_eq, sliceBytes]
  refine List.map_congr_left fun j inside => ?_
  rw [List.mem_range] at inside
  rw [← residPa_add (by omega), Nat.add_assoc]
  exact held _ (by omega)

/-- What reading one more chunk adds. -/
def State.residStep (s : State) (off n : Nat) (acc : List Byte × Bool) (c : Nat) : Except (Nat × Word) (List Byte × Bool) :=
  let a := max off (4096 * c)
  let e := min (off + n) (4096 * c + 4096)
  if s.t.resident c ∨ s.t.outside c = 0 then
    .ok (acc.1 ++ s.rd (s.t.residPa a) (e - a), acc.2 || s.bad (s.t.residPa a) (e - a))
  else (s.fromTier c).map fun (bs, m) => (acc.1 ++ sliceBytes bs (a - 4096 * c) (e - a), acc.2 || maskHit m (a - 4096 * c) (e - a))

/-- The stack is read chunk by chunk. -/
theorem residSee_eq : s.residSee off n = (chunksOf off n).foldlM (s.residStep off n) ([], false) := rfl

/-- The next resident chunk adds its bytes. -/
theorem residStep_resident {j : Nat} {bad : Bool} (resident : s.t.resident (off / 4096 + j) = true)
    (within : off / 4096 + j ≤ (off + n - 1) / 4096) (some : n ≠ 0)
    (held : ∀ i < n, Memory.get s.mem (s.t.residPa (off + i)) = bs.getD i 0) :
    ∃ bad', s.residStep off n (sliceBytes bs 0 (residEnd off n j), bad) (off / 4096 + j) =
      .ok (sliceBytes bs 0 (residEnd off n (j + 1)), bad') := by
  have first : max off (4096 * (off / 4096 + j)) = off + residEnd off n j := by unfold residEnd; omega
  have last : min (off + n) (4096 * (off / 4096 + j) + 4096) - (off + residEnd off n j) = residEnd off n (j + 1) - residEnd off n j := by
    unfold residEnd; omega
  have grows : residEnd off n j ≤ residEnd off n (j + 1) := by unfold residEnd; omega
  have ends : residEnd off n (j + 1) ≤ n := Nat.min_le_left _ _
  have chunk : (off + residEnd off n j) % 4096 + (residEnd off n (j + 1) - residEnd off n j) ≤ 4096 := by unfold residEnd; omega
  rw [State.residStep]
  simp only [first, last]
  rw [if_pos (.inl resident), rd_resident held (by omega) chunk]
  refine ⟨_, congrArg _ (Prod.ext ?_ rfl)⟩
  have joined := sliceBytes_append bs 0 (residEnd off n j) (residEnd off n (j + 1) - residEnd off n j)
  rwa [Nat.zero_add, Nat.add_sub_cancel' grows] at joined

/-- Reading resident chunks one by one. -/
theorem residSteps_resident (some : n ≠ 0) (resident : ∀ c ∈ chunksOf off n, s.t.resident c = true)
    (held : ∀ i < n, Memory.get s.mem (s.t.residPa (off + i)) = bs.getD i 0) (j : Nat)
    (le : off / 4096 + j ≤ (off + n - 1) / 4096 + 1) :
    ∃ bad, ((List.range j).map fun i => off / 4096 + i).foldlM (s.residStep off n) ([], false) =
      .ok (sliceBytes bs 0 (residEnd off n j), bad) := by
  induction j with
  | zero =>
    have start : residEnd off n 0 = 0 := by unfold residEnd; omega
    exact ⟨false, by rw [start]; rfl⟩
  | succ j ih =>
    obtain ⟨bad, read⟩ := ih (by omega)
    obtain ⟨bad', next⟩ := residStep_resident (bad := bad)
      (resident (off / 4096 + j) ((mem_chunksOf some).2 ⟨by omega, by omega⟩))
      (by omega) some held
    refine ⟨bad', ?_⟩
    rw [List.range_succ, List.map_append, List.foldlM_append, read]
    exact (bind_pure _).trans next

/-- A read of resident chunks answers the bytes that they hold. -/
theorem residSee_resident (some : bs.length ≠ 0) (resident : ∀ c ∈ chunksOf off bs.length, s.t.resident c = true)
    (held : ∀ i < bs.length, Memory.get s.mem (s.t.residPa (off + i)) = bs.getD i 0) :
    ∃ bad, s.residSee off bs.length = .ok (bs, bad) := by
  have le : off / 4096 ≤ (off + bs.length - 1) / 4096 := Nat.div_le_div_right (by omega)
  obtain ⟨bad, read⟩ := residSteps_resident some resident held ((off + bs.length - 1) / 4096 - off / 4096 + 1) (by omega)
  have whole : residEnd off bs.length ((off + bs.length - 1) / 4096 - off / 4096 + 1) = bs.length := by unfold residEnd; omega
  rw [whole, sliceBytes_all] at read
  exact ⟨bad, by rw [residSee_eq, chunksOf, if_neg some, read]⟩

end
end Sys2Proof.Machine
end

section
/-! The records of the residual stack, obligation O37 (R300, R302, R360, R364, R365). -/

namespace Sys2Proof.Machine

open Host Arith

section
variable {s0 s : State} {t : Task} {m : Mv} {x : Word} {bs : List Byte} {placed : Nat} {ok : State → Eff}

/-! ### Chunks in place (R364) -/

/-- A chunk in local store needs nothing. -/
theorem need_resident {c : Nat} (resident : t.resident c = true) : t.need c = .none := if_pos resident

/-- Taking the slots of chunks in local store changes nothing. -/
theorem takeSlots_resident {cs : List Nat} (resident : ∀ c ∈ cs, t.resident c = true) : cs.foldl Task.takeSlot t = t := by
  induction cs with
  | nil => rfl
  | cons c cs ih =>
    rw [List.foldl_cons, show t.takeSlot c = t from if_pos (resident c List.mem_cons_self)]
    exact ih fun d inl => resident d (List.mem_cons_of_mem c inl)

/-- An operation on chunks in local store goes on at once. -/
theorem withChunks_resident {cs : List Nat} (resident : ∀ c ∈ cs, s.t.resident c = true) :
    s.withChunks cs ok = ok (s.setT s.t) := by
  have found : cs.find? (fun c => s.t.need c != .none) = none :=
    List.find?_eq_none.2 fun c inl => by simp [need_resident (resident c inl)]
  rw [State.withChunks, found, takeSlots_resident resident]

/-! ### Placing bytes above the top (R364) -/

/-- How many bytes the next step places: those that are left, up to the end of the chunk. -/
def stepLength (s : State) (bs : List Byte) : Nat := min (bs.length - s.t.cur.pushed) (4096 - s.t.live % 4096)

/-- The chunk table after a step has placed bytes at the end of the live ones. -/
def Task.laysChunk (t : Task) : Tab Nat := t.chunks.set (t.live / 4096 % t.seg 0) (2 * (t.live / 4096 + 1))

/-- The state after a step. -/
def State.layStep (s : State) (bs : List Byte) : State :=
  let u := (s.setT s.t).residPut s.t.live (sliceBytes bs s.t.cur.pushed (stepLength s bs))
  u.setT { u.t with cur := { u.t.cur with pushed := s.t.cur.pushed + stepLength s bs } }

/-- Bytes are placed step by step while the chunks are in local store. -/
theorem layDown_step (left : s.t.cur.pushed < bs.length) (resident : s.t.resident (s.t.live / 4096) = true) (fuel : Nat) :
    s.layDown bs ok (fuel + 1) = (s.layStep bs).layDown bs ok fuel := by
  rw [State.layDown]
  refine (if_neg (Nat.not_le.2 left)).trans ((withChunks_resident (by simpa using resident)).trans ?_)
  rfl

/-- Once all are placed the push goes on. -/
theorem layDown_end (all : bs.length ≤ s.t.cur.pushed) (fuel : Nat) : s.layDown bs ok fuel = ok s := by
  cases fuel with
  | zero => rfl
  | succ fuel =>
    rw [State.layDown]
    exact if_pos all

/-- The task after a step. -/
theorem t_layStep (s : State) (bs : List Byte) : (s.layStep bs).t =
    { s.t with chunks := s.t.laysChunk, cur := { s.t.cur with pushed := s.t.cur.pushed + stepLength s bs } } := by
  simp [State.layStep, State.residPut, Task.laysChunk]

/-- The memory after a step. -/
theorem mem_layStep (s : State) (bs : List Byte) : (s.layStep bs).mem =
    Memory.write s.mem (s.t.residPa s.t.live) (sliceBytes bs s.t.cur.pushed (stepLength s bs)) := by
  simp [State.layStep, State.residPut]

/-- A state in which the first bytes of a list stand above the top of the stack of s0, whose chunks are in local store. -/
structure Laid (s0 : State) (bs : List Byte) (placed : Nat) (s : State) : Prop where
  cur : s.cur = s0.cur
  task : ∃ chunks, s.t = { s0.t with chunks := chunks, cur := { s0.t.cur with pushed := placed } }
  resident : ∀ c ∈ chunksOf s0.t.top bs.length, s.t.resident c = true
  bytes : ∀ i < placed, Memory.get s.mem (s0.t.residPa (s0.t.top + i)) = bs.getD i 0

/-- Before a push nothing is placed. -/
theorem Laid.start (unpushed : s.t.cur.pushed = 0) (resident : ∀ c ∈ chunksOf s.t.top bs.length, s.t.resident c = true) :
    Laid s bs 0 s where
  cur := rfl
  task := ⟨s.t.chunks, by rw [← unpushed]⟩
  resident := resident
  bytes i low := absurd low (Nat.not_lt_zero i)

namespace Laid
variable (laid : Laid s0 bs placed s)
include laid

/-- What has been placed. -/
theorem pushed : s.t.cur.pushed = placed := by
  obtain ⟨chunks, task⟩ := laid.task
  rw [task]

/-- The end of the bytes in use. -/
theorem live : s.t.live = s0.t.top + placed := by
  obtain ⟨chunks, task⟩ := laid.task
  rw [task]
  rfl

/-- The number of slots is the same. -/
theorem slots : s.t.seg 0 = s0.t.seg 0 := by
  obtain ⟨chunks, task⟩ := laid.task
  rw [task]
  rfl

/-- Bytes lie where they did. -/
theorem residPa (off : Nat) : s.t.residPa off = s0.t.residPa off := by
  obtain ⟨chunks, task⟩ := laid.task
  rw [task]
  rfl

/-- A step keeps the chunks of the bytes in local store: the chunk that it writes stands in its slot, and the others' slots differ. -/
theorem layStep_resident (left : placed < bs.length) (fits : (chunksOf s0.t.top bs.length).length ≤ s0.t.seg 0) :
    ∀ c ∈ chunksOf s0.t.top bs.length, (s.layStep bs).t.resident c = true := by
  intro c inside
  have full : bs.length ≠ 0 := by omega
  have written := (mem_chunksOf full).1 (chunk_mem (off := s0.t.top) left)
  have bounds := (mem_chunksOf full).1 inside
  rw [chunksOf_length full] at fits
  rw [t_layStep]
  change (Task.slotChunk { s.t with chunks := s.t.laysChunk } (c % s.t.seg 0) == some c) = true
  rw [Task.slotChunk, Task.laysChunk, laid.live, laid.slots]
  by_cases same : c = (s0.t.top + placed) / 4096
  · rw [same, Tab.get_set_self]
    simp
    omega
  · have slot : c % s0.t.seg 0 ≠ (s0.t.top + placed) / 4096 % s0.t.seg 0 := by
      intro equal
      rcases Nat.le_total c ((s0.t.top + placed) / 4096) with le | le
      · exact same (eq_of_mod_eq_near le (by omega) equal)
      · exact same (eq_of_mod_eq_near le (by omega) equal.symm).symm
    rw [Tab.get_set_ne _ _ _ _ _ slot]
    have before := laid.resident c inside
    rwa [Task.resident, laid.slots] at before

/-- A step leaves the bytes placed before it and places the next ones. -/
theorem layStep_bytes (left : placed < bs.length) (fits : (chunksOf s0.t.top bs.length).length ≤ s0.t.seg 0) :
    ∀ i < placed + stepLength s bs, Memory.get (s.layStep bs).mem (s0.t.residPa (s0.t.top + i)) = bs.getD i 0 := by
  intro i inside
  have full : bs.length ≠ 0 := by omega
  rw [chunksOf_length full] at fits
  have room : (s0.t.top + placed) % 4096 + stepLength s bs ≤ 4096 := by
    unfold stepLength
    rw [laid.live]
    omega
  have within : placed + stepLength s bs ≤ bs.length := by
    unfold stepLength
    rw [laid.pushed]
    omega
  rw [mem_layStep, laid.pushed, laid.live, laid.residPa]
  by_cases new : placed ≤ i
  · obtain ⟨j, rfl⟩ := Nat.exists_eq_add_of_le new
    rw [← Nat.add_assoc, residPa_add (off := s0.t.top + placed) (by omega), Memory.get_write_in _ _ _ _ (by rw [sliceBytes_length]; omega),
      sliceBytes_getD (by omega)]
  · rw [Memory.get_write, if_neg, laid.bytes i (by omega)]
    rintro ⟨low, high⟩
    rw [sliceBytes_length] at high
    obtain ⟨j, equal⟩ := Nat.exists_eq_add_of_le low
    have short : j < stepLength s bs := by omega
    rw [← residPa_add (by omega)] at equal
    have chunks : (s0.t.top + placed + j) / 4096 ≤ (s0.t.top + bs.length - 1) / 4096 := Nat.div_le_div_right (by omega)
    have lower : s0.t.top / 4096 ≤ (s0.t.top + i) / 4096 := Nat.div_le_div_right (by omega)
    have := residPa_inj (by omega) (by omega) equal
    omega

/-- A step places its bytes. -/
theorem step (left : placed < bs.length) (fits : (chunksOf s0.t.top bs.length).length ≤ s0.t.seg 0) :
    Laid s0 bs (placed + stepLength s bs) (s.layStep bs) where
  cur := laid.cur
  task := by
    obtain ⟨chunks, task⟩ := laid.task
    refine ⟨s.t.laysChunk, ?_⟩
    rw [t_layStep, laid.pushed, task]
  resident := laid.layStep_resident left fits
  bytes := laid.layStep_bytes left fits

/-- The chunk that the next step writes is in local store. -/
theorem next_resident (left : placed < bs.length) : s.t.resident (s.t.live / 4096) = true := by
  rw [laid.live]
  exact laid.resident _ (chunk_mem left)

end Laid

/-- Bytes of at most a chunk are placed in two steps. -/
theorem layDown_places (unpushed : s.t.cur.pushed = 0) (short : bs.length ≤ 4096)
    (fits : (chunksOf s.t.top bs.length).length ≤ s.t.seg 0) (resident : ∀ c ∈ chunksOf s.t.top bs.length, s.t.resident c = true) :
    ∃ u, Laid s bs bs.length u ∧ s.layDown bs ok 2 = ok u := by
  have laid := Laid.start unpushed resident
  rcases Nat.eq_zero_or_pos bs.length with none | some
  · exact ⟨s, none ▸ laid, layDown_end (by omega) 2⟩
  have first := laid.step some fits
  rw [layDown_step (by omega) (laid.next_resident some)]
  rw [Nat.zero_add] at first
  by_cases whole : bs.length ≤ stepLength s bs
  · have all : stepLength s bs = bs.length := Nat.le_antisymm (by unfold stepLength; omega) whole
    rw [all] at first
    exact ⟨_, first, layDown_end first.pushed.ge 1⟩
  · have rest := first.step (by omega) fits
    have length : stepLength s bs = min bs.length (4096 - s.t.top % 4096) := by rw [stepLength, unpushed, laid.live]; rfl
    have crossed : (s.t.top + stepLength s bs) % 4096 = 0 := by omega
    have all : stepLength s bs + stepLength (s.layStep bs) bs = bs.length := by
      rw [stepLength.eq_def (s.layStep bs), first.pushed, first.live, crossed]
      omega
    rw [all] at rest
    rw [layDown_step (by rw [first.pushed]; omega) (first.next_resident (by omega))]
    exact ⟨_, rest, layDown_end rest.pushed.ge 0⟩

/-! ### The top of the stack (R302) -/

/-- The task at the end of a slot that has set the top outside a walk. -/
theorem t_setTop_slotEnds (direct : s.t.inWalk = none) (top u : Nat) : ((s.setT (s.t.setTop top)).slotEnds u).t =
    { s.t with cur := { s.t.cur with top := some (wd top), pushed := 0, used := u :: s.t.cur.used }, slot := s.t.slot + 1 } := by
  simp [Task.setTop, direct]

/-! ### Push (R300, R360, R365) -/

/-- The record that db.push places. -/
def pushRecord (x blk : Word) (bid : Nat) : List Byte :=
  if x = 0 then recordBytes 0 0 0 0 bid (toBytes 8 blk.toNat) else recordBytes 1 0 0 0 (wbits blk 31 0) []

/-- A record's length. -/
theorem recordBytes_length (kind rtype slot bundle bid : Nat) (payload : List Byte) :
    (recordBytes kind rtype slot bundle bid payload).length = pad16 payload.length + 16 := by
  simp [recordBytes, padTo, sliceBytes_length]

/-- A scalar record has 32 bytes, a marker 16. -/
theorem pushRecord_length (x blk : Word) (bid : Nat) : (pushRecord x blk bid).length = if x = 0 then 32 else 16 := by
  unfold pushRecord
  split
  · rw [recordBytes_length, toBytes_length]
    rfl
  · rw [recordBytes_length]
    rfl

/-- A record without room is cause OVERFLOW. -/
theorem pushBytes_overflow {r : List Byte} (full : s.t.residCap < s.t.top + r.length) (go : List Nat → State → Eff) :
    s.pushBytes [r] go = revTrap s 5 := by
  rw [State.pushBytes]
  exact if_pos (by simpa using full)

/-- A record with room is placed above the top, which follows it. -/
theorem pushBytes_one {r : List Byte} (short : r.length < 4096) (room : s.t.top + r.length ≤ s.t.residCap) (go : State → Eff) :
    s.pushBytes [r] (fun _ => go) = s.layDown r (fun u => go (u.setT (u.t.setTop (s.t.top + r.length)))) 2 := by
  have total : ([r].map List.length).sum = r.length := by simp
  have steps : r.length / 4096 + 2 = 2 := by omega
  unfold State.pushBytes
  simp only [total, steps]
  rw [if_neg (by omega), List.flatten_singleton]

/-- The identity of the open block, or 0. -/
def Task.blockId (t : Task) : Nat := match t.block with | some b => b.bid | none => 0

/-- The operation of db.push. -/
def pushOp (x : Word) (s : State) : Eff :=
  if 1 < x.toNat then .illPort s
  else s.settleDrain fun u => u.pushBytes [pushRecord x (s.t.pw 18 5) s.t.blockId] fun _ => .done

/-- db.push performs it. -/
theorem exec_dbPush : exec (.dbPush m) s0 = trigW 18 m pushOp s0 := rfl

/-- Without a drain a kind that is legal pushes its record. -/
theorem pushOp_record (kind : x.toNat ≤ 1) (drained : s.t.drain = none) :
    pushOp x s = s.pushBytes [pushRecord x (s.t.pw 18 5) s.t.blockId] fun _ => .done :=
  (if_neg (Nat.not_lt.2 kind)).trans (settleDrain_none drained _)

/-- A record of at most a chunk whose chunks are in local store, placed above a top with room: the stack ends with it. -/
theorem pushBytes_ends {r : List Byte} (some : r.length ≠ 0) (short : r.length < 4096) (room : s.t.top + r.length ≤ s.t.residCap)
    (direct : s.t.inWalk = none) (unpushed : s.t.cur.pushed = 0) (fits : (chunksOf s.t.top r.length).length ≤ s.t.seg 0)
    (resident : ∀ c ∈ chunksOf s.t.top r.length, s.t.resident c = true) :
    ∃ u, s.pushBytes [r] (fun _ => .done) = .done u ∧ (u.slotEnds 18).cur = s.cur ∧
      (u.slotEnds 18).t.cur.top = Option.some (wd (s.t.top + r.length)) ∧ (u.slotEnds 18).t.ctl = s.t.ctl ∧
      (u.slotEnds 18).t.g = s.t.g ∧ (u.slotEnds 18).t.v = s.t.v ∧
      ∃ bad, (u.slotEnds 18).residSee s.t.top r.length = .ok (r, bad) := by
  obtain ⟨u, laid, lays⟩ := layDown_places (ok := fun u => .done (u.setT (u.t.setTop (s.t.top + r.length)))) unpushed
    short.le fits resident
  obtain ⟨chunks, task⟩ := laid.task
  have walk : u.t.inWalk = none := by rw [task]; exact direct
  have ends := t_setTop_slotEnds walk (s.t.top + r.length) 18
  refine ⟨_, (pushBytes_one short room _).trans lays, laid.cur, ?_, ?_, ?_, ?_, residSee_resident some ?_ ?_⟩
  · rw [ends]
  · rw [ends, task]
  · rw [ends, task]
  · rw [ends, task]
  · rw [ends]
    exact laid.resident
  · rw [ends]
    exact fun i inside => (congrArg (Memory.get u.mem) (laid.residPa _)).trans (laid.bytes i inside)

/-! ### Pop (R300, R360, R364) -/

/-- Bytes of the stack that are read without a fault or poison go on. -/
theorem withSeen_good {off n : Nat} {bs : List Byte} (seen : s.residSee off n = .ok (bs, false)) (go : List Byte → Eff) :
    withSeen s off n go = go bs := by
  rw [withSeen, seen]
  rfl

/-- Popping to an offset whose chunks are in local store sets the top. -/
theorem popTo_resident {size : Nat} (held : size ≤ s.t.top)
    (resident : ∀ c ∈ (chunksOf (s.t.top - size) size).take (s.t.seg 0), s.t.resident c = true) :
    s.popTo (s.t.top - size) ok = ok ((s.setT s.t).setT (s.t.setTop (s.t.top - size))) := by
  have popped : s.t.top - (s.t.top - size) = size := by omega
  rw [State.popTo, popped, withChunks_resident resident, State.t_setT]

/-- The value that db.pop answers. -/
def popValue (x : Word) (payload : List Byte) (tr : Trailer) : Word := if x = 0 then wd (leAt payload 0 8) else wd tr.bid

/-- The operation of db.pop. -/
def popOp (x : Word) (s : State) : Eff :=
  if 1 < x.toNat then .illPort s
  else if s.t.top < 16 then revTrap s 2
  else withSeen s (s.t.top - 16) 16 fun tr =>
    if (trailerOf tr).kind ≠ x.toNat ∨ s.t.top < (trailerOf tr).size then revTrap s 2
    else withSeen s (s.t.top - (trailerOf tr).size) (trailerOf tr).plen fun p =>
      s.popTo (s.t.top - (trailerOf tr).size) fun s =>
        .done (s.setT (s.t.result 18 false 1 (.w (popValue x p (trailerOf tr))) 0))

/-- db.pop performs it. -/
theorem exec_dbPop : exec (.dbPop m) s0 = trigW 18 m popOp s0 := rfl

section
variable {trb : List Byte} (kind : x.toNat ≤ 1) (holds : 16 ≤ s.t.top) (seen : s.residSee (s.t.top - 16) 16 = .ok (trb, false))
include kind holds seen

/-- A trailer of another kind is cause NEST. -/
theorem popOp_other (other : (trailerOf trb).kind ≠ x.toNat) : popOp x s = revTrap s 2 :=
  (if_neg (Nat.not_lt.2 kind)).trans ((if_neg (Nat.not_lt.2 holds)).trans ((withSeen_good seen _).trans (if_pos (.inl other))))

/-- A record of the kind is taken off and its value answered. -/
theorem popOp_takes {p : List Byte} (same : (trailerOf trb).kind = x.toNat) (held : (trailerOf trb).size ≤ s.t.top)
    (payload : s.residSee (s.t.top - (trailerOf trb).size) (trailerOf trb).plen = .ok (p, false))
    (resident : ∀ c ∈ (chunksOf (s.t.top - (trailerOf trb).size) (trailerOf trb).size).take (s.t.seg 0), s.t.resident c = true) :
    let t := s.t.setTop (s.t.top - (trailerOf trb).size)
    popOp x s = .done (s.setT (t.result 18 false 1 (.w (popValue x p (trailerOf trb))) 0)) := by
  have matched : ¬ ((trailerOf trb).kind ≠ x.toNat ∨ s.t.top < (trailerOf trb).size) := by omega
  refine (if_neg (Nat.not_lt.2 kind)).trans ((if_neg (Nat.not_lt.2 holds)).trans ((withSeen_good seen _).trans
    ((if_neg matched).trans ((withSeen_good payload _).trans ((popTo_resident held resident).trans ?_)))))
  simp

end
end

/-- Settles O37: a push places its record in at most two steps, each within a chunk, and a pop reads it back from its trailer. -/
theorem recordForms : Obligations.RecordForms := by
  intro s0 s m x ready direct drained unpushed top blk bid info
  refine ⟨fun above i form => ?_, fun kind few => ?_, ?_, ?_⟩
  · simp only [List.mem_cons, List.not_mem_nil, or_false] at form
    obtain rfl | rfl := form
    · exact exec_dbPush.trans (ready.trap (if_pos above))
    · exact exec_dbPop.trans (ready.trap (if_pos above))
  · exact exec_dbPop.trans (ready.trap ((if_neg (Nat.not_lt.2 kind)).trans (if_pos few)))
  · intro r kind
    refine ⟨fun full => ?_, fun room fits resident => ?_⟩
    · exact exec_dbPush.trans (ready.trap ((pushOp_record kind drained).trans (pushBytes_overflow full _)))
    have length : r.length = if x = 0 then 32 else 16 := pushRecord_length x blk bid
    have short : r.length ≠ 0 ∧ r.length < 4096 := by rw [length]; split <;> decide
    obtain ⟨u, push, cur, set, ctl, g, v, bad, see⟩ := pushBytes_ends short.1 short.2 room direct unpushed fits resident
    have current : (u.slotEnds 18).task s.cur = (u.slotEnds 18).t := by rw [← cur]; rfl
    refine ⟨_, bad, exec_dbPush.trans (ready.done ((pushOp_record kind drained).trans push)), ?_⟩
    rw [current]
    exact ⟨set, ctl, see, g, v⟩
  · intro trb p kind holds seen tr
    refine ⟨fun other => ?_, fun same held payload resident => ?_⟩
    · exact exec_dbPop.trans (ready.trap (popOp_other kind holds seen other))
    refine ⟨_, exec_dbPop.trans (ready.done (popOp_takes kind holds seen same held payload resident)), ?_⟩
    have task (t : Task) : ((s.setT t).slotEnds 18).task s.cur = ((s.setT t).slotEnds 18).t := rfl
    have set : s.t.setTop (top - tr.size) = { s.t with cur := { s.t.cur with top := some (wd (top - tr.size)), pushed := 0 } } :=
      if_neg (by rw [direct]; decide)
    rw [task, State.t_slotEnds, State.t_setT, set]
    exact ⟨rfl, rfl, rfl, rfl⟩

end Sys2Proof.Machine
end

section
/-! SUPPORT. The helper of a step, and what the operations that a helper uses leave of the helpers, the queues and the tasks (R304, R308,
R316). -/

namespace Sys2Proof.Machine

open Host Arith

/-! ### Helpers and queues in the state -/

/-- A core after one core is replaced. -/
theorem State.coreAt_setCore_eq (s : State) (n m : Nat) (c : Core) : (s.setCore n c).coreAt m = if m = n then c else s.coreAt m := by
  split
  next same => rw [same, State.coreAt_setCore]
  next other => exact Tab.get_set_ne _ _ _ _ _ other

/-- A helper after one helper is replaced. -/
theorem State.helper_setHelper (s : State) (n j m k : Nat) (x : Helper) :
    (s.setHelper n j x).helper m k = if m = n ∧ (k = 0 ↔ j = 0) then x else s.helper m k := by
  simp only [State.helper, State.setHelper, State.coreAt_setCore_eq]
  by_cases same : m = n
  · subst same
    by_cases first : j = 0 <;> by_cases asked : k = 0 <;> simp [first, asked]
  · simp [same]

/-- No queue changes with a helper. -/
@[simp] theorem State.queue_setHelper (s : State) (n j m q : Nat) (x : Helper) : (s.setHelper n j x).queue m q = s.queue m q := by
  simp only [State.queue, State.setHelper, State.coreAt_setCore_eq]
  split
  next same =>
    subst same
    split <;> rfl
  next => rfl

/-- No helper changes with a queue. -/
@[simp] theorem State.helper_setQueue (s : State) (n q m k : Nat) (y : Queue) : (s.setQueue n q y).helper m k = s.helper m k := by
  simp only [State.helper, State.setQueue, State.coreAt_setCore_eq]
  by_cases same : m = n
  · rw [if_pos same, same]
  · rw [if_neg same]

/-- A queue that was replaced. -/
@[simp] theorem State.queue_setQueue (s : State) (n q : Nat) (y : Queue) : (s.setQueue n q y).queue n q = y := by
  simp [State.queue, State.setQueue]

/-- A second replacement of a helper is the only one. -/
@[simp] theorem State.setHelper_setHelper (s : State) (n j : Nat) (x y : Helper) :
    (s.setHelper n j x).setHelper n j y = s.setHelper n j y := by
  simp only [State.setHelper, State.coreAt_setCore]
  split <;> simp [State.setCore]

section
variable (s : State) (x y : Helper)

@[simp] theorem State.setH_core : (s.setH x).core = s.core := rfl
@[simp] theorem State.setH_setter : (s.setH x).setter = s.setter := rfl
@[simp] theorem State.setH_hsel : (s.setH x).hsel = s.hsel := rfl
@[simp] theorem State.setH_hid : (s.setH x).hid = s.hid := rfl
@[simp] theorem State.setH_cur : (s.setH x).cur = s.cur := rfl
@[simp] theorem State.setH_tasks : (s.setH x).tasks = s.tasks := rfl
@[simp] theorem State.setH_mem : (s.setH x).mem = s.mem := rfl
@[simp] theorem State.setH_held : (s.setH x).held = s.held := rfl
@[simp] theorem State.setH_lrs : (s.setH x).lrs = s.lrs := rfl
@[simp] theorem State.queue_setH (n q : Nat) : (s.setH x).queue n q = s.queue n q := State.queue_setHelper ..
@[simp] theorem State.setH_setH : (s.setH x).setH y = s.setH y := State.setHelper_setHelper ..

/-- The current helper that was replaced. -/
@[simp] theorem State.h_setH : (s.setH x).h = x :=
  (State.helper_setHelper ..).trans (if_pos ⟨rfl, Iff.rfl⟩)

/-- The current helper stays when a queue is replaced. -/
@[simp] theorem State.h_setQueue (n q : Nat) (z : Queue) : (s.setQueue n q z).h = s.h := State.helper_setQueue ..

/-- The other helper of the core stays. -/
theorem State.helper_setH_other : (s.setH x).helper s.core (1 - s.hsel) = s.helper s.core (1 - s.hsel) := by
  rw [State.setH, State.helper_setHelper, if_neg]
  cases setter : s.setter <;> simp [State.hsel, setter]

end

/-! ### Registers (R304) -/

section
variable (h : Helper) (n : BitVec 5) (x : Word)

/-- A register write leaves the rest of its helper. -/
theorem Helper.w_eq : h.w n x = { h with x := (h.w n x).x } := by
  unfold Helper.w
  split <;> rfl

@[simp] theorem Helper.w_pc : (h.w n x).pc = h.pc := by rw [Helper.w_eq]
@[simp] theorem Helper.w_out : (h.w n x).out = h.out := by rw [Helper.w_eq]
@[simp] theorem Helper.w_wr : (h.w n x).wr = h.wr := by rw [Helper.w_eq]
@[simp] theorem Helper.w_store : (h.w n x).store = h.store := by rw [Helper.w_eq]
@[simp] theorem Helper.w_desc : (h.w n x).desc = h.desc := by rw [Helper.w_eq]
@[simp] theorem Helper.w_moved : (h.w n x).moved = h.moved := by rw [Helper.w_eq]

/-- The registers after a write are those of the registers before it. -/
theorem Helper.w_x : (h.w n x).x = if n = 0 then h.x else h.x.set n.toNat x := by
  unfold Helper.w
  split <;> rfl

/-- Helpers with the same registers have the same after the same write. -/
theorem Helper.w_x_congr {h k : Helper} (same : h.x = k.x) : (h.w n x).x = (k.w n x).x := by
  rw [Helper.w_x, Helper.w_x, same]

/-- Helpers with the same descriptors have the same streams. -/
theorem Helper.stream_congr {h k : Helper} (same : h.desc = k.desc) (i : Nat) : h.stream i = k.stream i := by
  rw [Helper.stream, same, Helper.stream]

/-- x0 reads zero. -/
theorem Helper.r_zero : h.r 0 = 0 := rfl

/-- x0 ignores writes. -/
theorem Helper.w_zero : h.w 0 x = h := rfl

/-- A written register reads back. -/
theorem Helper.r_w_self (nonzero : n ≠ 0) : (h.w n x).r n = x := by
  rw [Helper.r, Helper.w_x, if_neg nonzero, if_neg nonzero, Tab.get_set_self]

/-- The other registers stay. -/
theorem Helper.r_w_ne {r : BitVec 5} (other : r ≠ n) : (h.w n x).r r = h.r r := by
  have apart : r.toNat ≠ n.toNat := fun same => other (BitVec.eq_of_toNat_eq same)
  simp only [Helper.r, Helper.w_x]
  split
  · rfl
  · split
    · rfl
    · exact Tab.get_set_ne _ _ _ _ _ apart

end

/-! ### What stays -/

/-- One state is another but for what lies outside the helpers, the queues and the tasks: memory, the caches and the tables of the dies. -/
structure HelpersKept (s t : State) : Prop where
  core : t.core = s.core
  setter : t.setter = s.setter
  tasks : t.tasks = s.tasks
  helper : ∀ n j, t.helper n j = s.helper n j
  queue : ∀ n q, t.queue n q = s.queue n q

namespace HelpersKept
variable {s t u : State}

theorem refl (s : State) : HelpersKept s s := ⟨rfl, rfl, rfl, fun _ _ => rfl, fun _ _ => rfl⟩

theorem trans (k : HelpersKept s t) (l : HelpersKept t u) : HelpersKept s u where
  core := l.core.trans k.core
  setter := l.setter.trans k.setter
  tasks := l.tasks.trans k.tasks
  helper n j := (l.helper n j).trans (k.helper n j)
  queue n q := (l.queue n q).trans (k.queue n q)

/-- Operations in turn, each of which keeps them. -/
theorem foldl {α : Type} {f : State → α → State} (l : List α) (each : ∀ a ∈ l, ∀ s, HelpersKept s (f s a)) (s : State) :
    HelpersKept s (l.foldl f s) := by
  induction l generalizing s with
  | nil => exact refl s
  | cons a l ih => exact (each a List.mem_cons_self s).trans (ih (fun b inl => each b (List.mem_cons_of_mem a inl)) _)

/-- What leaves the cores and the tasks keeps them. -/
theorem of_cores (core : t.core = s.core) (setter : t.setter = s.setter) (tasks : t.tasks = s.tasks) (cores : t.cores = s.cores) :
    HelpersKept s t where
  core := core
  setter := setter
  tasks := tasks
  helper n j := by rw [State.helper, State.coreAt, cores]; rfl
  queue n q := by rw [State.queue, State.coreAt, cores]; rfl

theorem wr (s : State) (a : Nat) (bs : List Byte) : HelpersKept s (s.wr a bs) := of_cores rfl rfl rfl rfl

theorem setDie (s : State) (d : Nat) (x : Die) : HelpersKept s (s.setDie d x) := of_cores rfl rfl rfl rfl

theorem choose (s : State) (n : Nat) : HelpersKept s (s.choose n).2 := of_cores rfl rfl rfl rfl

/-- A write at a queue's position. -/
theorem queueWrite (s : State) (n : Nat) (q : Queue) (ctr : BitVec 32) (off : Nat) (bs : List Byte) :
    HelpersKept s (s.queueWrite n q ctr off bs) := by
  unfold State.queueWrite
  split
  · dsimp only
    split
    · exact foldl _ (fun _ _ s => wr s _ _) s
    · split
      · exact (wr ..).trans (wr ..)
      · exact wr ..
  · exact refl s

/-- Marks of poison. -/
theorem markPieces (s : State) (ps : List (Nat × Nat)) : HelpersKept s (s.markPieces ps) :=
  foldl ps (fun p _ s => foldl (sectorsOf (s.key p.1) p.2) (fun k _ s => of_cores (t := s.mark k) rfl rfl rfl rfl) s) s

section
variable (k : HelpersKept s t)
include k

theorem hsel : t.hsel = s.hsel := by rw [State.hsel, k.setter, State.hsel]

/-- The current helper is the same. -/
theorem h : t.h = s.h := by rw [State.h, k.core, k.hsel, k.helper, State.h]

/-- A task is the same. -/
theorem task (id : Nat) : t.task id = s.task id := by rw [State.task, k.tasks, State.task]

/-- The same replacement of a helper. -/
theorem setHelper (n j : Nat) (x : Helper) : HelpersKept (s.setHelper n j x) (t.setHelper n j x) where
  core := k.core
  setter := k.setter
  tasks := k.tasks
  helper m i := by simp only [State.helper_setHelper, k.helper]
  queue m q := by simp only [State.queue_setHelper, k.queue]

/-- The same replacement of the current helper. -/
theorem setH (x : Helper) : HelpersKept (s.setH x) (t.setH x) := by
  rw [State.setH, State.setH, k.core, k.hsel]
  exact k.setHelper _ _ x

/-- Whether sectors are outstanding is the same. -/
theorem outstanding (n q : Nat) : t.outstanding n q = s.outstanding n q := by
  have ret : (t.coreAt n).ret = (s.coreAt n).ret := k.helper n 0
  have set : (t.coreAt n).set = (s.coreAt n).set := k.helper n 1
  rw [State.outstanding, ret, set, State.outstanding]

end
end HelpersKept

/-! ### Stores to the core's own local store are performed (R97, R308) -/

/-- One state is another after stores of its current helper to its own core were performed. -/
def HelperSettled (s u : State) : Prop := ∃ wr, HelpersKept (s.setH { s.h with wr := wr }) u

/-- Replacing the current helper by itself changes no helper, queue or task. -/
theorem HelpersKept.setH_self (s : State) : HelpersKept (s.setH s.h) s where
  core := rfl
  setter := rfl
  tasks := rfl
  helper n j := by
    rw [State.setH, State.helper_setHelper]
    split
    next same =>
      obtain ⟨rfl, which⟩ := same
      simp only [State.h, State.helper, which]
    next => rfl
  queue n q := (State.queue_setH ..).symm

/-- A store to a core's own window is a write of memory. -/
theorem HelpersKept.store_own {core pa : Nat} (own : ownWindow core pa = true) (s : State) (bs : List Byte) :
    HelpersKept s (s.store pa bs) := by
  obtain ⟨c, off, lies⟩ := place_of_ownWindow own
  rw [State.store_of_core lies]
  exact wr s pa bs

/-- Performing a helper's stores to its own core. -/
theorem settleH_settled (s : State) : HelperSettled s s.settleH := by
  unfold State.settleH State.settleHelper
  dsimp only
  split
  · exact ⟨s.h.wr, HelpersKept.setH_self s⟩
  · refine ⟨s.h.wr.filter (fun w => !ownWindow s.core w.pa), ?_⟩
    have stores : HelpersKept s (((s.helper s.core s.hsel).wr.filter (fun w => ownWindow s.core w.pa)).foldl
        (fun s w => s.store w.pa w.bytes) s) :=
      HelpersKept.foldl _ (fun w mine s => HelpersKept.store_own (List.mem_filter.1 mine).2 s _) s
    exact stores.setHelper _ _ _

/-- Performing those that touch given bytes. -/
theorem settleOver_settled (s : State) (pa n : Nat) : HelperSettled s (s.settleOver pa n) := by
  unfold State.settleOver
  split
  · exact settleH_settled s
  · exact ⟨s.h.wr, HelpersKept.setH_self s⟩

/-- A helper that has issued none changes nothing. -/
theorem settleH_of_none {s : State} (none : s.h.wr = []) : s.settleH = s := by
  have mine : (s.helper s.core s.hsel).wr = [] := none
  simp [State.settleH, State.settleHelper, mine]

namespace HelperSettled
variable {s u : State} (settled : HelperSettled s u)
include settled

theorem core : u.core = s.core := by
  obtain ⟨wr, kept⟩ := settled
  exact kept.core

theorem tasks : u.tasks = s.tasks := by
  obtain ⟨wr, kept⟩ := settled
  exact kept.tasks

theorem hsel : u.hsel = s.hsel := by
  obtain ⟨wr, kept⟩ := settled
  exact kept.hsel

/-- The helper is the same but for its stores that wait. -/
theorem h : u.h = { s.h with wr := u.h.wr } := by
  obtain ⟨wr, kept⟩ := settled
  rw [kept.h, State.h_setH]

theorem pc : u.h.pc = s.h.pc := by rw [settled.h]
theorem desc : u.h.desc = s.h.desc := by rw [settled.h]
theorem out : u.h.out = s.h.out := by rw [settled.h]
theorem moved : u.h.moved = s.h.moved := by rw [settled.h]
theorem stat : u.h.stat = s.h.stat := by rw [settled.h]
theorem owner : u.h.task = s.h.task := by rw [settled.h]
theorem x : u.h.x = s.h.x := by rw [settled.h]

/-- Its registers read the same. -/
theorem r (n : BitVec 5) : u.h.r n = s.h.r n := by rw [settled.h]; rfl

/-- Its streams are the same. -/
theorem stream (n : Nat) : u.h.stream n = s.h.stream n := by rw [settled.h]; rfl

theorem queue (n q : Nat) : u.queue n q = s.queue n q := by
  obtain ⟨wr, kept⟩ := settled
  rw [kept.queue, State.queue_setH]

theorem task (id : Nat) : u.task id = s.task id := by rw [State.task, settled.tasks, State.task]

/-- Sectors are outstanding on the same queues. -/
theorem outstanding (n q : Nat) : u.outstanding n q = s.outstanding n q := by
  obtain ⟨wr, kept⟩ := settled
  rw [kept.outstanding]
  have out (j : Nat) : ((s.setH { s.h with wr := wr }).helper n j).out = (s.helper n j).out := by
    rw [(HelpersKept.setH_self s).helper n j]
    simp only [State.setH, State.helper_setHelper]
    split <;> rfl
  have ret : ((s.setH { s.h with wr := wr }).coreAt n).ret.out = (s.coreAt n).ret.out := out 0
  have set : ((s.setH { s.h with wr := wr }).coreAt n).set.out = (s.coreAt n).set.out := out 1
  rw [State.outstanding, ret, set, State.outstanding]

end HelperSettled

/-! ### The end of an instruction -/

/-- The state at the end of a helper's instruction: the helper as it leaves it, with the pc after it. -/
def State.helperEnds (s : State) (x : Helper) (pc : Word) : State := { s.setH { x with pc := pc } with turn := none }

section
variable (s : State) (x y : Helper) (pc : Word)

/-- An instruction ends there. -/
theorem helperNext_eq : s.helperNext x pc = .next (s.helperEnds x pc) := rfl

@[simp] theorem State.helperEnds_mem : (s.helperEnds x pc).mem = s.mem := rfl
@[simp] theorem State.helperEnds_tasks : (s.helperEnds x pc).tasks = s.tasks := rfl
@[simp] theorem State.helperEnds_lrs : (s.helperEnds x pc).lrs = s.lrs := rfl
@[simp] theorem State.helperEnds_queue (n q : Nat) : (s.helperEnds x pc).queue n q = s.queue n q := State.queue_setH ..

/-- The helper is as the instruction leaves it. -/
@[simp] theorem State.h_helperEnds : (s.helperEnds x pc).h = { x with pc := pc } := State.h_setH s { x with pc := pc }

/-- A helper that was replaced before is replaced again. -/
theorem helperNext_setH : (s.setH x).helperNext y pc = s.helperNext y pc := by
  rw [State.helperNext, State.helperNext, State.setH_setH]

end

/-! ### What comes after the earlier accesses (R308) -/

section
variable {s : State} {f : State → Out}

/-- A helper without accesses to be performed goes on. -/
theorem helperDrained_idle (stores : s.settleH.h.wr = []) (sectors : s.settleH.h.out = []) : s.helperDrained f = f s.settleH := by
  simp [State.helperDrained, Helper.busy, stores, sectors]

/-- One with some stalls. -/
theorem helperDrained_busy (busy : s.settleH.h.wr ≠ [] ∨ s.settleH.h.out ≠ []) : s.helperDrained f = s.settleH.helperStall := by
  refine if_pos ?_
  simpa [Helper.busy, or_comm] using busy

/-- Which of the two it does. -/
theorem helperDrained_eq :
    s.helperDrained f = if s.settleH.h.out = [] ∧ s.settleH.h.wr = [] then f s.settleH else s.settleH.helperStall := by
  split
  next idle => exact helperDrained_idle idle.2 idle.1
  next busy => exact helperDrained_busy ((not_and_or.1 busy).symm)

/-- One that has issued nothing goes on at once. -/
theorem helperDrained_none (stores : s.h.wr = []) (sectors : s.h.out = []) : s.helperDrained f = f s := by
  have same := settleH_of_none stores
  rw [helperDrained_idle (same.symm ▸ stores) (same.symm ▸ sectors), same]

end

end Sys2Proof.Machine
end

section
/-! The base instructions of a helper, obligation O38 (R304, R306-R309): integer operations, branches, loads, stores, the fence and
exceptions. -/

namespace Sys2Proof.Machine

open Host Arith

/-! ### Integer operations in the terms of the manual (R304, assumption 7) -/

section
variable (a b : Word)

/-- The high word of a signed by a natural product. -/
theorem mulhsu_eq : BitVec.ofInt 64 (a.toInt * b.toNat / 2 ^ 64) = (a.signExtend 128 * b.setWidth 128).extractLsb' 64 64 := by
  have natural : BitVec.ofInt 128 (b.toNat : Int) = b.setWidth 128 := by
    rw [BitVec.ofInt_natCast, BitVec.ofNat_toNat]
  rw [← highWord_ofInt, BitVec.ofInt_mul, natural]
  rfl

/-- The signed quotient. -/
theorem ofInt_tdiv_eq_sdiv : BitVec.ofInt 64 (Int.tdiv a.toInt b.toInt) = a.sdiv b := by
  refine BitVec.eq_of_toInt_eq ?_
  rw [BitVec.toInt_ofInt, BitVec.toInt_sdiv]

/-- The signed remainder. -/
theorem ofInt_tmod_eq_srem : BitVec.ofInt 64 (Int.tmod a.toInt b.toInt) = a.srem b := by
  rw [← BitVec.toInt_srem, BitVec.ofInt_toInt]

/-- The branch on a signed ≥. -/
theorem rvTaken_ge : rvTaken .ge a b = decide (b.toInt ≤ a.toInt) := by
  show (!decide (a.toInt < b.toInt)) = _
  rw [← decide_not, decide_eq_decide, Int.not_lt]

/-- The low half of a word, sign-extended (R304). -/
def lowSigned (x : Word) : Word := (x.setWidth 32).signExtend 64

/-- A W operation whose result is the low half of a word gives that word's. -/
theorem rvAluW_low {op : RvAlu} {x : Word} {r : BitVec 32} (value : rvAluW op a b = r.signExtend 64) (low : r = x.setWidth 32) :
    rvAluW op a b = lowSigned x := by
  rw [value, low, lowSigned]

/-- The low half of a difference. -/
theorem setWidth_sub : (a - b).setWidth 32 = a.setWidth 32 - b.setWidth 32 := by
  refine BitVec.eq_of_toNat_eq ?_
  simp only [BitVec.toNat_setWidth, BitVec.toNat_sub]
  omega

/-- The shift count of a W operation. -/
theorem toNat_setWidth_mod : (b.setWidth 32).toNat % 32 = b.toNat % 32 := by
  rw [BitVec.toNat_setWidth]
  omega

/-- A W shift to the left. -/
theorem rvAluW_sll : rvAluW .sll a b = lowSigned (a <<< (b.toNat % 32)) := by
  refine rvAluW_low a b rfl ?_
  rw [toNat_setWidth_mod]
  refine BitVec.eq_of_toNat_eq ?_
  simp only [BitVec.toNat_shiftLeft, BitVec.toNat_setWidth, Nat.shiftLeft_eq]
  rw [Nat.mod_mod_of_dvd _ (by decide), Nat.mod_mul_mod]

/-- A W shift to the right by zeros. -/
theorem rvAluW_srl : rvAluW .srl a b = lowSigned ((a.setWidth 32).setWidth 64 >>> (b.toNat % 32)) := by
  refine rvAluW_low a b rfl ?_
  rw [toNat_setWidth_mod]
  refine BitVec.eq_of_toNat_eq ?_
  simp only [BitVec.toNat_ushiftRight, BitVec.toNat_setWidth, Nat.shiftRight_eq_div_pow]
  have small : a.toNat % 2 ^ 32 / 2 ^ (b.toNat % 32) < 2 ^ 32 := (Nat.div_le_self _ _).trans_lt (Nat.mod_lt _ (by decide))
  rw [Nat.mod_eq_of_lt (a := a.toNat % 2 ^ 32) (by omega), Nat.mod_eq_of_lt small]

/-- A W shift to the right by signs. -/
theorem rvAluW_sra : rvAluW .sra a b = (lowSigned a).sshiftRight (b.toNat % 32) := by
  show ((a.setWidth 32).sshiftRight ((b.setWidth 32).toNat % 32)).signExtend 64 = _
  rw [toNat_setWidth_mod]
  refine BitVec.eq_of_toInt_eq ?_
  rw [lowSigned, BitVec.toInt_sshiftRight, BitVec.toInt_signExtend_of_le (by decide), BitVec.toInt_signExtend_of_le (by decide),
    BitVec.toInt_sshiftRight]

end

/-! ### What an instruction does -/

section
variable (s : State) (c : Bool) (rd rs1 rs2 : BitVec 5) (imm : Word)

/-- A base instruction runs its meaning. -/
theorem exec_base (op : Rv) : exec (.helperBaseInstruction c op) s = execHelperBaseInstruction c op s := rfl

/-- A fence runs what comes after the earlier accesses. -/
theorem exec_fence (rest : BitVec 22) : exec (.helperFence rest) s = s.helperDrained (fun s => s.helperNext s.h (s.h.pc + 4)) := rfl

/-- The address of the instruction after one of a helper (R304). -/
def State.afterBase (s : State) (c : Bool) : Word := s.h.pc + (if c then 2 else 4)

/-- An operation on two registers or on a register and an immediate writes its value. -/
theorem exec_alu {op : RvAlu} {w : Bool} {v : Word}
    (value : (if w then rvAluW op (s.h.r rs1) (s.h.r rs2) else rvAlu op (s.h.r rs1) (s.h.r rs2)) = v) :
    exec (.helperBaseInstruction c (.op op w rd rs1 rs2)) s = s.helperNext (s.h.w rd v) (s.afterBase c) ∧
    (s.h.r rs2 = imm → exec (.helperBaseInstruction c (.opImm op w rd rs1 imm)) s = s.helperNext (s.h.w rd v) (s.afterBase c)) := by
  subst value
  exact ⟨rfl, fun same => same ▸ rfl⟩

/-- A branch goes where its condition says. -/
theorem exec_branch {cond : RvCond} {b : Bool} (value : rvTaken cond (s.h.r rs1) (s.h.r rs2) = b) :
    exec (.helperBaseInstruction c (.branch cond rs1 rs2 imm)) s = s.helperNext s.h (if b then s.h.pc + imm else s.afterBase c) := by
  subst value
  rfl

end

/-! ### Helper addresses (R307) -/

section
variable {x : Word} {n : Nat}

/-- Bytes of the helper's own store. -/
theorem helperAddr_store (inside : x.toNat + n ≤ 0x8000) : helperAddr x n = some (true, x.toNat) := if_pos inside

/-- Bytes of local store. -/
theorem helperAddr_local (low : 0x100000 ≤ x.toNat) (high : x.toNat + n ≤ 0x180000) :
    helperAddr x n = some (false, x.toNat - 0x100000) :=
  (if_neg (by omega)).trans (if_pos ⟨low, high⟩)

/-- Any other bytes. -/
theorem helperAddr_outside (outside : 0x180000 < x.toNat + n ∨ (0x8000 < x.toNat + n ∧ x.toNat < 0x100000)) : helperAddr x n = none :=
  (if_neg (by omega)).trans (if_neg (by omega))

end

/-! ### Loads and stores (R88, R97, R308) -/

section
variable {s : State} {c u : Bool} {n : Nat} {rd rs1 rs2 : BitVec 5} {imm : Word}

/-- A load of bytes that the helper reads writes their value. -/
theorem exec_load {y : Nat} (read : (s.helperSees (s.h.r rs1 + imm) n).helperLoad (s.h.r rs1 + imm) n = some y) :
    exec (.helperBaseInstruction c (.load n u rd rs1 imm)) s = (s.helperSees (s.h.r rs1 + imm) n).helperNext
      ((s.helperSees (s.h.r rs1 + imm) n).h.w rd (rvExt u n y)) (s.afterBase c) := by
  simp only [exec_base, execHelperBaseInstruction, read]
  rfl

/-- A load that reads nothing is an access fault. -/
theorem exec_load_none (none : (s.helperSees (s.h.r rs1 + imm) n).helperLoad (s.h.r rs1 + imm) n = none) :
    exec (.helperBaseInstruction c (.load n u rd rs1 imm)) s = (s.helperSees (s.h.r rs1 + imm) n).helperTrap 5 := by
  simp only [exec_base, execHelperBaseInstruction, none]

/-- A store that is performed or issued ends its instruction. -/
theorem exec_store {t : State} (some : s.helperPlain (s.h.r rs1 + imm) n (s.h.r rs2) = some t) :
    exec (.helperBaseInstruction c (.store n rs1 rs2 imm)) s = t.helperNext t.h (s.afterBase c) := by
  simp only [exec_base, execHelperBaseInstruction, some]
  rfl

/-- One that is neither is an access fault. -/
theorem exec_store_none (none : s.helperPlain (s.h.r rs1 + imm) n (s.h.r rs2) = none) :
    exec (.helperBaseInstruction c (.store n rs1 rs2 imm)) s = s.helperTrap 7 := by
  simp only [exec_base, execHelperBaseInstruction, none]

end

/-- The aligned pieces of a run write its bytes (R88). -/
theorem alignedParts_get (fuel pa : Nat) (bs : List Byte) (enough : bs.length ≤ fuel) (m : List Cell) (a : Nat) :
    Memory.get (writeEach m (alignedParts fuel pa bs)) a = Memory.get (Memory.write m pa bs) a := by
  induction fuel generalizing pa bs m with
  | zero =>
    obtain rfl := List.length_eq_zero_iff.1 (Nat.le_zero.1 enough)
    simp [alignedParts, writeEach, Memory.get_write]
  | succ fuel ih =>
    unfold alignedParts
    split
    next empty =>
      obtain rfl := List.isEmpty_iff.1 empty
      simp [writeEach, Memory.get_write]
    next some =>
      have nonempty : 0 < bs.length := List.length_pos_iff.2 (fun empty => some (List.isEmpty_iff.2 empty))
      extract_lets k
      have size : 1 ≤ k ∧ k ≤ bs.length := by
        show 1 ≤ Option.getD _ 1 ∧ Option.getD _ 1 ≤ bs.length
        cases found : [8, 4, 2].find? (fun k => decide (pa % k = 0 ∧ k ≤ bs.length)) with
        | none => exact ⟨le_rfl, nonempty⟩
        | some j =>
          have holds := List.find?_some found
          have listed := List.mem_of_find?_eq_some found
          simp only [List.mem_cons, List.not_mem_nil, or_false, decide_eq_true_eq] at holds listed
          exact ⟨by rw [Option.getD_some]; omega, holds.2⟩
      have rest : (bs.drop k).length ≤ fuel := by
        rw [List.length_drop]
        omega
      have joined := write_join m pa (bs.take k) (bs.drop k) a
      rw [List.length_take, Nat.min_eq_left size.2, List.take_append_drop] at joined
      exact (ih (pa + k) (bs.drop k) rest (Memory.write m pa (bs.take k))).trans joined

section
variable {s : State} {c u : Bool} {n : Nat} {rd rs1 rs2 : BitVec 5} {imm : Word}

/-- A load of its own store. -/
theorem exec_load_ownStore (inside : (s.h.r rs1 + imm).toNat + n ≤ 0x8000) :
    exec (.helperBaseInstruction c (.load n u rd rs1 imm)) s = s.helperNext
      (s.h.w rd (rvExt u n (ofBytes (Memory.read s.h.store (s.h.r rs1 + imm).toNat n)))) (s.afterBase c) := by
  have place := helperAddr_store inside
  have sees : s.helperSees (s.h.r rs1 + imm) n = s := by rw [State.helperSees, place]
  refine (exec_load (by rw [sees, State.helperLoad, place])).trans ?_
  rw [sees]

/-- A store to its own store. -/
theorem exec_store_ownStore (inside : (s.h.r rs1 + imm).toNat + n ≤ 0x8000) :
    exec (.helperBaseInstruction c (.store n rs1 rs2 imm)) s = s.helperNext
      { s.h with store := Memory.write s.h.store (s.h.r rs1 + imm).toNat (toBytes n (s.h.r rs2).toNat) } (s.afterBase c) := by
  refine (exec_store (by rw [State.helperPlain, helperAddr_store inside])).trans ?_
  rw [helperNext_setH, State.h_setH]

section
variable (low : 0x100000 ≤ (s.h.r rs1 + imm).toNat) (high : (s.h.r rs1 + imm).toNat + n ≤ 0x180000)
include low high

/-- A load of local store comes after the helper's stores to its bytes (R97 item 1). -/
theorem exec_load_local {v : State} (settled : v = s.settleOver (coreWin s.core ((s.h.r rs1 + imm).toNat - 0x100000)) n)
    (clean : v.bad (coreWin s.core ((s.h.r rs1 + imm).toNat - 0x100000)) n = false) :
    exec (.helperBaseInstruction c (.load n u rd rs1 imm)) s = v.helperNext
      (v.h.w rd (rvExt u n (v.seeN (coreWin s.core ((s.h.r rs1 + imm).toNat - 0x100000)) n))) (s.afterBase c) := by
  have place := helperAddr_local low high
  have sees : s.helperSees (s.h.r rs1 + imm) n = v := by rw [State.helperSees, place, settled]
  have core : v.core = s.core := settled ▸ (settleOver_settled ..).core
  refine (exec_load (by rw [sees, State.helperLoad, place, core]; exact if_neg (by rw [clean]; decide))).trans ?_
  rw [sees]

/-- A store to local store is issued in its aligned pieces (R88, R316). -/
theorem exec_store_local : exec (.helperBaseInstruction c (.store n rs1 rs2 imm)) s = s.helperNext
    { s.h with wr := s.h.wr ++ (alignedParts 8 (coreWin s.core ((s.h.r rs1 + imm).toNat - 0x100000))
      (toBytes n (s.h.r rs2).toNat)).map (fun p => ⟨p.1, p.2, 0, s.h.out.length, none, 0, none, .none⟩) } (s.afterBase c) := by
  refine (exec_store (by rw [State.helperPlain, helperAddr_local low high])).trans ?_
  rw [State.helperIssue, helperNext_setH, State.h_setH]

end

/-- A load or store elsewhere is an access fault. -/
theorem exec_access_outside (outside : 0x180000 < (s.h.r rs1 + imm).toNat + n ∨
      (0x8000 < (s.h.r rs1 + imm).toNat + n ∧ (s.h.r rs1 + imm).toNat < 0x100000)) :
    exec (.helperBaseInstruction c (.load n u rd rs1 imm)) s = s.helperTrap 5 ∧
    exec (.helperBaseInstruction c (.store n rs1 rs2 imm)) s = s.helperTrap 7 := by
  have place := helperAddr_outside outside
  have sees : s.helperSees (s.h.r rs1 + imm) n = s := by rw [State.helperSees, place]
  refine ⟨(exec_load_none (by rw [sees, State.helperLoad, place])).trans (by rw [sees]), exec_store_none ?_⟩
  rw [State.helperPlain, place]

end

/-! ### Exceptions (R306, R309) -/

/-- A core window lies in the physical map (R83). -/
theorem coreWin_lt_extBase {core off : Nat} (real : core < 512) (inside : off < 0x100000) : coreWin core off < extBase := by
  simp only [coreWin, dieOf, extBase]
  omega

/-- Held messages go to the ring of their endpoint, outside the part (R444). -/
theorem flushOut_kept (s : State) (die ep n : Nat) : HelpersKept s (s.flushOut die ep n) ∧
    ∀ a < extBase, Memory.get (s.flushOut die ep n).mem a = Memory.get s.mem a := by
  induction n generalizing s with
  | zero => exact ⟨HelpersKept.refl s, fun _ _ => rfl⟩
  | succ n ih =>
    unfold State.flushOut
    dsimp only
    split
    · exact ⟨HelpersKept.refl s, fun _ _ => rfl⟩
    next m _ _ =>
      split
      · obtain ⟨kept, same⟩ := ih _
        refine ⟨((HelpersKept.wr s _ m).trans (HelpersKept.setDie ..)).trans kept, fun a inside => (same a inside).trans ?_⟩
        exact Memory.get_write_out _ _ _ _ (.inl (by rw [ringSlot]; omega))
      · exact ⟨HelpersKept.refl s, fun _ _ => rfl⟩

/-- A report is such a message (R401). -/
theorem report_kept (s : State) (id cls code : Nat) (info : Word) : HelpersKept s (s.report id cls code info) ∧
    ∀ a < extBase, Memory.get (s.report id cls code info).mem a = Memory.get s.mem a := by
  obtain ⟨kept, same⟩ := flushOut_kept _ _ _ _
  exact ⟨((HelpersKept.setDie s _ _).trans (HelpersKept.setDie ..)).trans kept, same⟩

/-- The state that an exception of a helper with nothing left to be performed leaves. -/
def State.trapped (s : State) (cause : Nat) : State :=
  { ((s.helperStatus s.core s.h 2 cause s.h.pc.toNat).setH { s.h with st := 3 }).report s.h.task 14 1
      (wd (2 * 2 ^ 56 + cause * 2 ^ 48 + s.h.pc.toNat % 2 ^ 32)) with turn := none }

/-- Such an exception leaves it. -/
theorem helperTrap_trapped {s : State} (stores : s.h.wr = []) (sectors : s.h.out = []) (cause : Nat) :
    s.helperTrap cause = .next (s.trapped cause) := helperDrained_none stores sectors

/-- The helper halts. -/
theorem h_trapped (s : State) (cause : Nat) : (s.trapped cause).h = { s.h with st := 3 } :=
  (report_kept ..).1.h.trans (State.h_setH ..)

/-- No task changes. -/
theorem tasks_trapped (s : State) (cause : Nat) : (s.trapped cause).tasks = s.tasks := (report_kept ..).1.tasks

/-- The part's memory takes the status word. -/
theorem get_trapped (s : State) (cause : Nat) {a : Nat} (inside : a < extBase) : Memory.get (s.trapped cause).mem a =
    Memory.get (Memory.write s.mem (coreWin s.core s.h.stat) (toBytes 8 (2 * 2 ^ 56 + cause * 2 ^ 48 + s.h.pc.toNat % 2 ^ 32))) a :=
  (report_kept ..).2 a inside

/-- Settles O38: every integer operation by its value, loads and stores by where their bytes lie, and an exception by its status word. -/
theorem helperBaseForms : Obligations.HelperBaseForms := by
  refine ⟨fun s c rd rs1 rs2 imm => ?base, fun s cause _ real stat stores sectors => ?trap⟩
  case base =>
    intro h next a b base goes w
    refine ⟨h.r_zero, h.w_zero, fun x nonzero => ⟨h.r_w_self rd x nonzero, fun r other => h.r_w_ne rd x other⟩, rfl, rfl, rfl, rfl,
      ?branches, ?alu, ?low, fun n u_ size => ?access, rfl, rfl, fun rest => ?fence⟩
    case branches =>
      have gives {cond : RvCond} {t : Bool} := exec_branch (cond := cond) (b := t) s c rs1 rs2 imm
      simp only [List.forall_mem_cons]
      exact ⟨gives rfl, gives (decide_not ..).symm, gives rfl, gives (rvTaken_ge a b), gives rfl, gives rfl, List.forall_mem_nil _⟩
    case alu =>
      have gives {op : RvAlu} {v : Word} (value : rvAlu op a b = v) := exec_alu (op := op) (w := false) s c rd rs1 rs2 imm value
      simp only [List.forall_mem_cons]
      exact ⟨gives rfl, gives rfl, gives rfl, gives (ite_slt a b 1 0), gives (ite_ult a b 1 0), gives rfl, gives rfl, gives rfl,
        gives rfl, gives rfl, gives rfl, gives (mulh_eq a b), gives (mulhsu_eq a b), gives (mulhn_eq a b),
        gives (if_congr Iff.rfl rfl (ofInt_tdiv_eq_sdiv a b)), gives rfl, gives (if_congr Iff.rfl rfl (ofInt_tmod_eq_srem a b)),
        gives rfl, List.forall_mem_nil _⟩
    case low =>
      have gives {op : RvAlu} {v : Word} (value : rvAluW op a b = v) := exec_alu (op := op) (w := true) s c rd rs1 rs2 imm value
      simp only [List.forall_mem_cons]
      exact ⟨gives (rvAluW_low a b rfl (BitVec.setWidth_add a b (by decide)).symm), gives (rvAluW_low a b rfl (setWidth_sub a b).symm),
        gives (rvAluW_sll a b), gives (rvAluW_srl a b), gives (rvAluW_sra a b),
        gives (rvAluW_low a b rfl (BitVec.setWidth_mul a b (by decide)).symm), List.forall_mem_nil _⟩
    case access =>
      intro x val
      refine ⟨fun inside => ⟨exec_load_ownStore inside, exec_store_ownStore inside⟩, fun low high => ?_, exec_access_outside⟩
      refine ⟨⟨_, rfl, exec_load_local low high rfl⟩, _, exec_store_local low high, fun y issued => ?_, fun m a => ?_⟩
      · obtain ⟨p, -, rfl⟩ := List.mem_map.1 issued
        exact ⟨rfl, rfl⟩
      · have short : (toBytes n b.toNat).length ≤ 8 := by
          simp only [List.mem_cons, List.not_mem_nil, or_false] at size
          rw [toBytes_length]
          omega
        rw [List.map_map]
        exact (congrArg (fun l => Memory.get (writeEach m l) a) (List.map_id _)).trans (alignedParts_get 8 _ _ short m a)
    case fence =>
      refine ⟨_, rfl, fun stores sectors => (exec_fence ..).trans (helperDrained_idle stores sectors),
        fun busy => (exec_fence ..).trans (helperDrained_busy busy)⟩
  case trap =>
    have inside {i : Nat} (low : i < 8) : coreWin s.core s.h.stat + i < extBase := by
      rw [← coreWin_add]
      exact coreWin_lt_extBase real (by omega)
    refine ⟨_, helperTrap_trapped stores sectors cause, fun i low => ?_, fun a part outside => ?_, ?_⟩
    · exact (get_trapped s cause (inside low)).trans (Memory.get_write_in _ _ _ _ (by rwa [toBytes_length]))
    · refine (get_trapped s cause part).trans (Memory.get_write_out _ _ _ _ ?_)
      rw [toBytes_length]
      by_contra meets
      exact outside (a - coreWin s.core s.h.stat) (by omega) (by omega)
    · rw [h_trapped, tasks_trapped]
      exact ⟨rfl, rfl, rfl, rfl, rfl, rfl⟩

end Sys2Proof.Machine
end

section
/-! The atomics of a helper on its own store, obligation O39 (R308; assumption 7). -/

namespace Sys2Proof.Machine

open Host Arith

/-! ### The values (R308) -/

/-- A loaded doubleword is its number. -/
theorem rvExt_double (y : Nat) : rvExt false 8 y = wd y := by
  show BitVec.ofInt 64 (sint 64 y) = wd y
  refine BitVec.eq_of_toNat_eq ?_
  rw [BitVec.toNat_ofInt, wd, BitVec.toNat_ofNat, sint]
  split <;> omega

section
variable {s : State} {rd rs1 rs2 : BitVec 5} {next : Word}

/-- The doubleword of its own store that an atomic addresses. -/
def State.amoOld (s : State) (rs1 : BitVec 5) : Word := wd (ofBytes (Memory.read s.h.store (s.h.r rs1).toNat 8))

/-- The current helper with a doubleword of its own store replaced where an atomic addresses it. -/
def State.amoStore (s : State) (rs1 : BitVec 5) (x : Word) : Helper :=
  { s.h with store := Memory.write s.h.store (s.h.r rs1).toNat (toBytes 8 x.toNat) }

/-- The reservation of the doubleword that an atomic of its own store addresses. -/
def State.amoKey (s : State) (rs1 : BitVec 5) : Nat × Nat × Nat := (2 ^ 60 + s.hid * 2 ^ 20 + (s.h.r rs1).toNat, 8, s.hid)

/-- A register write and one of its own store. -/
theorem amoStore_w (x y : Word) : (s.amoStore rs1 x).w rd y =
    { s.h.w rd y with store := Memory.write s.h.store (s.h.r rs1).toNat (toBytes 8 x.toNat) } := by
  unfold Helper.w
  split <;> rfl

/-! ### What an atomic does where it is aligned -/

section
variable (aligned : (s.h.r rs1).toNat % 8 = 0) (inside : (s.h.r rs1).toNat + 8 ≤ 0x8000)
include inside

/-- The key of its reservation. -/
theorem resvKey_ownStore : (s.resvKey (s.h.r rs1), 8, s.hid) = s.amoKey rs1 := by
  have place : helperAddr (s.h.r rs1) 1 = some (true, (s.h.r rs1).toNat) := helperAddr_store (by omega)
  have small : (s.h.r rs1).toNat % 2 ^ 20 = (s.h.r rs1).toNat := Nat.mod_eq_of_lt (by omega)
  rw [State.resvKey, place, State.amoKey, small]

/-- No earlier store of local store matters to it. -/
theorem helperSees_ownStore : s.helperSees (s.h.r rs1) 8 = s := by
  rw [State.helperSees, helperAddr_store inside]

/-- What it reads. -/
theorem helperLoad_ownStore : s.helperLoad (s.h.r rs1) 8 = some (ofBytes (Memory.read s.h.store (s.h.r rs1).toNat 8)) := by
  rw [State.helperLoad, helperAddr_store inside]

/-- What it writes. -/
theorem helperStore_ownStore (x : Word) : s.helperStore (s.h.r rs1) 8 x = some (s.setH (s.amoStore rs1 x)) := by
  rw [State.helperStore, helperAddr_store inside]
  rfl

include aligned

/-- An AMO writes its new value and answers the old one, in one step. -/
theorem helperAmo_new {op : RvAmo} (lr : op ≠ .lr) (sc : op ≠ .sc) : s.helperAmo op true rd rs1 rs2 next =
    s.helperNext ((s.amoStore rs1 (rvAmoNew op true (s.amoOld rs1) (s.h.r rs2))).w rd (s.amoOld rs1)) next := by
  simp only [State.helperAmo, if_true, helperSees_ownStore inside, aligned, helperLoad_ownStore inside, rvExt_double,
    helperStore_ownStore inside, ne_eq, not_true_eq_false, if_false]
  rw [Option.getD_some, State.h_setH, helperNext_setH]
  rfl

/-- LR answers the value and takes the reservation. -/
theorem helperAmo_lr : s.helperAmo .lr true rd rs1 rs2 next =
    { s.unreserve with lrs := s.amoKey rs1 :: s.unreserve.lrs }.helperNext (s.h.w rd (s.amoOld rs1)) next := by
  simp only [State.helperAmo, if_true, helperSees_ownStore inside, aligned, helperLoad_ownStore inside, rvExt_double, ne_eq,
    not_true_eq_false, if_false, ← resvKey_ownStore inside]
  rfl

/-- SC with its reservation writes and answers 0. -/
theorem helperAmo_sc_held (held : s.amoKey rs1 ∈ s.lrs) : s.helperAmo .sc true rd rs1 rs2 next =
    s.unreserve.helperNext ((s.amoStore rs1 (s.h.r rs2)).w rd 0) next := by
  have hit : s.reserved? (s.h.r rs1) 8 = true := by
    rw [State.reserved?, resvKey_ownStore inside]
    exact List.contains_iff_mem.2 held
  have store : s.unreserve.helperStore (s.h.r rs1) 8 (s.h.r rs2) = some (s.unreserve.setH (s.amoStore rs1 (s.h.r rs2))) :=
    helperStore_ownStore (s := s.unreserve) inside (s.h.r rs2)
  simp only [State.helperAmo, if_true, helperSees_ownStore inside, aligned, helperLoad_ownStore inside, ne_eq, not_true_eq_false,
    if_false, hit]
  rw [store, Option.getD_some, State.h_setH, helperNext_setH]

/-- SC without it writes nothing and answers 1. -/
theorem helperAmo_sc_lost (lost : s.amoKey rs1 ∉ s.lrs) : s.helperAmo .sc true rd rs1 rs2 next =
    s.unreserve.helperNext (s.h.w rd 1) next := by
  have miss : s.reserved? (s.h.r rs1) 8 = false := by
    rw [State.reserved?, resvKey_ownStore inside, Bool.eq_false_iff]
    exact fun held => lost (List.contains_iff_mem.1 held)
  simp only [State.helperAmo, if_true, helperSees_ownStore inside, aligned, helperLoad_ownStore inside, ne_eq, not_true_eq_false,
    if_false, miss]
  rfl

end

/-- The helper holds no reservation after it gives its own up. -/
theorem unreserve_lrs (s : State) : ∀ r ∈ s.unreserve.lrs, r.2.2 ≠ s.hid := fun r kept => by
  simpa using (List.mem_filter.1 kept).2

/-- A misaligned atomic is cause 4 where it is LR and cause 6 otherwise. -/
theorem helperAmo_misaligned (misaligned : (s.h.r rs1).toNat % 8 ≠ 0) (op : RvAmo) :
    s.helperAmo op true rd rs1 rs2 next = (s.helperSees (s.h.r rs1) 8).helperTrap (if op == .lr then 4 else 6) :=
  if_pos misaligned

/-! ### The rl bit (R308) -/

variable {c aq rl : Bool}

/-- An atomic is performed at once, or with rl after the earlier accesses. -/
theorem exec_amo (op : RvAmo) : exec (.helperBaseInstruction c (.amo op true aq rl rd rs1 rs2)) s =
    if rl then s.helperDrained (fun t => t.helperAmo op true rd rs1 rs2 (s.afterBase c))
    else s.helperAmo op true rd rs1 rs2 (s.afterBase c) := rfl

/-- One with nothing to wait for is performed at once. -/
theorem exec_amo_ready (none : rl = true → s.h.wr = [] ∧ s.h.out = []) (op : RvAmo) :
    exec (.helperBaseInstruction c (.amo op true aq rl rd rs1 rs2)) s = s.helperAmo op true rd rs1 rs2 (s.afterBase c) := by
  rw [exec_amo]
  split
  next release => exact helperDrained_none (none release).1 (none release).2
  next => rfl

end

/-- Settles O39: each atomic by what it does where it is ready, with or without its reservation. -/
theorem helperAtomics : Obligations.HelperAtomics := by
  intro s c aq rl rd rs1 rs2 h next a b amo
  refine ⟨fun aligned inside none => ?_, fun misaligned none => ?_, fun release busy op => ?_⟩
  · intro x key
    have ready (op : RvAmo) : amo op = s.helperAmo op true rd rs1 rs2 (s.afterBase c) := exec_amo_ready none op
    refine ⟨?_, ?_, ?_⟩
    · have gives {op : RvAmo} {v : Word} (lr : op ≠ .lr) (sc : op ≠ .sc) (value : rvAmoNew op true x b = v) : amo op = .next { s.setH
          { (h.w rd x) with store := Memory.write h.store a (toBytes 8 v.toNat), pc := next } with turn := Option.none } := by
        refine (ready op).trans ((helperAmo_new aligned inside lr sc).trans ?_)
        rw [show s.amoOld rs1 = x from rfl, value, amoStore_w]
        rfl
      simp only [List.forall_mem_cons]
      exact ⟨gives nofun nofun rfl, gives nofun nofun rfl, gives nofun nofun rfl, gives nofun nofun rfl, gives nofun nofun rfl,
        gives nofun nofun (ite_slt x b x b), gives nofun nofun (ite_slt x b b x), gives nofun nofun rfl, gives nofun nofun rfl,
        List.forall_mem_nil _⟩
    · refine ⟨_, (ready .lr).trans ((helperAmo_lr aligned inside).trans (helperNext_eq ..)), ?_, List.mem_cons_self, rfl⟩
      exact State.h_helperEnds ..
    · by_cases held : key ∈ s.lrs
      · refine ⟨_, ((ready .sc).trans (helperAmo_sc_held aligned inside held)).trans (helperNext_eq ..), unreserve_lrs s, rfl,
          fun _ => ?_, fun lost => absurd held lost⟩
        rw [State.h_helperEnds, amoStore_w]
        rfl
      · exact ⟨_, ((ready .sc).trans (helperAmo_sc_lost aligned inside held)).trans (helperNext_eq ..), unreserve_lrs s, rfl,
          fun kept => absurd kept held, fun _ => State.h_helperEnds ..⟩
  · refine ⟨_, rfl, ?_, fun op other => ?_⟩
    · exact (exec_amo_ready none .lr).trans (helperAmo_misaligned misaligned .lr)
    · refine (exec_amo_ready none op).trans ((helperAmo_misaligned misaligned op).trans ?_)
      rw [if_neg (by simpa using other)]
  · exact (exec_amo op).trans ((if_pos release).trans (helperDrained_busy busy))

end Sys2Proof.Machine
end

section
/-! The stream, queue and control forms of a helper, obligation O40 (R311, R312, R314, R315). -/

namespace Sys2Proof.Machine

open Host Arith

/-- The end of a form of the stream extension, whose encoding has 32 bits (R310). -/
def State.helperGoes (s : State) (x : Helper) : Out := s.helperNext x (x.pc + 4)

/-- A form that writes a register goes on after itself. -/
theorem helperNext_w (s : State) (x : Helper) (rd : BitVec 5) (v : Word) :
    s.helperNext (x.w rd v) (x.pc + 4) = s.helperGoes (x.w rd v) := by
  rw [State.helperGoes, Helper.w_pc]

/-! ### The queue of a form (R277, R278) -/

/-- A queue of the current core has a buffer, and in the second state the helper's stores to its bytes have been performed. -/
def QueueReady (s : State) (q : BitVec 4) (u : State) : Prop :=
  ∃ b e k, (s.queue s.core q.toNat).cfg = some (b, e, k) ∧ u = s.settleOver (coreWin s.core b) (2 ^ (e + k))

section
variable {s u : State} {q : BitVec 4} {f : Queue → State → Out}

/-- A form of a queue without a buffer is cause 24. -/
theorem helperQueue_none (none : (s.queue s.core q.toNat).cfg = none) : s.helperQueue q f = s.helperTrap 24 := by
  simp only [State.helperQueue, none]

/-- So are the forms of its entries and counters. -/
theorem exec_queueForm_none {i : Instr} {rd rs1 rs2 : BitVec 5} (none : (s.queue s.core q.toNat).cfg = none)
    (form : i ∈ [Instr.hxQwr q rs1 rs2, .hxQrd q rd rs1, .hxQpub q rd rs1, .hxQpop q rd rs1, .hxQwd q rd rs1, .hxQws q rd rs1]) :
    exec i s = s.helperTrap 24 := by
  simp only [List.mem_cons, List.not_mem_nil, or_false] at form
  obtain rfl | rfl | rfl | rfl | rfl | rfl := form
  · exact (helperQueue_none none : execHxQwr q rs1 rs2 s = _)
  · exact (helperQueue_none none : execHxQrd q rd rs1 s = _)
  · exact (helperQueue_none none : execHxQpub q rd rs1 s = _)
  · exact (helperQueue_none none : execHxQpop q rd rs1 s = _)
  · exact (helperQueue_none none : execHxQwd q rd rs1 s = _)
  · exact (helperQueue_none none : execHxQws q rd rs1 s = _)

/-- A form of one with a buffer comes after the stores to it. -/
theorem QueueReady.runs (ready : QueueReady s q u) : s.helperQueue q f = f (s.queue s.core q.toNat) u := by
  obtain ⟨b, e, k, cfg, rfl⟩ := ready
  simp only [State.helperQueue, cfg]

/-- Nothing else has changed of the helper. -/
theorem QueueReady.settled (ready : QueueReady s q u) : HelperSettled s u := by
  obtain ⟨b, e, k, cfg, rfl⟩ := ready
  exact settleOver_settled ..

end

/-! ### Entries (R312) -/

section
variable {s u : State} {q : BitVec 4} {rd rs1 rs2 : BitVec 5}

/-- The state after hx.qwr of bytes behind the tail. -/
def State.queueStored (s u : State) (q : BitVec 4) (rs1 rs2 : BitVec 5) : State :=
  u.queueWrite s.core (s.queue s.core q.toNat) (s.queue s.core q.toNat).tail (s.h.r rs1).toNat (toBytes 8 (s.h.r rs2).toNat)

/-- The 8 bytes that hx.qrd reads from the head. -/
def State.queueWord (s u : State) (q : BitVec 4) (rs1 : BitVec 5) : Word :=
  wd (ofBytes (u.queueRead s.core (s.queue s.core q.toNat) (s.queue s.core q.toNat).head (s.h.r rs1).toNat 8))

/-- The tail after hx.qpub. -/
def State.newTail (s : State) (q : BitVec 4) (rs1 : BitVec 5) : BitVec 32 :=
  (s.queue s.core q.toNat).tail + BitVec.ofNat 32 (wbits (s.h.r rs1) 31 0)

/-- The state with that tail. -/
def State.published (s u : State) (q : BitVec 4) (rs1 : BitVec 5) : State :=
  u.setQueue s.core q.toNat { s.queue s.core q.toNat with tail := s.newTail q rs1 }

/-- The head after hx.qpop. -/
def State.newHead (s : State) (q : BitVec 4) (rs1 : BitVec 5) : BitVec 32 :=
  (s.queue s.core q.toNat).head + BitVec.ofNat 32 (wbits (s.h.r rs1) 31 0)

/-- The state with that head. -/
def State.popped (s u : State) (q : BitVec 4) (rs1 : BitVec 5) : State :=
  u.setQueue s.core q.toNat { s.queue s.core q.toNat with head := s.newHead q rs1 }

variable (ready : QueueReady s q u)
include ready

/-- hx.qwr writes at a multiple of 8. -/
theorem exec_hxQwr : exec (.hxQwr q rs1 rs2) s = if (s.h.r rs1).toNat % 8 ≠ 0 then u.helperTrap 24
    else (s.queueStored u q rs1 rs2).helperGoes (s.queueStored u q rs1 rs2).h := by
  refine (ready.runs : execHxQwr q rs1 rs2 s = _).trans ?_
  simp only [ready.settled.r, ready.settled.core]
  rfl

/-- hx.qrd reads at a multiple of 8 bytes that are not poisoned. -/
theorem exec_hxQrd : exec (.hxQrd q rd rs1) s =
    if (s.h.r rs1).toNat % 8 ≠ 0 ∨
      u.badAll (u.queueRuns (s.queue s.core q.toNat) (s.queue s.core q.toNat).head (s.h.r rs1).toNat 8) = true then u.helperTrap 24
    else u.helperGoes (u.h.w rd (s.queueWord u q rs1)) := by
  refine (ready.runs : execHxQrd q rd rs1 s = _).trans ?_
  simp only [ready.settled.r, ready.settled.core, helperNext_w]
  rfl

/-! ### Counters and waits (R277, R278) -/

/-- hx.qpub adds to the tail what the queue has room for, when no sector is outstanding on it. -/
theorem exec_hxQpub : exec (.hxQpub q rd rs1) s = if s.outstanding s.core q.toNat = true then u.helperStall
    else if (s.queue s.core q.toNat).cap - (s.queue s.core q.toNat).count < wbits (s.h.r rs1) 31 0 then u.helperTrap 24
    else (s.published u q rs1).helperGoes (u.h.w rd ((s.newTail q rs1).setWidth 64)) := by
  refine (ready.runs : execHxQpub q rd rs1 s = _).trans ?_
  simp only [ready.settled.core, ready.settled.outstanding, ready.settled.queue, ready.settled.r, State.publish]
  by_cases full : (s.queue s.core q.toNat).cap - (s.queue s.core q.toNat).count < wbits (s.h.r rs1) 31 0
  · simp only [full, if_true]
  · simp only [full, if_false, State.h_setQueue, ready.settled.r, helperNext_w]
    rfl

/-- hx.qpop adds to the head what the queue holds. -/
theorem exec_hxQpop : exec (.hxQpop q rd rs1) s =
    if (s.queue s.core q.toNat).count < wbits (s.h.r rs1) 31 0 then u.helperTrap 24
    else (s.popped u q rs1).helperGoes (u.h.w rd ((s.newHead q rs1).setWidth 64)) := by
  refine (ready.runs : execHxQpop q rd rs1 s = _).trans ?_
  simp only [ready.settled.r, ready.settled.core, State.h_setQueue, helperNext_w]
  rfl

/-- hx.qwd waits for entries. -/
theorem exec_hxQwd : exec (.hxQwd q rd rs1) s =
    if (s.queue s.core q.toNat).cap < wbits (s.h.r rs1) 31 0 then u.helperTrap 24
    else if (s.queue s.core q.toNat).count < wbits (s.h.r rs1) 31 0 then u.helperStall
    else u.helperGoes (u.h.w rd (wd (s.queue s.core q.toNat).count)) := by
  refine (ready.runs : execHxQwd q rd rs1 s = _).trans ?_
  simp only [ready.settled.r, helperNext_w]

/-- hx.qws waits for free entries. -/
theorem exec_hxQws : exec (.hxQws q rd rs1) s =
    if (s.queue s.core q.toNat).cap < wbits (s.h.r rs1) 31 0 then u.helperTrap 24
    else if (s.queue s.core q.toNat).cap - (s.queue s.core q.toNat).count < wbits (s.h.r rs1) 31 0 then u.helperStall
    else u.helperGoes (u.h.w rd (wd ((s.queue s.core q.toNat).cap - (s.queue s.core q.toNat).count))) := by
  refine (ready.runs : execHxQws q rd rs1 s = _).trans ?_
  simp only [ready.settled.r, helperNext_w]

end

/-! ### Bits (R55, R314) -/

/-- A bit of little-endian bytes (R5). -/
theorem ofBytes_testBit (l : List Byte) (i : Nat) : (ofBytes l).testBit i = (l.getD (i / 8) 0).getLsbD (i % 8) := by
  induction l generalizing i with
  | nil => simp [ofBytes]
  | cons b l ih =>
    have number : ofBytes (b :: l) = 2 ^ 8 * ofBytes l + b.toNat := Nat.add_comm _ _
    rw [number, Nat.testBit_two_pow_mul_add _ b.isLt]
    split
    next low => rw [Nat.div_eq_of_lt low, Nat.mod_eq_of_lt low, List.getD_cons_zero]; rfl
    next high =>
      obtain ⟨j, rfl⟩ := Nat.exists_eq_add_of_le' (Nat.not_lt.1 high)
      rw [Nat.add_sub_cancel, ih, Nat.add_div_right _ (by decide), Nat.add_mod_right, List.getD_cons_succ]

/-- A read of one byte. -/
theorem see_one (s : State) (a : Nat) : s.see a 1 = [(s.see a 1).headD 0] := by
  have length : (s.see a 1).length = 1 := by
    simp only [State.see, State.seen, State.rd]
    split <;> simp
  obtain ⟨b, only⟩ := List.length_eq_one_iff.1 length
  rw [only, List.headD_cons]

/-- A read at a queue's position is byte by byte. -/
theorem queueRead_eq_map (s : State) (core : Nat) (y : Queue) (ctr : BitVec 32) (off n : Nat) :
    s.queueRead core y ctr off n = (List.range n).map (fun i => (s.see (coreWin core (y.pos ctr (off + i))) 1).headD 0) := by
  rw [State.queueRead, List.map_eq_flatMap]
  exact List.flatMap_congr fun i _ => see_one ..

/-- The value of hx.bsx: w bits from a position of the bytes behind the head. -/
def State.queueBits (u : State) (core : Nat) (y : Queue) (p w : Nat) : Word :=
  wd (ofBytes (u.queueRead core y y.head (p / 8) ((p + w - 1) / 8 - p / 8 + 1)) / 2 ^ (p % 8) % 2 ^ w)

/-- Bit i of it is bit p + i of those bytes. -/
theorem queueBits_getLsbD (u : State) (core : Nat) (y : Queue) (p w : Nat) {i : Nat} (hi : i < 64) : (u.queueBits core y p w).getLsbD i =
    (decide (i < w) && ((u.see (coreWin core (y.pos y.head ((p + i) / 8))) 1).headD 0).getLsbD ((p + i) % 8)) := by
  rw [State.queueBits, wd_getLsbD, decide_eq_true hi, Bool.true_and, Nat.testBit_mod_two_pow, Nat.testBit_div_two_pow, ofBytes_testBit,
    queueRead_eq_map]
  by_cases within : i < w
  · have byte : (i + p % 8) / 8 < (p + w - 1) / 8 - p / 8 + 1 := by omega
    have place : p / 8 + (i + p % 8) / 8 = (p + i) / 8 := by omega
    have bit : (i + p % 8) % 8 = (p + i) % 8 := by omega
    rw [List.getD_eq_getElem?_getD, List.getElem?_map, List.getElem?_range byte, Option.map_some, Option.getD_some, place, bit]
  · rw [decide_eq_false within, Bool.false_and, Bool.false_and]

section
variable {s u : State} {q : BitVec 4} {rd rs1 rs2 : BitVec 5}

/-- hx.bsx of no bits is 0. -/
theorem exec_hxBsx_zero (zero : wbits (s.h.r rs2) 6 0 = 0) : exec (.hxBsx q rd rs1 rs2) s = s.helperGoes (s.h.w rd 0) :=
  (if_pos zero : execHxBsx q rd rs1 rs2 s = _).trans (helperNext_w ..)

/-- hx.bsx of more than 64 bits is illegal. -/
theorem exec_hxBsx_illegal (wide : 64 < wbits (s.h.r rs2) 6 0) : exec (.hxBsx q rd rs1 rs2) s = s.helperTrap 2 :=
  (if_neg (by omega) : execHxBsx q rd rs1 rs2 s = _).trans (if_pos wide)

/-- Any other waits for its bits. -/
theorem exec_hxBsx (ready : QueueReady s q u) (some : 1 ≤ wbits (s.h.r rs2) 6 0) (narrow : wbits (s.h.r rs2) 6 0 ≤ 64) :
    exec (.hxBsx q rd rs1 rs2) s =
      if (s.queue s.core q.toNat).cap * (s.queue s.core q.toNat).entry * 8 < (s.h.r rs1).toNat + wbits (s.h.r rs2) 6 0 then
        u.helperTrap 24
      else if (s.queue s.core q.toNat).count * (s.queue s.core q.toNat).entry * 8 < (s.h.r rs1).toNat + wbits (s.h.r rs2) 6 0 then
        u.helperStall
      else if u.badAll (u.queueRuns (s.queue s.core q.toNat) (s.queue s.core q.toNat).head ((s.h.r rs1).toNat / 8)
          (((s.h.r rs1).toNat + wbits (s.h.r rs2) 6 0 - 1) / 8 - (s.h.r rs1).toNat / 8 + 1)) = true then u.helperTrap 24
      else u.helperGoes (u.h.w rd (u.queueBits s.core (s.queue s.core q.toNat) (s.h.r rs1).toNat (wbits (s.h.r rs2) 6 0))) := by
  refine (if_neg (by omega) : execHxBsx q rd rs1 rs2 s = _).trans ((if_neg (by omega)).trans (ready.runs.trans ?_))
  simp only [ready.settled.core, helperNext_w]
  rfl

end

/-! ### Descriptors, hints, fences and the stop (R311, R315) -/

section
variable (s : State) (st : BitVec 3) (rd rs1 : BitVec 5) (scope : BitVec 3)

/-- A descriptor with a field written, by the field's number (R311). -/
def Stream.setField (d : Stream) (f : BitVec 2) (x : Word) : Stream :=
  if f = 0 then { d with base := x } else if f = 1 then { d with pitch := x }
  else if f = 2 then { d with shape := x } else { d with cur := x }

/-- hx.sset writes a field of its descriptor. -/
theorem exec_hxSset (f : BitVec 2) : exec (.hxSset f st rs1) s =
    s.helperGoes { s.h with desc := s.h.desc.set st.toNat ((s.h.stream st.toNat).setField f (s.h.r rs1)) } := by
  obtain rfl | rfl | rfl | rfl : f = 0 ∨ f = 1 ∨ f = 2 ∨ f = 3 := by
    revert f
    decide
  all_goals rfl

/-- hx.sget reads CUR. -/
theorem exec_hxSget : exec (.hxSget st rd) s = s.helperGoes (s.h.w rd (s.h.stream st.toNat).cur) :=
  helperNext_w ..

/-- hx.lhint keeps its hint. -/
theorem exec_hxLhint : exec (.hxLhint st rs1) s = s.helperGoes { s.h with hint := s.h.hint.set st.toNat (s.h.r rs1) } := rfl

/-- hx.fence of a scope above 5 is illegal. -/
theorem exec_hxFence_illegal (high : 6 ≤ scope.toNat) : exec (.hxFence scope) s = s.helperTrap 2 :=
  (if_pos high : execHxFence scope s = _)

/-- Any other comes after the earlier accesses. -/
theorem exec_hxFence (low : scope.toNat < 6) : exec (.hxFence scope) s = s.helperDrained (fun s => s.helperGoes s.h) :=
  (if_neg (Nat.not_le.2 low) : execHxFence scope s = _)

/-- The state after hx.stop of a helper whose accesses have been performed. -/
def State.stopped (s : State) (rs1 : BitVec 5) : State :=
  { (s.helperStatus s.core s.h 1 0 (s.h.r rs1).toNat).setH { s.h with st := 0 } with turn := none }

/-- hx.stop comes after the earlier accesses too. -/
theorem exec_hxStop : exec (.hxStop rs1) s = s.helperDrained (fun s => .next (s.stopped rs1)) := rfl

/-- The helper has stopped. -/
theorem h_stopped : (s.stopped rs1).h = { s.h with st := 0 } :=
  State.h_setH (s.helperStatus s.core s.h 1 0 (s.h.r rs1).toNat) { s.h with st := 0 }

/-- Its status word says so (R306). -/
theorem mem_stopped : (s.stopped rs1).mem =
    Memory.write s.mem (coreWin s.core s.h.stat) (toBytes 8 (2 ^ 56 + (s.h.r rs1).toNat % 2 ^ 32)) := by
  show Memory.write s.mem _ (toBytes 8 (1 * 2 ^ 56 + 0 * 2 ^ 48 + _)) = _
  rw [Nat.one_mul, Nat.zero_mul, Nat.add_zero]

end

/-- The bytes of a queue's buffer. -/
theorem cap_mul_entry {y : Queue} {b e k : Nat} (cfg : y.cfg = some (b, e, k)) : y.cap * y.entry = 2 ^ (e + k) := by
  simp only [Queue.cap, Queue.entry, cfg]
  rw [Nat.pow_add, Nat.mul_comm]

/-- Settles O40: the forms of descriptors write or read them, those of queues come after the stores to the buffer and check their counts,
and a fence and the stop come after everything. -/
theorem helperForms : Obligations.HelperForms := by
  intro s f st q rd rs1 rs2 scope h a b d y n goes d1
  refine ⟨exec_hxSset s st rs1 f, exec_hxSget s st rd, exec_hxLhint s st rs1, fun none i form => exec_queueForm_none none form,
    fun base e k u cfg settled => ?queue, exec_hxBsx_zero, exec_hxBsx_illegal, exec_hxFence_illegal s scope, _, rfl,
    fun low => ?fence, fun busy => ?busy, fun sectors stores => ?stop⟩
  case fence => exact (exec_hxFence s scope low).trans helperDrained_eq
  case busy => exact (exec_hxStop s rs1).trans (helperDrained_busy busy.symm)
  case stop =>
    have settled := settleH_settled s
    refine ⟨_, (exec_hxStop s rs1).trans (helperDrained_idle stores sectors), h_stopped .., ?_⟩
    rw [mem_stopped, settled.core, settled.stat, settled.r]
  case queue =>
    have ready : QueueReady s q u := ⟨base, e, k, cfg, settled⟩
    refine ⟨fun misaligned => ?_, fun aligned => ⟨?write, fun clean => ?_, fun poisoned => ?_⟩, fun outstanding => ?_,
      fun quiet => ⟨fun room => ?_, fun full => ?_⟩, fun holds => ?_, fun short => ?_, fun above i form => ?above,
      fun within => ⟨fun holds => ?_, fun short => ?_, fun room => ?_, fun full => ?_⟩, ?bits⟩
    · exact ⟨(exec_hxQwr ready).trans (if_pos misaligned), (exec_hxQrd ready).trans (if_pos (.inl misaligned))⟩
    case write =>
      have stored : HelpersKept u (s.queueStored u q rs1 rs2) := HelpersKept.queueWrite ..
      refine ⟨_, (exec_hxQwr ready).trans (if_neg (not_not.2 aligned)), ?_, fun fits i low => ?_, fun x outside => ?_⟩
      · refine (State.h_helperEnds ..).trans ?_
        rw [stored.h, ready.settled.pc]
      · refine State.queueWrite_get _ _ _ _ _ _ _ _ _ cfg ?_ i (by rwa [toBytes_length])
        rwa [toBytes_length, ← cap_mul_entry cfg]
      · refine (State.queueWrite_frame ..).2.2.2.2 x ?_
        rwa [toBytes_length]
    · exact (exec_hxQrd ready).trans (if_neg (not_or.2 ⟨not_not.2 aligned, Bool.eq_false_iff.1 clean⟩))
    · exact (exec_hxQrd ready).trans (if_pos (.inr poisoned))
    · exact (exec_hxQpub ready).trans (if_pos outstanding)
    · refine (exec_hxQpub ready).trans ((if_neg (Bool.eq_false_iff.1 quiet)).trans ((if_neg (Nat.not_lt.2 room)).trans ?_))
      exact congrArg (fun x : Helper => (s.published u q rs1).helperGoes (x.w rd _)) (State.h_setQueue ..).symm
    · exact (exec_hxQpub ready).trans ((if_neg (Bool.eq_false_iff.1 quiet)).trans (if_pos full))
    · refine (exec_hxQpop ready).trans ((if_neg (Nat.not_lt.2 holds)).trans ?_)
      exact congrArg (fun x : Helper => (s.popped u q rs1).helperGoes (x.w rd _)) (State.h_setQueue ..).symm
    · exact (exec_hxQpop ready).trans (if_pos short)
    case above =>
      simp only [List.mem_cons, List.not_mem_nil, or_false] at form
      obtain rfl | rfl := form
      · exact (exec_hxQwd ready).trans (if_pos above)
      · exact (exec_hxQws ready).trans (if_pos above)
    · exact (exec_hxQwd ready).trans ((if_neg (Nat.not_lt.2 within)).trans (if_neg (Nat.not_lt.2 holds)))
    · exact (exec_hxQwd ready).trans ((if_neg (Nat.not_lt.2 within)).trans (if_pos short))
    · exact (exec_hxQws ready).trans ((if_neg (Nat.not_lt.2 within)).trans (if_neg (Nat.not_lt.2 room)))
    · exact (exec_hxQws ready).trans ((if_neg (Nat.not_lt.2 within)).trans (if_pos full))
    case bits =>
      intro p w some narrow
      have run := exec_hxBsx (rd := rd) (rs1 := rs1) ready some narrow
      refine ⟨fun beyond => ?_, fun fits short => ?_, fun fits holds clean => ?_⟩
      · exact run.trans (if_pos beyond)
      · exact run.trans ((if_neg (Nat.not_lt.2 fits)).trans (if_pos short))
      · exact ⟨_, run.trans ((if_neg (Nat.not_lt.2 fits)).trans ((if_neg (Nat.not_lt.2 holds)).trans
          (if_neg (Bool.eq_false_iff.1 clean)))), fun i hi => queueBits_getLsbD u s.core y p w hi⟩

end Sys2Proof.Machine
end

section
/-! SUPPORT. Reaching the sectors of a stream leaves the helpers, the queues and the tasks (R313, R433-R439). -/

namespace Sys2Proof.Machine

open Host Arith

/-! ### A leaf lies in HBM (R433, R437) -/

/-- An index of a level is below 512. -/
theorem walkIndex_lt (level va : Nat) : walkIndex level va < 512 := by
  unfold walkIndex
  split <;> simp only [nbits] <;> omega

/-- An entry of a table in HBM lies in HBM, whose reserved range ends each stack (R480). -/
theorem place_entry {pa d : Nat} (table : place pa = .hbm d) (free : reserved pa = false) {i : Nat} (low : i < 512) :
    ∃ d, place (pa + 8 * i) = .hbm d := by
  have inside := lt_of_place_hbm table
  rw [reserved, decide_eq_true inside, Bool.true_and, decide_eq_false_iff_not] at free
  have stack : stackSize = 51539607552 := rfl
  rw [stack] at inside free
  exact ⟨_, if_pos (by rw [stack]; omega)⟩

/-- The leaf that a walk finds lies in HBM. -/
theorem walkFrom_leaf {s : State} {part va fuel level table at_ e l : Nat} (leaf : s.walkFrom part va fuel level table = .leaf at_ e l) :
    ∃ d, place at_ = .hbm d := by
  induction fuel generalizing level table with
  | zero => cases leaf
  | succ fuel ih =>
    simp only [State.walkFrom] at leaf
    split_ifs at leaf with outside
    · obtain ⟨rfl, rfl, rfl⟩ := leaf
      rw [Bool.not_eq_true, Bool.not_eq_false', State.tableOk] at outside
      split at outside
      next d lies =>
        rw [Bool.and_eq_true, Bool.not_eq_true'] at outside
        exact place_entry lies outside.2 (walkIndex_lt _ va)
      next => cases outside
    · exact ih leaf

/-! ### A translation (R436, R439) -/

namespace HelpersKept
variable {s : State}

/-- A leaf's bits are set in memory alone. -/
theorem homeStore {pa d : Nat} (lies : place pa = .hbm d) (s : State) (bs : List Byte) : HelpersKept s (s.homeStore pa bs) := by
  have back (s : State) (line : Nat) : HelpersKept s (s.keepBack line) := by
    unfold State.keepBack
    split <;> exact of_cores rfl rfl rfl rfl
  have store : HelpersKept s (s.store pa bs) := by
    simp only [State.store, lies]
    exact (foldl _ (fun line _ s => back s line) s).trans (wr ..)
  have global : isGlobal pa = true := by simp only [isGlobal, lies]
  simp only [State.homeStore, global, if_true]
  exact store.trans (foldl _ (fun line _ s => of_cores (t := s.writeBack line) rfl rfl rfl rfl) _)

/-- A core's translation cache is none of them. -/
theorem setTlb (s : State) (n : Nat) (l : List Tlb) : HelpersKept s (s.setCore n { s.coreAt n with tlb := l }) where
  core := rfl
  setter := rfl
  tasks := rfl
  helper m j := by
    simp only [State.helper, State.coreAt_setCore_eq]
    by_cases same : m = n <;> simp [same]
  queue m q := by
    simp only [State.queue, State.coreAt_setCore_eq]
    by_cases same : m = n <;> simp [same]

theorem walkCache (s : State) (core part asid va : Nat) (p : Perm) : HelpersKept s (s.walkCache core part asid va p).1 := by
  unfold State.walkCache
  split
  · exact refl s
  next at_ e level found =>
    have leaf : ∃ d, place at_ = .hbm d := by
      unfold State.walk at found
      split at found
      · cases found
      · exact walkFrom_leaf found
    obtain ⟨d, lies⟩ := leaf
    dsimp only
    split
    · exact refl s
    · have bits (v : Nat) : HelpersKept s (if v = e then s else s.homeStore at_ (toBytes 8 v)) := by
        split
        · exact refl s
        · exact homeStore lies s _
      exact (bits _).trans ((setTlb ..).trans (setDie ..))

theorem translate (s : State) (core part asid : Nat) (va : Word) (p : Perm) : HelpersKept s (s.translate core part asid va p).1 := by
  unfold State.translate
  dsimp only
  split
  · exact walkCache ..
  · split
    · exact walkCache ..
    · split
      · exact walkCache ..
      · exact refl s

theorem reachPieces (core asid : Nat) (a : Acc) (p : Perm) (l : List (Nat × Nat)) (s : State) :
    HelpersKept s (s.reachPieces core asid a p l).1 := by
  induction l generalizing s with
  | nil => exact refl s
  | cons x l ih =>
    have first := translate s core a.part asid (wd x.1) p
    unfold State.reachPieces
    split
    · exact refl s
    · split
      next t _ _ ends => rw [ends] at first; exact first
      next t pa ends =>
        rw [ends] at first
        split
        · exact first
        · have rest := ih t
          split
          next ends => rw [ends] at rest; exact first.trans rest
          next => exact first.trans rest

/-- A sector of a stream is reached. -/
theorem sectorReach (s : State) (task : Nat) (p : Perm) (va : Word) : HelpersKept s (s.sectorReach task p va).1 := reachPieces ..

/-- The state after a sector is reached. -/
theorem of_sectorReach {t : State} {task : Nat} {p : Perm} {va : Word} {r : Reach} (reach : s.sectorReach task p va = (t, r)) :
    HelpersKept s t := by
  have kept := sectorReach s task p va
  rwa [reach] at kept

/-- The sectors of a bulk store are reached. -/
theorem bulkPieces (task : Nat) (d : Stream) (n i : Nat) (s : State) : HelpersKept s (s.bulkPieces task d n i).1 := by
  induction n generalizing s i with
  | zero => exact refl s
  | succ n ih =>
    have first := sectorReach s task .write (d.addr i)
    unfold State.bulkPieces
    split
    next ends => rw [ends] at first; exact first
    next ends => rw [ends] at first; exact first.trans (ih (i + 1) _)

end HelpersKept

/-- A bulk store that meets no error has reached every sector. -/
theorem bulkPieces_length {task : Nat} {d : Stream} {n i : Nat} {s : State} (good : (s.bulkPieces task d n i).2.2 = none) :
    (s.bulkPieces task d n i).2.1.length = n := by
  induction n generalizing s i with
  | zero => rfl
  | succ n ih =>
    unfold State.bulkPieces at good ⊢
    split at good
    next => cases good
    next => exact congrArg (· + 1) (ih good)

end Sys2Proof.Machine
end

section
/-! The bulk forms of a helper and the publication of their sectors, obligation O41 (R312, R313). -/

namespace Sys2Proof.Machine

open Host Arith

/-! ### The checks of a bulk form (R313) -/

section
variable (s : State) (rs1 rs2 : BitVec 5)

/-- The stream that a bulk form names. -/
def State.bulkStream : Stream := s.h.stream (wbits (s.h.r rs1) 2 0)

/-- The sectors that it still has to move. -/
def State.bulkLeft : Nat := min ((s.h.r rs2).toNat - s.h.moved) (s.bulkStream rs1).left

/-- The descriptor is aligned (R311). -/
def State.BulkAligned : Prop := (s.bulkStream rs1).base.toNat % 128 = 0 ∧ (s.bulkStream rs1).pitch.toNat % 128 = 0

/-- A queue's entries fit the sectors that the form moves in all. -/
def State.BulkFits (y : Queue) : Prop :=
  (128 % y.entry = 0 ∨ 128 * (s.h.moved + s.bulkLeft rs1 rs2) % y.entry = 0) ∧
    128 * (s.h.moved + s.bulkLeft rs1 rs2) ≤ y.cap * y.entry

end

section
variable {s u : State} {q : BitVec 4} {rs1 rs2 : BitVec 5} {f : Queue → Stream → Nat → State → Out}

/-- A misaligned descriptor is cause 25. -/
theorem bulk_misaligned (misaligned : ¬ s.BulkAligned rs1) : s.bulk q rs1 rs2 f = s.helperTrap 25 :=
  if_pos (not_and_or.1 misaligned)

variable (aligned : s.BulkAligned rs1)
include aligned

/-- A queue without a buffer is cause 24. -/
theorem bulk_none (none : (s.queue s.core q.toNat).cfg = none) : s.bulk q rs1 rs2 f = s.helperTrap 24 :=
  (if_neg (not_or.2 ⟨not_not.2 aligned.1, not_not.2 aligned.2⟩)).trans (helperQueue_none none)

variable (ready : QueueReady s q u)
include ready

/-- So is a queue whose entries do not fit. -/
theorem bulk_unfit (unfit : ¬ s.BulkFits rs1 rs2 (s.queue s.core q.toNat)) : s.bulk q rs1 rs2 f = u.helperTrap 24 := by
  refine (if_neg (not_or.2 ⟨not_not.2 aligned.1, not_not.2 aligned.2⟩)).trans (ready.runs.trans (if_pos ?_))
  exact (not_and_or.1 unfit).imp_right Nat.not_le.1

/-- Otherwise the form is performed. -/
theorem bulk_runs (fits : s.BulkFits rs1 rs2 (s.queue s.core q.toNat)) :
    s.bulk q rs1 rs2 f = f (s.queue s.core q.toNat) (s.bulkStream rs1) (s.bulkLeft rs1 rs2) u := by
  refine (if_neg (not_or.2 ⟨not_not.2 aligned.1, not_not.2 aligned.2⟩)).trans (ready.runs.trans (if_neg ?_))
  exact not_or.2 ⟨not_not.2 fits.1, Nat.not_lt.2 fits.2⟩

end

/-- Both bulk forms end as their checks do. -/
theorem exec_bulk {s : State} {q : BitVec 4} {rd rs1 rs2 : BitVec 5} {o : Out} (checked : ∀ f, s.bulk q rs1 rs2 f = o) :
    exec (.hxSld q rd rs1 rs2) s = o ∧ exec (.hxSst q rd rs1 rs2) s = o :=
  ⟨(checked _ : execHxSld q rd rs1 rs2 s = o), (checked _ : execHxSst q rd rs1 rs2 s = o)⟩

/-! ### Issuing reads (R313) -/

section
variable (x : Helper) (q n k : Nat) (d : Stream)

/-- CUR of a stream that was set. -/
@[simp] theorem Helper.cur_setCur (v : Word) : ((x.setCur n v).stream n).cur = v := by
  simp [Helper.setCur, Helper.stream]

/-- The reads of k sectors of stream n, in the order of the stream (R311). -/
def Helper.reads : List (Nat × Nat × Nat × Nat) :=
  (List.range k).map (fun i => (q, (d.addr i).toNat, n * 2 ^ 48 + (d.after i).toNat, x.pc.toNat))

/-- A helper that has issued them. -/
def Helper.issue : Helper :=
  if k = 0 then { x with out := x.out ++ x.reads q n k d } else { x with out := x.out ++ x.reads q n k d }.setCur n (d.after k)

/-- They are outstanding after those before them, and the rest of the helper but its descriptors stays. -/
theorem Helper.issue_eq : x.issue q n k d = { x with out := x.out ++ x.reads q n k d, desc := (x.issue q n k d).desc } := by
  unfold Helper.issue
  split <;> rfl

/-- CUR has passed them. -/
theorem Helper.cur_issue (some : k ≠ 0) : ((x.issue q n k d).stream n).cur = d.after k := by
  rw [Helper.issue, if_neg some, Helper.cur_setCur]

end

/-- The state of a helper that stalls. -/
def State.stalled (s : State) : State := { s.setH { s.h with st := 2 } with turn := none }

/-- It keeps the rest of the helper. -/
theorem h_stalled (s : State) : s.stalled.h = { s.h with st := 2 } := State.h_setH s { s.h with st := 2 }

section
variable {s u : State} {q : BitVec 4} {rd rs1 rs2 : BitVec 5}

/-- The helper that has issued the reads of k sectors of its bulk form. -/
def State.bulkIssue (s u : State) (q : BitVec 4) (rs1 : BitVec 5) (k : Nat) : Helper :=
  u.h.issue q.toNat (wbits (u.h.r rs1) 2 0) k (s.bulkStream rs1)

section
variable (ready : QueueReady s q u) (k : Nat)
include ready

/-- The reads of k sectors come after those outstanding. -/
theorem out_bulkIssue : (s.bulkIssue u q rs1 k).out = u.h.out ++ s.h.reads q.toNat (wbits (s.h.r rs1) 2 0) k (s.bulkStream rs1) := by
  rw [State.bulkIssue, Helper.issue_eq, Helper.reads, ready.settled.pc, ready.settled.r]
  rfl

/-- CUR has passed them. -/
theorem cur_bulkIssue (some : k ≠ 0) :
    ((s.bulkIssue u q rs1 k).stream (wbits (s.h.r rs1) 2 0)).cur = (s.bulkStream rs1).after k := by
  rw [State.bulkIssue, ready.settled.r, Helper.cur_issue _ _ _ _ _ some]

/-- No register has changed. -/
theorem x_bulkIssue : (s.bulkIssue u q rs1 k).x = s.h.x := by
  rw [State.bulkIssue, Helper.issue_eq, ← ready.settled.x]

/-- Nor has the pc. -/
theorem pc_bulkIssue : (s.bulkIssue u q rs1 k).pc = s.h.pc := by
  rw [State.bulkIssue, Helper.issue_eq, ← ready.settled.pc]

end

/-- What keeps hx.sld waiting: sectors of the other helper, no room in the queue, or 64 sectors outstanding. -/
def State.SldStalls (s u : State) (q : BitVec 4) (n : Nat) : Prop :=
  let y := s.queue s.core q.toNat
  (u.helper s.core (1 - s.hsel)).outOn q.toNat ≠ 0 ∨
    (y.cap - y.count) * y.entry < ceilDiv (128 * u.h.outOn q.toNat) y.entry * y.entry + 128 * n ∨ (64 ≤ u.h.out.length ∧ n ≠ 0)

variable (aligned : s.BulkAligned rs1) (ready : QueueReady s q u) (fits : s.BulkFits rs1 rs2 (s.queue s.core q.toNat))
include aligned ready fits

/-- hx.sld that stalls. -/
theorem exec_hxSld_stalls (stalls : s.SldStalls u q (s.bulkLeft rs1 rs2)) : exec (.hxSld q rd rs1 rs2) s = u.helperStall := by
  refine (bulk_runs aligned ready fits : execHxSld q rd rs1 rs2 s = _).trans (if_pos ?_)
  rw [ready.settled.core, ready.settled.hsel]
  exact stalls.imp_right (Or.imp_right fun ⟨full, more⟩ => ⟨by omega, more⟩)

/-- hx.sld that does not issues what it may. -/
theorem exec_hxSld_issues (goes : ¬ s.SldStalls u q (s.bulkLeft rs1 rs2)) {k : Nat}
    (room : k = min (s.bulkLeft rs1 rs2) (64 - u.h.out.length)) : exec (.hxSld q rd rs1 rs2) s =
      if k < s.bulkLeft rs1 rs2 then (u.setH { s.bulkIssue u q rs1 k with moved := (s.bulkIssue u q rs1 k).moved + k }).helperStall
      else u.helperNext ({ s.bulkIssue u q rs1 k with moved := 0 }.w rd (wd ((s.bulkIssue u q rs1 k).moved + s.bulkLeft rs1 rs2)))
        ((s.bulkIssue u q rs1 k).pc + 4) := by
  subst room
  refine (bulk_runs aligned ready fits : execHxSld q rd rs1 rs2 s = _).trans (if_neg fun stalls => goes ?_)
  rw [ready.settled.core, ready.settled.hsel] at stalls
  exact stalls.imp_right (Or.imp_right fun ⟨full, more⟩ => ⟨by omega, more⟩)

/-- hx.sld that may issue all its sectors completes. -/
theorem exec_hxSld_completes (goes : ¬ s.SldStalls u q (s.bulkLeft rs1 rs2))
    (all : u.h.out.length + s.bulkLeft rs1 rs2 ≤ 64 ∨ s.bulkLeft rs1 rs2 = 0) : exec (.hxSld q rd rs1 rs2) s = .next (u.helperEnds
      ({ s.bulkIssue u q rs1 (s.bulkLeft rs1 rs2) with moved := 0 }.w rd (wd (s.h.moved + s.bulkLeft rs1 rs2))) (s.h.pc + 4)) := by
  refine (exec_hxSld_issues aligned ready fits goes (k := s.bulkLeft rs1 rs2) (by omega)).trans ((if_neg (Nat.lt_irrefl _)).trans ?_)
  rw [State.bulkIssue, Helper.issue_eq, ready.settled.moved, ready.settled.pc]
  rfl

/-- One that may issue some of them issues those and stalls. -/
theorem exec_hxSld_part (goes : ¬ s.SldStalls u q (s.bulkLeft rs1 rs2)) (few : u.h.out.length < 64)
    (more : 64 < u.h.out.length + s.bulkLeft rs1 rs2) : exec (.hxSld q rd rs1 rs2) s = .next (u.setH
      { s.bulkIssue u q rs1 (64 - u.h.out.length) with moved := s.h.moved + (64 - u.h.out.length) }).stalled := by
  refine (exec_hxSld_issues aligned ready fits goes (k := 64 - u.h.out.length) (by omega)).trans ((if_pos (by omega)).trans ?_)
  rw [State.bulkIssue, Helper.issue_eq, ready.settled.moved]
  rfl

/-- hx.sst waits for the bytes of its sectors. -/
theorem exec_hxSst_waits (short : (s.queue s.core q.toNat).count * (s.queue s.core q.toNat).entry < 128 * s.bulkLeft rs1 rs2) :
    exec (.hxSst q rd rs1 rs2) s = u.helperStall :=
  (bulk_runs aligned ready fits : execHxSst q rd rs1 rs2 s = _).trans (if_pos short)

end

/-! ### Issuing stores (R313, R316) -/

/-- The state with the task current that a helper serves. -/
def State.serving (s : State) (id : Nat) : State := { s with cur := id }

/-- No helper, queue or task changes by it. -/
theorem HelpersKept.serving (s : State) (id : Nat) : HelpersKept s (s.serving id) := of_cores rfl rfl rfl rfl

/-- The bytes of sector i behind the head of a queue. -/
def State.headSector (s : State) (core : Nat) (y : Queue) (i : Nat) : List Byte := s.queueRead core y y.head (128 * i) 128

/-- Issues the store of sector i of a stream, whose pieces have been reached, with the bytes at the head of a queue. -/
def State.sstIssue (y : Queue) (d : Stream) (s : State) (p : List (Nat × Nat) × Nat) : State :=
  (s.noteAll p.1).helperIssue [((p.1.headD (0, 0)).1, s.headSector s.core y p.2)]
    (s.pageAttr (d.addr p.2) + if s.badAll (s.queueRuns y y.head (128 * p.2) 128) then 4 else 0)

/-- A task that notes no write issues the stores one behind the other. -/
theorem sstIssue_foldl (y : Queue) (d : Stream) (l : List (List (Nat × Nat) × Nat)) (s : State) (quiet : s.t.uncommitted = false) :
    ∃ new, HelpersKept (s.setH { s.h with wr := s.h.wr ++ new }) (l.foldl (State.sstIssue y d) s) ∧
      new.map (fun w => (w.pa, w.bytes)) = l.map (fun p => ((p.1.headD (0, 0)).1, s.headSector s.core y p.2)) := by
  induction l generalizing s with
  | nil =>
    refine ⟨[], ?_, rfl⟩
    rw [List.append_nil]
    exact HelpersKept.setH_self s
  | cons p l ih =>
    obtain ⟨w, issued, place, bytes⟩ : ∃ w : Store, s.sstIssue y d p = s.setH { s.h with wr := s.h.wr ++ [w] } ∧
        w.pa = (p.1.headD (0, 0)).1 ∧ w.bytes = s.headSector s.core y p.2 := by
      rw [State.sstIssue, State.noteAll_of_committed quiet]
      exact ⟨_, rfl, rfl, rfl⟩
    obtain ⟨new, kept, listed⟩ := ih (s.sstIssue y d p) (by rw [issued]; exact quiet)
    refine ⟨w :: new, ?_, ?_⟩
    · rw [issued, State.setH_setH, State.h_setH, List.append_assoc] at kept
      rwa [List.foldl_cons, issued]
    · rw [issued] at listed
      rw [List.map_cons, listed, place, bytes]
      rfl

section
variable {s u : State} {q : BitVec 4} {rd rs1 rs2 : BitVec 5}

/-- The sectors that hx.sst reaches: the state after, their pieces and the error met. -/
def State.sstReach (s u : State) (rs1 rs2 : BitVec 5) : State × List (List (Nat × Nat)) × Option Nat :=
  u.bulkPieces u.h.task (s.bulkStream rs1) (s.bulkLeft rs1 rs2) 0

/-- The state in which hx.sst issues its stores: the task that the helper serves is current. -/
def State.sstStart (s u : State) (rs1 rs2 : BitVec 5) : State := ((s.sstReach u rs1 rs2).1.choose 2).2.serving u.h.task

/-- Reaching the sectors changes nothing of the helper. -/
theorem sstStart_kept : HelpersKept u (s.sstStart u rs1 rs2) :=
  ((HelpersKept.bulkPieces ..).trans (HelpersKept.choose (s.sstReach u rs1 rs2).1 2)).trans (HelpersKept.serving ..)

/-- The state after they are issued. -/
def State.sstIssued (s u : State) (q : BitVec 4) (rs1 rs2 : BitVec 5) : State :=
  (s.sstReach u rs1 rs2).2.1.zipIdx.foldl (State.sstIssue (s.queue s.core q.toNat) (s.bulkStream rs1)) (s.sstStart u rs1 rs2)

/-- The sectors that it has issued. -/
def State.sstCount (s u : State) (rs1 rs2 : BitVec 5) : Nat := (s.sstReach u rs1 rs2).2.1.length

/-- The state after their entries are popped. -/
def State.sstPopped (s u : State) (q : BitVec 4) (rs1 rs2 : BitVec 5) : State :=
  (s.sstIssued u q rs1 rs2).setQueue (s.sstIssued u q rs1 rs2).core q.toNat { s.queue s.core q.toNat with
    head := (s.queue s.core q.toNat).head + BitVec.ofNat 32 (128 * s.sstCount u rs1 rs2 / (s.queue s.core q.toNat).entry) }

/-- The helper after CUR has passed them. -/
def State.sstPassed (s u : State) (q : BitVec 4) (rs1 rs2 : BitVec 5) : Helper :=
  if s.sstCount u rs1 rs2 = 0 then (s.sstPopped u q rs1 rs2).h
  else (s.sstPopped u q rs1 rs2).h.setCur (wbits (u.h.r rs1) 2 0) ((s.bulkStream rs1).after (s.sstCount u rs1 rs2))

/-- A replacement of the helper before it goes on. -/
theorem setH_goes (t : State) (x : Helper) (rd : BitVec 5) (v : Word) :
    (t.setH x).helperNext ((t.setH x).h.w rd v) ((t.setH x).h.pc + 4) = t.helperNext (x.w rd v) (x.pc + 4) := by
  rw [State.h_setH, helperNext_setH]

/-- A task that is not speculative is ready for an engine's write. -/
theorem engineSerial_of_serial {s : State} (serial : s.t.spec = false) : s.engineSerial = (s, true) := by
  rw [State.engineSerial, serial]
  rfl

/-- hx.sst that reaches every sector completes. -/
theorem exec_hxSst_completes (aligned : s.BulkAligned rs1) (ready : QueueReady s q u) (fits : s.BulkFits rs1 rs2 (s.queue s.core q.toNat))
    (holds : 128 * s.bulkLeft rs1 rs2 ≤ (s.queue s.core q.toNat).count * (s.queue s.core q.toNat).entry)
    (serial : (s.task u.h.task).spec = false) (good : (s.sstReach u rs1 rs2).2.2 = none) :
    exec (.hxSst q rd rs1 rs2) s = (s.sstPopped u q rs1 rs2).helperNext
      ((s.sstPassed u q rs1 rs2).w rd (wd (s.bulkLeft rs1 rs2))) ((s.sstPassed u q rs1 rs2).pc + 4) := by
  refine (bulk_runs aligned ready fits : execHxSst q rd rs1 rs2 s = _).trans ((if_neg (Nat.not_lt.2 holds)).trans ?_)
  have plain : (s.sstStart u rs1 rs2).t.spec = false := by
    rw [State.t, sstStart_kept.tasks, ready.settled.tasks]
    exact serial
  have engine := engineSerial_of_serial plain
  have faultless : ¬ ((s.sstReach u rs1 rs2).2.2 = some 1 ∧ ((s.sstReach u rs1 rs2).1.choose 2).1 = 0) := by
    rw [good]
    exact fun fault => nomatch fault.1
  refine (if_neg faultless).trans ?_
  split
  next waits => exact nomatch engine.symm.trans waits
  next t starts =>
    obtain ⟨rfl, -⟩ := Prod.mk.inj (engine.symm.trans starts)
    split
    next fault => exact nomatch good.symm.trans fault
    next fault => exact nomatch good.symm.trans fault
    next => exact setH_goes (s.sstPopped u q rs1 rs2) (s.sstPassed u q rs1 rs2) rd (wd (s.bulkLeft rs1 rs2))

/-- Issuing the stores leaves them behind the helper's earlier ones, with the bytes behind the head. -/
theorem sstIssued_kept (quiet : (u.task u.h.task).uncommitted = false) :
    ∃ new, HelpersKept (u.setH { u.h with wr := u.h.wr ++ new }) (s.sstIssued u q rs1 rs2) ∧
      new.map (fun w => (w.pa, w.bytes)) = (s.sstReach u rs1 rs2).2.1.zipIdx.map (fun p =>
        ((p.1.headD (0, 0)).1, (s.sstReach u rs1 rs2).1.headSector u.core (s.queue s.core q.toNat) p.2)) := by
  have start : HelpersKept u (s.sstStart u rs1 rs2) := sstStart_kept
  have plain : (s.sstStart u rs1 rs2).t.uncommitted = false := by
    rw [State.t, start.tasks]
    exact quiet
  obtain ⟨new, kept, listed⟩ := sstIssue_foldl (s.queue s.core q.toNat) (s.bulkStream rs1) (s.sstReach u rs1 rs2).2.1.zipIdx _ plain
  rw [start.h] at kept
  rw [start.core] at listed
  exact ⟨new, (start.setH _).trans kept, listed⟩

/-- The helper after hx.sst differs from the one before its stores were popped by its descriptors. -/
theorem sstPassed_eq : s.sstPassed u q rs1 rs2 = { (s.sstIssued u q rs1 rs2).h with desc := (s.sstPassed u q rs1 rs2).desc } := by
  have popped : (s.sstPopped u q rs1 rs2).h = (s.sstIssued u q rs1 rs2).h := State.h_setQueue ..
  unfold State.sstPassed
  rw [popped]
  generalize (s.sstIssued u q rs1 rs2).h = x
  split <;> rfl

/-- CUR has passed the sectors issued. -/
theorem cur_sstPassed (some : s.sstCount u rs1 rs2 ≠ 0) :
    ((s.sstPassed u q rs1 rs2).stream (wbits (u.h.r rs1) 2 0)).cur = (s.bulkStream rs1).after (s.sstCount u rs1 rs2) := by
  rw [State.sstPassed, if_neg some, Helper.cur_setCur]

end

/-! ### Publishing a sector (R312, R313) -/

section
variable {core : Nat} {b : Bool} {u s1 : State} {q va mark pc : Nat} {rest : List (Nat × Nat × Nat × Nat)} {ps : List (Nat × Nat)}

/-- The entries that become whole with a sector of a queue whose outstanding sectors are counted (R313). -/
def sectorEntries (y : Queue) (n : Nat) : Nat :=
  if y.entry ≤ 128 then 128 / y.entry else if ((y.entry - 128 * n % y.entry) % y.entry) + 128 = y.entry then 1 else 0

/-- The state after a sector's bytes are written behind the tail of its queue, with the mark of a poisoned one (R267). -/
def State.sectorLanded (u s1 : State) (q : Nat) (ps : List (Nat × Nat)) : State :=
  let y := s1.queue u.core q
  let off := (y.entry - 128 * u.h.outOn q % y.entry) % y.entry
  let t := s1.serving u.h.task
  let w := t.queueWrite u.core y y.tail off (ps.flatMap (fun p => t.ownLoad t.t p.1 p.2))
  if t.badAll ps then w.markPieces (t.queueRuns y y.tail off 128) else w

/-- Landing a sector writes memory alone. -/
theorem sectorLanded_kept (reached : HelpersKept u s1) : HelpersKept u (u.sectorLanded s1 q ps) := by
  have start : HelpersKept u (s1.serving u.h.task) := reached.trans (HelpersKept.serving ..)
  unfold State.sectorLanded
  dsimp only
  split
  · exact (start.trans (HelpersKept.queueWrite ..)).trans (HelpersKept.markPieces ..)
  · exact start.trans (HelpersKept.queueWrite ..)

/-- The state after it is published. -/
def State.sectorPublished (u s1 : State) (q : Nat) (ps : List (Nat × Nat)) : State :=
  (u.sectorLanded s1 q ps).setQueue u.core q { s1.queue u.core q with
    tail := (s1.queue u.core q).tail + BitVec.ofNat 32 (sectorEntries (s1.queue u.core q) (u.h.outOn q)) }

/-- The helper after it leaves the list. -/
def Helper.dropSector (x : Helper) (rest : List (Nat × Nat × Nat × Nat)) : Helper :=
  { x with out := rest, wr := x.wr.map (fun w => { w with seq := w.seq - 1 }) }

/-- A task that is not speculative notes no read. -/
theorem engineLoad_of_serial {t : State} (serial : t.t.spec = false) (ps : List (Nat × Nat)) :
    t.engineLoad ps = (t, .ok (ps.flatMap (fun p => t.ownLoad t.t p.1 p.2)) (t.badAll ps)) := by
  simp only [State.engineLoad, noteReads_direct serial, if_true]

/-- The oldest sector of a helper that is reached, and before which no store of its bytes comes, is published. -/
theorem exec_sldSectorPublish {s : State} (out : (s.onHelper core b).h.out = (q, va, mark, pc) :: rest)
    (reach : (s.onHelper core b).sectorReach (s.onHelper core b).h.task .read (wd va) = (s1, .ok ps))
    (free : ∀ w ∈ (s.onHelper core b).h.wr, w.seq ≠ 0 ∨ ∀ p ∈ ps, overlap w.pa w.bytes.length p.1 p.2 = false)
    (serial : (s1.task (s.onHelper core b).h.task).spec = false) :
    exec (.sldSectorPublish core b) s = .next (((s.onHelper core b).sectorPublished s1 q ps).setH
      (((s.onHelper core b).sectorPublished s1 q ps).h.dropSector rest)) := by
  have clear : ¬ (s.onHelper core b).h.wr.any
      (fun w => w.seq == 0 && ps.any (fun p => overlap w.pa w.bytes.length p.1 p.2)) = true := by
    simp only [List.any_eq_true, Bool.and_eq_true, beq_iff_eq]
    rintro ⟨w, waits, first, p, piece, meets⟩
    obtain later | apart := free w waits
    · exact later first
    · exact nomatch meets.symm.trans (apart p piece)
  have load := engineLoad_of_serial (t := s1.serving (s.onHelper core b).h.task) serial ps
  show execSldSectorPublish core b s = _
  unfold execSldSectorPublish
  extract_lets u h
  split
  next none => exact nomatch none.symm.trans out
  next q' va' mark' pc' rest' some =>
    obtain ⟨⟨rfl, rfl, rfl, rfl⟩, rfl⟩ : ((q, va, mark, pc) = (q', va', mark', pc')) ∧ rest = rest' :=
      List.cons.inj (out.symm.trans some)
    extract_lets stop
    split
    next t code va bad => exact nomatch (Prod.mk.inj (reach.symm.trans bad)).2
    next t ps' ok =>
      obtain ⟨rfl, pieces⟩ := Prod.mk.inj (reach.symm.trans ok)
      obtain rfl := Reach.ok.inj pieces
      refine (if_neg clear).trans ?_
      split
      next v bs bad got =>
        obtain ⟨rfl, loaded⟩ := Prod.mk.inj (load.symm.trans got)
        obtain ⟨rfl, rfl⟩ := EngineGot.ok.inj loaded
        rfl
      next got others ends => exact (others _ _ (Prod.mk.inj (ends.symm.trans load)).2).elim

end

/-- Settles O41: the bulk forms check their stream, then their queue, then issue what they may; and the oldest sector lands behind the
tail. -/
theorem helperBulkAndEvents : Obligations.HelperBulkAndEvents := by
  refine ⟨fun s q rd rs1 rs2 => ?forms, fun s core b => ⟨fun stalled => ?resumes, ?publishes⟩⟩
  case forms =>
    intro h st d y left n aligned
    refine ⟨fun misaligned => exec_bulk fun f => bulk_misaligned misaligned,
      fun aligned none => exec_bulk fun f => bulk_none aligned none, fun base e k u aligned cfg settles => ?_⟩
    intro fits free asked other issued
    have ready : QueueReady s q u := ⟨base, e, k, cfg, settles⟩
    have settled := ready.settled
    refine ⟨fun unfit => exec_bulk fun f => bulk_unfit aligned ready unfit,
      fun fits => ⟨fun alone room all => ?_, fun alone room few more => ?_, exec_hxSld_stalls aligned ready fits,
        exec_hxSst_waits aligned ready fits, fun holds serial quiet good => ?_⟩⟩
    · have goes : ¬ s.SldStalls u q left :=
        not_or.2 ⟨not_not.2 alone, not_or.2 ⟨Nat.not_lt.2 room, fun ⟨full, more⟩ => by omega⟩⟩
      refine ⟨_, exec_hxSld_completes aligned ready fits goes all, ?_⟩
      rw [State.h_helperEnds]
      refine ⟨(Helper.w_out ..).trans (out_bulkIssue ready left), Helper.w_x_congr rd _ (x_bulkIssue ready left), rfl,
        Helper.w_moved .., fun some => ?_, rfl, rfl⟩
      exact (congrArg Stream.cur (Helper.stream_congr (Helper.w_desc ..) _)).trans (cur_bulkIssue ready left some)
    · have goes : ¬ s.SldStalls u q left :=
        not_or.2 ⟨not_not.2 alone, not_or.2 ⟨Nat.not_lt.2 room, fun ⟨full, _⟩ => by omega⟩⟩
      refine ⟨_, exec_hxSld_part aligned ready fits goes few more, ?_⟩
      rw [h_stalled, State.h_setH]
      refine ⟨out_bulkIssue ready _, rfl, rfl, pc_bulkIssue ready _, ?_, rfl, rfl⟩
      exact cur_bulkIssue ready _ (by omega)
    · have reach : s.sstReach u rs1 rs2 = u.bulkPieces h.task d left 0 := congrArg (u.bulkPieces · d left 0) settled.owner
      have good : (s.sstReach u rs1 rs2).2.2 = none := reach ▸ good
      have count : s.sstCount u rs1 rs2 = left := bulkPieces_length good
      have owner : (u.task u.h.task) = s.task h.task := by rw [settled.owner, settled.task]
      obtain ⟨new, issues, listed⟩ := sstIssued_kept (s := s) (q := q) (rs1 := rs1) (rs2 := rs2) (owner ▸ quiet)
      have passed := sstPassed_eq (s := s) (u := u) (q := q) (rs1 := rs1) (rs2 := rs2)
      rw [issues.h, State.h_setH] at passed
      refine ⟨_, new, (exec_hxSst_completes aligned ready fits holds (settled.owner ▸ serial) good).trans (helperNext_eq ..), ?_⟩
      rw [State.h_helperEnds]
      refine ⟨Helper.w_x_congr rd _ ?_, ?_, ?_, ?_, fun some => ?_, ?_⟩
      · rw [passed, ← settled.x]
      · show _ + 4 = _ + 4
        rw [passed, settled.pc]
      · refine (Helper.w_wr ..).trans ?_
        rw [passed]
      · rwa [reach, settled.core] at listed
      · refine (congrArg Stream.cur (Helper.stream_congr (Helper.w_desc ..) st)).trans ?_
        have cur := cur_sstPassed (q := q) (count.symm ▸ some : s.sstCount u rs1 rs2 ≠ 0)
        rwa [settled.r, count] at cur
      · have core : (s.sstIssued u q rs1 rs2).core = s.core := issues.core.trans settled.core
        rw [State.helperEnds_queue, State.sstPopped, core, State.queue_setQueue, count]
  case resumes => exact if_pos stalled
  case publishes =>
    intro q va mark pc rest s1 ps out reach free serial y _
    have reached : HelpersKept (s.onHelper core b) s1 := HelpersKept.of_sectorReach reach
    have landed := sectorLanded_kept (q := q) (ps := ps) reached
    refine ⟨_, exec_sldSectorPublish out reach free ((congrArg Task.spec (reached.task _)).trans serial), ?_, ?_, landed.tasks⟩
    · exact (State.h_setH ..).trans (congrArg (Helper.dropSector · rest) ((State.h_setQueue ..).trans landed.h))
    · refine (State.queue_setH ..).trans ((State.queue_setQueue ..).trans ?_)
      rw [reached.queue]
      rfl

end Sys2Proof.Machine
end

section
/-! Taking a trap and the return from a handler, obligations O6 and O7 (R185, R398, R399, R401, R403-R405, R407). -/

namespace Sys2Proof.Machine

open Host Arith

/-! ### A trace record (R484) -/

section
variable (s : State) (ty slot ttag : Nat) (data : Word)

/-- A trace record changes the cores alone. -/
theorem State.trace_cores : ∃ cores, s.trace ty slot ttag data = { s with cores := cores } := by
  unfold State.trace
  dsimp only
  split
  · exact ⟨s.cores, rfl⟩
  · exact ⟨_, rfl⟩

@[simp] theorem State.task_trace (id : Nat) : (s.trace ty slot ttag data).task id = s.task id := by
  obtain ⟨cores, traced⟩ := s.trace_cores ty slot ttag data
  rw [traced]
  rfl

@[simp] theorem State.t_trace : (s.trace ty slot ttag data).t = s.t := by
  obtain ⟨cores, traced⟩ := s.trace_cores ty slot ttag data
  rw [traced]
  rfl

@[simp] theorem State.trace_mem : (s.trace ty slot ttag data).mem = s.mem := by
  obtain ⟨cores, traced⟩ := s.trace_cores ty slot ttag data
  rw [traced]

end

/-! ### The words that a trap writes (R398, R399) -/

section
variable {t : Task} {cls code : Nat}

/-- The fields of xst outside a walk: class, code, zero and the slot-resume point. -/
theorem statusWord_fields (direct : t.walk = none) (slot : t.slot ≤ 5) (class8 : cls < 256) (code8 : code < 256) :
    wbits (statusWord t cls code) 63 56 = cls ∧ wbits (statusWord t cls code) 55 48 = code ∧
      wbits (statusWord t cls code) 47 3 = 0 ∧ wbits (statusWord t cls code) 2 0 = t.slot := by
  have word : statusWord t cls code = wd (cls * 2 ^ 56 + code * 2 ^ 48 + t.slot) := by
    simp [statusWord, walkBits, Task.inWalk, direct]
  simp only [word, wbits_wd, nbits]
  omega

end

/-- The low 57 bits of the address of a handler are bits 56:5 of tvec above five zeros. -/
theorem handlerAddr_low (v : Word) : (handlerAddr v).toNat % 2 ^ 57 = wbits v 56 5 * 32 := by
  have field : wbits v 56 5 < 2 ^ 52 := Nat.mod_lt _ (by decide)
  rw [handlerAddr, BitVec.toNat_signExtend, BitVec.toNat_setWidth, BitVec.toNat_ofNat]
  split <;> omega

/-- A handler lies at a multiple of 32. -/
theorem handlerAddr_aligned (v : Word) : (handlerAddr v).toNat % 32 = 0 := by
  have low := handlerAddr_low v
  omega

/-- Its bits 56:5 are those of tvec. -/
theorem wbits_handlerAddr (v : Word) : wbits (handlerAddr v) 56 5 = wbits v 56 5 := by
  have low := handlerAddr_low v
  have bits : wbits (handlerAddr v) 56 5 = (handlerAddr v).toNat / 2 ^ 5 % 2 ^ 52 := rfl
  omega

/-! ### The routes of a trap (R401, R403, R404, R407) -/

section
variable {s : State} {cls code : Nat} {info : Word}

/-- An own-route trap in task mode with a handler is taken: the strand enters the handler after four cycles, and memory stays. -/
theorem State.raise_enters (own : ownRoute cls code = true) (task : s.t.sys = false) (handler : s.t.ctl.tvec ≠ 0) :
    (s.raise cls code info).t = s.t.enterTrap cls code info ∧ (s.raise cls code info).c.gap = 4 ∧
      (s.raise cls code info).mem = s.mem := by
  rw [State.raise, if_pos own, task, if_neg Bool.false_ne_true, if_neg handler]
  exact ⟨(State.t_trace ..).trans (State.t_setT ..), congrArg Core.gap (State.c_setC ..), State.trace_mem ..⟩

/-- An own-route trap of a handler suspends the strand as class 15 code 1. -/
theorem State.raise_system (own : ownRoute cls code = true) (system : s.t.sys = true) :
    s.raise cls code info = s.suspend 15 1 (wd (cls * 256 + code)) := by
  rw [State.raise, if_pos own, if_pos system]

/-- One in task mode without a handler suspends it with the trap's class and code. -/
theorem State.raise_unhandled (own : ownRoute cls code = true) (task : s.t.sys = false) (unhandled : s.t.ctl.tvec = 0) :
    s.raise cls code info = s.suspend cls code info := by
  rw [State.raise, if_pos own, task, if_neg Bool.false_ne_true, if_pos unhandled]

end

/-! ### The software trap (R185) -/

/-- br.trap raises the SOFT trap with its slot ended and the slot-resume point at the next slot that holds a move. -/
theorem execBrTrap_raises {s0 s : State} {m : Mv} {x : Word} {w : BitVec 256} {b : Bundle} (ready : ReadyW s0 s 5 m x)
    (word : s.t.cur.word = some w) (bundle : decodeBundle w = some b) :
    execBrTrap m s0 =
      .next (((s.slotEnds 5).setT { (s.slotEnds 5).t with slot := nextMove b (s.t.slot + 1) }).raise 3 1 x) := by
  have fetched : s.t.cur.word.bind decodeBundle = some b := by rw [word, Option.bind_some, bundle]
  refine (ready.trap (by rw [fetched])).trans ?_
  simp [State.useUnit, State.slotEnds]

/-- Settles O6, from the routes of a trap and what br.trap raises. -/
theorem trapTaking : Obligations.TrapTaking := by
  refine ⟨fun s0 s m x w b ready word bundle _ => ?soft, fun s cls code info own task handler direct slot class8 code8 => ?entry,
    fun s cls code info own => ⟨?system, ?unhandled, ?routed⟩⟩
  case soft => exact ⟨_, rfl, execBrTrap_raises ready word bundle⟩
  case entry =>
    obtain ⟨entered, gap, mem⟩ := State.raise_enters (info := info) own task handler
    obtain ⟨classBits, codeBits, zeroBits, slotBits⟩ := statusWord_fields direct slot class8 code8
    rw [gap, mem, entered]
    exact ⟨_, rfl, classBits, codeBits, zeroBits, slotBits, rfl, rfl, rfl, rfl, rfl, rfl, rfl, rfl, handlerAddr_aligned _,
      wbits_handlerAddr _, rfl, rfl, rfl, rfl, rfl, rfl, rfl, rfl, rfl⟩
  case system => exact State.raise_system own
  case unhandled => exact State.raise_unhandled own
  case routed => exact fun _ _ info' route => s.raise_of_handlerRoute route info'

/-! ### The return from a handler (R405) -/

section
variable {s : State}

/-- A return with PMODE 0 leaves the handler. -/
theorem State.t_trapReturn_task (pmode : s.t.ctl.xst.getLsbD 11 = false) : s.trapReturn.t = s.t.returnTask := by
  refine (State.t_setT ..).trans ?_
  rw [wbit, pmode, if_neg Bool.false_ne_true]

/-- A return with PMODE 1 stays in it. -/
theorem State.t_trapReturn_system (pmode : s.t.ctl.xst.getLsbD 11 = true) : s.trapReturn.t = s.t.returnSystem := by
  refine (State.t_setT ..).trans ?_
  rw [wbit, pmode, if_pos rfl]

/-- Either return takes four cycles. -/
theorem State.gap_trapReturn : s.trapReturn.c.gap = 4 := congrArg Core.gap (State.c_setC ..)

end

/-- Settles O7, by the two modes that a handler can return to. -/
theorem trapReturn : Obligations.TrapReturn := by
  intro s
  cases pmode : s.t.ctl.xst.getLsbD 11 with
  | false =>
    rw [State.t_trapReturn_task pmode]
    exact ⟨rfl, rfl, rfl, State.gap_trapReturn, rfl, rfl, rfl, rfl, rfl, rfl, fun _ => ⟨rfl, rfl⟩, nofun⟩
  | true =>
    rw [State.t_trapReturn_system pmode]
    exact ⟨rfl, rfl, rfl, State.gap_trapReturn, rfl, rfl, rfl, rfl, rfl, rfl, nofun, fun _ => ⟨rfl, rfl, rfl, rfl⟩⟩

end Sys2Proof.Machine
end

section
/-! What the Handler does to a suspended or pre-empted task, obligation O44 (R403, R408, R444, R445). -/

namespace Sys2Proof.Machine

open Host Arith

/-- Once the part runs, a message that every die takes is answered with the status that its handling gives (R444). -/
theorem State.message_answers {s s1 : State} {die ep ty seq stat : Nat} {data : List Byte} {f : State → Reply}
    (running : s.running = true) (reply : f s = (s1, some (stat, data))) :
    s.message die ep ty seq false f = s1.respond die ep ty seq stat data := by
  simp [State.message, running, reply]

/-- A FACT is answered so (R408, R445). -/
theorem factAct_answers {s s1 : State} {die seq action stat : Nat} {otag : Word} (running : s.running = true)
    (reply : s.factMsg otag action = (s1, some (stat, []))) :
    (.next (s.factAct die seq otag action) : Out) = .next (s1.respond die 2 2 seq stat []) :=
  congrArg Outcome.next (State.message_answers running reply)

/-- A TCANCEL is answered so (R445). -/
theorem exec_tcancel_answers {s s1 : State} {die seq stat : Nat} {otag : Word} (running : s.running = true)
    (reply : s.cancelTask otag = (s1, some (stat, []))) :
    exec (.tcancel die seq otag) s = .next (s1.respond die 2 3 seq stat []) :=
  congrArg Outcome.next (State.message_answers running reply)

/-! ### The task that a FACT names -/

section
variable {s : State} {otag : Word} {id : Nat} {x : Susp} {f : Nat → Task → Susp → Reply}

theorem State.fact_unnamed (unnamed : s.factTask otag = none) : s.fact otag f = declined s 2 := by
  rw [State.fact, unnamed]

theorem State.fact_named (named : s.factTask otag = some id) (stopped : (s.task id).susp = some x) :
    s.fact otag f = f id (s.task id) x := by
  simp [State.fact, named, stopped]

/-- Every action on an otag that names no suspended task is BADARG. -/
theorem State.factMsg_unnamed (unnamed : s.factTask otag = none) (action : Nat) : s.factMsg otag action = declined s 2 := by
  unfold State.factMsg
  split
  case h_5 => rfl
  all_goals exact State.fact_unnamed unnamed

end

/-! ### End (R408) -/

section
variable {s : State} {id : Nat}

/-- A task whose image is out ends at once. -/
theorem State.factEndTask_preempted (out : (s.task id).stage = .preempted) : s.factEndTask id = (s.endTask id 2 0).dequeue id := by
  simp [State.factEndTask, out]

/-- A resident task ends with status fault at its slot, once its tokens have completed. -/
theorem State.factEndTask_resident (held : (s.task id).stage = .resident) :
    s.factEndTask id = s.setTask id { s.task id with
      susp := none, status := 2, walk := none, slot := 5, cur := { (default : Cur) with fin := some ((s.task id).slot, 2) },
      head := .tokens 255 } := by
  simp [State.factEndTask, held]

end

/-! ### A trap taken outside the strand's turn (R403) -/

section
variable {s : State} {id cls code : Nat} {info : Word}

/-- The trap of a task that a strand holds enters its handler four cycles later. -/
theorem State.trapOut_resident (held : (s.task id).stage = .resident) :
    s.trapOut id cls code info = s.setTask id
      { (s.task id).enterTrap cls code info with notBefore := (s.coreAt (s.task id).core).cycles + 4 } := by
  simp [State.trapOut, held]

/-- Writing a task's image, where there is room for it, leaves the task's control registers and mode (R410). -/
theorem State.task_writeImage (s : State) (id state : Nat) (status info : Word) :
    (((s.writeImage id state status info).getD s).task id).ctl = (s.task id).ctl ∧
      (((s.writeImage id state status info).getD s).task id).sys = (s.task id).sys := by
  cases written : s.writeImage id state status info with
  | none => exact ⟨rfl, rfl⟩
  | some s' =>
    obtain ⟨a, -, rfl⟩ := Option.map_eq_some_iff.1 written
    simp

/-- The trap of a task that is out is taken in its image: the task is in its handler, with the trap's information word. -/
theorem State.trapOut_preempted (out : (s.task id).stage = .preempted) (image : (s.task id).image ≠ 0) :
    ((s.trapOut id cls code info).task id).ctl.xinfo = info ∧ ((s.trapOut id cls code info).task id).sys = true := by
  rw [State.trapOut, if_pos ⟨out, image⟩]
  dsimp only
  rw [(State.task_writeImage ..).1, (State.task_writeImage ..).2, State.task_setTask]
  exact ⟨rfl, rfl⟩

end

/-! ### The actions on a suspended task (R408) -/

section
variable {s : State} {otag : Word} {id : Nat} {x : Susp} (named : s.factTask otag = some id) (stopped : (s.task id).susp = some x)
include named stopped

/-- Resume lets the strand, or its merge, go on. -/
theorem State.resume_goes :
    s.resume otag = accepted (s.setTask id { s.task id with susp := none, head := if x.merge then (s.task id).head else .ready }) :=
  State.fact_named named stopped

/-- End ends the task. -/
theorem State.factMsg_end : s.factMsg otag 2 = accepted (s.factEndTask id) :=
  (State.fact_named named stopped : s.fact otag (fun id _ _ => accepted (s.factEndTask id)) = _)

/-- Reflect of a task that has no handler above its fault ends it. -/
theorem State.reflect_unhandled (unhandled : (s.task id).sys = true ∨ (s.task id).ctl.tvec = 0) :
    s.reflect otag = accepted (s.factEndTask id) :=
  (State.fact_named named stopped).trans (if_pos (unhandled.imp_right .inl))

/-- Reflect of a fault outside a merge is the task's own trap. -/
theorem State.reflect_traps (plain : x.merge = false) (task : (s.task id).sys = false) (handler : (s.task id).ctl.tvec ≠ 0)
    (started : (s.task id).stage ≠ .waiting) :
    s.reflect otag = accepted ((State.trapOut { s with cur := id } id x.cls x.code x.info).trace 5 (s.task id).slot 0
      (handlerAddr (s.task id).ctl.tvec)) := by
  refine (State.fact_named named stopped).trans ((if_neg ?above).trans (if_neg ?outside))
  case above => exact not_or.2 ⟨Bool.eq_false_iff.1 task, not_or.2 ⟨handler, started⟩⟩
  case outside => exact Bool.eq_false_iff.1 plain

/-- Evict of a merge's target, or of a task that is not resident, is BADARG. -/
theorem State.evictTask_declined (no : x.merge = true ∨ (s.task id).stage ≠ .resident) : s.evictTask otag = declined s 2 :=
  (State.fact_named named stopped).trans (if_pos no)

/-- Evict of another that can stop now vacates its strand. -/
theorem State.evictTask_vacates {s1 : State} (plain : x.merge = false) (held : (s.task id).stage = .resident)
    (vacated : s.vacate id = some s1) : s.evictTask otag = accepted s1 := by
  refine (State.fact_named named stopped).trans ?_
  simp [plain, held, vacated]

end

/-! ### TCANCEL (R445) -/

section
variable {s : State} {otag : Word} {id : Nat}

/-- A pre-empted task that is neither suspended nor queued for a strand is ended with status refused. -/
theorem State.cancelTask_ends (tag : s.tagged otag = some id) (out : (s.task id).stage = .preempted) (goes : (s.task id).susp = none)
    (unqueued : ∀ w ∈ s.waitq, w.1 ≠ id) : s.cancelTask otag = accepted (s.endTask id 4 0) := by
  have absent : s.waitq.any (fun w => w.1 == id) = false := List.any_eq_false.2 fun w h => by simpa using unqueued w h
  simp [State.cancelTask, tag, out, goes, absent]

theorem State.cancelTask_declined (tag : s.tagged otag = some id) (on : (s.task id).stage ≠ .preempted) :
    s.cancelTask otag = declined s 2 := by
  simp [State.cancelTask, tag, on]

end

/-- Settles O44, from the reply that each action gives. -/
theorem faultActions : Obligations.FaultActions := by
  intro s die seq id otag x running t ok
  refine ⟨fun unnamed => ?unnamed, fun named stopped => ⟨?resume, fun out => ?endOut, fun held => ?endHeld,
      fun plain task handler held => ?reflectHeld, fun plain task handler out image => ?reflectOut, fun unhandled out => ?reflectEnds,
      fun no => ?evictNot, fun s1 plain held vacated => ?evict⟩,
    fun tag => ⟨fun out goes unqueued => ?cancel, fun on => ?cancelNot⟩⟩
  case unnamed =>
    have refused (action : Nat) := factAct_answers (die := die) (seq := seq) running (State.factMsg_unnamed unnamed action)
    simp only [List.forall_mem_cons]
    exact ⟨refused 0, refused 1, refused 2, refused 3, List.forall_mem_nil _⟩
  case resume => exact factAct_answers (action := 0) running (State.resume_goes named stopped)
  case endOut =>
    exact factAct_answers running ((State.factMsg_end named stopped).trans (congrArg accepted (State.factEndTask_preempted out)))
  case endHeld =>
    exact factAct_answers running ((State.factMsg_end named stopped).trans (congrArg accepted (State.factEndTask_resident held)))
  case reflectHeld =>
    have started : t.stage ≠ .waiting := fun h => nomatch held.symm.trans h
    refine ⟨_, factAct_answers (action := 1) running (State.reflect_traps named stopped plain task handler started), ?_⟩
    rw [State.task_trace, State.trace_mem, State.trapOut_resident (s := { s with cur := id }) held, State.task_setTask]
    exact ⟨rfl, rfl, rfl, rfl, rfl, rfl⟩
  case reflectOut =>
    have started : t.stage ≠ .waiting := fun h => nomatch out.symm.trans h
    refine ⟨_, factAct_answers (action := 1) running (State.reflect_traps named stopped plain task handler started), ?_⟩
    rw [State.task_trace]
    exact State.trapOut_preempted (s := { s with cur := id }) out image
  case reflectEnds =>
    exact factAct_answers (action := 1) running
      ((State.reflect_unhandled named stopped unhandled).trans (congrArg accepted (State.factEndTask_preempted out)))
  case evictNot => exact factAct_answers (action := 3) running (State.evictTask_declined named stopped no)
  case evict => exact factAct_answers (action := 3) running (State.evictTask_vacates named stopped plain held vacated)
  case cancel => exact exec_tcancel_answers running (State.cancelTask_ends tag out goes unqueued)
  case cancelNot => exact exec_tcancel_answers running (State.cancelTask_declined tag on)

end Sys2Proof.Machine
end
